-- ==== Sys2Proof/Word.lean ====
section
/-! DEFINITION. Words, bytes and index types of the PK7180, with the plain little-endian joins of R2. -/

namespace Sys2Proof

/-- A 32-bit word of a register, packet or block (0.2). -/
abbrev Word := BitVec 32
/-- A byte. -/
abbrev Byte := BitVec 8
/-- A fibre engine FE0-FE3 (Table 0.3). -/
abbrev Fe := Fin 4
/-- A Cooper core 0-7 (12). -/
abbrev CoreId := Fin 8
/-- A host ring 0-31 (14.3). -/
abbrev RingId := Fin 32
/-- An acoustic stream 0-15 (7.5). -/
abbrev StreamId := Fin 16
/-- An aux input 0-15 (15.1). -/
abbrev AuxId := Fin 16

/-- The two's-complement reading of a word (R3). -/
def Word.int (w : Word) : Int := w.toInt

/-- The word holding `i` modulo 2^32. -/
def Word.ofInt (i : Int) : Word := BitVec.ofInt 32 i

end Sys2Proof
end

