-- ==== Sys2Proof/Syntax.lean ====
section
/-! DEFINITION. The commands: one constructor of `Instr` for each row of spec/opcode_table.json, in the table's order, with the operand
types they carry. A protocol opcode carries the accepted packet (`Req`); an event carries what the outside supplies. Instants written
`t` are on the REF_IN-derived clock, in ps since reset. -/

namespace Sys2Proof

/-- Where a packet travels (R32). -/
inductive Transport where
  | ring (n : RingId)
  | smbus
  deriving DecidableEq, Repr

/-- A command packet that passed steps 1-5 of Table 2.3: its transport, header and payload (R36). -/
structure Req where
  via : Transport
  sess : BitVec 8
  seq : Word
  opcode : BitVec 16
  crc : Word
  payload : List Word
  deriving DecidableEq, Repr

/-- The straps sampled at a rising edge of RESET_N and at power-up (R448, R476, R477). -/
structure Straps where
  bootSel : BitVec 2
  smbAddr : BitVec 2
  testMode : Bool
  deriving DecidableEq, Repr

/-- What a start of firmware meets: the image's POWER set (R419), the density of each Cellar channel in MiB (R325) and whether a
training step failed (R451). -/
structure StartEnv where
  powerSet : List Word
  densityMib : Vector Nat 4
  trainFailed : Bool
  deriving DecidableEq, Repr

/-- An edge of a pin: its polarity and when it comes. -/
structure PinEdge where
  falling : Bool
  time : Nat
  deriving DecidableEq, Repr

/-- What a Vat or Cellar read finds (R321, R322). -/
inductive EccRead where
  | clean
  | corrected
  | uncorrectable
  deriving DecidableEq, Repr

/-- Masters of the Vats in the order of Table 13.1 (master index 0-16). -/
abbrev Master := Fin 17

/-- What a register write meets: a TLP that is poisoned or fails its ECRC check (R345), the index that DOORBELL finds at each ring's PROD_ADDR
(R353), and what the hardware sets in the same access slot: bits of a W1C register, or counters that CONFL_CLEAR names (R6, R317). -/
structure WriteMet where
  badTlp : Bool
  indices : Vector Word 32
  sameSlot : BitVec 64
  deriving DecidableEq, Repr

/-- What the host reads: an offset of BAR0, or bytes of BAR2 with what the ECC finds in the words read there (R26, R321). -/
inductive BarAddr where
  | bar0 (off : BitVec 20)
  | bar2 (addr : BitVec 28) (len : Nat) (ecc : EccRead)
  deriving DecidableEq, Repr

/-- One converter pair's samples as they reach the device's balls, converter 0 and 1, from the instant of the launch or fire on for as long as
the outside supplies them, and which of them (by index) are not usable because of a tainted multiblock or an outage (R135, R136). -/
structure PairSamples where
  c0 : List Int
  c1 : List Int
  bad : List Nat
  deriving DecidableEq, Repr

/-- A Raman shot: the pair's samples, and whether samples were lost inside the device (R17, R150). -/
structure RamanShot where
  pair : PairSamples
  lost : Bool
  deriving DecidableEq, Repr

/-- One training result of CELLAR_TRAIN (Table 13.10). -/
structure TrainResult where
  channel : Fin 4
  fsp : Fin 3
  failedStep : BitVec 4
  readEye : Byte
  writeEye : Byte
  deriving DecidableEq, Repr

/-- What CELLAR_TRAIN_STEP measured: pass, and the 36 words of DQ[31:0] then DMI[3:0]. -/
structure StepResult where
  pass : Bool
  lines : List Word
  deriving DecidableEq, Repr

/-- What an aux calibration or test measured: per gain the offset (1/16 LSB) and gain correction (2^-20), the current in nA, and per
gain the mean error of AUX_TEST (1/16 LSB). -/
structure AuxMeasure where
  ofs : Vector Int 4
  gain : Vector Int 4
  currentNa : Nat
  testErr : Vector Int 4
  deriving DecidableEq, Repr

/-- What a device calibration measured (R411): per TIU channel tap and offset, the aux measures, the raw die sensor readings. -/
structure CalMeasure where
  tiuLsb : Vector Int 4
  tiuOfs : Vector Int 4
  aux : AuxMeasure
  die : Vector Int 16
  deriving DecidableEq, Repr

/-- A frame of the peer protocol as its receiver sees it: sender, sequence, payload words 1-6 (R90). -/
structure Frame where
  lane : Fin 4
  src : Fin 4
  fseq : BitVec 16
  w : Vector Word 6
  t : Nat
  deriving DecidableEq, Repr

/-- An event as it reaches a trigger sequencer (Table 10.2): kind, argument, event time T with its 2^-40 s refinement, the crossing
fraction F of R255 (0 for other kinds), and the instant at which it arrives. -/
structure SeqEvent where
  kind : Fin 16
  arg : Nat
  time : BitVec 64
  sub : Byte
  frac : Nat
  clk : Nat
  deriving DecidableEq, Repr

/-- A pair of raw samples at the raw-capture tap (Table 5.3): the two codes, the analog sampling instant, and whether they came in a tainted
multiblock (R135). -/
structure RawSample where
  x : Int
  y : Int
  t : Nat
  tainted : Bool
  deriving DecidableEq, Repr

/-- One input of a capture unit's element (R246-R248): the 16-bit or wider components in order, data time, Table 7.4 flags, and
the period and group of that time. -/
structure HarvestInput where
  comps : List Int
  time : BitVec 64
  flags : BitVec 16
  ppn : BitVec 48
  group : Nat
  deriving DecidableEq, Repr

/-- What one monitor sample of the power manager reads (R421, R426): margins of FE0-FE3, DSP, VAT, SYS in 0.1 %, die sensors in m°C,
measured rail voltages in mV (FE, DSP, VAT, SYS). -/
structure MarginSample where
  margin : Vector Int 7
  sensors : Vector Int 16
  volts : Vector Nat 4
  deriving DecidableEq, Repr

/-- What a regulator poll reads on one rail (R418, R424). -/
structure RegPoll where
  outputFault : Bool
  noAck : Bool
  readVout : Nat
  readIoutMa : Nat
  settled : Bool
  deriving DecidableEq, Repr

/-- Whether further slots of the same bundle follow; with the last one, what the ECC finds as the core fetches the bundle (R286). -/
inductive SlotEnd where
  | more
  | last (fetch : EccRead)
  deriving DecidableEq, Repr

/-- The slot an arithmetic instruction stands in (Table 12.4). -/
inductive ASlot where
  | a1
  | a2
  deriving DecidableEq, Repr

/-- Any slot, for NOP. -/
inductive Slot where
  | ls
  | a1
  | a2
  | ctl
  deriving DecidableEq, Repr

/-- An arithmetic slot's fields (Table 12.5), with the core, the slot, and whether further slots of the same bundle follow. -/
structure ArArgs where
  core : CoreId
  slot : ASlot
  dst : BitVec 5
  sa : BitVec 5
  sb : BitVec 5
  after : SlotEnd
  deriving DecidableEq, Repr

/-- A load/store slot's fields (Table 12.5). -/
structure LsArgs where
  core : CoreId
  g : BitVec 5
  p : BitVec 3
  mode : BitVec 2
  off : BitVec 6
  after : SlotEnd
  deriving DecidableEq, Repr

/-- A control bundle's operand (Table 12.8), bits [34:0]. -/
structure CtlArgs where
  core : CoreId
  operand : BitVec 35
  after : SlotEnd
  deriving DecidableEq, Repr

/-- The commands of the block, one for each row of spec/opcode_table.json. -/
inductive Instr where
  /-- POWER_ON (R481). -/
  | powerOn (st : Straps)
  /-- RESET_N_ASSERT (R453). -/
  | resetNAssert
  /-- RESET_N_RELEASE (R448). -/
  | resetNRelease (st : Straps)
  /-- HOST_IMAGE_VERIFY (R449). -/
  | hostImageVerify
  /-- FIRMWARE_START (R450). -/
  | firmwareStart (e : StartEnv)
  /-- READY_REACHED (R450); whether the aux self-calibration of start-up failed (R451). -/
  | readyReached (selfcalFailed : Bool)
  /-- PERST_N_ASSERT (R478). -/
  | perstNAssert
  /-- FUNCTION_LEVEL_RESET (R346). -/
  | functionLevelReset
  /-- D3HOT_ENTRY (R347). -/
  | d3hotEntry
  /-- D0_RESUME (R347). -/
  | d0Resume
  /-- ASPM_L1_REQUEST (R347). -/
  | aspmL1Request
  /-- REGISTER_WRITE (R5): BAR0 offset, byte enables of up to 8 bytes, data, whether the access is 64 bits, and what the write meets. -/
  | registerWrite (off : BitVec 20) (be : BitVec 8) (data : BitVec 64) (wide : Bool) (met : WriteMet)
  /-- RC_REGISTER_READ (R6): the address, 64-bit access of a register, and an event value that arrives during the read (kept for the next
  read). -/
  | rcRegisterRead (addr : BarAddr) (wide : Bool) (during : Nat)
  /-- TIME_LATCH_READ (R86): offset within the TIME block, 64-bit access. -/
  | timeLatchRead (off : BitVec 12) (wide : Bool)
  /-- CONFL_CLEAR (R317): the written mask, and the counters that gain an increment in the same slot. -/
  | conflClear (mask : Word) (sameSlot : BitVec 17)
  /-- DOORBELL (R353): the written bits, and the index the device then reads at each ring's PROD_ADDR. -/
  | doorbell (bits : Word) (indices : Vector Word 32)
  /-- PROD_WRITE (R353). -/
  | prodWrite (ring : RingId) (value : Word)
  /-- HEARTBEAT (R459). -/
  | heartbeat
  /-- RESUME (R364). -/
  | resume (ring : RingId)
  /-- SKIP (R364). -/
  | skip (ring : RingId)
  /-- MSIX_UNMASK (R31). -/
  | msixUnmask (vec : Fin 64)
  /-- BAR2_WRITE (R26): offset, bytes (none where the byte enable is clear), poisoned or bad ECRC (R345). -/
  | bar2Write (addr : BitVec 28) (data : List (Option Byte)) (badTlp : Bool)
  /-- VAT_BIT_SET_WRITE (R320): master, offset A in the linear region, bytes of the mask (none where disabled). -/
  | vatBitSetWrite (m : Master) (addr : BitVec 26) (data : List (Option Byte))
  /-- VAT_BIT_CLEAR_WRITE (R320). -/
  | vatBitClearWrite (m : Master) (addr : BitVec 26) (data : List (Option Byte))
  /-- PACKET_IN (R70): the bytes and whether the PEC is right. -/
  | packetIn (bytes : List Byte) (pecOk : Bool)
  /-- PACKET_OUT (R71). -/
  | packetOut
  /-- LINK_STATUS (R70). -/
  | linkStatus
  /-- SMBUS_ALERT_RESPONSE (R476). -/
  | smbusAlertResponse
  /-- COMMAND_PACKET_ARRIVAL (R41): transport and the buffer read from it. -/
  | commandPacketArrival (via : Transport) (buf : List Byte)
  /-- REPLY_DELIVERY (R356). -/
  | replyDelivery (ring : RingId)
  /-- HELLO (R46). -/
  | hello (r : Req)
  /-- INFO (R69). -/
  | info (r : Req)
  /-- ECHO (R49). -/
  | echo (r : Req)
  /-- BYE (R50). -/
  | bye (r : Req)
  /-- SET_PARAM (R54). -/
  | setParam (r : Req)
  /-- GET_PARAM (R53). -/
  | getParam (r : Req)
  /-- COMMIT (R59). -/
  | commit (r : Req)
  /-- COMMIT_ABORT (R63). -/
  | commitAbort (r : Req)
  /-- DEFAULTS (R56). -/
  | defaults (r : Req)
  /-- FE_STATUS (R125). -/
  | feStatus (r : Req)
  /-- RECV_REF_SET (R144). -/
  | recvRefSet (r : Req)
  /-- RECV_REF_GET (R155). -/
  | recvRefGet (r : Req)
  /-- RECV_STATUS (R156). -/
  | recvStatus (r : Req)
  /-- PHASE_STATUS (R180). -/
  | phaseStatus (r : Req)
  /-- STREAM_STATUS (R202). -/
  | streamStatus (r : Req)
  /-- FINING_ROM_GET (R186). -/
  | finingRomGet (r : Req)
  /-- PRESS_FLUSH (R278). -/
  | pressFlush (r : Req)
  /-- PRESS_STATUS (R283). -/
  | pressStatus (r : Req)
  /-- ZONE_ACK (R218). -/
  | zoneAck (r : Req)
  /-- ZONE_STATUS (R218). -/
  | zoneStatus (r : Req)
  /-- ZONE_SUMMARY (R218). -/
  | zoneSummary (r : Req)
  /-- ZONE_ACK_TIMEOUT (R218). -/
  | zoneAckTimeout
  /-- THERM_STATUS (R245). -/
  | thermStatus (r : Req)
  /-- THERM_CALIBRATE (R232). -/
  | thermCalibrate (r : Req)
  /-- THERM_CAL_TIMEOUT (R232). -/
  | thermCalTimeout (fe : Fe)
  /-- THERM_ABORT (R232). -/
  | thermAbort (r : Req)
  /-- THERM_RESEED (R245). -/
  | thermReseed (r : Req)
  /-- HARVEST_ARM (R257). -/
  | harvestArm (r : Req)
  /-- HARVEST_DISARM (R259). -/
  | harvestDisarm (r : Req)
  /-- HARVEST_FORCE (R256). -/
  | harvestForce (r : Req)
  /-- HARVEST_READ (R261). -/
  | harvestRead (r : Req)
  /-- HARVEST_RELEASE (R261). -/
  | harvestRelease (r : Req)
  /-- HARVEST_STATUS (R265). -/
  | harvestStatus (r : Req)
  /-- COOPER_LOAD (R287). -/
  | cooperLoad (r : Req)
  /-- COOPER_START (R307). -/
  | cooperStart (r : Req)
  /-- COOPER_STOP (R308). -/
  | cooperStop (r : Req)
  /-- COOPER_SIGNAL (R313). -/
  | cooperSignal (r : Req)
  /-- COOPER_STATUS (R313). -/
  | cooperStatus (r : Req)
  /-- CELLAR_TRAIN (R337). -/
  | cellarTrain (r : Req)
  /-- CELLAR_TRAIN_COMPLETE (R337): the results of the named channels and set points. -/
  | cellarTrainComplete (results : List TrainResult)
  /-- CELLAR_TRAIN_STEP (R342). -/
  | cellarTrainStep (r : Req)
  /-- CELLAR_PATTERN (R342). -/
  | cellarPattern (r : Req)
  /-- CELLAR_COMPARE (R342): the errors the comparator counts on DQ[31:0] then DMI[3:0]. -/
  | cellarCompare (r : Req) (errs : Vector Nat 36)
  /-- FREQ_SET (R329): the instant at which the refresh of channel A ends that the switch follows, and how long the switch takes. -/
  | freqSet (r : Req) (refreshEnd : Nat) (switchPs : Nat)
  /-- CELLAR_STATUS (R342). -/
  | cellarStatus (r : Req)
  /-- CELLAR_TRAIN_ABORT (R337). -/
  | cellarTrainAbort (r : Req)
  /-- TIME_SET (R102). -/
  | timeSet (r : Req)
  /-- TIME_SET_TIMEOUT (R102). -/
  | timeSetTimeout
  /-- TIME_GET (R102). -/
  | timeGet (r : Req)
  /-- TIU_ARM (R98). -/
  | tiuArm (r : Req)
  /-- TIU_STOP (R102). -/
  | tiuStop (r : Req)
  /-- PEER_STATUS (R102). -/
  | peerStatus (r : Req)
  /-- COMMIT_ARM (R93). -/
  | commitArm (r : Req)
  /-- COMMIT_SHARED (R93). -/
  | commitShared (r : Req)
  /-- SHARED_ACCEPT_TIMEOUT (R93). -/
  | sharedAcceptTimeout
  /-- SHARED_COMPLETION_POINT (R94). -/
  | sharedCompletionPoint
  /-- AUX_READ (R381). -/
  | auxRead (r : Req)
  /-- AUX_SELFCAL (R392). -/
  | auxSelfcal (r : Req)
  /-- AUX_SYSCAL (R393). -/
  | auxSyscal (r : Req)
  /-- AUX_TEST (R394). -/
  | auxTest (r : Req)
  /-- AUX_CAL_COMPLETE (R392): what was measured. -/
  | auxCalComplete (m : AuxMeasure)
  /-- AUX_INTLK_RESET (R390). -/
  | auxIntlkReset (r : Req)
  /-- AUX_STATUS (R399). -/
  | auxStatus (r : Req)
  /-- AUX_CAL_ABORT (R399). -/
  | auxCalAbort (r : Req)
  /-- CAL_TIU (R411). -/
  | calTiu (r : Req)
  /-- CAL_AUX (R411). -/
  | calAux (r : Req)
  /-- CAL_DIE (R411). -/
  | calDie (r : Req)
  /-- CAL_COMPLETE (R413): what was measured. -/
  | calComplete (m : CalMeasure)
  /-- CAL_DIE_TIMEOUT (R412). -/
  | calDieTimeout
  /-- VINTAGE_STORE (R414). -/
  | vintageStore (r : Req)
  /-- VINTAGE_STORE_COMPLETE (R414): whether the flash write verified. -/
  | vintageStoreComplete (verified : Bool)
  /-- VINTAGE_STATUS (R416). -/
  | vintageStatus (r : Req)
  /-- VINTAGE_READ (R416). -/
  | vintageRead (r : Req)
  /-- CAL_ABORT (R416). -/
  | calAbort (r : Req)
  /-- POWER_STATUS (R442). -/
  | powerStatus (r : Req)
  /-- POWER_STATE_SET (R435). -/
  | powerStateSet (r : Req)
  /-- POWER_QUEUE_GET (R442). -/
  | powerQueueGet (r : Req)
  /-- REGION_RESTORE (R428). -/
  | regionRestore (r : Req)
  /-- LC_STATUS (R452). -/
  | lcStatus (r : Req)
  /-- FUNC_REINIT (R457). -/
  | funcReinit (r : Req)
  /-- DEV_RESET (R454). -/
  | devReset (r : Req)
  /-- WARM_RESET (R454): the image the reset boots is taken from the flash or the host as at a RESET_N release. -/
  | warmReset
  /-- POWER_CYCLE_REQ (R468). -/
  | powerCycleReq (r : Req)
  /-- FW_WRITE (R465). -/
  | fwWrite (r : Req)
  /-- FW_WRITE_COMPLETE (R465): whether the flash write verified. -/
  | fwWriteComplete (verified : Bool)
  /-- FW_ACTIVATE (R464). -/
  | fwActivate (r : Req)
  /-- FW_TRIAL_FAIL (R464). -/
  | fwTrialFail
  /-- FW_CONFIRM (R447). -/
  | fwConfirm (r : Req)
  /-- TASTER_RUN (R469). -/
  | tasterRun (r : Req)
  /-- TASTER_STATUS (R468). -/
  | tasterStatus (r : Req)
  /-- TASTER_ABORT (R469). -/
  | tasterAbort (r : Req)
  /-- TASTER_SCHEDULED_RUN (R460): the test whose interval expires and the instance it takes. -/
  | tasterScheduledRun (test : Fin 6) (inst : Nat)
  /-- TASTER_RUN_END (R463): pass, and the measure. -/
  | tasterRunEnd (pass : Bool) (measure : BitVec 16)
  /-- VAT_SCRUB (R321): a vat word (else a Cellar word), its address, and what the read finds. -/
  | vatScrub (cellar : Bool) (addr : Nat) (found : EccRead)
  /-- ECC_WRITE_BACK (R321). -/
  | eccWriteBack
  /-- BOUNDARY (R103). -/
  | boundary (fe : Fe)
  /-- GROUP_LAUNCH (R105). -/
  | groupLaunch (fe : Fe)
  /-- SHOT_ROW_PROCESS (R158): the coherent samples of the oldest launched shot, what the ECC finds in the channels' state and references
  where that is not clean (R170, R321), samples lost inside the device (R17), and, should the shot be INVALID, how many elements were
  delivered before the device knew it (R497). -/
  | shotRowProcess (fe : Fe) (x : PairSamples) (eccCh : List (Nat × EccRead)) (lost : Bool) (keep : Nat)
  /-- ZONE_EVENT_RECORD (R212). -/
  | zoneEventRecord
  /-- BAND_CLOSE (R183). -/
  | bandClose (fe : Fe)
  /-- FINING_TILE (R183): uncorrectable tile elements as (channel, row), and channels whose filter state is uncorrectable (Table 13.5). -/
  | finingTile (fe : Fe) (eccElems : List (Nat × Nat × EccRead)) (eccState : List (StreamId × Nat × EccRead))
  /-- PRESS_RECORD (R268): channels whose open samples are uncorrectable (R279). -/
  | pressRecord (st : StreamId) (eccOpen : List (Nat × EccRead))
  /-- STREAM_RECORD_DELIVERY (R196). -/
  | streamRecordDelivery (st : StreamId)
  /-- RAMAN_SHOT_ACCUMULATE (R224): the Raman pair at the link rate. -/
  | ramanShotAccumulate (fe : Fe) (x : RamanShot)
  /-- SUBINTERVAL_FOLD (R225): what reading the accumulators finds (R226, R321). -/
  | subintervalFold (fe : Fe) (ecc : EccRead)
  /-- INTERVAL_COMPLETE (R228). -/
  | intervalComplete (fe : Fe)
  /-- RAMAN_RECORD (R240). -/
  | ramanRecord (fe : Fe)
  /-- FUSION_EPOCH (R234). -/
  | fusionEpoch (fe : Fe)
  /-- FUSED_RECORD (R240). -/
  | fusedRecord (fe : Fe)
  /-- HARVEST_ELEMENT_WRITE (R250): for a raw source the input from the raw-capture tap; the inputs of the other sources are the block's own. -/
  | harvestElementWrite (u : Fin 4) (raw : RawSample)
  /-- HARVEST_SEQ_EVENT (R253): the oldest event that has reached the unit's sequencer. -/
  | harvestSeqEvent (u : Fin 4)
  /-- HARVEST_SEQ_TIMER (R253). -/
  | harvestSeqTimer (u : Fin 4)
  /-- HARVEST_ARM_TIMEOUT (R256). -/
  | harvestArmTimeout (u : Fin 4)
  /-- CAPTURE_RECORD_DELIVERY (R261): elements whose Cellar word is read with an error (R321, Table 13.5). -/
  | captureRecordDelivery (u : Fin 4) (ecc : List (Nat × EccRead))
  /-- TAP_WINDOW_FILL (R303). -/
  | tapWindowFill (core : CoreId) (tap : Fin 2)
  /-- POST_DATA_READ (R305): whether the read meets an uncorrectable error (R286). -/
  | postDataRead (core : CoreId) (ecc : EccRead)
  /-- COOPER_TIMER (R289). -/
  | cooperTimer (core : CoreId)
  /-- INTERRUPT_TAKE (R300). -/
  | interruptTake (core : CoreId)
  /-- NOP (R291). -/
  | nop (core : CoreId) (slot : Slot) (after : SlotEnd)
  /-- ADD (R291). -/
  | add (a : ArArgs)
  /-- SUB (R291). -/
  | sub (a : ArArgs)
  /-- ADDS (R291). -/
  | adds (a : ArArgs)
  /-- SUBS (R291). -/
  | subs (a : ArArgs)
  /-- AND (R291). -/
  | and (a : ArArgs)
  /-- OR (R291). -/
  | or (a : ArArgs)
  /-- XOR (R291). -/
  | xor (a : ArArgs)
  /-- SHL (R291). -/
  | shl (a : ArArgs)
  /-- SHLI (R291). -/
  | shli (a : ArArgs)
  /-- SRA (R291). -/
  | sra (a : ArArgs)
  /-- SRAI (R291). -/
  | srai (a : ArArgs)
  /-- SRL (R291). -/
  | srl (a : ArArgs)
  /-- SRLI (R291). -/
  | srli (a : ArArgs)
  /-- MOV (R291). -/
  | mov (a : ArArgs)
  /-- ADDI (R291). -/
  | addi (a : ArArgs)
  /-- MIN (R291). -/
  | min (a : ArArgs)
  /-- MAX (R291). -/
  | max (a : ArArgs)
  /-- ABS (R291). -/
  | abs (a : ArArgs)
  /-- CMPEQ (R291). -/
  | cmpeq (a : ArArgs)
  /-- CMPLT (R291). -/
  | cmplt (a : ArArgs)
  /-- ADD2 (R291). -/
  | add2 (a : ArArgs)
  /-- SUB2 (R291). -/
  | sub2 (a : ArArgs)
  /-- PACK (R291). -/
  | pack (a : ArArgs)
  /-- MUL (R291). -/
  | mul (a : ArArgs)
  /-- NORM (R294). -/
  | norm (a : ArArgs)
  /-- EXP (R294). -/
  | exp (a : ArArgs)
  /-- MAC (R292). -/
  | mac (a : ArArgs)
  /-- MSU (R292). -/
  | msu (a : ArArgs)
  /-- MPY (R292). -/
  | mpy (a : ArArgs)
  /-- MAC2 (R292). -/
  | mac2 (a : ArArgs)
  /-- MSU2 (R292). -/
  | msu2 (a : ArArgs)
  /-- MPY2 (R292). -/
  | mpy2 (a : ArArgs)
  /-- RND (R293). -/
  | rnd (a : ArArgs)
  /-- RNDH (R293). -/
  | rndh (a : ArArgs)
  /-- EXPA (R294). -/
  | expa (a : ArArgs)
  /-- ASH (R292). -/
  | ash (a : ArArgs)
  /-- CLRA (R292). -/
  | clra (a : ArArgs)
  /-- MOVAL (R291). -/
  | moval (a : ArArgs)
  /-- MOVAH (R291). -/
  | movah (a : ArArgs)
  /-- MOVAG (R291). -/
  | movag (a : ArArgs)
  /-- LDW (R295): and whether the load meets an uncorrectable ECC error (R286). -/
  | ldw (a : LsArgs) (ecc : EccRead)
  /-- LDH (R295). -/
  | ldh (a : LsArgs) (ecc : EccRead)
  /-- LDHU (R295). -/
  | ldhu (a : LsArgs) (ecc : EccRead)
  /-- LDD (R295). -/
  | ldd (a : LsArgs) (ecc : EccRead)
  /-- STW (R295). -/
  | stw (a : LsArgs)
  /-- STH (R295). -/
  | sth (a : LsArgs)
  /-- STD (R295). -/
  | std (a : LsArgs)
  /-- MOVP (R295). -/
  | movp (a : LsArgs)
  /-- MOVG (R295). -/
  | movg (a : LsArgs)
  /-- MOVM (R295). -/
  | movm (a : LsArgs)
  /-- MODP (R295). -/
  | modp (a : LsArgs)
  /-- BR (R291). -/
  | br (a : CtlArgs)
  /-- BRL (R291). -/
  | brl (a : CtlArgs)
  /-- JR (R291). -/
  | jr (a : CtlArgs)
  /-- RETI (R300). -/
  | reti (a : CtlArgs)
  /-- LOOP (R296). -/
  | loop (a : CtlArgs)
  /-- REPEAT (R299). -/
  | repeat_ (a : CtlArgs)
  /-- MVC (R289). -/
  | mvc (a : CtlArgs)
  /-- MOVI (R291). -/
  | movi (a : CtlArgs)
  /-- MOVHI (R291). -/
  | movhi (a : CtlArgs)
  /-- HALT (R309). -/
  | halt (a : CtlArgs)
  /-- WAIT (R301). -/
  | wait (a : CtlArgs)
  /-- POST (R305). -/
  | post (a : CtlArgs)
  /-- TAPREL (R303). -/
  | taprel (a : CtlArgs)
  /-- DESCRIPTOR_FETCH (R358): the descriptors the host memory answers, 8 words each. -/
  | descriptorFetch (ring : RingId) (descs : List (Vector Word 8))
  /-- DATA_BURST (R358): what reading the device-side data finds (R321, Table 13.5). -/
  | dataBurst (ring : RingId) (ecc : EccRead)
  /-- DESCRIPTOR_COMPLETION (R367). -/
  | descriptorCompletion (ring : RingId)
  /-- READ_COMPLETION (R359): the bytes of the oldest outstanding read burst of the ring that this completion returns, and which
  outstanding burst it answers. -/
  | readCompletion (ring : RingId) (burst : Nat) (data : List Byte)
  /-- BURST_FAILURE (R363): the cause, ERR 1-4 of Table 14.9. -/
  | burstFailure (ring : RingId) (err : Fin 4)
  /-- HOLDOFF_EXPIRY (R370). -/
  | holdoffExpiry (ring : RingId)
  /-- RING_COMMIT_APPLY (R372). -/
  | ringCommitApply (ring : RingId)
  /-- REF_LOST (R73). -/
  | refLost (t : Nat)
  /-- REF_IN_EDGE_RETURN (R73). -/
  | refInEdgeReturn (t : Nat)
  /-- REF_GATE_END (R73): the REF_IN edges counted in the gate. -/
  | refGateEnd (t : Nat) (edges : Nat)
  /-- RELOCKED (R75). -/
  | relocked (t : Nat)
  /-- PPS_IN_EDGE (R79): the edge's instant and polarity. -/
  | ppsInEdge (t : Nat) (falling : Bool)
  /-- PPS_LOST (R80). -/
  | ppsLost
  /-- PTM_DIALOGUE (R84): the clock instants at which the request left and the response came, the master time t2 and delay t3 - t2 in ns,
  and whether the dialogue succeeded. -/
  | ptmDialogue (tSent tRecv : Nat) (t2 : BitVec 64) (t32 : Nat) (ok : Bool)
  /-- TIU_START_EDGE (R97): the edge with its instant in ps, and the further 2^-40 s refinement of its stamp. -/
  | tiuStartEdge (ch : Fin 4) (e : PinEdge) (sub : Byte)
  /-- TIU_STOP_EDGE (R97): the edge with its time after the start, in 2^-40 s. -/
  | tiuStopEdge (ch : Fin 4) (e : PinEdge)
  /-- TIU_CLOSE (R98). -/
  | tiuClose (ch : Fin 4)
  /-- TIU_REARM (R98). -/
  | tiuRearm (ch : Fin 4)
  /-- TIU_ARM_TIMEOUT (R98). -/
  | tiuArmTimeout (ch : Fin 4)
  /-- TIU_GATE_END (R99), with the source's edges of the gate that no command of their own brought: single ones by their time after the
  arming in 2^-40 s, then a train of `count` edges `period` apart after the last of them. -/
  | tiuGateEnd (ch : Fin 4) (single : List Nat) (period count : Nat)
  /-- TRIG_IN_EDGE (R252). -/
  | trigInEdge (pin : Fin 4) (falling : Bool) (t : Nat)
  /-- GPIO_EDGE (R437). -/
  | gpioEdge (pin : Fin 16)
  /-- SYSREF_EDGE (R132): the edge's offset from the link's extended-multiblock clock, in JDCLK periods x 1000. -/
  | sysrefEdge (fe : Fe) (offset : Int)
  /-- LINK_INIT_COMPLETE (R132): link 0 A, 1 B, 2 transmit, and the latest lane arrival in blocks. -/
  | linkInitComplete (fe : Fe) (link : Fin 3) (latestArrival : Nat)
  /-- CRC12_FAILURE (R135): the lane, and the sampling interval (clock instants) of the tainted multiblock. -/
  | crc12Failure (fe : Fe) (lane : Fin 6) (fromT toT : Nat)
  /-- LINK_DOWN (R136). -/
  | linkDown (fe : Fe) (link : Fin 3) (t : Nat)
  /-- LINK_RETRY (R136): whether the retry reaches the data state, and the latest lane arrival. -/
  | linkRetry (fe : Fe) (link : Fin 3) (ok : Bool) (latestArrival : Nat)
  /-- RATE_MISMATCH (R131). -/
  | rateMismatch (fe : Fe) (link : Fin 3)
  /-- PEER_LANE_UP (R89): the far end's version and DEVICE_NUM as its LINK_HELLO gave them. -/
  | peerLaneUp (lane : Fin 4) (farMajor farMinor : Byte) (farNum : Fin 4)
  /-- PEER_LANE_SILENCE (R89). -/
  | peerLaneSilence (lane : Fin 4)
  /-- IDLE (R90). -/
  | idle (f : Frame)
  /-- LINK_HELLO (R89). -/
  | linkHello (f : Frame)
  /-- SYNC_REQ (R91). -/
  | syncReq (f : Frame)
  /-- SYNC_RESP (R91). -/
  | syncResp (f : Frame)
  /-- SYNC_REQ_TIMER (R91). -/
  | syncReqTimer
  /-- ZONE_EVENT (R92). -/
  | zoneEvent (f : Frame)
  /-- PREPARE (R93). -/
  | prepare (f : Frame)
  /-- ACCEPT (R93). -/
  | accept (f : Frame)
  /-- REFUSE (R93). -/
  | refuse (f : Frame)
  /-- WITHDRAW (R94). -/
  | withdraw (f : Frame)
  /-- MARGIN_SAMPLE (R421). -/
  | marginSample (m : MarginSample)
  /-- SHEDDING_STEP (R19). -/
  | sheddingStep
  /-- SHEDDING_RESTORE (R20). -/
  | sheddingRestore
  /-- GUARDED_MODE_CHANGE (R426): the crossing, and whether it enters guarded mode. -/
  | guardedModeChange (crossing : Fin 11) (enter : Bool)
  /-- REGION_ISOLATION (R427): the region FE0-FE3, DSP, VAT, SYS. -/
  | regionIsolation (region : Fin 7)
  /-- REGULATOR_POLL (R418): the rail, and what the poll reads. -/
  | regulatorPoll (rail : Fin 4) (p : RegPoll)
  /-- ADMISSION_GRANT (R430). -/
  | admissionGrant
  /-- ADMISSION_TIMEOUT (R431). -/
  | admissionTimeout
  /-- AUTO_IDLE (R434). -/
  | autoIdle
  /-- WAKE_EVENT (R437): the source as a LAST_WAKE bit: 0 PCIe, 1 SMBus, 2 GPIO, 3 TRIG_IN, 4 WAKE_AT, 5 FLR; and the elapsed time the
  wake counter measured, in ps (R438). -/
  | wakeEvent (source : Fin 6) (measured : Nat)
  /-- WAKE_AT (R437). -/
  | wakeAt (measured : Nat)
  /-- WATCHDOG_BITE (R456). -/
  | watchdogBite (t : Nat)
  /-- CP_RESTART_COMPLETE (R24). -/
  | cpRestartComplete
  /-- CP_RESTART_TIMEOUT (R456). -/
  | cpRestartTimeout
  /-- L3_NOT_READY (R456). -/
  | l3NotReady
  /-- HEARTBEAT_TIMEOUT (R459). -/
  | heartbeatTimeout
  /-- THERMTRIP (R493). -/
  | thermtrip
  /-- VINTAGE_RECOMPUTE (R403): the raw sensor readings. -/
  | vintageRecompute (raw : Vector Int 16)
  /-- CELLAR_REFRESH (R328). -/
  | cellarRefresh (ch : Fin 4)
  /-- CELLAR_TEMP_READ (R328): whether the indication reports above 85 °C. -/
  | cellarTempRead (ch : Fin 4) (hot : Bool)
  /-- WRITE_DRAIN (R331). -/
  | writeDrain (ch : Fin 4)
  /-- AUX_CYCLE_START (R379). -/
  | auxCycleStart
  /-- AUX_CONVST_EDGE (R379). -/
  | auxConvstEdge (falling : Bool)
  /-- AUX_CONVERSION_END (R376): the corrected input voltage in nV at the end of the sampling phase. -/
  | auxConversionEnd (volts : Int)
  /-- AUX_RESULT_RELEASE (R382): the input whose result is due for release. -/
  | auxResultRelease (input : AuxId)
  /-- EXCITATION_BREAK (R387). -/
  | excitationBreak (src : Fin 4)
  /-- EXCITATION_BREAK_CLEAR (R387). -/
  | excitationBreakClear (src : Fin 4)
  /-- POWER_DOWN (R482). -/
  | powerDown
  /-- PERST_N_RELEASE (R478). -/
  | perstNRelease
  /-- COMMIT_TIME_TARGET_REACHED (R58). -/
  | commitTimeTargetReached
  /-- OPERATION_TIME_LIMIT (R67): the operation, by session and sequence of its command. -/
  | operationTimeLimit (sess : BitVec 8) (seq : Word)
  /-- CELLAR_TRAIN_STEP_COMPLETE (R342). -/
  | cellarTrainStepComplete (res : StepResult)
  /-- POWER_STATE_ENTRY_COMPLETE (R439). -/
  | powerStateEntryComplete
  /-- PEER_LANE_LOCK_LOSS (R89). -/
  | peerLaneLockLoss (lane : Fin 4)
  /-- PEER_FRAME_CRC_ERROR (R90). -/
  | peerFrameCrcError (lane : Fin 4)
  /-- RAW_STREAM_LEVEL_CROSSING (R255): the unit, two consecutive raw samples with the sampling instant of the second, the spacing
  in ps, and whether a sample is INVALID. -/
  | rawStreamLevelCrossing (u : Fin 4) (x : Int) (t : Nat) (invalid : Bool)
  deriving DecidableEq, Repr

end Sys2Proof
end

