-- ==== Sys2Proof/Config.lean ====
section
/-! DEFINITION. What an implementation fixes and the free values: opaque constants with no body, so nothing can be proved of their values. -/

namespace Sys2Proof.Config

/-- R140, R186: the decimation filter of decimation `d`: its coefficient, in 2^-40, for the converter sample `k` after the output's. -/
opaque ddcTap (d : Nat) (k : Int) : Int
/-- R146, R186: the interpolator's tap `k` of 8 at one of 64 phases, in 2^-30. -/
opaque interpTap (phase k : Nat) : Int
/-- R146: what the interpolator takes for a native sample `n` before the timeline origin, which the spec does not state. -/
opaque beforeOrigin (isQ : Bool) (n : Nat) : Int
/-- R141: the difference, within -1..1 after clamping, between the direct sum and the device's compression output. -/
opaque compressDev (seed ch branch : Nat) (isQ : Bool) : Int
/-- R161: the difference of the channel angle from the nearest unit, used within the tolerance of R161. -/
opaque angleDev (seed ch : Nat) : Int
/-- R162: the same for the amplitude. -/
opaque ampDev (seed ch : Nat) : Int
/-- R186: the Fining coefficient ROM, filter 0-15 responses and 16 half-band, tap k; int18. -/
opaque finingRom (filter tap : Nat) : BitVec 18
/-- R220: the fixed 2:3 polyphase resampler for 187.5 MS/s. -/
opaque resample187 (samples : List Int) (p : Nat) : Int
/-- R229: the deviation, in m°C and used within ±1, of a Raman temperature. -/
opaque ramanDev (seed bin : Nat) : Int
/-- R175, R318: where in the vats an engine's channel state lies, which the spec does not state. -/
opaque feStateBase (fe : Nat) : Nat
/-- R196, R227: a byte at a visible Cellar address of a stream's queue or of an engine's thermal sums, where the spec gives the area and not its layout. -/
opaque areaByte (seed addr : Nat) : BitVec 8
/-- R151, R174, R210: how long, in ps and used within the bounds of those rules, the stages from a sample at the balls to a zone decision take. -/
opaque stageLag (seed : Nat) : Nat
/-- R249: a byte of the first 4 KiB of a capture region, which hold these words of state and summary in a layout that the spec does not state. -/
opaque captureByte (words : List (BitVec 32)) (offset : Nat) : BitVec 8
/-- R317: slots that a vat master waits while others work. -/
opaque slotsWaited (seed master : Nat) : Nat

/-- R99: the spacing of the stamps among the counted edges of a gate, used within what MAX_STAMPS allows. -/
opaque stampStep (seed edges : Nat) : Nat
/-- R79, R91: how far a servo moves the frequency adjustment after an edge or a synchronisation, used within the bounds of those rules. -/
opaque servoAdj (seed : Nat) (errPs : Int) (adj : Int) : Int
/-- R46, Table 2.6: which free session id HELLO takes is not stated. -/
opaque sessionPick (seed : Nat) : Nat
/-- R46, Table 2.1: the SESSION field in the header of a reply to HELLO is not stated. -/
opaque helloSession (seed : Nat) : BitVec 8
/-- R422: the rail voltage the power manager's model predicts for a 25 % margin. -/
opaque predictedVolt (seed : Nat) : Nat
/-- R133: the deterministic ingest latency of an engine for a given configuration, in converter samples. -/
opaque ingestLatency (fe : Nat) (recv probe : List Word) : Nat
/-- R379: with dither, the deviation of a result's mean code, in 2^-20 LSB and used within ±0.1 LSB. -/
opaque ditherDev (seed : Nat) : Int
/-- R384: the deviation of a linearised value, in m°C and used within ±10. -/
opaque curveDev (seed : Nat) : Int
/-- R384, Table 15.4: the temperature in m°C at which a thermocouple of IEC 60584 (curve 0x10-0x16) has an EMF in nV; none outside its range. -/
opaque thermocouple (curve : Nat) (nv : Int) : Option Int
/-- R384: the EMF in nV of a thermocouple at a cold-junction temperature in m°C. -/
opaque junctionEmf (curve : Nat) (mc : Int) : Int
/-- A value the spec leaves open after an operation that goes on. -/
opaque freeWord (seed tag : Nat) : Word

end Sys2Proof.Config
end

