-- ==== Sys2Proof/Machine/State.lean ====
section
/-! DEFINITION. The state of the PK7180: everything the spec gives the block, as plain data, and its value at reset. Each field's docstring
gives its width or shape, the spec file and rule that names it, and its reset value (`reset - ` means: the spec states none and the value
is the model's, log entry 2). -/

namespace Sys2Proof.Machine

/-- Why the block would stop with a fault. No meaning of this model raises one: the device reports its faults in its own state
(status codes, events, vector 42) and goes on. Raised by nothing; safe. -/
inductive Fault where
  /-- Kept for the interface; no meaning answers it, so it is safe. -/
  | none
  deriving DecidableEq, Repr

/-- Why a command is refused by the model. -/
inductive Refusal where
  /-- The dispatcher's arm for a command whose meaning is not written; safe. -/
  | notModelled (mnemonic : String)
  deriving DecidableEq, Repr

/-- A memory: (address, byte) pairs, addresses strictly rising, no pair whose byte is 0; an unlisted address reads 0 (log entry 3). -/
abbrev Mem := List Host.Cell

/-- A block ID: class in the high byte, instance in the low (2.5). -/
abbrev BlockId := BitVec 16

/-! ## What the device sends -/

/-- Output pins that events drive by name. -/
inductive Pin where
  | alarm (n : Fin 16)
  | intlk (n : Fin 4)
  | smbAlertN
  | thermtripN
  | pwrCycleReqN
  | pcieWakeN
  | auxExc (n : Fin 4)
  deriving DecidableEq, Repr

/-- One thing the device sends or shows outside, as it leaves. -/
inductive Out where
  /-- An MSI-X message (R31). -/
  | msix (vec : Fin 64)
  /-- A write to host memory (R367); Relaxed Ordering, No Snoop and poisoned attributes. -/
  | hostWrite (addr : BitVec 64) (bytes : List Byte) (relaxed noSnoop poisoned : Bool)
  /-- A read request to host memory (R366). -/
  | hostRead (addr : BitVec 64) (len : Nat)
  /-- The value a register read answers. -/
  | readData (data : BitVec 64)
  /-- The bytes a read of BAR2 answers, and the poisoned attribute (R26, R322). -/
  | readBytes (data : List Byte) (poisoned : Bool)
  /-- An advisory non-fatal error through AER (R25). -/
  | aerAdvisory
  /-- A non-fatal error through AER (R345). -/
  | aerNonFatal
  /-- An SMBus block read's bytes (R71). -/
  | smbusBlock (bytes : List Byte)
  /-- An SMBus read byte (Table 2.15) or alert response (R476). -/
  | smbusByte (b : Byte)
  /-- An SMBus transfer that is not acknowledged. -/
  | smbusNak
  /-- A peer frame of 8 words on a lane (R90). -/
  | frame (lane : Fin 4) (words : List Word)
  /-- A pin takes a level. -/
  | pin (p : Pin) (level : Bool)
  /-- A TRIG_OUT edge at its programmed instant in ps (R117, R118). -/
  | trig (n : Nat) (level : Bool) (t : Nat)
  /-- A waveform launched on an engine's transmit link: the tone group, the instant (ps) at which its first sample leaves the DAC, the PPN of its
  period, the tones sent, and the PROBE words in force; its I and Q codes are those of `launchCode` (R104, R108, R109, R114). -/
  | launch (fe : Fe) (group : Nat) (t : Nat) (ppn : BitVec 48) (tones : BitVec 8) (probe : List Word)
  /-- An AVSBus target in mV on a rail (R418). -/
  | avs (rail : Fin 4) (mv : Nat)
  /-- A request for link state L1 (R347). -/
  | l1Request
  /-- The latency tolerance reported, in µs (R347). -/
  | ltr (us : Nat)
  deriving DecidableEq, Repr

/-! ## Time base (03) -/

/-- A TIME_SET waiting for its PPS edge (R102). -/
structure PendSet where
  sess : BitVec 8
  seq : Word
  time : BitVec 64
  since : Nat
  deriving DecidableEq, Repr

/-- The time base: clock, device time, servo, TIME registers (3.1-3.4). -/
structure TimeBase where
  /-- Nat, ps; 03 R73; reset 0. The instant on the REF_IN-derived clock since reset, on which boundaries and stamps stand. -/
  clk : Nat := 0
  /-- Nat, ps; 03 R81; reset 0. The clock instant of the last step or change of rate. -/
  baseClk : Nat := 0
  /-- 96 bits (64 of device time and 32 further fraction bits, 3.2); 03 R77; reset 0. Device time at `baseClk`. -/
  base : BitVec 96 := 0
  /-- int32, 1e-12; 03 R85 FREQ_ADJ; reset 0. The frequency adjustment. -/
  adj : Int := 0
  /-- 1 bit; 03 Table 3.2 REF_LOCKED; reset 0. -/
  refLocked : Bool := false
  /-- 1 bit; 03 Table 3.2 REF_LOST; reset 0. -/
  refLost : Bool := false
  /-- 1 bit; 03 Table 3.2 REF_BAD; reset 0. -/
  refBad : Bool := false
  /-- 1 bit; 03 Table 3.2 HOLDOVER; reset 1. -/
  holdover : Bool := true
  /-- 1 bit; 03 Table 3.2 PPS_LOCKED; reset 0. -/
  ppsLocked : Bool := false
  /-- 1 bit; 03 Table 3.2 PPS_LOST; reset 0. -/
  ppsLost : Bool := false
  /-- 1 bit; 03 Table 3.2 PTM_VALID; reset 0. -/
  ptmValid : Bool := false
  /-- 1 bit; 03 Table 3.2 PEER_TIME_LOCKED; reset 0. -/
  peerLocked : Bool := false
  /-- 7 bits; 03 Table 3.3 TIME_EVENTS; reset 0. -/
  events : BitVec 7 := 0
  /-- 64 bits; 03 Table 3.1 PPS_STAMP; reset 0. -/
  ppsStamp : BitVec 64 := 0
  /-- Int, ps; 03 Table 3.1 PPS_ERROR, saturated to int32 where read; reset 0. -/
  ppsError : Int := 0
  /-- 64 bits; 03 Table 3.1 PTM_DEVICE; reset 0. -/
  ptmDevice : BitVec 64 := 0
  /-- 64 bits; 03 Table 3.1 PTM_MASTER; reset 0. -/
  ptmMaster : BitVec 64 := 0
  /-- 32 bits; 03 Table 3.1 PTM_COUNT; reset 0. -/
  ptmCount : Word := 0
  /-- int32; 03 Table 3.1 PEER_OFFSET; reset 0. -/
  peerOffset : Word := 0
  /-- 64 bits; 03 R86 latch of NOW; reset 0. -/
  latNow : BitVec 64 := 0
  /-- 64 bits; 03 R86 latch of PPS_STAMP; reset 0. -/
  latPps : BitVec 64 := 0
  /-- 64 bits; 03 R86 latch of PTM_DEVICE; reset 0. -/
  latPtmD : BitVec 64 := 0
  /-- 64 bits; 03 R86 latch of PTM_MASTER; reset 0. -/
  latPtmM : BitVec 64 := 0
  /-- 1 bit; 03 R73; reset 0. REF_LOST was set at some instant of the present 1 ms gate. -/
  lostInGate : Bool := false
  /-- Option of an instant; 03 R75; reset 0. Since when REF_IN has been free of REF_LOST and REF_BAD. -/
  goodSince : Option Nat := some 0
  /-- 1 bit; 03 R79; reset 1. The next accepted PPS edge is handled as a first edge. -/
  ppsFirst : Bool := true
  /-- Nat; 03 R80; reset 0. Consecutive accepted edges within 20 ns. -/
  ppsGood : Nat := 0
  /-- Instant; 03 R80; reset 0. The last PPS edge, or when the wait for one began. -/
  ppsLast : Nat := 0
  /-- List of at most 2 Int; 03 R79; reset empty. Errors of the consecutive outliers, newest first. -/
  outliers : List Int := []
  /-- Option; 03 R102; reset none. The TIME_SET waiting for a PPS edge. -/
  pendSet : Option PendSet := none
  /-- 1 bit; 03 R88; reset 0. PPS_EN in force: that of the set as of the last PPS edge or peer synchronisation. -/
  pps : Bool := false
  /-- 1 bit; 03 R88; reset 0. TIME_SOURCE in force, likewise. -/
  src : Bool := false
  /-- 1 bit; 03 R86; reset 0. PTM_MASTER stands latched with PTM_DEVICE for the 32-bit read of its low word. -/
  latPair : Bool := false
  /-- 1 bit; 03 R91; reset 0. The follower has made its first synchronisation. -/
  peerSynced : Bool := false
  /-- Nat; 03 R91; reset 0. Consecutive synchronisations within 1 ns. -/
  peerGood : Nat := 0
  deriving DecidableEq, Repr

/-- State of a peer lane (PEER_STATUS, R102). -/
inductive LaneState where
  | down
  | training
  | negotiating
  | up
  | incompatible
  deriving DecidableEq, Repr

/-- One peer lane (3.5). -/
structure Lane where
  /-- 5 values; 03 R89; reset DOWN. -/
  st : LaneState := .down
  /-- 8 bits; 03 R89 agreed version, major.minor as two nibbles of PEER_STATUS [10:3]; reset 0. -/
  ver : Byte := 0
  /-- 2 bits; 03 R102 far DEVICE_NUM; reset 0. -/
  farNum : Fin 4 := 0
  /-- Nat to 2^19 - 1; 03 R90 CRC errors; reset 0. -/
  crcErr : Nat := 0
  /-- List of up to 64 values of 16 bits, newest first; 03 R90; reset empty. FSEQ of the last frames acted on. -/
  rxSeqs : List (BitVec 16) := []
  /-- Instant; 03 R90; reset 0. The last frame sent. -/
  lastTx : Nat := 0
  /-- 16 bits; 03 R90; reset - 0. FSEQ of the next frame sent. -/
  txSeq : BitVec 16 := 0
  deriving DecidableEq, Repr

/-- A COMMIT_ARM that is armed or prepared (R93). -/
structure Armed where
  sess : BitVec 8
  seq : Word
  tag : BitVec 16
  doms : BitVec 6
  budget : Nat
  /-- Once prepared: the lane to the originator and T. -/
  prep : Option (Fin 4 × BitVec 64)
  /-- The shared completion point is past. -/
  stands : Bool
  deriving DecidableEq, Repr

/-- A COMMIT_SHARED in progress at its originator (R93). -/
structure Shared where
  sess : BitVec 8
  seq : Word
  tag : BitVec 16
  doms : BitVec 6
  peers : BitVec 4
  target : BitVec 64
  arrival : BitVec 64
  prepareAt : Nat
  /-- Answers so far: DEVICE_NUM and status (0 accepted). -/
  answers : List (Fin 4 × Byte)
  /-- Scheduled at T on this device. -/
  scheduled : Bool
  /-- The shared completion point is past. -/
  stands : Bool
  budget : Nat
  deriving DecidableEq, Repr

/-- Peer links beyond the lanes. -/
structure Peer where
  /-- 4 lanes; 03 R89; reset each DOWN. -/
  lanes : Vector Lane 4 := Vector.replicate 4 {}
  /-- List; 03 R93; reset empty. The armed commit, at most one, and prepared ones. -/
  armed : List Armed := []
  /-- List; 03 R93; reset empty. The shared commits this device originates. -/
  shared : List Shared := []
  deriving DecidableEq, Repr

/-- Where a TIU channel stands (3.6). -/
inductive TiuPhase where
  | idle
  | armed
  | open
  | closed
  | gating
  deriving DecidableEq, Repr

/-- One TIU channel (3.6). -/
structure TiuCh where
  /-- 5 values; 03 R98; reset idle. -/
  ph : TiuPhase := .idle
  /-- 64 bits; 03 R98; reset 0. The arming instant, device time. -/
  armAt : BitVec 64 := 0
  /-- Instant; 03 R98; reset 0. The same on the clock. -/
  armClk : Nat := 0
  /-- 64 bits; 03 Table 3.8 START; reset 0. -/
  start : BitVec 64 := 0
  /-- 8 bits; 03 Table 3.8 START_SUB; reset 0. -/
  sub : Byte := 0
  /-- Instant; 03 R98; reset 0. The start on the clock. -/
  startClk : Nat := 0
  /-- Nat to 65535; 03 Table 3.7 SHORT; reset 0. -/
  short : Nat := 0
  /-- Nat to 65535; 03 Table 3.7 EARLY; reset 0. -/
  early : Nat := 0
  /-- Nat to 65535; 03 Table 3.7 MISSED_DEAD; reset 0. -/
  missed : Nat := 0
  /-- Nat to 65535; 03 Table 3.7 OVERFLOW; reset 0. -/
  overflow : Nat := 0
  /-- Up to 16 stamps in 2^-40 s, oldest first; 03 R97; reset empty. -/
  stops : List Nat := []
  /-- 1 bit; 03 R100 REF_FAULT; reset 0. -/
  refFault : Bool := false
  /-- 1 bit; 03 R83 HOLDOVER at the start; reset 0. -/
  holdover : Bool := false
  /-- Nat to PRESCALE; 03 R99; reset 0. Edges the prescaler has taken since its last output. -/
  pre : Nat := 0
  /-- List of 72-bit times in 2^-40 s, newest first; 03 R99; reset empty. The counted edges of the running gate. -/
  edges : List Nat := []
  /-- Option of status byte and 22 words; 03 R102; reset none. The ended measurement that the TIU_ARM event reports. -/
  result : Option (Byte × List Word) := none
  deriving DecidableEq, Repr

/-! ## Host interface (14) -/

/-- One MSI-X table entry. -/
structure Msix where
  /-- 64 bits; 14 R343 message address; reset - 0. -/
  addr : BitVec 64 := 0
  /-- 32 bits; 14 R343 message data; reset - 0. -/
  data : Word := 0
  /-- 1 bit; 14 R343 mask bit; reset - 1 (PCIe's reset value, log entry 5). -/
  masked : Bool := true
  deriving DecidableEq, Repr

/-- The PCIe endpoint's own state. -/
structure Pcie where
  /-- 1 bit; 14 R343 link up and out of reset; reset 0. -/
  up : Bool := false
  /-- 1 bit; 01 R31 MSI-X enabled in configuration space; reset - 0 (PCIe's, log entry 5). -/
  msixEn : Bool := false
  /-- 64 entries; 14 R343 MSI-X table; reset as the entry says. -/
  table : Vector Msix 64 := Vector.replicate 64 {}
  /-- 64 bits; 01 R31 PBA; reset 0. -/
  pba : BitVec 64 := 0
  /-- 1 bit; 14 R347 in D3hot; reset 0. -/
  d3hot : Bool := false
  /-- 1 bit; 19 R478 PERST_N low; reset - 1 (its internal pull-down). -/
  perst : Bool := true
  /-- 1 bit; 19 R478 PCIE_WAKE_N driven low; reset 0. -/
  wakeN : Bool := false
  /-- Nat bytes 128-512; 14 R343 max payload programmed; reset - 128 (PCIe's, log entry 5). -/
  maxPayload : Nat := 128
  /-- Nat bytes 128-4096; 14 R343 max read request programmed; reset - 512 (PCIe's, log entry 5). -/
  maxRead : Nat := 512
  /-- 1 bit; 14 R367 Relaxed Ordering enabled by the host; reset - 1 (PCIe's, log entry 5). -/
  relaxedEn : Bool := true
  /-- 1 bit; 14 R367 No Snoop enabled by the host; reset - 1 (PCIe's, log entry 5). -/
  noSnoopEn : Bool := true
  /-- 1 bit; 14 R345 ECRC checking enabled; reset - 0 (PCIe's, log entry 5). -/
  ecrcEn : Bool := false
  /-- 1 bit; 03 R84 PTM enabled by system software; reset - 0 (PCIe's, log entry 5). -/
  ptmEn : Bool := false
  /-- 1 bit; 14 R454 bus mastering stopped by a reset, FLR or D3hot; reset 0. -/
  busStopped : Bool := false
  /-- 64 bits; 14 R349 IRQ_SUM0 and IRQ_SUM1; reset 0. -/
  irqSum : BitVec 64 := 0
  /-- 32 bits; 14 Table 14.2 SCRATCH; reset 0. -/
  scratch : Word := 0
  deriving DecidableEq, Repr

/-- What waits for delivery on a device-to-host ring. -/
structure Item where
  bytes : List Byte
  /-- Session whose reply or event it is, 0 for records. -/
  sess : BitVec 8
  /-- The source: 0 reply, 1 event, 2 zone event record, 3 stream or thermal record, 4 capture record, 5 TIU record, 6 Cooper result. -/
  tag : Nat
  /-- Stream or unit number. -/
  src : Nat
  deriving DecidableEq, Repr

/-- A read burst outstanding on a ring's channel (R359). -/
structure ReadBurst where
  no : Nat
  addr : BitVec 64
  len : Nat
  got : Option (List Byte)
  deriving DecidableEq, Repr

/-- One ring and its host-facing channel (14.2-14.8). -/
structure Ring where
  /-- 32 bits; 14 Table 14.4 PROD, latest accepted; reset 0. -/
  prod : Word := 0
  /-- 32 bits; 14 Table 14.4 CONS; reset 0. -/
  cons : Word := 0
  /-- 1 bit; 14 Table 14.5 HALTED; reset 0. -/
  halted : Bool := false
  /-- 4 bits; 14 Table 14.5 ERR; reset 0. -/
  err : BitVec 4 := 0
  /-- 3 bits; 14 Table 14.5 RETRIES; reset 0. -/
  retries : BitVec 3 := 0
  /-- 32 bits, RC, saturating; 14 Table 14.4 ITEMS; reset 0. -/
  items : Word := 0
  /-- Nat of bytes, RC; 14 Table 14.4 BYTES, read in 32-byte units and saturating; reset 0. -/
  moved : Nat := 0
  /-- 32 bits, RC, saturating; 14 Table 14.4 BAD_INDEX; reset 0. -/
  badIndex : Word := 0
  /-- 32 bits, RC, saturating; 14 Table 14.4 CONVERT_SKIP; reset 0. -/
  convSkip : Word := 0
  /-- Nat to 7; 14 R363 retries made on the burst in progress; reset 0. -/
  tries : Nat := 0
  /-- List of 8-word descriptors; 14 R358; reset empty. Fetched, not complete, from CONS on. -/
  descs : List (Vector Word 8) := []
  /-- Nat; 14 R367; reset 0. Bytes moved of the first of `descs`. -/
  done : Nat := 0
  /-- 1 bit; 14 R370; reset 0. The half point of the first of `descs` is passed. -/
  half : Bool := false
  /-- 1 bit; 14 R370; reset 0. The half write of the first of `descs` was issued. -/
  halfSent : Bool := false
  /-- Option; 14 R356; reset none. The item in progress and its bytes already moved. -/
  cur : Option (Item × Nat) := none
  /-- 1 bit; 14 R356; reset 0. The first of `descs` is the item's first. -/
  sop : Bool := false
  /-- List; 14 R356; reset empty. Replies, events and zone event records waiting in the CP area, oldest first. -/
  queue : List Item := []
  /-- List; 14 R359; reset empty. Read bursts outstanding, oldest first. -/
  reads : List ReadBurst := []
  /-- Nat; 14 R359; reset 0. Read bursts issued. -/
  readNo : Nat := 0
  /-- List of bytes; 14 R359; reset empty. Host data reassembled in request order and not yet written. -/
  gathered : List Byte := []
  /-- Option of an instant; 14 R370; reset none. End of the present HOLDOFF. -/
  holdoff : Option Nat := none
  /-- 1 bit; 14 R370; reset 0. A message is merged until HOLDOFF ends. -/
  merged : Bool := false
  deriving DecidableEq, Repr

/-! ## Protocol (02) -/

/-- One cached sequence number (R42): its command and the most recent reply sent for it, none while it still runs. -/
structure CacheEntry where
  seq : Word
  opcode : BitVec 16
  crc : Word
  reply : Option (List Word)
  deriving DecidableEq, Repr

/-- One session (R33). -/
structure Session where
  id : BitVec 8
  via : Transport
  major : Nat
  minor : Nat
  features : BitVec 64
  highest : Option Word
  cache : List CacheEntry
  deriving DecidableEq, Repr

/-- What a command that has not answered finally waits for. -/
inductive OpKind where
  | commit
  | commitArm
  | commitShared
  | timeSet
  | tiuArm (mask : BitVec 4)
  | zoneAck (left : List Nat) (cleared : Nat)
  | pressFlush (left closed : BitVec 16) (limit : Nat)
  | thermCal (fe : Fe) (w0 w1 : Word)
  | harvestArm (unit : Fin 4)
  | harvestRead (unit : Fin 4)
  | cooperStart (core : CoreId)
  | cooperStop (cores : BitVec 8)
  | cellarTrain (chans : BitVec 4) (fsps : BitVec 3)
  | cellarStep (ch : Fin 4) (step : BitVec 4) (keep : Bool)
  | auxRead (mask left : BitVec 16)
  | auxCal (op : BitVec 16) (w0 : Word) (w1 : Word)
  | devCal (op : BitVec 16) (w0 : Word) (w1 : Word)
  | vintageStore (syscal : Bool)
  | powerState
  | funcReinit (func : BitVec 2) (inst : BitVec 5)
  | fwWrite (off : Nat) (data : List Word)
  | fwActivate (live : Bool)
  | tasterRun (test : Fin 8) (inst : Nat)
  | devReset
  deriving DecidableEq, Repr

/-- A command whose final answer is still to come: deferred reply or completion event (R45, R65, R66). -/
structure Op where
  sess : BitVec 8
  seq : Word
  opcode : BitVec 16
  kind : OpKind
  /-- The outcome goes as a completion event (a first answer has been sent). -/
  event : Bool
  start : Nat
  deriving DecidableEq, Repr

/-- A packet waiting on the SMBus target: its bytes and whether it is an event (R71). -/
structure SmbItem where
  bytes : List Byte
  isEvent : Bool
  deriving DecidableEq, Repr

/-- Protocol state of the CP (02). -/
structure Proto where
  /-- Up to 4 sessions; 02 R33; reset empty. -/
  sessions : List Session := []
  /-- List of accepted packets, oldest first; 02 R41; reset empty. Commands that wait for execution. -/
  waiting : List Req := []
  /-- List; 02 R45; reset empty. Commands that have started or queued and answer later. -/
  ops : List Op := []
  /-- List, at most 8 unless replies are held back; 02 R71; reset empty. Replies and events waiting for PACKET_OUT, oldest first. -/
  smb : List SmbItem := []
  /-- List of (transport, packet), oldest first; 01 R24, 17 R439; reset empty. Packets that stay in their command ring, or that SMBus has accepted,
  while the CP does not run, and are not yet checked. -/
  heldIn : List (Transport × List Byte) := []
  /-- List, oldest first; 01 R24; reset empty. SMBus replies and events formed while the CP restarts, sent after it. -/
  smbLater : List SmbItem := []
  /-- List of (session, transport), the one served last at the end; 02 R45; reset empty. The turn of the sessions. -/
  served : List (BitVec 8 × Transport) := []
  /-- 1 bit; 02 Table 2.15 LINK_STATUS[2]; reset 0. -/
  smbDiscard : Bool := false
  /-- List of (session, sequence, opcode); 02 R63; reset empty. Abortable commands that have completed, newest first. -/
  completed : List (BitVec 8 × Word × BitVec 16) := []
  deriving DecidableEq, Repr

/-! ## Parameter blocks and commits (02) -/

/-- The shadow and active sets: blocks that differ from their defaults, by block ID. -/
structure Params where
  /-- Blocks by ID; 02 R54; reset every block at its defaults. -/
  shadow : List (BlockId × List Word) := []
  /-- Blocks by ID; 02 R61; reset every block at its defaults. -/
  active : List (BlockId × List Word) := []
  deriving DecidableEq, Repr

/-- A commit that is queued for admission or scheduled (R58-R62). -/
structure Commit where
  sess : BitVec 8
  seq : Word
  /-- Table 2.13 [5:0]: FE0-FE3, ZONE, LOCAL. -/
  doms : BitVec 6
  /-- 0 next boundary, 1 explicit PPN, 2 device time. -/
  target : Fin 3
  value : BitVec 64
  /-- Waiting for admission. -/
  queued : Bool
  arrival : BitVec 64
  arrivalClk : Nat
  /-- Engines that have applied it, with the PPN. -/
  feDone : List (Fe × BitVec 48)
  /-- Some domain has applied it (R62). -/
  begun : Bool
  /-- ZONE and LOCAL blocks still to apply. -/
  left : List BlockId
  /-- Device time of the last ZONE or LOCAL block's effect. -/
  applied : BitVec 64
  budget : Nat
  /-- 0 COMMIT, 1 armed by a peer, 2 COMMIT_SHARED. -/
  kind : Fin 3
  deriving DecidableEq, Repr

/-! ## Vats and Cellar (13) -/

/-- One spare vat as VAT_MAP shows it (Table 13.3). -/
structure Spare where
  forVat : BitVec 6 := 0
  used : Bool := false
  perm : Bool := false
  deriving DecidableEq, Repr

/-- How far a rotation has come (R323): the spare is being filled, serves every access while the vat is tested, or is being copied back. -/
inductive RotStage where
  | mirror
  | test
  | back
  deriving DecidableEq, Repr

/-- A vat under rotation, the spare it uses and the stage (R323). -/
structure Rotation where
  vat : BitVec 6
  spare : Fin 2
  stage : RotStage := .mirror
  deriving DecidableEq, Repr

/-- The vats and their registers (13.1-13.5). -/
structure Vat where
  /-- 48 MiB of bytes by offset A; 13 R314; reset - 0 (log entry 3). -/
  mem : Mem := []
  /-- List of word numbers (A / 32); 13 R322; reset empty. Words that hold an uncorrectable error. -/
  bad : List Nat := []
  /-- 17 counters of 32 bits, saturating; 13 R317 CONFL_n; reset 0. -/
  confl : Vector Word 17 := Vector.replicate 17 0
  /-- 32 bits, RC, saturating; 13 Table 13.2 VAT_ECC_CORR; reset 0. -/
  eccCorr : Word := 0
  /-- 32 bits, RC, saturating; 13 Table 13.2 VAT_ECC_UNCORR; reset 0. -/
  eccUncorr : Word := 0
  /-- 32 bits; 13 Table 13.2 VAT_ECC_ADDR; reset 0. -/
  eccAddr : Word := 0
  /-- 2 spares; 13 Table 13.3; reset unused. -/
  spares : Vector Spare 2 := Vector.replicate 2 {}
  /-- Option of a rotation; 13 Table 13.3 ROTATING and ROT_VAT, 13 R323; reset none. -/
  rotating : Option Rotation := none
  /-- 32 bits, RC, saturating; 13 Table 13.2 VAT_WR_DENIED; reset 0. -/
  wrDenied : Word := 0
  deriving DecidableEq, Repr

/-- What an area of the Cellar serves (R334). -/
inductive AreaKind where
  | ct (fe : Fe)
  | queue (st : StreamId)
  | therm (fe : Fe)
  | harvest (u : Fin 4)
  deriving DecidableEq, Repr

/-- A reserved area, in whole MiB of visible Cellar. -/
structure Area where
  kind : AreaKind
  baseMib : Nat
  sizeMib : Nat
  /-- Its base was given, not allocated by the device. -/
  fixed : Bool
  /-- Reserved by a COMMIT that has not applied yet. -/
  pending : Bool
  /-- Released once nothing in it is needed. -/
  releasing : Bool
  deriving DecidableEq, Repr

/-- One Cellar channel (13.6-13.11). -/
structure CelCh where
  /-- Nat MiB; 13 R325 density read in training; reset 0. -/
  densityMib : Nat := 0
  /-- 3 bits; 13 R336 trained set points; reset 0. -/
  trained : BitVec 3 := 0
  /-- 3 lists of 36 words; 13 R336 trained values; reset empty. -/
  values : Vector (List Word) 3 := Vector.replicate 3 []
  /-- 16 words; 13 R335 user pattern; reset - 0. -/
  pattern : Vector Word 16 := Vector.replicate 16 0
  /-- 1 bit; 13 Table 13.10 HOT; reset 0. -/
  hot : Bool := false
  /-- 32 bits, RC; 13 Table 13.10 corrected errors; reset 0. -/
  corr : Word := 0
  /-- 32 bits, RC; 13 Table 13.10 uncorrectable errors; reset 0. -/
  uncorr : Word := 0
  /-- 40 bits; 13 Table 13.10 last uncorrectable address; reset 0. -/
  badAddr : BitVec 40 := 0
  /-- 32 bits, RC; 13 Table 13.10 write drains; reset 0. -/
  drains : Word := 0
  /-- List of up to 64 accept instants; 13 R331 write queue; reset empty. -/
  wq : List Nat := []
  /-- Instant; 13 R328 start of the last refresh; reset 0. -/
  refreshed : Nat := 0
  /-- Nat; 13 R328 refreshes made; reset 0. -/
  refreshes : Nat := 0
  /-- Nat; 13 R339 drift corrections made; reset 0. -/
  drifts : Nat := 0
  deriving DecidableEq, Repr

/-- The Cellar (13.6-13.11). -/
structure Cellar where
  /-- Bytes by DRAM coordinates (R327) of the channels; 13 R326; reset - 0 (log entry 3). -/
  mem : Mem := []
  /-- List of word numbers (V / 32); 13 R322; reset empty. Words that hold an uncorrectable error. -/
  bad : List Nat := []
  /-- 4 channels; 13 R325; reset as the channel says. -/
  ch : Vector CelCh 4 := Vector.replicate 4 {}
  /-- 2 bits; 13 R339 set point in force; reset FSP0. -/
  fsp : Fin 3 := 0
  /-- List of areas; 13 R334; reset empty. -/
  areas : List Area := []
  /-- Option of an instant; 13 R329; reset none. Start of the last set-point switch. -/
  lastSwitch : Option Nat := none
  /-- 1 bit; 13 Table 13.10 GATHERING; reset 0. -/
  gathering : Bool := false
  /-- 1 bit; 17 R435 self-refresh; reset 0. -/
  selfRefresh : Bool := false
  /-- List of (cellar, word number) waiting for write-back, oldest first; 13 R321; reset empty. -/
  writeBacks : List (Bool × Nat) := []
  /-- Nat; 13 R321 words the scrub has read; reset 0. -/
  scrubbed : Nat := 0
  deriving DecidableEq, Repr

/-! ## Power (17) -/

/-- One core rail (17.1). -/
structure Rail where
  /-- Nat mV; 17 R418 present target; reset 800 (the regulator's power-up voltage, R419). -/
  mv : Nat := 800
  /-- Nat mV; 17 R418 last READ_VOUT; reset - 800. -/
  vout : Nat := 800
  /-- Nat mA; 17 R418 last READ_IOUT; reset - 0. -/
  iout : Nat := 0
  /-- 1 bit; 17 R424 regulator faulted; reset 0. -/
  faulted : Bool := false
  /-- Nat to 3; 17 R424 consecutive transactions without acknowledge; reset 0. -/
  naks : Nat := 0
  /-- Option of an instant; 17 R421 since when every region of the rail has held 30 %; reset none. -/
  ample : Option Nat := none
  deriving DecidableEq, Repr

/-- What an admitted budget stands for (Table 17.2). -/
inductive Grant where
  | fe (n : Fe)
  | core (n : CoreId)
  | capture (u : Fin 4)
  | press (st : StreamId)
  | training
  | taster
  | commit (sess : BitVec 8) (seq : Word)
  deriving DecidableEq, Repr

/-- A request in the admission queue (R430). -/
structure QReq where
  req : Req
  budget : Nat
  since : Nat
  deriving DecidableEq, Repr

/-- The power manager (17, 1.3). -/
structure Power where
  /-- 4 rails FE, DSP, VAT, SYS; 17 R417; reset as the rail says. -/
  rails : Vector Rail 4 := Vector.replicate 4 {}
  /-- 7 margins FE0-FE3, DSP, VAT, SYS in 0.1 %; 17 R421; reset - 0x7FFF (no demand, R420). -/
  margins : Vector Int 7 := Vector.replicate 7 32767
  /-- 16 sensors, m°C; 16 R401; reset - 25000. -/
  sensors : Vector Int 16 := Vector.replicate 16 25000
  /-- 7 counts; 01 R19 consecutive samples below 15 %; reset 0. -/
  short : Vector Nat 7 := Vector.replicate 7 0
  /-- 1 bit; 01 Table 1.2 step 1 in force; reset 0. -/
  shed1 : Bool := false
  /-- 1 bit; 01 Table 1.2 step 2 in force; reset 0. -/
  shed2 : Bool := false
  /-- Nat; 01 Table 1.2 tones taken from every group by step 3; reset 0. -/
  shed3 : Nat := 0
  /-- Option of an instant; 01 R19; reset none. When the last step was taken or restored. -/
  shedAt : Option Nat := none
  /-- Option of an instant; 01 R20; reset none. Since when every margin has stayed at 25 %. -/
  easySince : Option Nat := none
  /-- 11 bits; 17 R426 GUARDED; reset 0. -/
  guarded : BitVec 11 := 0
  /-- 7 bits; 17 R427 ISOLATED; reset 0. -/
  isolated : BitVec 7 := 0
  /-- 4 rail voltages as monitored, mV; 17 R426; reset - 800. -/
  volts : Vector Nat 4 := Vector.replicate 4 800
  /-- List of budgets in mW; 17 R429 admitted and not released; reset empty. -/
  grants : List (Grant × Nat) := []
  /-- List of up to 16; 17 R430 admission queue, oldest first; reset empty. -/
  queue : List QReq := []
  /-- 3 bits; 17 R433 power state 0-5; reset RUN. -/
  state : Fin 6 := 0
  /-- Option of a state; 17 R439 the state being entered; reset none. -/
  entering : Option (Fin 6) := none
  /-- Option of 64 bits; 17 R437 WAKE_AT; reset none. -/
  wakeAt : Option (BitVec 64) := none
  /-- 6 bits; 17 R442 LAST_WAKE; reset 0. -/
  lastWake : BitVec 6 := 0
  /-- 6 bits; 17 R439 wake sources seen since entry began; reset 0. -/
  wakeSeen : BitVec 6 := 0
  /-- Option of an instant; 17 R434 since when the device is idle; reset none. -/
  idleSince : Option Nat := none
  /-- 32 bits, RC; 17 R442 shedding steps taken; reset 0. -/
  shedCount : Word := 0
  /-- 32 bits, RC; 17 R442 guarded entries; reset 0. -/
  guardCount : Word := 0
  /-- 32 bits, RC; 17 R424 PMB_FAULTS; reset 0. -/
  pmbFaults : Word := 0
  /-- Instant; 17 R438; reset 0. When the low state was entered. -/
  lowSince : Nat := 0
  deriving DecidableEq, Repr

/-! ## Life cycle (18) -/

/-- State of a firmware slot (R446). -/
inductive SlotState where
  | empty
  | valid
  | trial
  | trialTried
  | failed
  deriving DecidableEq, Repr

/-- One firmware slot of the boot flash (Table 18.1). -/
structure FlashSlot where
  /-- 5 values; 18 R446; reset kept (factory - EMPTY). -/
  st : SlotState := .empty
  /-- Nat; 18 R446 slot sequence number; reset kept (factory - 0). -/
  seqNo : Nat := 0
  /-- 8 MiB of bytes; 18 Table 18.1; reset kept (factory - 0). -/
  data : Mem := []
  deriving DecidableEq, Repr

/-- What the device knows of a running image (Table 18.2). -/
structure Image where
  version : Word
  rollback : BitVec 6
  keyIndex : BitVec 2
  mfg : Bool
  stateVer : BitVec 16
  minStateVer : BitVec 16
  deriving DecidableEq, Repr

/-- A level-3 or commanded reset that is pending (R454). -/
structure PendReset where
  due : Nat
  keep : Bool
  cause : BitVec 4
  deriving DecidableEq, Repr

/-- Start-up, flash, recovery (18). -/
structure Life where
  /-- 1 bit; 19 R481 supplies up; reset 0. -/
  powered : Bool := false
  /-- 1 bit; 18 R453 RESET_N low; reset 1. -/
  inReset : Bool := true
  /-- Straps; 18 R448 BOOT_SEL, 19 R476 SMB_ADDR, R477 TEST_MODE as last sampled; reset - 0. -/
  straps : Straps := ⟨0, 0, false⟩
  /-- 3 bits; 14 Table 14.3 PHASE; reset 0. -/
  phase : Fin 8 := 0
  /-- 1 bit; 14 Table 14.3 HOST_BOOT_WAIT; reset 0. -/
  hostWait : Bool := false
  /-- 2 slots A and B; 18 R446; reset kept. -/
  slots : Vector FlashSlot 2 := Vector.replicate 2 {}
  /-- Option; 18 R450 the image chosen or running, and its source 0 A, 1 B, 2 host; reset none. -/
  running : Option (Image × Fin 3) := none
  /-- 6 bits; 18 R445 fuse rollback counter; reset kept (factory - 0). -/
  fuseRollback : BitVec 6 := 0
  /-- 4 P-256 public keys (x, y); 18 R444; reset kept (factory - (0, 0)). -/
  keys : Vector (Nat × Nat) 4 := Vector.replicate 4 (0, 0)
  /-- 4 bits; 18 R444 revocation bits; reset kept (factory - 0). -/
  revoked : BitVec 4 := 0
  /-- 2 permanent spares; 18 Table 18.1 vat sparing map in flash; reset kept (factory - none). -/
  spareRec : Vector (Option (BitVec 6)) 2 := Vector.replicate 2 none
  /-- 4 bits; 18 Table 18.5 RESET_CAUSE; reset 0. -/
  cause : BitVec 4 := 0
  /-- 1 bit; 18 Table 18.5 FALLBACK; reset 0. -/
  fallback : Bool := false
  /-- 1 bit; 18 Table 18.5 HW_FAULT_AT_START; reset 0. -/
  hwFault : Bool := false
  /-- 1 bit; 18 Table 18.5 CELLAR_FAULT; reset 0. -/
  cellarFault : Bool := false
  /-- 1 bit; 18 Table 18.5 VINTAGE_DEFAULTS; reset 0. -/
  vintDefaults : Bool := false
  /-- 1 bit; 18 Table 18.5 SPARES_EXHAUSTED; reset 0. -/
  sparesGone : Bool := false
  /-- 1 bit; 18 Table 18.5 SELFCAL_FAILED; reset 0. -/
  selfcalFailed : Bool := false
  /-- 32 bits; 18 Table 18.5 READY_US; reset 0. -/
  readyUs : Word := 0
  /-- 64 bits; 18 Table 18.5 READY_TIME; reset 0. -/
  readyTime : BitVec 64 := 0
  /-- 16 bits, saturating; 18 Table 18.5 L2_COUNT; reset 0. -/
  l2Count : BitVec 16 := 0
  /-- Nat ps; 18 R456; reset kept. Time run before the present reset, so that 10 minutes span resets. -/
  before : Nat := 0
  /-- List of instants since power-up; 18 R456 level-3 resets; reset kept. -/
  l3Times : List Nat := []
  /-- Option of an instant; 18 R456 the last watchdog bite; reset none. -/
  lastBite : Option Nat := none
  /-- Option of an instant; 18 R456 when the CP restart in progress began; reset none. -/
  cpRestart : Option Nat := none
  /-- Option of an instant; 18 R459 the last HEARTBEAT write while armed; reset none. -/
  heartbeat : Option Nat := none
  /-- Option; 18 R454 the announced reset; reset none. -/
  pendReset : Option PendReset := none
  /-- 1 bit; 18 R454 a warm reset keeps the Cellar in self-refresh; reset 0. -/
  kept : Bool := false
  /-- Option of an instant; 18 R456 a level-3 reset that has not reached READY, since; reset none. -/
  l3Since : Option Nat := none
  /-- Option of an instant; 18 R468 POWER_CYCLE_REQ due; reset none. -/
  pendCycle : Option Nat := none
  /-- 1 bit; 18 R456 PWR_CYCLE_REQ_N driven low; reset 0. -/
  pwrCycle : Bool := false
  /-- 1 bit; 19 R493 THERMTRIP_N driven low; reset 0. -/
  thermtrip : Bool := false
  /-- Option; 18 R464 the image and source running before a live activation; reset none. -/
  previous : Option (Image × Fin 3) := none
  /-- Option; 18 R464 a live activation restarting the CP: the image; reset none. -/
  activating : Option (Image × Fin 3) := none
  /-- 1 bit; 16 R409 SYSCAL_RESTORE of the set in force when the present reset began; reset 0. -/
  restore : Bool := false
  /-- 1 bit; 18 R456 AUTO_L4 of the set in force when the present level-3 reset began; reset 0. -/
  autoL4 : Bool := false
  /-- 1 bit; 18 R456 the CP restart in progress ends in PHASE 5, where it began; reset 0. -/
  backTo5 : Bool := false
  deriving DecidableEq, Repr

/-- A Taster run in progress (R460): test, instance, and the host's command if any. -/
structure TastRun where
  test : Fin 6
  inst : Nat
  cmd : Option (BitVec 8 × Word)
  deriving DecidableEq, Repr

/-- The Taster (18.6). -/
structure Taster where
  /-- 6 counters, RC; 18 Table 18.13 RUNS; reset 0. -/
  runs : Vector Word 6 := Vector.replicate 6 0
  /-- 6 counters, RC; 18 Table 18.13 FAILS; reset 0. -/
  fails : Vector Word 6 := Vector.replicate 6 0
  /-- 6 counters, RC; 18 Table 18.13 SKIPPED; reset 0. -/
  skipped : Vector Word 6 := Vector.replicate 6 0
  /-- 64 bits; 18 Table 18.13 LAST_FAIL_TIME; reset 0. -/
  failTime : BitVec 64 := 0
  /-- 3 bits; 18 Table 18.13 LAST_FAIL_TEST; reset 0. -/
  failTest : BitVec 3 := 0
  /-- 7 bits; 18 Table 18.13 LAST_FAIL_INST; reset 0. -/
  failInst : BitVec 7 := 0
  /-- 16 bits; 18 Table 18.13 LAST_FAIL_MEASURE; reset 0. -/
  failMeasure : BitVec 16 := 0
  /-- 1 bit; 18 R461 PAUSED_MARGIN; reset 0. -/
  paused : Bool := false
  /-- Option; 18 R460; reset none. The run in progress. -/
  run : Option TastRun := none
  /-- 6 instants; 18 R460 when each test last ran or was skipped; reset 0. -/
  last : Vector Nat 6 := Vector.replicate 6 0
  deriving DecidableEq, Repr
/-! ## Fibre engines (04-06) -/

/-- A JESD204C link as RECV_STATUS shows it (Table 5.8). -/
inductive LinkSt where
  | off
  | training
  | aligning
  | data
  | rbdViolation
  deriving DecidableEq, Repr

/-- One stream of a shot's engine as it was set when the shot was launched. -/
structure StreamSet where
  st : StreamId
  set : List Word
  press : List Word
  deriving DecidableEq, Repr

/-- A shot that is launched and whose row is not yet emitted (R157). -/
structure Shot where
  ppn : BitVec 48
  group : Nat
  /-- Launch instant, ps. -/
  t : Nat
  /-- Device time of the launch. -/
  time : BitVec 64
  /-- The PROBE, RECV and PHASE sets active at the launch. -/
  probe : List Word
  recv : List Word
  phase : List Word
  /-- The active reference banks. -/
  refs : List (Nat × Word)
  /-- Tones removed by shedding. -/
  removed : BitVec 8
  /-- The row is emitted with INVALID, and with every element 0 from the start. -/
  invalid : Bool
  /-- The clock instant at which the device knew that the shot is INVALID, where it became so after its launch (R497). -/
  void : Option Nat
  /-- A combining reset and DISCONTINUITY fall at the first valid row from this shot on (R121, R179). -/
  reset : Bool
  /-- Launched in holdover (R83). -/
  holdover : Bool
  /-- PPN of the first period of its drift epoch (R171). -/
  epoch : BitVec 48
  /-- First shot of the engine after a start. -/
  first : Bool
  /-- The engine's enabled streams at the launch. -/
  streams : List StreamSet
  /-- Commits the engine had applied by then. -/
  commitNo : Nat
  deriving DecidableEq, Repr

/-- Live state of one channel (Table 6.3) with its references. -/
structure ChanSt where
  unwrap : Word := 0
  theta : BitVec 16 := 0
  ampMean : Nat := 0
  drift : Int := 0
  driftN : Nat := 0
  init : BitVec 8 := 0
  broken : Bool := false
  /-- References of branches 0-15. -/
  refs : Vector (BitVec 16) 16 := Vector.replicate 16 0
  /-- Branches whose reference is valid. -/
  valid : BitVec 16 := 0
  deriving DecidableEq, Repr

/-- What is kept of a row in its tile band. -/
structure RowMeta where
  flags : BitVec 16
  ppn : BitVec 48
  group : Nat
  time : BitVec 64
  deriving DecidableEq, Repr

/-- What a stream does with a band, fixed at the band's origin (R188, R191). -/
structure Job where
  st : StreamId
  set : List Word
  press : List Word
  /-- A start of the stream: RSEQ 0. -/
  start : Bool
  /-- A synchronising reset at the origin. -/
  reset : Bool
  /-- A RESPONSE change that fades in. -/
  fadeTo : Option Nat
  /-- Press counts classes anew from the origin on (R277). -/
  zero : Bool
  /-- Press closes its open blocks at the end of the band; by a PRESS_FLUSH. -/
  flush : Bool
  cmdFlush : Bool
  deriving DecidableEq, Repr

/-- A tile band (R181). -/
structure Band where
  slot : Nat
  base : Nat
  nch : Nat
  /-- G, 2 × M edges and PERIOD of the rows. -/
  groups : Nat
  edgeLo : Nat
  edgeHi : Nat
  /-- Rows written, oldest first. -/
  rows : List RowMeta
  /-- Flags of the rows before it since the last engine reset point, newest first. -/
  past : List (BitVec 16)
  jobs : List Job
  /-- An element has been written into its slot (R182). -/
  written : Bool
  deriving DecidableEq, Repr

/-- What a commit that an engine applied brings to one of its streams, at the stream's first tile origin from then on (R188, R191). -/
structure StreamEv where
  /-- Which of the engine's commits it was. -/
  no : Nat
  st : StreamId
  start : Bool
  reset : Bool
  /-- A change of RESPONSE with FADE_EN; a fade ran when it was committed (R192). -/
  fadeTo : Option Nat
  held : Bool
  /-- PRESS EN from 0 to 1. -/
  pressOn : Bool
  deriving DecidableEq, Repr

/-- One fibre engine: probe generator, links, phase engine, tile bands (04-07). -/
structure FeSt where
  /-- 48 bits; 04 R103 PPN of the period in progress; reset 0. -/
  ppn : BitVec 48 := 0
  /-- Instant; 04 R103 the boundary that began the period in progress; reset 0. -/
  bnd : Nat := 0
  /-- Instant; 04 R103 the next boundary; reset 10^9 ps (the default PERIOD). -/
  next : Nat := 1000000000
  /-- Nat to G; 04 R105 groups of the period launched; reset 0. -/
  launched : Nat := 0
  /-- Nat; 10 R253 shot instants of the boundary timer before the period in progress; reset 0. -/
  ticks : Nat := 0
  /-- Instant; 04 R121 end of the INVALID interval, 0 none; reset 0. -/
  invalidUntil : Nat := 0
  /-- Option of an instant; 04 R121 boundary of the last stop; reset none. -/
  lastStop : Option Nat := none
  /-- 1 bit; 04 R121 the next valid row carries DISCONTINUITY; reset 0. -/
  disc : Bool := false
  /-- 1 bit; 06 R167 a combining reset falls at the next valid row; reset 0. -/
  resetDue : Bool := false
  /-- Option of a session and SEQ; 04 R106 the commit at whose phase-aligned start the period in progress ends; reset none. -/
  aligned : Option (BitVec 8 × Word) := none
  /-- 1 bit; 04 R121 the next launch asks for a combining reset; reset 0. -/
  resetNext : Bool := false
  /-- 1 bit; 06 R172 an INVALID row fell in the drift epoch of the last row; reset 0. -/
  invEpoch : Bool := false
  /-- Nat; 06 R179 AMP_SHIFT under which AMP_MEAN stands; reset 0. -/
  ampShift : Nat := 0
  /-- Option of an instant; 05 R136 the outage of link A after which no valid shot has come yet; reset none. -/
  awaiting : Option Nat := none
  /-- 1 bit; 04 R181 the next launch is the first after a start; reset 0. -/
  starting : Bool := false
  /-- Nat; 04 R122 tones shedding has removed from each group, in force since the last boundary; reset 0. -/
  shed : Nat := 0
  /-- List, oldest first; 04 R157 shots launched and not yet emitted; reset empty. -/
  shots : List Shot := []
  /-- Golay predecessors: group, PPN and per branch the channel samples; 05 R143; reset empty. -/
  golay : List (Nat × BitVec 48 × List (List (Int × Int))) := []
  /-- N_CH channels; 06 R175; reset empty (the defaults). -/
  chans : List ChanSt := []
  /-- 48 bits; 06 R171 PPN of the first period of the drift epoch of the last row; reset 0. -/
  epoch : BitVec 48 := 0
  /-- a and M of the last row's sets; 06 R172 the edge channels of the running drift epoch; reset - 0. -/
  geom : Nat × Nat := (0, 0)
  /-- Triples, of channels 0 on, that an INVALID row's delivered channels have handed already, and the epoch they entered; 06 R171, R497;
  reset empty. -/
  early : List (Int × Nat × Bool) := []
  /-- 48 bits; the same. -/
  earlyFor : BitVec 48 := 0
  /-- 1 bit; 01 R17 a row of the running drift epoch carried OVERRUN; reset 0. -/
  lostEpoch : Bool := false
  /-- Option of an instant; 04 R61, 09 R239 the last boundary at which a commit applied; reset none. -/
  applyAt : Option Nat := none
  /-- 48 bits; 06 R171 PPN of the first period of the epoch launched into; reset 0. -/
  launchEpoch : BitVec 48 := 0
  /-- Nat; 06 R169 rows that still carry SETTLING; reset 0. -/
  settle : Nat := 0
  /-- 16 bits, RC, saturating; 06 Table 6.6 RESETS; reset 0. -/
  resets : Nat := 0
  /-- 32 bits, RC, saturating; 06 Table 6.6 FADED_COUNT; reset 0. -/
  faded : Word := 0
  /-- 32 bits, RC, saturating; 06 Table 6.6 BRIDGED_COUNT; reset 0. -/
  bridged : Word := 0
  /-- 32 bits, RC, saturating; 06 Table 6.6 ECC_RESETS; reset 0. -/
  eccResets : Word := 0
  /-- 48 bits; 06 Table 6.6 LAST_RESET_PPN; reset 0. -/
  lastReset : BitVec 48 := 0
  /-- 3 links A, B, transmit; 05 Table 5.8, 04 Table 4.7; reset - training (their default lanes are set). -/
  links : Vector LinkSt 3 := Vector.replicate 3 .training
  /-- 2 x 8 bits; 05 Table 5.8 LATEST_ARRIVAL_A, _B; reset - 0. -/
  latest : Vector Nat 2 := Vector.replicate 2 0
  /-- Option of an instant per link; 05 R136 when the present outage began; reset none. -/
  outage : Vector (Option Nat) 3 := Vector.replicate 3 none
  /-- 3 bits; 05 R132 links whose local clock a SYSREF edge has aligned since the link was enabled; reset 0. -/
  lemc : BitVec 3 := 0
  /-- 3 bits; 05 R136 links whose outage raised LINK_DOWN and which have not recovered; reset 0. -/
  fell : BitVec 3 := 0
  /-- 2 instants; 05 R129 up to where the samples of link A and of link B are counted for clips; reset - 0. -/
  clipTo : Vector Nat 2 := Vector.replicate 2 0
  /-- 1 bit; 05 Table 5.8 SYSREF_MISALIGN, sticky; reset 0. -/
  sysrefMis : Bool := false
  /-- 1 bit; 05 Table 5.8 RATE_MISMATCH, sticky; reset 0. -/
  rateMis : Bool := false
  /-- 16 bits, RC, saturating; 05 Table 5.8 LINK_DOWN_COUNT; reset 0. -/
  linkDowns : Nat := 0
  /-- 6 x 32 bits, RC, saturating; 05 Table 5.8 CRC_ERR; reset 0. -/
  crcErr : Vector Word 6 := Vector.replicate 6 0
  /-- 4 x 16 bits, RC, saturating; 05 Table 5.8 CLIP_X, _Y, _S, _AS; reset 0. -/
  clips : Vector Nat 4 := Vector.replicate 4 0
  /-- 16 bits, RC, saturating; 05 Table 5.8 SAT_DDC; reset 0. -/
  satDdc : Nat := 0
  /-- 16 bits, RC, saturating; 05 Table 5.8 SAT_PC; reset 0. -/
  satPc : Nat := 0
  /-- Intervals (from, to) in clock instants whose link A samples are tainted; 05 R135, R136; reset empty. -/
  taintA : List (Nat × Nat) := []
  /-- The same for link B; 05 R135, R136; reset empty. -/
  taintB : List (Nat × Nat) := []
  /-- Taps by tone × 1024 + bank × 512 + index; 05 R144 shadow reference banks; reset - 0. -/
  refShadow : List (Nat × Word) := []
  /-- The same; 05 R144 active reference banks; reset - 0. -/
  refActive : List (Nat × Word) := []
  /-- Option; 07 R181 the open tile band; reset none. -/
  band : Option Band := none
  /-- List, oldest first; 07 R183 bands closed and not read in full; reset empty. -/
  closed : List Band := []
  /-- Nat; 07 R183 next tile of the oldest closed band; reset 0. -/
  tile : Nat := 0
  /-- Nat; 07 R182 slot of the next band; reset 0. -/
  slot : Nat := 0
  /-- List, oldest first; 07 R188, R192 stream events that have not met their tile origin; reset empty. -/
  evs : List StreamEv := []
  /-- Flags of rows before the open band since the last engine reset point, newest first; 07 R190; reset empty. -/
  past : List (BitVec 16) := []
  /-- Nat; the model's own count of commits the engine has applied; reset 0. -/
  commitNo : Nat := 0
  /-- Nat; 11 R278 that count at the last tile origin; reset 0. -/
  originCommit : Nat := 0
  /-- 1 bit; 18 R457 the engine re-initialises at its next boundary; reset 0. -/
  reinit : Bool := false
  /-- Option of an instant; 18 R457 boundary of a re-initialisation that has seen no valid shot yet; reset none. -/
  reinitAt : Option Nat := none
  /-- Option of an instant; 18 R457 when a re-initialisation of the transmit link began; reset none. -/
  txOut : Option Nat := none
  /-- Intervals (from, to) in clock instants in which the transmit link was re-initialised; 18 R457; reset empty. -/
  taintT : List (Nat × Nat) := []
  /-- Streams as of the last tile origin; 07 R188; reset empty. -/
  curStreams : List StreamSet := []
  deriving DecidableEq, Repr

/-! ## Streams and Press (07, 11) -/

/-- Filter history of one channel of a stream (R184): for each half-band its last inputs, then the response filter's, newest first. -/
structure ChHist where
  stages : List (List Int)
  resp : List Int
  /-- Outputs that still carry OVERRUN (Table 13.5). -/
  ovr : Nat
  deriving DecidableEq, Repr

/-- A response fade in progress (R191). -/
structure Fade where
  old : Nat
  new : Nat
  /-- Outputs made since it began. -/
  outs : Nat
  log2 : Nat
  deriving DecidableEq, Repr

/-- A record of outputs as Press takes it, or as it waits in the queue (R196). -/
structure Rec where
  /-- The eight header words. -/
  hdr : List Word
  /-- Payload bytes; for a direct record none, read from the tile on delivery. -/
  payload : List Byte
  tile : Nat
  /-- A direct record: where its samples begin in the corner-turn tile, and its rows. -/
  direct : Option (Nat × Nat)
  /-- Delivery has begun; its slot was reused before the payload was read in full (R196). -/
  begun : Bool
  cut : Bool
  deriving DecidableEq, Repr

/-- A record of outputs handed to Press (R268). -/
structure PressIn where
  tile : Nat
  firstCh : Nat
  /-- Outputs, per channel in time order. -/
  outs : List (List Int)
  /-- Flags and anchor row of each output. -/
  metas : List RowMeta
  flush : Bool
  cmdFlush : Bool
  /-- The last tile of its band. -/
  last : Bool
  set : List Word
  press : List Word
  /-- Engine and edge flag. -/
  fe : Fe
  deriving DecidableEq, Repr

/-- Open samples of one tile (R267). -/
structure OpenTile where
  tile : Nat
  firstCh : Nat
  chans : List (List Int)
  metas : List RowMeta
  deriving DecidableEq, Repr

/-- One stream (07, 11). -/
structure StreamSt where
  /-- 16 bits; 07 R195 next RSEQ; reset 0. -/
  rseq : BitVec 16 := 0
  /-- 32 bits, RC; 07 Table 7.9 RECORDS_DROPPED; reset 0. -/
  dropped : Word := 0
  /-- 32 bits, RC; 07 Table 7.9 SAT; reset 0. -/
  sat : Word := 0
  /-- 48 bits; 07 Table 7.9 PPN of the last synchronising reset; reset 0. -/
  lastReset : BitVec 48 := 0
  /-- List, oldest first; 07 R196 records waiting in the queue; reset empty. -/
  queue : List Rec := []
  /-- Tiles whose next record continues the last; 07 R194; reset empty. -/
  cont : List Nat := []
  /-- 4 bits; 07 R202 response in output; reset 0. -/
  resp : Nat := 0
  /-- Option of 4 bits; 07 R192 held response change; reset none. -/
  held : Option Nat := none
  /-- Option; 07 R191 fade in progress; reset none. -/
  fade : Option Fade := none
  /-- Nat; 07 R190 outputs since the last synchronising reset; reset 0. -/
  outs : Nat := 0
  /-- Nat; 07 R190 rows since the last synchronising reset; reset 0. -/
  rowsSince : Nat := 0
  /-- Filter history by channel; 07 R184; reset empty (zeroed). -/
  hist : List (Nat × ChHist) := []
  /-- 1 bit; 02 R52 the stream is between two engines; reset 0. -/
  moving : Bool := false
  /-- List, oldest first; 11 R268 records handed to Press; reset empty. -/
  toPress : List PressIn := []
  /-- List by tile; 11 R267 open samples; reset empty. -/
  opens : List OpenTile := []
  /-- 19 counts; 11 R277 classes of the previous superblock; reset 0. -/
  counts : List Nat := List.replicate 19 0
  /-- 4 bits, RC; 11 R283 largest SHIFT since last read; reset 0. -/
  maxShift : Nat := 0
  /-- 32 bits, RC; 11 R283 blocks; reset 0. -/
  blocks : Word := 0
  /-- 32 bits, RC; 11 R283 exact blocks; reset 0. -/
  exacts : Word := 0
  /-- 32 bits, RC; 11 R283 raw blocks; reset 0. -/
  raws : Word := 0
  /-- 32 bits, RC; 11 R283 flushes; reset 0. -/
  flushes : Word := 0
  /-- 1 bit; 11 R278 a PRESS_FLUSH waits for the next band; reset 0. -/
  flushReq : Bool := false
  deriving DecidableEq, Repr

/-! ## Zones (08) -/

/-- What a zone has come to (8.1-8.3). -/
structure ZoneSt where
  /-- The eight words in force (Table 8.6). -/
  entry : List Word
  on : Bool
  latched : Bool
  /-- 64 bits with 16 fraction bits. -/
  e : Nat
  onCnt : Nat
  offCnt : Nat
  /-- It primes at its next row. -/
  priming : Bool
  /-- Period and group of the last row it evaluated. -/
  ppn : BitVec 48
  group : Nat
  /-- ON transitions, RC. -/
  trans : Word
  /-- It has left its old engine and waits for its new one (R213). -/
  left : Bool
  deriving DecidableEq, Repr

/-- A transition waiting to be written as a record (Table 8.4). -/
structure ZoneEv where
  remote : Bool
  on : Bool
  latched : Bool
  settling : Bool
  cause : Nat
  zone : Nat
  fe : Nat
  src : Nat
  ppn : BitVec 48
  group : Nat
  time : BitVec 64
  e : Nat
  deriving DecidableEq, Repr

/-- The zone detector (08). -/
structure Zones where
  /-- Zones that differ from a disabled, reset zone, by number 0-2047; 08 R203-R206; reset none. -/
  zs : List (Nat × ZoneSt) := []
  /-- List, oldest first; 08 R212 transitions not yet written as records; reset empty. -/
  events : List ZoneEv := []
  /-- 16 bits; 08 Table 8.4 ESEQ; reset 0. -/
  eseq : BitVec 16 := 0
  /-- 16 bits, saturating; 08 Table 8.4 LOST; reset 0. -/
  lost : Nat := 0
  /-- 32 bits, RC; 08 R218 records dropped; reset 0. -/
  dropped : Word := 0
  /-- 32 bits, RC; 08 R218 local events; reset 0. -/
  locals : Word := 0
  /-- 1 bit; 08 R208 a ZONE commit has applied; reset 0. -/
  committed : Bool := false
  /-- 16 bits; 08 R208 levels driven on the ALARM pins; reset 0. -/
  pins : BitVec 16 := 0
  deriving DecidableEq, Repr


/-! ## Cooper cores (12) -/

/-- State of a core, in the order of R307. -/
inductive CoreSt where
  | stopped
  | queued
  | running
  | waiting
  | paused
  | halted
  | fault
  deriving DecidableEq, Repr

/-- Where a delayed result goes: a physical general register (bank fixed at issue, R288, R300), a pointer or a modifier. -/
inductive Dest where
  | g (shadow : Bool) (r : Fin 32)
  | p (shadow : Bool) (r : Fin 8)
  | m (r : Fin 8)
  deriving DecidableEq, Repr

/-- A result in flight (R291): how many bundles from now on do not see it, the one that issues it counted. -/
structure Flight where
  left : Nat
  dest : Dest
  val : Word
  deriving DecidableEq, Repr

/-- One hardware loop level (R296). -/
structure LoopSt where
  on : Bool := false
  first : BitVec 13 := 0
  last : BitVec 13 := 0
  rot : Bool := false
  deriving DecidableEq, Repr

/-- What a taken branch does after its two delay slots (R291, R300). -/
inductive Jump where
  | to (a : BitVec 13)
  | reti
  deriving DecidableEq, Repr

/-- A row, snapshot or record taken by a tap for its present window. -/
structure TapRow where
  bytes : List Byte
  flags : BitVec 16
  ppn : BitVec 48
  group : Nat
  time : BitVec 64
  deriving DecidableEq, Repr

/-- One tap of a core (12.8). -/
structure Tap where
  /-- 1 bit; 12 R303; reset 0. The half the next window goes to. -/
  half : Bool := false
  /-- 16 bits; 12 Table 12.13 WSEQ; reset 0. Windows begun. -/
  wseq : BitVec 16 := 0
  /-- Nat to 65535; 12 Table 12.13 MISSED; reset 0. Windows missed since the last written. -/
  missedRun : Nat := 0
  /-- 32 bits, RC; 12 Table 12.17 windows written; reset 0. -/
  written : Word := 0
  /-- 32 bits, RC; 12 Table 12.17 windows missed; reset 0. -/
  missed : Word := 0
  /-- List of rows of the open window, oldest first; 12 R302; reset empty. -/
  rows : List TapRow := []
  /-- 1 bit; 12 R303; reset 0. The window that is open is missed. -/
  miss : Bool := false
  /-- Nat; 12 R303; reset 0. Rows, or for KIND 2 shots, counted in the open window. -/
  count : Nat := 0
  /-- 1 bit; 12 R303; reset 0. The open window closes short. -/
  short : Bool := false
  /-- 1 bit; 12 R303; reset 0. The present window has closed SHORT, and its remaining rows are passed over. -/
  skip : Bool := false
  /-- 1 bit; 12 R304; reset 0. The present window is lost to a pause. -/
  lost : Bool := false
  /-- Instant; 12 R303; reset 0. The start or restart of the tap. -/
  since : Nat := 0
  /-- 6 words; 12 R304; reset 0. The tap fields in force. -/
  flds : List Word := []
  deriving DecidableEq, Repr

/-- A post outstanding: the 16 words of its descriptor (Table 12.14). -/
structure Post where
  desc : List Word
  /-- The ring it was accepted under, where the set has since named another (R311). -/
  ring : Option RingId
  deriving DecidableEq, Repr

/-- Slots of a bundle given by instruction commands that have not issued yet. -/
structure AsmSlots where
  ls : BitVec 20 := 0
  a1 : BitVec 21 := 0
  a2 : BitVec 21 := 0
  ctl : Option (BitVec 6 × BitVec 35) := none
  ecc : EccRead := .clean
  deriving DecidableEq, Repr

/-- An access to a DM bank from outside the core that waits (R285): its bank, its place in the order (0 tap fill, 1 result read, 2 host or CP), and the
bundles it has waited. -/
structure ExtAccess where
  bank : Nat
  cls : Nat
  waited : Nat
  deriving DecidableEq, Repr

/-- One Cooper core (12). -/
structure Core where
  /-- 7 values; 12 R307; reset STOPPED. -/
  st : CoreSt := .stopped
  /-- 3 bits; 12 R309 cause of FAULT; reset 0. -/
  cause : BitVec 3 := 0
  /-- 32 x 32 bits; 12 Table 12.1 g0-g31, g16-g31 by physical number; reset 0. -/
  g : Vector Word 32 := Vector.replicate 32 0
  /-- 16 x 32 bits; 12 Table 12.1 shadow g0-g15; reset 0. -/
  gs : Vector Word 16 := Vector.replicate 16 0
  /-- 4 x 72 bits; 12 Table 12.1 a0-a3; reset 0. -/
  a : Vector (BitVec 72) 4 := Vector.replicate 4 0
  /-- 4 x 72 bits; 12 R292 a0-a3 without the last bundle's writers; reset 0. -/
  aOld : Vector (BitVec 72) 4 := Vector.replicate 4 0
  /-- 4 x 72 bits; 12 Table 12.1 shadow a0-a3; reset 0. -/
  as_ : Vector (BitVec 72) 4 := Vector.replicate 4 0
  /-- 4 x 72 bits; 12 R292 shadow a0-a3 without the last bundle's writers; reset 0. -/
  asOld : Vector (BitVec 72) 4 := Vector.replicate 4 0
  /-- 8 x 18 bits; 12 Table 12.1 p0-p7; reset 0. -/
  p : Vector (BitVec 18) 8 := Vector.replicate 8 0
  /-- 8 x 18 bits; 12 Table 12.1 shadow p0-p7; reset 0. -/
  ps : Vector (BitVec 18) 8 := Vector.replicate 8 0
  /-- 8 x 32 bits; 12 Table 12.1 m0-m7; reset 0. -/
  m : Vector Word 8 := Vector.replicate 8 0
  /-- 13 bits; 12 R307 the bundle to issue next; reset 0. -/
  pc : BitVec 13 := 0
  /-- 1 bit; 12 Table 12.3 IE; reset 0. -/
  ie : Bool := false
  /-- 1 bit; 12 Table 12.3 IN_HANDLER; reset 0. -/
  inHandler : Bool := false
  /-- 4 bits; 12 Table 12.3 AV; reset 0. -/
  av : BitVec 4 := 0
  /-- 1 bit; 12 Table 12.3 RSAT; reset 0. -/
  rsat : Bool := false
  /-- 1 bit; 12 Table 12.3 OVF_TRAP_EN; reset 0. -/
  ovfTrap : Bool := false
  /-- 1 bit; 12 Table 12.3 MSG_VALID; reset 0. -/
  msgValid : Bool := false
  /-- 13 bits; 12 Table 12.2 c1 IVEC; reset 0. -/
  ivec : BitVec 13 := 0
  /-- 6 bits; 12 Table 12.2 c2 IEN; reset 0. -/
  ien : BitVec 6 := 0
  /-- 6 bits; 12 Table 12.2 c3 IPEND; reset 0. -/
  ipend : BitVec 6 := 0
  /-- 13 bits; 12 Table 12.2 c4 IRET; reset 0. -/
  iret : BitVec 13 := 0
  /-- 4 bits; 12 Table 12.2 c5 LB; reset 0. -/
  lb : BitVec 4 := 0
  /-- 2 x 32 bits; 12 Table 12.2 c6, c7 LC0, LC1; reset 0. -/
  lc : Vector Word 2 := Vector.replicate 2 0
  /-- 2 levels; 12 R296; reset off. -/
  loops : Vector LoopSt 2 := Vector.replicate 2 {}
  /-- 4 bits; 12 Table 12.2 c8 TAPST; reset 0. -/
  tapst : BitVec 4 := 0
  /-- 64 bits; 12 Table 12.2 c10, c11 BUNDLES; reset 0. -/
  bundles : BitVec 64 := 0
  /-- 32 bits; 12 Table 12.2 c11 latch; reset 0. -/
  latBundles : Word := 0
  /-- 32 bits; 12 Table 12.2 c13 latch; reset 0. -/
  latTime : Word := 0
  /-- 32 bits; 12 Table 12.2 c14 MSG_IN; reset 0. -/
  msgIn : Word := 0
  /-- 32 bits; 12 Table 12.2 c15 MSG_OUT; reset 0. -/
  msgOut : Word := 0
  /-- 8 x 18 bits; 12 Table 12.2 c16-c23 BASE0-7; reset 0. -/
  base : Vector (BitVec 18) 8 := Vector.replicate 8 0
  /-- List, in issue order, load/store before A1 before A2; 12 R291 results in flight; reset empty. -/
  flight : List Flight := []
  /-- Option of slots left and jump; 12 R291 taken branch; reset none. -/
  jump : Option (Nat × Jump) := none
  /-- Option; 12 R299 issues left of the repeated bundle; reset none. -/
  rep : Option Nat := none
  /-- Slots; the model's own: the bundle that instruction commands are giving; reset empty. -/
  asm : AsmSlots := {}
  /-- 64 KiB; 12 R284 IM; reset - 0 (log entry 3). -/
  im : Mem := []
  /-- 256 KiB; 12 R284 DM; reset - 0 (log entry 3). -/
  dm : Mem := []
  /-- 32 bits, RC; 12 R285 STALLS; reset 0. -/
  stalls : Word := 0
  /-- 32 bits, RC; 12 R286 ECC_CORR; reset 0. -/
  eccCorr : Word := 0
  /-- List of 32-byte words; 12 R286 words of IM with an uncorrectable error; reset empty. -/
  imBad : List Nat := []
  /-- List of 32-byte words; 12 R286 words of DM with an uncorrectable error; reset empty. -/
  dmBad : List Nat := []
  /-- List, oldest first; 12 R285 accesses from outside that wait for a DM bank; reset empty. -/
  ext : List ExtAccess := []
  /-- 2 taps; 12 R302; reset as the tap says. -/
  taps : Vector Tap 2 := Vector.replicate 2 {}
  /-- List of up to 4, oldest first; 12 R305 posts outstanding; reset empty. -/
  posts : List Post := []
  /-- 16 bits; 12 R306 RSEQ of the core's records; reset 0. -/
  rseq : BitVec 16 := 0
  /-- 32 bits, RC; 12 Table 12.17 records posted; reset 0. -/
  posted : Word := 0
  /-- Instant; 12 Table 12.11 TIMER since start or last expiry; reset 0. -/
  timerAt : Nat := 0
  /-- 1 bit; 12 R308 a stop waits for an interruptible bundle; reset 0. -/
  stopReq : Bool := false
  /-- 1 bit; 12 R310 shedding asks for a pause; reset 0. -/
  pauseReq : Bool := false
  /-- 1 bit; 12 R310 the paused core was WAITING; reset 0. -/
  wasWaiting : Bool := false
  /-- Instant; 18 R460 since when the core is STOPPED; reset 0. -/
  stoppedAt : Nat := 0
  deriving DecidableEq, Repr
/-! ## Thermal profiling (09) -/

/-- A Raman fire whose shot is not yet accumulated (R117, R223). -/
structure Fire where
  ppn : BitVec 48
  t : Nat
  time : BitVec 64
  /-- Device time at the end of its Raman period. -/
  stop : BitVec 64
  probe : List Word
  recv : List Word
  phase : List Word
  therm : List Word
  cal : List Word
  holdover : Bool
  deriving DecidableEq, Repr

/-- Raman sums over shots: per bin (S, AS), and what went into them. -/
structure RamanSum where
  sums : List (Int × Int)
  used : Nat
  clipped : Nat
  excluded : Nat
  holdover : Bool
  /-- First Raman period and the device time of its fire. -/
  ppn : BitVec 48
  time : BitVec 64
  /-- Device time at which the last shot's period ends, and instant of the first fire. -/
  stop : BitVec 64
  t : Nat
  /-- The last shot, with the sets under which the sum is evaluated (R229, R239). -/
  last : Fire
  /-- Samples of its shots were lost inside the device (R17). -/
  overrun : Bool
  deriving DecidableEq, Repr

/-- An aux result released while the profiler runs (R230): input, timestamp, value, OVR or BRK. -/
structure AuxSample where
  input : AuxId
  time : BitVec 64
  value : Option Int
  bad : Bool
  deriving DecidableEq, Repr

/-- A fused channel (R234, R236). -/
structure FusedCh where
  /-- T_f in 2^-16 m°C, none before it is seeded. -/
  tf : Option Int
  /-- FUSE of its section is 0: drift is ignored. -/
  still : Bool
  /-- Correction due: T_R less M_f as a fraction. -/
  corr : Option (Int × Nat)
  /-- Sum and count of T_f after the epoch ends of the running interval. -/
  sum : Int
  n : Nat
  /-- Seeded within the settling time: the instant. -/
  seeded : Nat
  /-- Reseeds at the next interval completion. -/
  reseed : Bool
  /-- T_f depends on samples lost inside the device (R17). -/
  overrun : Bool
  deriving DecidableEq, Repr

/-- A drift epoch handed over (R171). -/
structure Epoch where
  ppn : BitVec 48
  /-- Per channel DRIFT, DRIFT_N, DRIFT_BROKEN. -/
  chans : List (Int × Nat × Bool)
  /-- A row of the epoch carried OVERRUN (R17). -/
  overrun : Bool
  deriving DecidableEq, Repr

/-- What stands at the end of a drift epoch (R233): the PPN of the next epoch's first period, the latest result of every aux input in m°C (none
where it is missing or carries OVR or BRK), and the sets in force. -/
structure EpochEnd where
  ppn : BitVec 48
  aux : List (Option Int)
  therm : List Word
  recv : List Word
  phase : List Word
  deriving DecidableEq, Repr

/-- Thermal profiler of one engine (09). -/
structure ThermSt where
  /-- List, oldest first; 09 R223 fires not yet accumulated; reset empty. -/
  fires : List Fire := []
  /-- 48 bits; 09 R245 q of the running shot; reset 0. -/
  q : Nat := 0
  /-- Option; 09 R225 the sub-interval accumulating; reset none. -/
  acc : Option RamanSum := none
  /-- Option, and whether it ends its interval; 09 R225 the finished buffer; reset none. -/
  done : Option (RamanSum × Bool) := none
  /-- Option; 09 R225 the interval accumulating; reset none. -/
  sums : Option RamanSum := none
  /-- List; 09 R225 intervals completed and not evaluated; reset empty. -/
  complete : List RamanSum := []
  /-- Raman records waiting to be written, oldest first: kind, header words without RSEQ and flags, payload, flags; 09 R240; reset empty. -/
  recs : List (Nat × List Word × List Byte × BitVec 16) := []
  /-- Prefix of the last interval used for correction; 09 R241; reset - zeros. -/
  prefixW : List Word := List.replicate 8 0
  /-- 32 bits, RC; 09 R245 intervals completed; reset 0. -/
  intervals : Word := 0
  /-- 32 bits, RC; 09 R245 shots excluded; reset 0. -/
  excluded : Word := 0
  /-- 32 bits, RC; 09 R234 EPOCHS_SKIPPED; reset 0. -/
  skipped : Word := 0
  /-- 32 bits, RC; 09 R233 CM_AUX_FAULTS; reset 0. -/
  auxFaults : Word := 0
  /-- 32 bits, RC; 09 R245 records dropped; reset 0. -/
  dropped : Word := 0
  /-- 48 bits; 09 R245 PPN of the last Raman restart; reset 0. -/
  restart : BitVec 48 := 0
  /-- 3 flags by kind 0x10, 0x11, 0x12; 09 R241 the next record carries DISCONTINUITY; reset 0. -/
  disc : Vector Bool 3 := Vector.replicate 3 false
  /-- 3 x 16 bits; 09 R240 RSEQ by kind; reset 0. -/
  rseq : Vector (BitVec 16) 3 := Vector.replicate 3 0
  /-- List of fused channels; 09 R234; reset empty. -/
  fused : List FusedCh := []
  /-- Option of T_int in ps, the interval's prefix and whether it lost samples; 09 R236 a correction is due at the next epoch end; reset none. -/
  corr : Option (Nat × List Word × Bool) := none
  /-- 1 bit; 09 R245 ACCUMULATING, a sub-interval has begun since the last Raman restart; reset 0. -/
  accumulating : Bool := false
  /-- List, oldest first; 06 R171 epochs handed over; reset empty. -/
  epochs : List Epoch := []
  /-- List, oldest first; 09 R233 ends of drift epochs; reset empty. -/
  ends : List EpochEnd := []
  /-- 32 bits; 09 R240 the second of the last fused record; reset 0. -/
  second : BitVec 32 := 0
  /-- List, oldest first; 09 R230 aux results released since the oldest interval not evaluated began; reset empty. -/
  aux : List AuxSample := []
  deriving DecidableEq, Repr

/-! ## Harvest (10) -/

/-- State of a capture unit (R265). -/
inductive UnitSt where
  | idle
  | queued
  | armed
  | post
  | held
  | reading
  deriving DecidableEq, Repr

/-- What is kept of a written element; its bytes stand in the region (R250). -/
structure ElemMeta where
  time : BitVec 64
  flags : BitVec 16
  ppn : BitVec 48
  group : Nat
  /-- Data time of its last input. -/
  last : BitVec 64
  deriving DecidableEq, Repr

/-- What triggered (R256). -/
structure Trig where
  time : BitVec 64
  sub : Byte
  kind : Nat
  state : Nat
  frac : Nat
  deriving DecidableEq, Repr

/-- One capture unit (10). -/
structure HarvSt where
  /-- 6 values; 10 R265 STATE; reset idle. -/
  st : UnitSt := .idle
  /-- List, oldest first; 10 R246 inputs of row and profile sources not yet written; reset empty. -/
  inputs : List HarvestInput := []
  /-- List, oldest first; 10 R252 events that have reached the sequencer and are not taken; reset empty. -/
  inbox : List SeqEvent := []
  /-- 3 bits; 10 R253 sequencer state; reset 0. -/
  seq : Nat := 0
  /-- 16 bits; 10 R253 counter of that state; reset 0. -/
  cnt : Nat := 0
  /-- Instant; 10 R253 entry of the state; reset 0. -/
  entered : Nat := 0
  /-- Nat; 10 R253 the engine's shot instants up to the entry; reset 0. -/
  mark : Nat := 0
  /-- 64 bits; 10 R257 arming instant; reset 0. -/
  armAt : BitVec 64 := 0
  /-- Instant; 10 R256 the same on the clock; reset 0. -/
  armClk : Nat := 0
  /-- 32 bits; 10 R251 PRE_GRANTED; reset 0. -/
  pre : Nat := 0
  /-- 32 bits; 10 R249 CAP; reset 0. -/
  cap : Nat := 0
  /-- Nat bytes/s; 10 R257 reservation; reset 0. -/
  rate : Nat := 0
  /-- 6 values; 10 R257 STATE before the unit was queued for power; reset idle. -/
  before : UnitSt := .idle
  /-- Visible byte address; 10 R249 its region; reset 0. -/
  base : Nat := 0
  /-- 1 bit; 10 R259 its engine has stopped after the trigger and the last rows are still to be written; reset 0. -/
  ending : Bool := false
  /-- 1 bit; 10 R262 its raw source has come back from an outage and no sample has been written since; reset 0. -/
  gap : Bool := false
  /-- 16 bits; 10 Table 10.5 capture number; reset 0. -/
  number : BitVec 16 := 0
  /-- Nat; 10 R250 elements written since arming; reset 0. -/
  written : Nat := 0
  /-- List, oldest first; 10 R250 elements held; reset empty. -/
  elems : List ElemMeta := []
  /-- Option of count, sums, flags and the first input; 10 R248 the averaging group; reset none. -/
  avg : Option (Nat × List Int × HarvestInput) := none
  /-- Option; 10 R256 the trigger; reset none. -/
  trig : Option Trig := none
  /-- Option of an absolute element number; 10 R250 trigger element; reset none. -/
  trigAt : Option Nat := none
  /-- 32 bits; 10 R250 PRE_ACTUAL; reset 0. -/
  preAct : Nat := 0
  /-- 1 bit; 10 R259 TRUNCATED; reset 0. -/
  truncated : Bool := false
  /-- 32 bits, RC; 10 R256 EVENTS_IGNORED; reset 0. -/
  ignored : Word := 0
  /-- 32 bits; 10 Table 10.6 EVENTS_IGNORED of the capture; reset 0. -/
  ignoredCap : Word := 0
  /-- 1 bit; 10 R255 upward detector armed; reset 0. -/
  upArmed : Bool := false
  /-- 1 bit; 10 R255 downward detector armed; reset 0. -/
  downArmed : Bool := false
  /-- Option of the last sample and its instant; 10 R255; reset none. -/
  last : Option (Int × Nat) := none
  /-- 1 bit; 10 R261 the held capture has not been read out; reset 0. -/
  unread : Bool := false
  /-- Nat; 10 R261 records of the read-out already sent; reset 0. -/
  sent : Nat := 0
  /-- 48 words; 10 R260 the HARVEST set of the capture held or in progress; reset empty. -/
  set : List Word := []
  /-- Nat; 10 R246 ESZ of it; reset 0. -/
  esz : Nat := 0
  /-- Nat; 10 R246 NBMAX of it; reset 0. -/
  nbMax : Nat := 0
  deriving DecidableEq, Repr

/-! ## Auxiliary front end (15) -/

/-- A result formed and not yet released (R382). -/
structure AuxRes where
  /-- Release instant; end of the last sampling phase; start of the first conversion. -/
  due : Nat
  sampled : Nat
  began : Nat
  /-- The input's set at the result, gain, mean code x 16, overrange. -/
  set : List Word
  gain : Nat
  code16 : Nat
  ovr : Bool
  ratioFault : Bool
  /-- The value of its curve, none where it has none. -/
  value : Option Int
  time : BitVec 64
  holdover : Bool
  calNone : Bool
  /-- Of a slot that AUX_READ inserted. -/
  inserted : Bool
  deriving DecidableEq, Repr

/-- One aux input (15.1-15.7). -/
structure AuxIn where
  /-- 4 words; 15 Table 15.3 latest result; reset - no value, and 0 elsewhere. -/
  latest : List Word := [0x80000000, 0, 0, 0]
  /-- 8 bits; 15 Table 15.3 RSEQ of the next result; reset 0. -/
  rseq : Byte := 0
  /-- 2 bits; 15 R386 gain of the next result; reset 0 (the default GAIN). -/
  gain : Nat := 0
  /-- Nat to 4; 15 R386 consecutive results below 0.20 FS; reset 0. -/
  low : Nat := 0
  /-- 1 bit; 15 R390 the switch is tripped; reset 1 (R389: low until a result releases it). -/
  tripped : Bool := true
  /-- 1 bit; 15 R390 a latched switch may release; reset 1. -/
  freed : Bool := true
  /-- List, oldest first; 15 R382 results formed and not released; reset empty. -/
  wait : List AuxRes := []
  deriving DecidableEq, Repr

/-- The slot that converts (R379). -/
structure AuxSlot where
  input : AuxId
  set : List Word
  gain : Nat
  /-- Conversions made, sum of codes, overrange so far. -/
  n : Nat
  sum : Nat
  ovr : Bool
  began : Nat
  time : BitVec 64
  holdover : Bool
  calNone : Bool
  /-- The conversion in progress is a discard (R385). -/
  discard : Bool
  inserted : Bool
  deriving DecidableEq, Repr

/-- Offset (1/16 LSB) and gain (2^-20) factors per gain. -/
structure AuxFact where
  ofs : Vector Int 4 := Vector.replicate 4 0
  gain : Vector Int 4 := Vector.replicate 4 0
  deriving DecidableEq, Repr

/-- The auxiliary front end (15). -/
structure AuxSt where
  /-- 16 inputs; 15 R374; reset as the input says. -/
  inp : Vector AuxIn 16 := Vector.replicate 16 {}
  /-- Option; 15 R379 the slot that converts; reset none. -/
  cur : Option AuxSlot := none
  /-- List of inputs; 15 R379 slots of the running cycle still to come; reset empty. -/
  todo : List AuxId := []
  /-- 1 bit; 15 R380 a cycle is running; reset 0. -/
  cycle : Bool := false
  /-- List of inputs; 15 R381 inserted slots; reset empty. -/
  ins : List AuxId := []
  /-- 1 bit; 15 R385 the next slot begins with a discard; reset 0. -/
  discard : Bool := false
  /-- Instant; 15 R376 start of the conversion in progress; reset 0. -/
  convAt : Nat := 0
  /-- Instant; 15 R379 last timer start, or the commit that set it; reset 0. -/
  timerAt : Nat := 0
  /-- List of instants; 15 R379 probe starts to come; reset empty. -/
  probeDue : List Nat := []
  /-- 4 instants; 15 R377 last change of each current; reset 0. -/
  excAt : Vector Nat 4 := Vector.replicate 4 0
  /-- 4 options of an instant; 15 R387 since when each source is in break state; reset none. -/
  brk : Vector (Option Nat) 4 := Vector.replicate 4 none
  /-- 4 pairs of instants; 15 R388 the last break state that ended; reset 0. -/
  brkPast : Vector (Option (Nat × Nat)) 4 := Vector.replicate 4 none
  /-- 4 bits; 15 R389 INTLK pin levels; reset 0. -/
  pins : BitVec 4 := 0
  /-- 32 bits, RC; 15 R399 MISSED_STARTS; reset 0. -/
  missed : Word := 0
  /-- 32 bits, RC; 15 R399 DISCARDS; reset 0. -/
  discards : Word := 0
  /-- 32 bits, RC; 15 R399 OVR results; reset 0. -/
  ovrs : Word := 0
  /-- 32 bits, RC; 15 R399 BRK results; reset 0. -/
  brks : Word := 0
  /-- 32 bits, RC; 15 R399 RANGE_CHANGES; reset 0. -/
  ranges : Word := 0
  /-- Factors; 15 R392 self-calibration; reset unity. -/
  self : AuxFact := {}
  /-- 1 bit; 15 R399 SELFCAL_VALID; reset 0. -/
  selfValid : Bool := false
  /-- 64 bits; 15 R399 device time of the last self-calibration; reset 0. -/
  selfTime : BitVec 64 := 0
  /-- Factors; 15 R393 system calibration; reset unity. -/
  sys : AuxFact := {}
  /-- 4 options of measured and nominal nA; 15 R393 step 2; reset none (unity). -/
  sysCur : Vector (Option (Nat × Nat)) 4 := Vector.replicate 4 none
  deriving DecidableEq, Repr

/-! ## Vintages (16) -/

/-- A trim set of 48 words (Table 16.1) and whether it is valid (R407). -/
structure TrimSet where
  w : List Word
  valid : Bool
  deriving DecidableEq, Repr

/-- A Vintage record in flash (R406). -/
structure VintRec where
  sets : List TrimSet
  count : Nat
  time : BitVec 64
  /-- Aux system-calibration factors, where it holds them. -/
  syscal : Option (AuxFact × Vector (Option (Nat × Nat)) 4)
  crcOk : Bool
  deriving DecidableEq, Repr

/-- The nominal trim set of temperature `t` (Table 16.1). -/
def nominalSet (t : Int) : TrimSet :=
  ⟨[BitVec.ofInt 32 t] ++ List.replicate 4 144115 ++ List.replicate 43 0, true⟩

/-- The set-point temperatures (R400), m°C. -/
def setPoints : List Int := [-40000, 0, 40000, 85000, 125000]

/-- The Vintages (16). -/
structure Vint where
  /-- Record; 16 R406 factory; reset kept (factory - nominal, valid). -/
  factory : VintRec := ⟨setPoints.map nominalSet, 0, 0, none, true⟩
  /-- 2 options; 16 R406 field copies A and B; reset kept (factory - none). -/
  fld : Vector (Option VintRec) 2 := Vector.replicate 2 none
  /-- 5 sets; 16 R407 working field sets; reset the loaded field copy, or the factory sets. -/
  work : List TrimSet := setPoints.map nominalSet
  /-- 1 bit; 16 R407 FIELD_PRESENT; reset 0. -/
  present : Bool := false
  /-- 1 bit; 16 R415 a calibration has written the working sets since reset; reset 0. -/
  written : Bool := false
  /-- 1 bit; 16 R408 DEFAULTS_IN_USE; reset 0. -/
  defaults : Bool := false
  /-- 16 raw readings, m°C; 16 R403; reset - 25000. -/
  raw : Vector Int 16 := Vector.replicate 16 25000
  /-- 16 corrected readings, m°C; 16 R401; reset - 25000. -/
  temp : Vector Int 16 := Vector.replicate 16 25000
  /-- 16 readings, m°C; 16 R403 what each sensor's blocks use: its corrected reading, or the median while it is faulty; reset - 25000. -/
  used : Vector Int 16 := Vector.replicate 16 25000
  /-- 16 bits; 16 R403 faulty sensors; reset 0. -/
  faulty : BitVec 16 := 0
  /-- 48 words; 16 R402 trims as last computed; reset nominal. -/
  trims : List Word := (nominalSet 0).w
  /-- 48 words; 16 R404 trims as last applied; reset nominal. -/
  force : List Word := (nominalSet 0).w
  /-- Instant; 16 R403 the last recomputation; reset 0. -/
  last : Nat := 0
  deriving DecidableEq, Repr


/-! ## The whole state -/

/-- The state of the block. -/
structure State where
  /-- The time base; 03; reset as its fields say. -/
  time : TimeBase := {}
  /-- Peer links; 03; reset as its fields say. -/
  peer : Peer := {}
  /-- 4 TIU channels; 03; reset as the fields say. -/
  tiu : Vector TiuCh 4 := Vector.replicate 4 {}
  /-- The PCIe endpoint; 14; reset as its fields say. -/
  pcie : Pcie := {}
  /-- 32 rings; 14; reset as the fields say. -/
  rings : Vector Ring 32 := Vector.replicate 32 {}
  /-- The protocol; 02; reset as its fields say. -/
  proto : Proto := {}
  /-- Shadow and active sets; 02; reset defaults. -/
  params : Params := {}
  /-- Queued and scheduled commits; 02 R59; reset empty. -/
  commits : List Commit := []
  /-- The vats; 13; reset as the fields say. -/
  vat : Vat := {}
  /-- The Cellar; 13; reset as the fields say. -/
  cellar : Cellar := {}
  /-- The power manager; 17; reset as the fields say. -/
  power : Power := {}
  /-- Start-up and recovery; 18; reset as the fields say. -/
  life : Life := {}
  /-- 8 Cooper cores; 12; reset as the fields say. -/
  core : Vector Core 8 := Vector.replicate 8 {}
  /-- 4 fibre engines; 04, 05, 06, 07; reset as the fields say. -/
  fe : Vector FeSt 4 := Vector.replicate 4 {}
  /-- 16 streams; 07, 11; reset as the fields say. -/
  stream : Vector StreamSt 16 := Vector.replicate 16 {}
  /-- The zone detector; 08; reset as the fields say. -/
  zones : Zones := {}
  /-- 4 thermal profilers; 09; reset as the fields say. -/
  therm : Vector ThermSt 4 := Vector.replicate 4 {}
  /-- 4 capture units; 10; reset as the fields say. -/
  harv : Vector HarvSt 4 := Vector.replicate 4 {}
  /-- The aux front end; 15; reset as its fields say. -/
  aux : AuxSt := {}
  /-- The Vintages; 16; reset as their fields say. -/
  vint : Vint := {}
  /-- The Taster; 18; reset as the fields say. -/
  taster : Taster := {}
  /-- Nat; the model's own seed of free values (log entry 1); reset - 0. -/
  free : Nat := 0
  /-- List; everything sent outside, newest first (the model's own); reset empty. -/
  out : List Out := []
  /-- The queue of waiting commands, first in first out; reset empty. -/
  pending : List Instr := []
  deriving DecidableEq, Repr

/-- The block right after power is applied and before any command: every field at its reset value. -/
def State.reset : State := {}

end Sys2Proof.Machine
end

