-- ==== Sys2Proof/Machine/Ops.lean ====
section
/-! DEFINITION. The operations every meaning shares: bit fields, bytes, rounding, CRC-32C, sparse memory, time, interrupts and output. -/

namespace Sys2Proof.Machine

/-! ## Bits, bytes and rounding -/

/-- Bits [lo + width - 1 : lo] of a number. -/
def bitsOf (n lo width : Nat) : Nat := n / 2 ^ lo % 2 ^ width

/-- Bits [lo + width - 1 : lo] of a word (0.2). -/
def wbits (w : Word) (lo width : Nat) : Nat := bitsOf w.toNat lo width

/-- The two's-complement reading of `width` bits (R3). -/
def signed (width n : Nat) : Int :=
  if n % 2 ^ width < 2 ^ (width - 1) then (n % 2 ^ width : Nat) else (n % 2 ^ width : Nat) - (2 ^ width : Nat)

/-- Word `i` of a list, 0 past its end. -/
def wordAt (l : List Word) (i : Nat) : Word := l.getD i 0

/-- Words `i` and `i + 1` as 64 bits, low word first (R2). -/
def word64 (l : List Word) (i : Nat) : BitVec 64 := wordAt l (i + 1) ++ wordAt l i

/-- The low and high word of 64 bits. -/
def split64 (x : BitVec 64) : List Word := [x.extractLsb' 0 32, x.extractLsb' 32 32]

/-- The four bytes of a word, least significant first (R2). -/
def wordBytes (w : Word) : List Byte :=
  [w.extractLsb' 0 8, w.extractLsb' 8 8, w.extractLsb' 16 8, w.extractLsb' 24 8]

/-- The bytes of words in memory order (R2). -/
def wordsBytes (l : List Word) : List Byte := l.flatMap wordBytes

/-- The little-endian number of bytes (R2). -/
def bytesNat : List Byte → Nat
  | [] => 0
  | b :: r => b.toNat + 256 * bytesNat r

/-- The first word of a byte list. -/
def bytesWord (l : List Byte) : Word := BitVec.ofNat 32 (bytesNat (l.take 4))

/-- Bytes read as words, `n` of them. -/
def bytesWords : Nat → List Byte → List Word
  | 0, _ => []
  | n + 1, l => bytesWord l :: bytesWords n (l.drop 4)

/-- A number held in 32 bits, saturating (the RC counters). -/
def satWord (n : Nat) : Word := if n < 2 ^ 32 then BitVec.ofNat 32 n else BitVec.allOnes 32

/-- A saturating counter plus `n`. -/
def addSat (w : Word) (n : Nat) : Word := satWord (w.toNat + n)

/-- A number saturated to a signed width. -/
def satInt (width : Nat) (x : Int) : Int :=
  max (-(2 ^ (width - 1) : Nat)) (min ((2 ^ (width - 1) : Nat) - 1) x)

/-- ⌊a / d⌋ for positive `d`. -/
def floorDiv (a : Int) (d : Nat) : Int := Int.fdiv a d

/-- The integer nearest to a / d, exact halves to even (R496). -/
def roundEven (a : Int) (d : Nat) : Int :=
  let q := floorDiv a d
  let r := a - q * d
  if 2 * r < d then q else if 2 * r > d then q + 1 else if q % 2 = 0 then q else q + 1

/-- The integer nearest to a / d, exact halves away from zero (R4). -/
def roundAway (a : Int) (d : Nat) : Int :=
  if a < 0 then -(floorDiv (-a * 2 + d) (2 * d)) else floorDiv (a * 2 + d) (2 * d)

/-- ⌈a / d⌉ on naturals. -/
def ceilDiv (a d : Nat) : Nat := (a + d - 1) / d

/-- Clamp to an interval. -/
def clamp (lo hi x : Int) : Int := max lo (min hi x)

/-- The forward distance from `a` to `b` modulo 2^32. -/
def fwd (a b : Word) : Nat := (b - a).toNat

/-- The forward distance between PPN values, modulo 2^48 (R9). -/
def ppnAhead (a b : BitVec 48) : Nat := (b - a).toNat

/-- `b` is ahead of `a` in the sense of R9. -/
def isAhead (a b : BitVec 48) : Bool := decide (ppnAhead a b < 2 ^ 47)

/-- The indices of a list of 32 rings that hold a property. -/
def ringIds : List RingId := List.finRange 32

/-! ## CRC-32C -/

/-- One bit of the reflected CRC-32C. -/
def crcBit (c : Word) : Word := if c &&& 1 = 1 then (c >>> 1) ^^^ 0x82F63B78#32 else c >>> 1

/-- One byte of the reflected CRC-32C. -/
def crcByte (c : Word) (b : Byte) : Word :=
  crcBit (crcBit (crcBit (crcBit (crcBit (crcBit (crcBit (crcBit (c ^^^ b.zeroExtend 32))))))))

/-- The CRC-32C of bytes in memory order (R38). -/
def crc32c (l : List Byte) : Word := l.foldl crcByte 0xFFFFFFFF#32 ^^^ 0xFFFFFFFF#32

/-! ## Sparse memory -/

/-- The canonical form: addresses strictly rising, no zero byte listed. -/
def Mem.wf : Mem → Bool
  | [] => true
  | [(_, b)] => b != 0
  | (a, b) :: (a', b') :: r => b != 0 && decide (a < a') && Mem.wf ((a', b') :: r)

/-- The byte at an address; an unlisted address reads 0 (log entry 3). -/
def Mem.read : Mem → Nat → Byte
  | [], _ => 0
  | (a, b) :: r, x => if a = x then b else Mem.read r x

/-- Write one byte, keeping the canonical form. -/
def Mem.write : Mem → Nat → Byte → Mem
  | [], x, v => if v = 0 then [] else [(x, v)]
  | (a, b) :: r, x, v =>
    if x < a then (if v = 0 then (a, b) :: r else (x, v) :: (a, b) :: r)
    else if x = a then (if v = 0 then r else (a, v) :: r)
    else (a, b) :: Mem.write r x v

/-- The `n` bytes from an address. -/
def Mem.readN (m : Mem) : Nat → Nat → List Byte
  | _, 0 => []
  | a, n + 1 => m.read a :: Mem.readN m (a + 1) n

/-- Write bytes from an address on. -/
def Mem.writeN : Mem → Nat → List Byte → Mem
  | m, _, [] => m
  | m, a, b :: l => Mem.writeN (m.write a b) (a + 1) l

/-- Write the enabled bytes from an address on (byte enables). -/
def Mem.writeOpt : Mem → Nat → List (Option Byte) → Mem
  | m, _, [] => m
  | m, a, none :: l => Mem.writeOpt m (a + 1) l
  | m, a, some b :: l => Mem.writeOpt (m.write a b) (a + 1) l

/-- Drop every byte of an address range. -/
def Mem.clear (m : Mem) (lo hi : Nat) : Mem := m.filter fun c => decide (c.1 < lo) || decide (hi ≤ c.1)

/-! ## Association lists -/

/-- The value stored under a key. -/
def assocGet {α β : Type} [DecidableEq α] (l : List (α × β)) (k : α) : Option β :=
  (l.find? fun p => p.1 = k).map (·.2)

/-- Store a value under a key. -/
def assocSet {α β : Type} [DecidableEq α] : List (α × β) → α → β → List (α × β)
  | [], k, v => [(k, v)]
  | (a, b) :: r, k, v => if a = k then (k, v) :: r else (a, b) :: assocSet r k v

/-! ## Time -/

/-- Device time with its 32 further fraction bits at a clock instant (R77, R79): the clock corrected by the frequency adjustment. -/
def TimeBase.at96 (t : TimeBase) (clk : Nat) : BitVec 96 :=
  t.base + BitVec.ofInt 96 (floorDiv (((clk : Int) - t.baseClk) * 2 ^ 64 * (10 ^ 12 + t.adj)) (10 ^ 24))

/-- Device time (Table 0.2) at a clock instant. -/
def TimeBase.at (t : TimeBase) (clk : Nat) : BitVec 64 := (t.at96 clk).extractLsb' 32 64

/-- The clock instant at which device time reaches a value at the present rate, never earlier than `clk`. -/
def TimeBase.clkOf (t : TimeBase) (v : BitVec 64) : Nat :=
  let d : Int := ((v ++ (0 : BitVec 32)) - t.base).toInt
  let r : Int := -(floorDiv (-(d * 10 ^ 24)) (2 ^ 64 * (10 ^ 12 + t.adj)).toNat)
  max t.clk ((t.baseClk : Int) + r).toNat

/-- Device time now (NOW, R85). -/
def State.now (s : State) : BitVec 64 := s.time.at s.time.clk

/-- The stamp of a pin event or a boundary, granularity 625 ps (3.2). -/
def TimeBase.stamp (t : TimeBase) (clk : Nat) : BitVec 64 := t.at (clk / 625 * 625)

/-- Move the clock forward to an instant, never back. -/
def TimeBase.goTo (t : TimeBase) (clk : Nat) : TimeBase := { t with clk := max t.clk clk }

/-- Move the block's clock forward. -/
def State.goTo (s : State) (clk : Nat) : State := { s with time := s.time.goTo clk }

/-- Set device time at an instant (a step, R81), in 96 bits. -/
def TimeBase.setAt (t : TimeBase) (clk : Nat) (v : BitVec 96) : TimeBase := { t with baseClk := clk, base := v }

/-- Change the frequency adjustment from an instant on (a slew, R79). -/
def TimeBase.setAdj (t : TimeBase) (clk : Nat) (adj : Int) : TimeBase :=
  { t with base := t.at96 clk, baseClk := clk, adj := adj }

/-- Device time of 64 bits as 96. -/
def widen96 (x : BitVec 64) : BitVec 96 := x ++ (0 : BitVec 32)

/-- 2.048 µs as a device-time distance, rounded up (R58). -/
def latch64 : Nat := ceilDiv (2048 * 2 ^ 32) (10 ^ 9)

/-- 2.048 µs in ps (Table 0.3, latch window). -/
def latchPs : Nat := 2048000

/-! ## Output and interrupts -/

/-- Append to what the device has sent. -/
def State.emit (s : State) (o : Out) : State := { s with out := o :: s.out }

/-- Append several, the first sent first. -/
def State.emits (s : State) (l : List Out) : State := l.foldl State.emit s

/-- Set the vector's IRQ_SUM bit (R349). -/
def State.setSum (s : State) (v : Fin 64) : State :=
  { s with pcie := { s.pcie with irqSum := s.pcie.irqSum ||| ((1 : BitVec 64) <<< v.val) } }

/-- Send the vector's message, or set its PBA bit while it is masked (R31); nothing while MSI-X is disabled. How long a message is in flight is not stated:
each is delivered at once, so no event merges with one in flight, which is the model's choice (log entry 225). -/
def State.message (s : State) (v : Fin 64) : State :=
  if s.pcie.msixEn then
    if s.pcie.table[v].masked then { s with pcie := { s.pcie with pba := s.pcie.pba ||| ((1 : BitVec 64) <<< v.val) } }
    else s.emit (.msix v)
  else s

/-- An event of a vector: its IRQ_SUM bit and one message (R31, R349). -/
def State.raise (s : State) (v : Fin 64) : State := (s.setSum v).message v

/-- The vectors of Table 1.9. -/
def vecEngine (f : Fe) : Fin 64 := ⟨32 + f.val, by omega⟩
def vecZone : Fin 64 := 36
def vecHarvest : Fin 64 := 37
def vecTiu : Fin 64 := 38
def vecAux : Fin 64 := 39
def vecTherm : Fin 64 := 40
def vecPower : Fin 64 := 41
def vecFault : Fin 64 := 42
def vecTaster : Fin 64 := 43
def vecPeer : Fin 64 := 44
def vecCore (c : CoreId) : Fin 64 := ⟨45 + c.val, by omega⟩

/-- A TIME_EVENTS bit is set and signals vector 42 (R87). -/
def State.timeEvent (s : State) (bit : Nat) : State :=
  ({ s with time := { s.time with events := s.time.events ||| ((1 : BitVec 7) <<< bit) } }).raise vecFault

/-- Drive a pin. -/
def State.pin (s : State) (p : Pin) (level : Bool) : State := s.emit (.pin p level)

/-! ## Free values -/

/-- Take a fresh seed for a value the spec leaves open (log entry 1). -/
def State.seed (s : State) : Nat × State := (s.free, { s with free := s.free + 1 })

/-! ## Updates of one part -/

def State.updRing (s : State) (n : RingId) (f : Ring → Ring) : State := { s with rings := s.rings.set n (f s.rings[n]) }
def State.updTiu (s : State) (c : Fin 4) (f : TiuCh → TiuCh) : State := { s with tiu := s.tiu.set c (f s.tiu[c]) }
def State.updLane (s : State) (l : Fin 4) (f : Lane → Lane) : State :=
  { s with peer := { s.peer with lanes := s.peer.lanes.set l (f s.peer.lanes[l]) } }
def State.updCel (s : State) (c : Fin 4) (f : CelCh → CelCh) : State :=
  { s with cellar := { s.cellar with ch := s.cellar.ch.set c (f s.cellar.ch[c]) } }
def State.updFe (s : State) (f : Fe) (g : FeSt → FeSt) : State := { s with fe := s.fe.set f (g s.fe[f]) }
def State.updStream (s : State) (n : StreamId) (g : StreamSt → StreamSt) : State := { s with stream := s.stream.set n (g s.stream[n]) }
def State.updTherm (s : State) (f : Fe) (g : ThermSt → ThermSt) : State := { s with therm := s.therm.set f (g s.therm[f]) }
def State.updHarv (s : State) (u : Fin 4) (g : HarvSt → HarvSt) : State := { s with harv := s.harv.set u (g s.harv[u]) }
def State.updCore (s : State) (c : CoreId) (f : Core → Core) : State := { s with core := s.core.set c (f s.core[c]) }
def State.updRail (s : State) (r : Fin 4) (f : Rail → Rail) : State :=
  { s with power := { s.power with rails := s.power.rails.set r (f s.power.rails[r]) } }

/-! ## Events for the sequencers (R252) -/

/-- An event reaches a unit's sequencer: it counts nowhere before the arming instant (R253). -/
def HarvSt.hear (h : HarvSt) (ev : SeqEvent) : HarvSt :=
  if (h.st = .armed || h.st = .post) && h.armClk ≤ ev.clk then { h with inbox := h.inbox ++ [ev] } else h

/-- An event reaches every armed or triggered unit's sequencer. -/
def State.seqEvent (s : State) (ev : SeqEvent) : State := { s with harv := s.harv.map (·.hear ev) }

/-- An event for one unit. -/
def State.seqEventTo (s : State) (u : Fin 4) (ev : SeqEvent) : State :=
  s.updHarv u (·.hear ev)

end Sys2Proof.Machine
end

