-- ==== Sys2Proof/Machine/Operands.lean ====
section
/-! DEFINITION. Operands: the parameter blocks of Table 2.10, their fields with range and default (each class's own table), and reading
and checking blocks. -/

namespace Sys2Proof.Machine

/-- The range of a field (its table's Range column, R54). Bounds are on the stored value. -/
inductive Chk where
  | upTo (n : Nat)
  | range (lo hi : Nat)
  | srange (lo hi : Int)
  | oneOf (l : List Nat)
  | zeroOr (lo hi : Nat)
  | mult (k lo hi : Nat)
  | zeroOrMult (k lo hi : Nat)
  | any
  | popcount (lo hi : Nat)
  deriving DecidableEq, Repr

/-- One field of a block: first word, lowest bit, width (over word ends where it spans words), range, default. -/
structure Fld where
  w : Nat
  lo : Nat
  width : Nat
  chk : Chk
  dflt : Nat
  deriving DecidableEq, Repr

/-- How many of the low `width` bits are set. -/
def popc (width n : Nat) : Nat := ((List.range width).filter fun i => n.testBit i).length

/-- A stored value against its field's range. -/
def Chk.ok (c : Chk) (width n : Nat) : Bool :=
  match c with
  | .upTo m => n ≤ m
  | .range lo hi => lo ≤ n && n ≤ hi
  | .srange lo hi => lo ≤ signed width n && signed width n ≤ hi
  | .oneOf l => l.contains n
  | .zeroOr lo hi => n = 0 || (lo ≤ n && n ≤ hi)
  | .mult k lo hi => n % k = 0 && lo ≤ n && n ≤ hi
  | .zeroOrMult k lo hi => n = 0 || (n % k = 0 && lo ≤ n && n ≤ hi)
  | .any => true
  | .popcount lo hi => lo ≤ popc width n && popc width n ≤ hi

/-- The value of `width` bits that begin at bit `lo` of word `w` of a block. -/
def bf (b : List Word) (w lo width : Nat) : Nat :=
  bitsOf ((wordAt b w).toNat + 2 ^ 32 * (wordAt b (w + 1)).toNat) lo width

/-- The same, signed. -/
def bfs (b : List Word) (w lo width : Nat) : Int := signed width (bf b w lo width)

/-- One bit of a block. -/
def bfb (b : List Word) (w bit : Nat) : Bool := bf b w bit 1 = 1

/-- The field reads word `i`. -/
def Fld.touches (f : Fld) (i : Nat) : Bool := f.w ≤ i && i ≤ f.w + (f.lo + f.width - 1) / 32

/-- The bits of word `i` that the field covers. -/
def Fld.cover (f : Fld) (i : Nat) : Nat :=
  if f.touches i then ((2 ^ f.width - 1) * 2 ^ f.lo) / 2 ^ (32 * (i - f.w)) % 2 ^ 32 else 0

/-- The bits of word `i` that some field covers; the others are rsvd. -/
def coverOf (fs : List Fld) (i : Nat) : Nat := fs.foldl (fun m f => m ||| f.cover i) 0

/-- Word `i` of a block is acceptable: rsvd bits 0 and every field it belongs to in range (R54). -/
def wordOk (fs : List Fld) (b : List Word) (i : Nat) : Bool :=
  (wordAt b i).toNat &&& coverOf fs i = (wordAt b i).toNat &&
    fs.all fun f => !f.touches i || f.chk.ok f.width (bf b f.w f.lo f.width)

/-- The block of defaults. -/
def dfltWords (fs : List Fld) (len : Nat) : List Word :=
  (List.range len).map fun i =>
    BitVec.ofNat 32 (fs.foldl (fun m f => if f.touches i then m + (f.dflt * 2 ^ f.lo) / 2 ^ (32 * (i - f.w)) % 2 ^ 32 else m) 0)

/-- A one-bit field. -/
def flag (w lo : Nat) (d : Nat := 0) : Fld := ⟨w, lo, 1, .any, d⟩

/-! ## The blocks -/

/-- SYS (Table 18.9). -/
def fldSys : List Fld :=
  [⟨0, 0, 16, .zeroOr 10 60000, 0⟩, ⟨0, 16, 2, .upTo 2, 0⟩, flag 0 18 1, flag 0 19, ⟨0, 20, 4, .range 1 15, 3⟩]

/-- TIME (Table 3.4). -/
def fldTime : List Fld :=
  [flag 0 0, flag 0 1, flag 0 2 1, flag 0 3, ⟨0, 4, 2, .any, 0⟩, flag 0 6, ⟨1, 0, 32, .range 100 100000, 10000⟩,
    ⟨2, 0, 32, .srange (-1000000) 1000000, 0⟩, ⟨3, 0, 32, .range 1000 1000000, 10000⟩, ⟨4, 0, 32, .range 100 1000000, 1000⟩]

/-- CELLAR (Table 13.9). -/
def fldCellar : List Fld :=
  [⟨0, 0, 2, .any, 2⟩, ⟨0, 8, 6, .range 24 56, 48⟩, ⟨0, 16, 6, .upTo 48, 16⟩, flag 0 22 1] ++
    ([(1, 8533), (2, 6400), (3, 3200)].map fun p => ⟨p.1, 0, 14, .oneOf [1600, 3200, 4266, 5500, 6400, 7500, 8533], p.2⟩)

/-- RING (Table 14.10). -/
def fldRing : List Fld :=
  [flag 0 0, ⟨0, 1, 3, .upTo 5, 0⟩, ⟨0, 4, 4, .zeroOr 4 15, 10⟩, ⟨0, 8, 2, .any, 0⟩, flag 0 10, flag 0 11, ⟨0, 12, 3, .any, 3⟩,
    ⟨0, 16, 2, .any, 0⟩, ⟨1, 0, 5, .any, 0⟩, ⟨1, 8, 5, .any, 0⟩, ⟨2, 0, 16, .any, 0⟩, ⟨4, 0, 64, .mult 32 0 (2 ^ 64), 0⟩,
    ⟨6, 0, 64, .mult 4 0 (2 ^ 64), 0⟩, ⟨8, 0, 64, .mult 4 0 (2 ^ 64), 0⟩]

/-- TIU (Table 3.9). -/
def fldTiu : List Fld :=
  [⟨0, 0, 2, .any, 0⟩, flag 0 2, flag 0 3, ⟨0, 4, 3, .upTo 5, 0⟩, ⟨0, 8, 6, .any, 0⟩, ⟨0, 14, 5, .range 1 16, 16⟩, ⟨1, 0, 32, .any, 0⟩,
    ⟨2, 0, 32, .range 1100 (2 ^ 32 - 1), 1099512⟩, ⟨3, 0, 32, .range 100 100000000, 1000000⟩, ⟨4, 0, 17, .range 2 65536, 65536⟩,
    ⟨5, 0, 8, .upTo 31, 0⟩, ⟨5, 8, 24, .any, 0⟩]

/-- POWER (Table 17.5). -/
def fldPower : List Fld :=
  [⟨0, 0, 9, .range 100 450, 360⟩, flag 0 9, ⟨1, 0, 16, .range 100 60000, 5000⟩, ⟨2, 0, 10, .range 620 880, 880⟩,
    ⟨2, 16, 10, .range 620 880, 880⟩, ⟨3, 0, 10, .range 620 880, 880⟩, ⟨3, 16, 10, .range 620 880, 880⟩] ++
  ((List.range 4).map fun i => ⟨4, 8 * i, 7, .range 0x08 0x77, 0x40 + i⟩) ++
  ((List.range 4).map fun i => ⟨5, 8 * i, 5, .any, 0⟩) ++ [⟨6, 0, 6, .range 5 50, 20⟩] ++
  ((List.range 4).map fun i => ⟨6, 4 * i + 8, 4, .any, 0⟩) ++
  [⟨7, 0, 6, .range 2 50, 5⟩, ⟨8, 0, 16, .any, 0⟩, ⟨8, 16, 4, .any, 0⟩, flag 8 20 1, flag 8 21 1]

/-- TASTER (Table 18.10). -/
def fldTaster : List Fld :=
  [flag 0 0 1, flag 0 1] ++
  ([(1, 600), (2, 3600), (3, 600), (4, 60), (5, 600), (6, 3600)].map fun p => ⟨p.1, 0, 17, .zeroOr 10 86400, p.2⟩) ++
  [⟨7, 0, 8, .range 26 200, 77⟩, ⟨7, 8, 8, .range 5 100, 15⟩, ⟨8, 0, 8, .range 1 200, 10⟩]

/-- PEER (Table 3.6). -/
def fldPeer : List Fld := [flag 0 0, flag 0 1, flag 0 2, flag 0 3, ⟨1, 0, 32, .srange (-2000) 2000, 0⟩]

/-- PROBE (Table 4.5). -/
def fldProbe : List Fld :=
  [flag 0 0, ⟨0, 1, 2, .any, 0⟩, ⟨0, 3, 2, .upTo 2, 0⟩, flag 0 5, flag 0 6, ⟨0, 8, 3, .any, 7⟩, ⟨0, 12, 4, .any, 0⟩,
    ⟨1, 0, 18, .range 1250 131072, 125000⟩, ⟨2, 0, 5, .range 8 18, 16⟩, ⟨2, 16, 12, .any, 0⟩, ⟨3, 0, 16, .range 1 65535, 200⟩,
    ⟨3, 16, 4, .upTo 9, 0⟩, ⟨4, 0, 17, .range 10000 100000, 100000⟩, ⟨5, 0, 16, .upTo 4000, 200⟩, ⟨5, 16, 16, .upTo 4000, 100⟩,
    ⟨6, 0, 9, .upTo 256, 0⟩, ⟨6, 16, 8, .any, 0⟩, ⟨7, 0, 24, .upTo 4194304, 0⟩, ⟨8, 0, 16, .range 4 20000, 20⟩] ++
  ((List.range 4).flatMap fun n => [⟨9, 4 * n, 2, .any, 0⟩, flag 9 (4 * n + 2)]) ++
  ((List.range 8).flatMap fun k => [flag (16 + 2 * k) 0 (if k = 0 then 1 else 0), ⟨16 + 2 * k, 1, 3, .any, 0⟩,
    ⟨16 + 2 * k, 16, 16, .range 1 32767, 16384⟩, ⟨17 + 2 * k, 0, 21, .range 50000 1068750, 100000 + 110000 * k⟩])

/-- RECV (Table 5.5). -/
def fldRecv : List Fld :=
  [⟨0, 0, 6, .popcount 1 4, 7⟩, ⟨0, 8, 6, .popcount 0 2, 8⟩, flag 0 16, flag 0 17, flag 0 18, ⟨0, 20, 2, .upTo 2, 1⟩, flag 0 22,
    flag 0 23, flag 0 24 1, ⟨1, 0, 5, .range 8 20, 16⟩, ⟨1, 16, 3, .range 2 4, 2⟩, ⟨2, 0, 12, .any, 0⟩, ⟨2, 16, 12, .any, 0⟩,
    ⟨3, 0, 3, .any, 0⟩, ⟨3, 8, 8, .any, 16⟩, ⟨3, 16, 8, .any, 16⟩, ⟨3, 24, 6, .any, 0⟩, flag 3 30,
    ⟨4, 0, 21, .range 1363149 1677722, 1539519⟩, ⟨5, 0, 8, .range 2 200, 8⟩, ⟨5, 8, 5, .any, 20⟩, ⟨6, 0, 32, .upTo 100000000, 0⟩,
    ⟨7, 0, 18, .range 1 200000, 10000⟩, ⟨8, 0, 10, .upTo 512, 0⟩]

/-- PHASE (Table 6.4). -/
def fldPhase : List Fld :=
  [⟨0, 0, 8, .any, 0⟩, flag 0 8, ⟨0, 16, 4, .upTo 8, 6⟩, ⟨0, 20, 3, .any, 3⟩, ⟨0, 24, 4, .range 4 12, 8⟩,
    ⟨1, 0, 17, .range 800 100000, 10000⟩, ⟨2, 0, 16, .range 1 0xFFFF, 0xFFFF⟩, ⟨3, 0, 5, .range 4 16, 10⟩, ⟨4, 0, 5, .upTo 16, 0⟩]

/-- The lowest and highest internal address of the largest visible Cellar (R28). -/
def cellarLo : Nat := 0x100000000
def cellarHi : Nat := 0x1000000000

/-- FINING (Table 7.6). -/
def fldFining : List Fld := [⟨0, 0, 4, .range 2 8, 2⟩, ⟨1, 0, 40, .zeroOrMult 0x100000 cellarLo (cellarHi - 1), 0⟩]

/-- STREAM (Table 7.7). -/
def fldStream : List Fld :=
  [flag 0 0, ⟨0, 1, 2, .any, 0⟩, flag 0 3, ⟨0, 4, 3, .upTo 6, 0⟩, flag 0 7, ⟨0, 8, 4, .any, 0⟩, ⟨0, 12, 4, .upTo 12, 6⟩,
    ⟨0, 16, 5, .any, 0⟩, ⟨1, 0, 18, .upTo 199999, 0⟩, ⟨2, 0, 18, .range 1 200000, 10000⟩, ⟨3, 0, 16, .range 4 4096, 64⟩,
    ⟨4, 0, 40, .zeroOrMult 0x100000 cellarLo (cellarHi - 1), 0⟩]

/-- ZONE_CTL (Table 8.5). -/
def fldZoneCtl : List Fld := [⟨0, 0, 16, .any, 0⟩, ⟨0, 16, 16, .any, 0⟩, ⟨1, 0, 16, .any, 0⟩, ⟨2, 0, 5, .any, 0⟩, flag 2 5]

/-- ZONE_TABLE (Table 8.6), eight zones. -/
def fldZoneTable : List Fld :=
  (List.range 8).flatMap fun i =>
    [flag (8 * i) 0, flag (8 * i) 1, flag (8 * i) 2, flag (8 * i) 3, flag (8 * i) 4 1, ⟨8 * i, 8, 2, .any, 0⟩, ⟨8 * i, 12, 4, .any, 0⟩,
      ⟨8 * i, 16, 4, .any, 4⟩, ⟨8 * i, 20, 5, .upTo 16, 0⟩, ⟨8 * i + 1, 0, 18, .upTo 199999, 0⟩, ⟨8 * i + 2, 0, 18, .upTo 199999, 0⟩,
      ⟨8 * i + 3, 0, 32, .range 1 (2 ^ 32 - 1), 0xFFFFFFFF⟩, ⟨8 * i + 4, 0, 32, .any, 0⟩, ⟨8 * i + 5, 0, 16, .range 1 65535, 1⟩,
      ⟨8 * i + 5, 16, 16, .range 1 65535, 1⟩]

/-- THERM (Table 9.6). -/
def fldTherm : List Fld :=
  [flag 0 0, flag 0 1 1, flag 0 2, flag 0 3, flag 0 4 1, ⟨0, 8, 5, .any, 0⟩, ⟨1, 0, 32, .upTo 100000000, 0⟩,
    ⟨2, 0, 17, .range 1 125000, 10000⟩, ⟨3, 0, 17, .range 1 65536, 1024⟩, ⟨4, 0, 16, .range 1 65535, 64⟩, ⟨5, 0, 17, .upTo 124999, 0⟩,
    ⟨6, 0, 13, .upTo 4096, 0⟩, ⟨7, 0, 12, .range 10 3600, 600⟩, ⟨8, 0, 18, .upTo 199999, 0⟩, ⟨9, 0, 18, .range 1 200000, 10000⟩,
    ⟨10, 0, 8, .range 1 255, 1⟩, ⟨11, 0, 18, .upTo 199999, 0⟩, ⟨12, 0, 11, .range 1 1024, 16⟩, ⟨12, 16, 4, .any, 0⟩,
    ⟨13, 0, 24, .range 100000 4000000, 970000⟩]

/-- THERM_CAL (R243, Table 9.7): N_SECT, four references, 32 sections. -/
def fldThermCal : List Fld :=
  [⟨0, 0, 6, .upTo 32, 0⟩] ++
  ((List.range 4).flatMap fun r =>
    [⟨8 + 4 * r, 0, 17, .upTo 124999, 0⟩, ⟨9 + 4 * r, 0, 13, .range 8 4096, 8⟩, ⟨9 + 4 * r, 16, 4, .any, 0⟩, flag (9 + 4 * r) 20,
      ⟨10 + 4 * r, 0, 32, .srange (-40000) 150000, 25000⟩]) ++
  ((List.range 32).flatMap fun s =>
    [⟨24 + 6 * s, 0, 17, .upTo 124999, 0⟩, flag (24 + 6 * s) 17 1, ⟨25 + 6 * s, 0, 17, .upTo 124999, 0⟩,
      ⟨26 + 6 * s, 0, 32, .range 6553600 131072000, 41484288⟩, ⟨27 + 6 * s, 0, 32, .srange (-1073741824) 1073741824, 26843546⟩,
      ⟨28 + 6 * s, 0, 32, .srange (-68719477) 68719477, 0⟩])

/-- HARVEST (Tables 10.7 and 10.8). -/
def fldHarvest : List Fld :=
  [⟨0, 0, 3, .upTo 4, 3⟩, ⟨0, 3, 2, .any, 0⟩, ⟨0, 5, 2, .upTo 2, 0⟩, ⟨0, 8, 4, .upTo 8, 0⟩, ⟨0, 12, 5, .any, 0⟩, flag 0 17 1,
    ⟨0, 18, 2, .upTo 2, 0⟩, ⟨1, 0, 18, .upTo 199999, 0⟩, ⟨2, 0, 13, .range 1 4096, 1024⟩, ⟨2, 16, 16, .range 1 0xFFFF, 0xFFFF⟩,
    ⟨3, 0, 32, .any, 0⟩, ⟨4, 0, 32, .range 1 (2 ^ 32 - 1), 65536⟩, ⟨5, 0, 40, .zeroOrMult 0x100000 cellarLo (cellarHi - 1), 0⟩,
    ⟨7, 0, 16, .range 1 65535, 64⟩, ⟨8, 0, 3, .upTo 5, 0⟩, ⟨8, 3, 2, .any, 0⟩, ⟨8, 8, 18, .upTo 199999, 0⟩,
    ⟨9, 0, 32, .srange (-32768) 32767, 0⟩, ⟨10, 0, 16, .any, 0⟩, ⟨11, 0, 24, .any, 0⟩] ++
  ((List.range 8).flatMap fun s =>
    [⟨16 + 4 * s, 0, 4, .upTo 11, if s = 0 then 8 else 0⟩, ⟨16 + 4 * s, 4, 4, .upTo 9, if s = 0 then 8 else 0⟩,
      ⟨16 + 4 * s, 8, 4, .upTo 9, 0⟩, ⟨16 + 4 * s, 12, 2, .upTo 2, 0⟩, ⟨16 + 4 * s, 16, 16, .range 1 65535, 1⟩,
      ⟨17 + 4 * s, 0, 13, .any, 0⟩, ⟨18 + 4 * s, 0, 32, .range 1 (2 ^ 32 - 1), 1000000⟩])

/-- PRESS (Table 11.5). -/
def fldPress : List Fld := [flag 0 0, ⟨0, 1, 2, .range 1 3, 2⟩, flag 0 3]

/-- COOPER (Table 12.15). -/
def fldCooper : List Fld :=
  [⟨0, 0, 5, .any, 0⟩, ⟨1, 0, 13, .any, 0⟩, ⟨2, 0, 24, .any, 0⟩] ++
  ((List.range 2).flatMap fun t =>
    [⟨4 + 6 * t, 0, 2, .any, 0⟩, ⟨4 + 6 * t, 2, 2, .any, 0⟩, ⟨4 + 6 * t, 4, 2, .upTo 2, 0⟩, ⟨4 + 6 * t, 6, 2, .upTo 2, 0⟩,
      ⟨5 + 6 * t, 0, 18, .upTo 199999, 0⟩, ⟨6 + 6 * t, 0, 13, .range 1 4096, 256⟩, ⟨7 + 6 * t, 0, 16, .range 1 65535, 64⟩,
      ⟨8 + 6 * t, 0, 18, .mult 32 0 262112, 0⟩, ⟨9 + 6 * t, 0, 18, .mult 32 64 131072, 65536⟩])

/-- The curves of Table 15.4. -/
def curveCodes : List Nat := [0x00, 0x01, 0x02, 0x10, 0x11, 0x12, 0x13, 0x14, 0x15, 0x16, 0x20]

/-- AUX (Table 15.6). -/
def fldAux : List Fld :=
  [flag 0 0, ⟨0, 1, 2, .any, 0⟩, ⟨0, 3, 2, .any, 0⟩, ⟨0, 5, 2, .any, 0⟩, flag 0 7, ⟨0, 8, 4, .upTo 8, 0⟩, flag 0 12,
    ⟨0, 13, 4, .any, 0⟩, ⟨1, 0, 8, .oneOf curveCodes, 0⟩, ⟨2, 0, 32, .range 1000 10000000, 100000⟩, flag 3 0, ⟨3, 1, 2, .any, 0⟩,
    flag 3 3, flag 3 4, ⟨4, 0, 32, .srange (-2147483647) 2147483647, 0⟩, ⟨5, 0, 32, .srange (-2147483647) 2147483647, 0⟩] ++
  ([6, 7, 8].map fun w => ⟨w, 0, 32, .srange (-2144047674) 2144047674, 0⟩)

/-- AUX_SEQ (Table 15.7). -/
def fldAuxSeq : List Fld :=
  [⟨0, 0, 3, .upTo 4, 0⟩, flag 0 3, ⟨0, 4, 2, .any, 0⟩, ⟨0, 8, 6, .range 1 32, 1⟩, ⟨1, 0, 24, .range 10 16777215, 10000⟩,
    ⟨2, 0, 9, .range 1 256, 1⟩, ⟨3, 0, 21, .upTo 1048576, 0⟩, ⟨4, 0, 16, .zeroOr 10 1000, 0⟩, ⟨4, 16, 16, .zeroOr 10 1000, 0⟩,
    ⟨5, 0, 16, .zeroOr 10 1000, 0⟩, ⟨5, 16, 16, .zeroOr 10 1000, 0⟩, flag 6 0 1, flag 6 1 1, flag 6 2] ++
  ((List.range 32).map fun s => ⟨8 + s / 4, 8 * (s % 4), 4, .any, 0⟩)

/-- VINTAGE (Table 16.5). -/
def fldVintage : List Fld := [flag 0 0, flag 0 1 1, ⟨0, 2, 3, .upTo 4, 2⟩, flag 0 5, ⟨1, 0, 10, .range 1 1000, 10⟩]

/-! ## Classes (Table 2.10) -/

/-- Where a class's commit domain lies (Table 2.10): its own engine, the owning engine, ZONE or LOCAL. -/
inductive Dom where
  | engine
  | owned
  | zone
  | local
  deriving DecidableEq, Repr

/-- One row of Table 2.10 with the block's length and fields at layout revision 1, the only one. -/
structure Cls where
  code : Nat
  count : Nat
  dom : Dom
  len : Nat
  flds : List Fld
  deriving DecidableEq, Repr

/-- Table 2.10. -/
def classes : List Cls :=
  [⟨0x01, 1, .local, 8, fldSys⟩, ⟨0x02, 1, .local, 5, fldTime⟩, ⟨0x10, 4, .engine, 32, fldProbe⟩, ⟨0x11, 4, .engine, 10, fldRecv⟩,
    ⟨0x12, 4, .engine, 8, fldPhase⟩, ⟨0x13, 4, .engine, 4, fldFining⟩, ⟨0x14, 16, .owned, 8, fldStream⟩, ⟨0x20, 1, .zone, 8, fldZoneCtl⟩,
    ⟨0x21, 256, .zone, 64, fldZoneTable⟩, ⟨0x30, 4, .engine, 16, fldTherm⟩, ⟨0x31, 4, .engine, 216, fldThermCal⟩,
    ⟨0x40, 4, .local, 48, fldHarvest⟩, ⟨0x50, 16, .owned, 4, fldPress⟩, ⟨0x60, 8, .local, 16, fldCooper⟩, ⟨0x70, 4, .local, 8, fldCellar⟩,
    ⟨0x80, 32, .local, 16, fldRing⟩, ⟨0x90, 16, .local, 12, fldAux⟩, ⟨0x91, 1, .local, 16, fldAuxSeq⟩, ⟨0xA0, 4, .local, 6, fldTiu⟩,
    ⟨0xB0, 1, .local, 4, fldVintage⟩, ⟨0xC0, 1, .local, 16, fldPower⟩, ⟨0xD0, 1, .local, 12, fldTaster⟩, ⟨0xE0, 4, .local, 2, fldPeer⟩]

/-- Installed MiB. -/
def installedMib (s : State) : Nat := (s.cellar.ch.toList.map (·.densityMib)).foldl (· + ·) 0

/-- Visible MiB: 15/16 of the installed capacity (R28). -/
def visibleMib (s : State) : Nat := installedMib s * 15 / 16

/-- The fields of a class as SET_PARAM checks them: an area's base lies within the Cellar that is visible now (R28, R54). -/
def Cls.fldsIn (c : Cls) (s : State) : List Fld :=
  c.flds.map fun f => match f.chk with
    | .zeroOrMult k lo _ => { f with chk := .zeroOrMult k lo (cellarLo + visibleMib s * 2 ^ 20 - 1) }
    | _ => f

/-- The class of a code. -/
def clsOf (code : Nat) : Option Cls := classes.find? fun c => c.code = code

/-- A block ID from class and instance. -/
def bid (code inst : Nat) : BlockId := BitVec.ofNat 16 (code * 256 + inst)

/-- Class and instance of a block ID. -/
def BlockId.code (b : BlockId) : Nat := b.toNat / 256
def BlockId.inst (b : BlockId) : Nat := b.toNat % 256

/-- The class of a block ID whose instance is in range (R51). -/
def blockCls (b : BlockId) : Option Cls :=
  match clsOf b.code with
  | some c => if b.inst < c.count then some c else none
  | none => none

/-- POWER's PMB addresses aside, every instance of a class has the same defaults. -/
def dfltBlock (b : BlockId) : List Word :=
  match clsOf b.code with
  | some c => dfltWords c.flds c.len
  | none => []

/-- A block of a set; one that the set does not list holds its defaults. -/
def getBlk (set : List (BlockId × List Word)) (b : BlockId) : List Word := (assocGet set b).getD (dfltBlock b)

/-- The active and the shadow block of a class and instance. -/
def State.act (s : State) (code inst : Nat) : List Word := getBlk s.params.active (bid code inst)
def State.shad (s : State) (code inst : Nat) : List Word := getBlk s.params.shadow (bid code inst)

/-- Store a block in the shadow or active set. -/
def State.setShad (s : State) (b : BlockId) (v : List Word) : State :=
  { s with params := { s.params with shadow := assocSet s.params.shadow b v } }
def State.setAct (s : State) (b : BlockId) (v : List Word) : State :=
  { s with params := { s.params with active := assocSet s.params.active b v } }

/-- The domain kind of a block. -/
def domOf (b : BlockId) : Option Dom :=
  match clsOf b.code with
  | some c => some c.dom
  | none => none

/-- Every block ID of Table 2.10. -/
def allBlocks : List BlockId := classes.flatMap fun c => (List.range c.count).map fun i => bid c.code i

/-- Block IDs of the classes whose domain is LOCAL or ZONE. -/
def localBlocks : List BlockId := (classes.filter fun c => c.dom = .local).flatMap fun c => (List.range c.count).map fun i => bid c.code i
def zoneBlocks : List BlockId := (classes.filter fun c => c.dom = .zone).flatMap fun c => (List.range c.count).map fun i => bid c.code i

/-- The engine a STREAM set names; a PRESS block is owned by its stream's engine (Table 2.10). -/
def streamFe (blk : List Word) : Nat := bf blk 0 1 2

/-- The engines a block belongs to (R51, R52): two where a stream's owner differs between shadow and active sets. -/
def enginesOf (s : State) (b : BlockId) : List Nat :=
  match domOf b with
  | some .engine => [b.inst]
  | some .owned => [streamFe (s.act 0x14 b.inst), streamFe (s.shad 0x14 b.inst)].eraseDups
  | _ => []

/-- The domain bits of Table 2.13 a block belongs to. -/
def domBits (s : State) (b : BlockId) : BitVec 6 :=
  match domOf b with
  | some .zone => 0x10
  | some .local => 0x20
  | _ => (enginesOf s b).foldl (fun m e => m ||| ((1 : BitVec 6) <<< e)) 0

/-- The engine blocks of an engine: its own classes, and the streams and Press blocks its shadow or active sets name. -/
def engineBlocks (s : State) (e : Nat) : List BlockId :=
  ((classes.filter fun c => c.dom = .engine).map fun c => bid c.code e) ++
    ((List.range 16).filter fun i => (enginesOf s (bid 0x14 i)).contains e).flatMap fun i => [bid 0x14 i, bid 0x50 i]

/-! ## Activity (R434) and the outcome of a command -/

/-- An operation whose run is activity in the sense of R434: aux and TIU calibration, training. -/
def OpKind.busy : OpKind → Bool
  | .auxCal _ _ _ | .devCal _ _ _ | .cellarTrain _ _ | .cellarStep _ _ _ => true
  | _ => false

/-- No engine runs, and no core, capture unit, Racking transfer, TIU, calibration, training or Taster run is active (R434). -/
def isIdle (s : State) : Bool :=
  (List.range 4).all (fun f => !bfb (s.act 0x10 f) 0 0) && s.core.toList.all (fun c => c.st ≠ .running && c.st ≠ .waiting) &&
    s.harv.toList.all (fun h => h.st ≠ .armed && h.st ≠ .post && h.st ≠ .reading) &&
    s.rings.toList.all (fun r => r.cur.isNone && r.reads.isEmpty && r.gathered.isEmpty) && s.tiu.toList.all (fun t => t.ph = .idle) &&
    !(s.proto.ops.any fun o => o.kind.busy) && s.taster.run.isNone

/-- The power manager's record of activity: activity returns the device to RUN, and the idle time counts from its end (R434). -/
def idlePower (s : State) : Power :=
  if 2 ≤ s.power.state.val || s.power.entering.isSome then s.power
  else if isIdle s then { s.power with idleSince := some (s.power.idleSince.getD s.time.clk) }
  else { s.power with idleSince := none, state := 0 }

/-- The state with activity noted. -/
def State.noteIdle (s : State) : State := { s with power := idlePower s }

/-- The outcome of a command that goes on. -/
def ok (s : State) : Host.Outcome State Fault Refusal := .next s.noteIdle

end Sys2Proof.Machine
end

