-- ==== Sys2Proof/Machine/Protocol.lean ====
section
/-! DEFINITION. The Rosvor protocol's shared operations (02): packets, replies, events, sessions, the acceptance of Table 2.3, and the
runner that every opcode's meaning calls. -/

namespace Sys2Proof.Machine

/-! ## Status codes (Tables 2.8, 2.9) -/

def stOk : Nat := 0x00
def stPending : Nat := 0x01
def stCompleted : Nat := 0x02
def stAborted : Nat := 0x03
def stBadOpcode : Nat := 0x10
def stBadLength : Nat := 0x11
def stBadParam : Nat := 0x12
def stVersion : Nat := 0x13
def stBusy : Nat := 0x20
def stBusyCommit : Nat := 0x21
def stDenied : Nat := 0x22
def stQueued : Nat := 0x23
def stLength : Nat := 0x30
def stExhausted : Nat := 0x31
def stHwFault : Nat := 0x40
def stTimeout : Nat := 0x41
def stRefMissing : Nat := 0x42
def dtCrc : Nat := 0xFF01
def dtSession : Nat := 0xFF02
def dtReused : Nat := 0xFF03
def dtStale : Nat := 0xFF04
def dtTooSoon : Nat := 0xFF05
def dtUnknown : Nat := 0xFF06
def dtCross : Nat := 0xFF07
def dtNotReady : Nat := 0xFFD4

/-- The status word (Table 2.2). -/
def statusWord (st det : Nat) : Word := BitVec.ofNat 32 (st + det * 65536)

/-! ## Packets (Table 2.1) -/

/-- A packet the device sends. -/
def packetBytes (major minor opcode : Nat) (seq : Word) (event : Bool) (sess : Nat) (payload : List Word) : List Byte :=
  wordsBytes [BitVec.ofNat 32 (minor + major * 256 + opcode * 65536), seq,
    BitVec.ofNat 32 (payload.length + (if event then 0x20000 else 0x10000) + sess * 2 ^ 24), crc32c (wordsBytes payload)] ++
  wordsBytes payload

/-- The session of an id on any transport. -/
def State.session (s : State) (id : BitVec 8) : Option Session := s.proto.sessions.find? fun x => x.id = id

/-- Replace a session. -/
def State.updSession (s : State) (id : BitVec 8) (f : Session → Session) : State :=
  { s with proto := { s.proto with sessions := s.proto.sessions.map fun x => if x.id = id then f x else x } }

/-- The version a packet under a session carries: the agreed one, or 2.3 under none (R34). -/
def State.versionOf (s : State) (id : BitVec 8) : Nat × Nat :=
  match s.session id with
  | some x => (x.major, x.minor)
  | none => (2, 3)

/-- Put a packet into the SMBus buffer by R71: a place, else in the oldest event's place, else an event is discarded and a reply held. -/
def smbPush (p : Proto) (i : SmbItem) : Proto :=
  if p.smb.length < 8 then { p with smb := p.smb ++ [i] }
  else match (p.smb.take 8).findIdx? (·.isEvent) with
    | some k => { p with smb := p.smb.eraseIdx k ++ [i], smbDiscard := true }
    | none => if i.isEvent then { p with smbDiscard := true } else { p with smb := p.smb ++ [i] }

/-- A reply or event for SMBus: into the buffer, or kept back until the CP runs again (R24). -/
def smbSend (restarting : Bool) (i : SmbItem) (p : Proto) : Proto :=
  if restarting then { p with smbLater := p.smbLater ++ [i] } else smbPush p i

/-- Put an item into a ring's CP-area queue (R356). -/
def State.ringPush (s : State) (n : RingId) (i : Item) : State := s.updRing n fun r => { r with queue := r.queue ++ [i] }

/-- The ring whose number a field holds. -/
def ringOf (n : Nat) : RingId := ⟨n % 32, by omega⟩

/-- Send a reply or event on a transport: the paired reply ring, the session's event ring, or the SMBus buffer, whose alert pin is low while
something waits (R32, R71, R476). -/
def State.send (s : State) (via : Transport) (sess : BitVec 8) (event : Bool) (bytes : List Byte) : State :=
  match via with
  | .ring n =>
    let w1 := wordAt (s.act 0x80 n.val) 1
    let dest := if event then ringOf (wbits w1 8 5) else ringOf (wbits w1 0 5)
    if bfb (s.act 0x80 n.val) 0 0 && bfb (s.act 0x80 dest.val) 0 0 then s.ringPush dest ⟨bytes, sess, if event then 1 else 0, 0⟩ else s
  | .smbus =>
    let s' := { s with proto := smbSend (s.life.phase = 4) ⟨bytes, event⟩ s.proto }
    if s.proto.smb.isEmpty && !s'.proto.smb.isEmpty then s'.pin .smbAlertN false else s'

/-- What SMBus was to send while the CP restarted goes into the buffer (R24). -/
def releaseSmb (s : State) : State :=
  s.proto.smbLater.foldl (fun s i =>
    let s' := { s with proto := smbPush s.proto i }
    if s.proto.smb.isEmpty then s'.pin .smbAlertN false else s') { s with proto := { s.proto with smbLater := [] } }

/-- Send a reply of a session with a version, and a SESSION field in its header, of its own. -/
def State.replyUnder (s : State) (hdr : BitVec 8) (ver : Nat × Nat) (via : Transport) (sess : BitVec 8) (opcode : BitVec 16) (seq : Word)
    (event : Bool) (payload : List Word) : State :=
  s.send via sess event (packetBytes ver.1 ver.2 opcode.toNat seq event hdr.toNat payload)

/-- Send a reply under a session id with a version of its own. -/
def State.replyAs (s : State) (ver : Nat × Nat) (via : Transport) (sess : BitVec 8) (opcode : BitVec 16) (seq : Word) (event : Bool)
    (payload : List Word) : State :=
  s.replyUnder sess ver via sess opcode seq event payload

/-- Hold a final payload in the reply cache as the answer of its sequence number; after ACCEPTED_PENDING and POWER_QUEUED the command
still runs, and a resend gets no second reply (R43). -/
def storeReply (x : Session) (seq : Word) (payload : List Word) : Session :=
  if wbits (wordAt payload 0) 0 8 = stPending || wbits (wordAt payload 0) 0 8 = stQueued then x else { x with cache := x.cache.map fun e => if e.seq = seq then { e with reply := some payload } else e }

/-- Answer a command of a session: cached, then sent as reply or event; discarded where the session is gone (R33, R43, R45). -/
def State.answer (s : State) (via : Transport) (sess : BitVec 8) (opcode : BitVec 16) (seq : Word) (event : Bool)
    (payload : List Word) : State :=
  if sess = 0 then s.replyAs (2, 3) via sess opcode seq event payload
  else match s.session sess with
    | some x => (s.updSession sess fun y => storeReply y seq payload).replyAs (x.major, x.minor) x.via sess opcode seq event payload
    | none => s

/-! ## Operations that answer later (R45, R65, R66) -/

/-- Record that an abortable command has passed its completion point (R63). -/
def State.noteDone (s : State) (sess : BitVec 8) (seq : Word) (opcode : BitVec 16) : State :=
  { s with proto := { s.proto with completed := ((sess, seq, opcode) :: s.proto.completed).take 256 } }

/-- An outcome of an operation that ended before its completion point (R64, R66, R67). -/
def cutShort (st : Nat) : Bool := st = stAborted || st = stTimeout || st = stDenied

/-- End an operation: its final status as deferred reply or completion event, and, unless it was cut short, the record that it completed
(R63, R64). -/
def State.finish (s : State) (o : Op) (st det : Nat) (ws : List Word) : State :=
  let s0 := { s with proto := { s.proto with ops := s.proto.ops.erase o } }
  let s1 := if cutShort st then s0 else s0.noteDone o.sess o.seq o.opcode
  if o.sess = 0 then s1 else
    match s1.session o.sess with
    | some x => s1.answer x.via o.sess o.opcode o.seq o.event (statusWord st det :: ws)
    | none => s1

/-- Start an operation that answers later. -/
def State.addOp (s : State) (r : Req) (kind : OpKind) (event : Bool) : State :=
  { s with proto := { s.proto with ops := s.proto.ops ++ [⟨r.sess, r.seq, r.opcode, kind, event, s.time.clk⟩] } }

/-- The operation of a session's sequence number. -/
def State.findOp (s : State) (sess : BitVec 8) (seq : Word) : Option Op :=
  s.proto.ops.find? fun o => o.sess = sess && o.seq = seq

/-- The first operation of a kind. -/
def State.opWhere (s : State) (p : OpKind → Bool) : Option Op := s.proto.ops.find? fun o => p o.kind

/-- A completed abortable command of the session within its last 64 sequence numbers (R63). -/
def State.wasCompleted (s : State) (sess : BitVec 8) (seq : Word) (codes : List (BitVec 16)) : Bool :=
  s.proto.completed.any fun c => c.1 = sess && c.2.1 = seq && codes.contains c.2.2 &&
    (match s.session sess with
      | some x => (match x.highest with | some h => fwd seq h < 64 | none => false)
      | none => false)

/-! ## Acceptance (Table 2.3) -/

/-- Session 0 may carry HELLO, INFO and ECHO only (R34); another id must be held on this transport. -/
def sessionValid (s : State) (r : Req) : Bool :=
  if r.sess = 0 then r.opcode = 1 || r.opcode = 2 || r.opcode = 3
  else match s.session r.sess with
    | some x => x.via = r.via
    | none => false

/-- Step 5 of Table 2.3 (R42, R43). -/
inductive SeqJudge where
  | new
  | again (reply : Option (List Word))
  | reused
  | stale
  deriving DecidableEq, Repr

/-- Judge a sequence number by the session's cache and highest used number (R42). -/
def judgeSeq (x : Session) (r : Req) : SeqJudge :=
  match x.cache.find? fun e => e.seq = r.seq with
  | some e => if e.opcode = r.opcode && e.crc = r.crc then .again e.reply else .reused
  | none => match x.highest with
    | none => .new
    | some h => if 1 ≤ fwd h r.seq && fwd h r.seq < 2 ^ 31 then .new else .stale

/-- The sequence number becomes used (R42): highest, and one of the 64 cached. -/
def useSeq (x : Session) (r : Req) : Session :=
  { x with highest := some r.seq, cache := (⟨r.seq, r.opcode, r.crc, none⟩ :: x.cache).take 64 }

/-- An uncached refusal (steps 1-5). -/
def State.refuse (s : State) (r : Req) (st det : Nat) : State :=
  s.replyAs (s.versionOf r.sess) r.via r.sess r.opcode r.seq false [statusWord st det]

/-- Step 5 on a packet that passed steps 1-4: a new command joins those that wait, a duplicate is answered from the cache. -/
def acceptSeq (r : Req) (s : State) : State :=
  if r.sess = 0 then { s with proto := { s.proto with waiting := s.proto.waiting ++ [r] } }
  else match s.session r.sess with
    | none => s.refuse r stBadParam dtSession
    | some x => match judgeSeq x r with
      | .new =>
        let s1 := s.updSession r.sess fun y => useSeq y r
        { s1 with proto := { s1.proto with waiting := s1.proto.waiting ++ [r] } }
      | .again (some p) => s.replyAs (x.major, x.minor) x.via r.sess r.opcode r.seq false p
      | .again none => s
      | .reused => s.refuse r stBadParam dtReused
      | .stale => s.refuse r stBadParam dtStale

/-- The steps 3 and 5 that a packet given as a command of the table takes when it did not arrive before. -/
def acceptReq (r : Req) (s : State) : State :=
  if sessionValid s r then acceptSeq r s else s.refuse r stBadParam dtSession

/-- The transport's payload limit in words (R39). -/
def payloadLimit : Transport → Nat
  | .ring _ => 16384
  | .smbus => 59

/-- The packet a buffer holds, with the flags of header word 2 (Table 2.1). -/
def parseReq (via : Transport) (buf : List Byte) : Req × Nat × Nat × Word :=
  let h := bytesWords 4 buf
  let w0 := wordAt h 0
  let w2 := wordAt h 2
  let len := wbits w2 0 16
  (⟨via, BitVec.ofNat 8 (wbits w2 24 8), wordAt h 1, BitVec.ofNat 16 (wbits w0 16 16), wordAt h 3, bytesWords len (buf.drop 16)⟩,
    len, wbits w0 0 16, w2)

/-- Steps 1-5 of Table 2.3 on a buffer read from a transport. -/
def judgePacket (via : Transport) (buf : List Byte) (s : State) : State :=
  let (r, len, ver, w2) := parseReq via buf
  if payloadLimit via < len then s.refuse r stBadLength (payloadLimit via)
  else if buf.length < 16 + 4 * len then s.refuse { r with payload := [] } stBadLength 0
  else if crc32c (wordsBytes r.payload) ≠ r.crc then s.refuse r stBadParam dtCrc
  else if !sessionValid s r then s.refuse r stBadParam dtSession
  else if wbits w2 16 2 ≠ 0 || wbits w2 19 5 ≠ 0 then s.refuse r stBadParam 0
  else match s.session r.sess with
    | some x =>
      if r.opcode ≠ 1 && ver ≠ x.minor + x.major * 256 then s.refuse r stVersion (x.minor + x.major * 256)
      else acceptSeq r s
    | none => acceptSeq r s

/-! ## The runner -/

/-- What a command answers now: status, DETAIL and result words, or nothing yet; and the state it leaves. -/
structure Res where
  ans : Option (Nat × Nat × List Word)
  st : State

/-- An answer. -/
def Res.rep (st det : Nat) (ws : List Word) (s : State) : Res := ⟨some (st, det, ws), s⟩
/-- OK with result words. -/
def Res.ok (ws : List Word) (s : State) : Res := ⟨some (stOk, 0, ws), s⟩
/-- BAD_PARAM naming a payload word or a DETAIL. -/
def Res.bad (det : Nat) (s : State) : Res := ⟨some (stBadParam, det, []), s⟩
/-- The answer comes later. -/
def Res.later (s : State) : Res := ⟨none, s⟩

/-- The CP reads and executes commands (phases READY and halted-on-fault), and the device is in RUN or IDLE (R439, R456). -/
def cpRuns (s : State) : Bool :=
  !s.life.inReset && (s.life.phase = 3 || (s.life.phase = 5 && s.life.running.isSome)) && s.power.state.val ≤ 1 && s.power.entering.isNone

/-- Replies and events of a session that wait for delivery (R356, R71). -/
def heldItems (s : State) (x : Session) : Nat :=
  match x.via with
  | .ring _ => (s.rings.toList.map fun r => (r.queue.filter fun i => i.sess = x.id).length).foldl (· + ·) 0
  | .smbus => 0

/-- The session may have a command executed: fewer than 64 of its replies and events wait (R356). -/
def sessionFree (s : State) (r : Req) : Bool :=
  match s.session r.sess with
  | some x => heldItems s x < 64
  | none => true

/-- The packet is the oldest of its session that waits (R45). -/
def isHead (s : State) (r : Req) : Bool := (s.proto.waiting.find? fun q => q.sess = r.sess && q.via = r.via) = some r

/-- The dialogue a command belongs to: its session, or a transport without one. -/
def reqKey (r : Req) : BitVec 8 × Transport := (r.sess, r.via)

/-- How recently a dialogue was served: 0 never. -/
def turnRank (s : State) (k : BitVec 8 × Transport) : Nat := match s.proto.served.idxOf? k with | some i => i + 1 | none => 0

/-- No other session that could have a command executed has waited for its turn longer (R45): sessions are taken in turn, one command each; of
those never served, the one whose packet arrived first. -/
def isTurn (s : State) (r : Req) : Bool :=
  let heads := s.proto.waiting.filter fun q => isHead s q && sessionFree s q
  match heads with
  | [] => true
  | q :: l =>
    let best := l.foldl (fun b x => if turnRank s (reqKey x) < turnRank s (reqKey b) then x else b) q
    reqKey best = reqKey r || !(heads.any fun q => reqKey q = reqKey r)

/-- A command leaves those that wait, and its session's turn is over (R45). -/
def State.take (s : State) (r : Req) : State :=
  { s with proto := { s.proto with waiting := s.proto.waiting.erase r, served := (s.proto.served.filter (· ≠ reqKey r)) ++ [reqKey r] } }

/-- The opcodes of Tables 2.4 and of the chapters' own opcode tables. -/
def knownOps : List Nat :=
  [0x0001, 0x0002, 0x0003, 0x0004, 0x0101, 0x0102, 0x0103, 0x0104, 0x0105, 0x0201, 0x0202, 0x0203, 0x0204, 0x0205,
    0x0206, 0x0207, 0x0208, 0x0209, 0x0301, 0x0302, 0x0303, 0x0401, 0x0402, 0x0403, 0x0404, 0x0501, 0x0502, 0x0503,
    0x0504, 0x0505, 0x0506, 0x0601, 0x0602, 0x0603, 0x0604, 0x0605, 0x0701, 0x0702, 0x0703, 0x0704, 0x0705, 0x0706,
    0x0707, 0x0801, 0x0802, 0x0803, 0x0804, 0x0901, 0x0902, 0x0903, 0x0904, 0x0905, 0x0906, 0x0907, 0x0A01, 0x0A02,
    0x0A03, 0x0A04, 0x0A05, 0x0A06, 0x0A07, 0x0B01, 0x0B02, 0x0B03, 0x0B04, 0x0C01, 0x0C02, 0x0C03, 0x0C04, 0x0C05,
    0x0C06, 0x0C07, 0x0C08, 0x0C09, 0x0C0A, 0x0D01, 0x0D02, 0x0D03]

/-- A feature bit agreed by the command's session; bits 0-9 under no session (R47). -/
def hasFeature (s : State) (sess : BitVec 8) (bit : Nat) : Bool :=
  match s.session sess with
  | some x => x.features.getLsbD bit
  | none => sess = 0

/-- The opcodes that PHASE 5 accepts (R451); FW_ACTIVATE only with MODE 1. -/
def phase5Ok (r : Req) : Bool :=
  [0x0001, 0x0002, 0x0003, 0x0004, 0x0C01, 0x0C03, 0x0C05].contains r.opcode.toNat ||
    (r.opcode = 0x0C06 && wbits (wordAt r.payload 0) 0 1 = 1)

/-- Send a command's answer, if it has one now. -/
def Res.deliver (res : Res) (r : Req) (event : Bool) : State :=
  match res.ans with
  | some (st, det, ws) => res.st.answer r.via r.sess r.opcode r.seq event (statusWord st det :: ws)
  | none => res.st

/-- A LENGTH outside what the opcode accepts: the accepted length nearest to it (R39). -/
def nearest (lo hi n : Nat) : Nat := if n < lo then lo else hi

/-- Steps 6-11 of Table 2.3 on a command whose turn has come: it leaves those that wait; features, length, then the handler. -/
def execReq (feats : List Nat) (lo hi : Nat) (h : Req → State → Res) (r : Req) (s : State) : State :=
  let s1 := s.take r
  let res :=
    if s.life.phase = 5 && !phase5Ok r then Res.rep stBusy dtNotReady [] s1
    else if !feats.all (hasFeature s r.sess) then Res.rep stBadOpcode 0 [] s1
    else if r.payload.length < lo || hi < r.payload.length then Res.rep stBadLength (nearest lo hi r.payload.length) [] s1
    else h r s1
  res.deliver r false

/-- A waiting command whose turn has come meets its handler; where its session has been closed meanwhile (R33, R50) it is refused with
SESSION_UNKNOWN, which is the model's choice (log entry 14). -/
def runTurn (feats : List Nat) (lo hi : Nat) (h : Req → State → Res) (r : Req) (s : State) : State :=
  if sessionValid s r then execReq feats lo hi h r s else (s.take r).refuse r stBadParam dtSession

/-- A packet whose opcode no table gives, at its turn (Table 2.3 step 6): BAD_OPCODE. -/
def unknownDue (s : State) : Option Req :=
  s.proto.waiting.find? fun r => !knownOps.contains r.opcode.toNat && isHead s r && isTurn s r && sessionFree s r

/-- Packets with unknown opcodes whose turn has come are answered. -/
def answerUnknown : Nat → State → State
  | 0, s => s
  | k + 1, s => match unknownDue s with
    | some r => answerUnknown k (runTurn [] 0 r.payload.length (fun _ s => Res.rep stBadOpcode 0 [] s) r s)
    | none => s

/-- The same, where the CP runs; the check passes a state in which no such packet waits. -/
def settleUnknown (s : State) : State :=
  if s.proto.waiting.all (fun r => knownOps.contains r.opcode.toNat) || !cpRuns s then s else answerUnknown s.proto.waiting.length s

/-- A command packet is read from its transport (R41). -/
def arrive (via : Transport) (buf : List Byte) (s : State) : State := settleUnknown (judgePacket via buf s)

/-- A command of the table: accepted if it did not arrive before and the CP runs, executed if its turn has come, else left waiting (R24, R42, R45). -/
def runOp (code : Nat) (feats : List Nat) (lo hi : Nat) (ahead : Bool) (h : Req → State → Res) (r0 : Req) (s0 : State) : State :=
  let r := { r0 with opcode := BitVec.ofNat 16 code }
  let s := settleUnknown s0
  let s1 := if s.proto.waiting.contains r || !cpRuns s then s else acceptReq r s
  if s1.proto.waiting.contains r && cpRuns s1 && sessionFree s1 r && (ahead || isHead s1 r) && isTurn s1 r then runTurn feats lo hi h r s1 else s1

/-- rsvd bits of payload word `i`: those outside a mask must be 0 (R7). -/
def rsvdBad (r : Req) (i : Nat) (mask : Nat) : Bool := (wordAt r.payload i).toNat &&& mask ≠ (wordAt r.payload i).toNat

/-! ## Sessions -/

/-- Close a session (R33, R50): what it started goes on, its replies and events are discarded. -/
def State.closeSession (s : State) (id : BitVec 8) : State :=
  { s with
    proto := { s.proto with
      sessions := s.proto.sessions.filter fun x => x.id ≠ id
      served := s.proto.served.filter fun k => k.1 ≠ id
      ops := s.proto.ops.map fun o => if o.sess = id then { o with sess := 0 } else o }
    commits := s.commits.map fun c => if c.sess = id then { c with sess := 0 } else c
    peer := { s.peer with
      armed := s.peer.armed.map fun a => if a.sess = id then { a with sess := 0 } else a
      shared := s.peer.shared.map fun a => if a.sess = id then { a with sess := 0 } else a }
    power := { s.power with
      queue := s.power.queue.map fun q => if q.req.sess = id then { q with req := { q.req with sess := 0 } } else q
      grants := s.power.grants.map fun g => match g.1 with
        | .commit i n => if i = id then (.commit 0 n, g.2) else g
        | _ => g } }

/-- Close every session on a transport. -/
def State.closeVia (s : State) (via : Transport) : State :=
  (s.proto.sessions.filter fun x => x.via = via).foldl (fun s x => s.closeSession x.id) s

/-- The version agreement of R46: major and minor, or none. -/
def agree (minMaj maxMaj maxMin : Nat) : Option (Nat × Nat) :=
  let m := if minMaj ≤ 2 && 2 ≤ maxMaj then 2 else if minMaj ≤ 1 && 1 ≤ maxMaj then 1 else 0
  if m = 0 then none
  else
    let dev := if m = 2 then 3 else 4
    some (m, if m = maxMaj then min maxMin dev else dev)

/-- The features offered under a major (Table 2.7). -/
def offered (major : Nat) : BitVec 64 := if major = 2 then 0x3FF else 0x21D

/-- A free session id: the device's pick where it is free, else the lowest free one. -/
def pickSession (s : State) : BitVec 8 :=
  let used := s.proto.sessions.map (·.id)
  let c := BitVec.ofNat 8 (Config.sessionPick s.free % 255 + 1)
  if used.contains c then ((((List.range 255).map fun i => BitVec.ofNat 8 (i + 1)).find? fun i => !used.contains i).getD 1) else c

/-- HELLO (R33, R46). The reply carries the agreed version and goes on the same transport; which session its header's SESSION names is not stated,
so that byte is free (log entry 20). -/
def doHello (r : Req) (s : State) : State :=
  let w0 := wordAt r.payload 0
  if s.life.phase = 5 && !phase5Ok r then s.refuse r stBusy dtNotReady
  else if r.payload.length ≠ 3 then s.answer r.via r.sess r.opcode r.seq false [statusWord stBadLength 3]
  else if rsvdBad r 0 0xFFFFFF then s.answer r.via r.sess r.opcode r.seq false [statusWord stBadParam 0]
  else match agree (wbits w0 16 8) (wbits w0 8 8) (wbits w0 0 8) with
    | none => s.answer r.via r.sess r.opcode r.seq false [statusWord stVersion 0x0203]
    | some (maj, mnr) =>
      let s1 := s.closeVia r.via
      if 4 ≤ s1.proto.sessions.length then s.answer r.via r.sess r.opcode r.seq false [statusWord stExhausted 0]
      else
        let id := pickSession s1
        let feats := word64 r.payload 1 &&& offered maj
        let s2 := { s1 with
          free := s1.free + 1
          proto := { s1.proto with sessions := s1.proto.sessions ++ [(⟨id, r.via, maj, mnr, feats, none, []⟩ : Session)] } }
        s2.replyUnder (Config.helloSession s1.free) (maj, mnr) r.via id r.opcode r.seq false
          ([statusWord stOk 0, BitVec.ofNat 32 (mnr + maj * 256 + id.toNat * 65536)] ++ split64 feats ++
            [BitVec.ofNat 32 (payloadLimit r.via + 64 * 65536)])

/-- INFO (Table 2.11). -/
def doInfo (r : Req) (s : State) : Res :=
  let major := match s.session r.sess with | some x => x.major | none => 2
  let fw := match s.life.running with | some (i, _) => i.version | none => 0
  let mib := (s.cellar.ch.toList.map (·.densityMib)).foldl (· + ·) 0
  Res.ok ([0x71801F70, 0xB0, fw, BitVec.ofNat 32 mib] ++ split64 (offered major) ++ [0x304] ++
    classes.map fun c => BitVec.ofNat 32 (c.code + 256 + c.len * 65536)) s

/-- ECHO (R49, R72). -/
def doEcho (r : Req) (s : State) : Res :=
  if r.via = .smbus && 59 < r.payload.length + 1 then Res.rep stBadLength 59 [] s else Res.ok r.payload s

/-! ## Parameter opcodes (R51-R56) -/

/-- A commit that is queued or scheduled holds one of the domains (R60). -/
def locked (s : State) (doms : BitVec 6) : Bool := s.commits.any fun c => c.doms &&& doms ≠ 0

/-- Words of a block replaced from an offset on. -/
def overlay (b : List Word) (off : Nat) (ws : List Word) : List Word :=
  (List.range b.length).map fun i => if off ≤ i && i < off + ws.length then wordAt ws (i - off) else wordAt b i

/-- The first word of a range that is not acceptable. -/
def firstBad (fs : List Fld) (b : List Word) (off n : Nat) : Option Nat :=
  (List.range n).find? fun i => !wordOk fs b (off + i)

/-- The class of a block that SET_PARAM and GET_PARAM may name: instance 0xFF belongs to DEFAULTS alone, so the last block of ZONE_TABLE cannot be
written or read by them (R51). -/
def oneBlock (b : BlockId) : Option Cls := if b.inst = 0xFF then none else blockCls b

/-- SET_PARAM (R53, R54). Block fields of a feature that is not agreed (PRESS DYNAMIC, PTM_EN, FUSE_EN) are written like any other: the model's
choice (log entry 24). Only the engines that own a STREAM or PRESS block before the write are asked for a lock: the model's choice (log entry 15). -/
def doSetParam (r : Req) (s : State) : Res :=
  let w0 := wordAt r.payload 0
  let w1 := wordAt r.payload 1
  let b : BlockId := BitVec.ofNat 16 (wbits w0 0 16)
  let off := wbits w1 0 16
  let n := wbits w1 16 12
  if n ≠ 0 && r.payload.length ≠ 2 + n then Res.rep stBadLength (2 + n) [] s
  else match oneBlock b with
    | none => Res.bad 0 s
    | some c =>
      if 1 < wbits w0 16 16 then Res.rep stVersion 1 [] s
      else if n = 0 || wbits w1 28 4 ≠ 0 || c.len < off + n then Res.bad 1 s
      else
        let new := overlay (getBlk s.params.shadow b) off (r.payload.drop 2)
        match firstBad (c.fldsIn s) new off n with
        | some i => Res.bad (2 + i) s
        | none => if locked s (domBits s b) then Res.rep stBusyCommit 0 [] s else Res.ok [] (s.setShad b new)

/-- GET_PARAM (R53, R72). R72's check of the reply's length comes after the fields' checks: the model's choice (log entry 16). -/
def doGetParam (r : Req) (s : State) : Res :=
  let w0 := wordAt r.payload 0
  let w1 := wordAt r.payload 1
  let b : BlockId := BitVec.ofNat 16 (wbits w0 0 16)
  let off := wbits w1 0 16
  let n := wbits w1 16 12
  let sel := wbits w1 28 2
  match oneBlock b with
  | none => Res.bad 0 s
  | some c =>
    if 1 < wbits w0 16 16 then Res.rep stVersion 1 [] s
    else if n = 0 || sel = 3 || wbits w1 30 2 ≠ 0 || c.len < off + n then Res.bad 1 s
    else if r.via = .smbus && 59 < n + 1 then Res.rep stBadLength 59 [] s
    else
      let blk := if sel = 0 then getBlk s.params.shadow b else if sel = 1 then getBlk s.params.active b else dfltBlock b
      Res.ok ((blk.drop off).take n) s

/-- DEFAULTS (R56): one block, or every instance of a class. -/
def doDefaults (r : Req) (s : State) : Res :=
  let b : BlockId := BitVec.ofNat 16 (wbits (wordAt r.payload 0) 0 16)
  if rsvdBad r 0 0xFFFF then Res.bad 0 s
  else
    let ids := if b.inst = 0xFF then (match clsOf b.code with | some c => (List.range c.count).map (bid c.code) | none => [])
      else (match blockCls b with | some _ => [b] | none => [])
    if ids.isEmpty then Res.bad 0 s
    else if ids.any fun i => locked s (domBits s i) then Res.rep stBusyCommit 0 [] s
    else Res.ok [] (ids.foldl (fun s i => s.setShad i (dfltBlock i)) s)

end Sys2Proof.Machine
end

