-- ==== Sys2Proof/Machine/Interlock.lean ====
section
/-! DEFINITION. The interlock outputs (15.7): when a pin may be high, and moving it. -/

namespace Sys2Proof.Machine

/-- The active AUX set of an input, and the active AUX_SEQ set. -/
def auxBlk (s : State) (i : AuxId) : List Word := s.act 0x90 i.val
def seqBlk (s : State) : List Word := s.act 0x91 0

def axEn (b : List Word) : Bool := bfb b 0 0
def axMux (b : List Word) : Nat := bf b 0 1 2
def axExc (b : List Word) : Nat := bf b 0 3 2
def axGain (b : List Word) : Nat := bf b 0 5 2
def axAuto (b : List Word) : Bool := bfb b 0 7
def axOver (b : List Word) : Nat := bf b 0 8 4
def axRatio (b : List Word) : Bool := bfb b 0 12
def axRatioIn (b : List Word) : Nat := bf b 0 13 4
def axCurve (b : List Word) : Nat := bf b 1 0 8
def axIntlk (b : List Word) : Bool := bfb b 3 0
def axPin (b : List Word) : Nat := bf b 3 1 2

def sqStart (b : List Word) : Nat := bf b 0 0 3
def sqSlots (b : List Word) : Nat := bf b 0 8 6
/-- The input of slot `n`. -/
def sqSlot (b : List Word) (n : Nat) : AuxId := ⟨bf b (8 + n / 4) (8 * (n % 4)) 4, by unfold bf bitsOf; exact Nat.mod_lt _ (by decide)⟩
/-- EXC_UA of a source. -/
def sqExc (b : List Word) (j : Nat) : Nat := bf b (4 + j / 2) (16 * (j % 2)) 16
/-- The inputs of the sequence, slot by slot. -/
def sqInputs (b : List Word) : List AuxId := (List.range (sqSlots b)).map (sqSlot b)

/-- AUX_SYSCAL or CAL_AUX is running: the sequencer is stopped (R393, R411). -/
def syscalRuns (s : State) : Bool := s.proto.ops.any fun o => match o.kind with
  | .auxCal op _ _ => op = 0x0903
  | .devCal op _ _ => op = 0x0A02
  | _ => false

/-- AUX_SELFCAL or AUX_TEST is running: it takes every second conversion slot (R392, R394). -/
def halfRate (s : State) : Bool := s.proto.ops.any fun o => match o.kind with
  | .auxCal op _ _ => op = 0x0902 || op = 0x0904
  | _ => false

/-- The sequencer is running. -/
def seqRuns (s : State) : Bool := sqStart (seqBlk s) ≠ 0 && !syscalRuns s

/-- A pin may be high (R389). -/
def permit (s : State) (pin : Nat) : Bool :=
  let mine := (List.finRange 16).filter fun i => axIntlk (auxBlk s i) && axPin (auxBlk s i) = pin
  seqRuns s && !s.life.thermtrip && !s.life.inReset && decide (s.power.state.val < 3) && mine.any (fun i => axEn (auxBlk s i)) &&
    mine.all fun i => axEn (auxBlk s i) && (sqInputs (seqBlk s)).contains i && !s.aux.inp[i].tripped

/-- Bring the INTLK pins to what R389 gives. -/
def refreshIntlk (s : State) : State :=
  (List.finRange 4).foldl (fun s p =>
    let b := permit s p.val
    if b = s.aux.pins.getLsbD p.val then s
    else ({ s with aux := { s.aux with pins := s.aux.pins ^^^ ((1 : BitVec 4) <<< p.val) } }).pin (.intlk p) b) s

/-- What applying an AUX or AUX_SEQ set does beyond becoming active: the starting gain (R386), the excitation currents (R377), the timer (R379). -/
def auxEffect (i : Nat) (old new : List Word) (s : State) : State :=
  let n : AuxId := ⟨i % 16, by omega⟩
  if old = new then s
  else { s with aux := { s.aux with inp := s.aux.inp.set n { s.aux.inp[n] with
    gain := axGain new, low := 0
    tripped := s.aux.inp[n].tripped || !axIntlk old, freed := s.aux.inp[n].freed || !axIntlk old } } }

/-- The same for AUX_SEQ. -/
def auxSeqEffect (old new : List Word) (s : State) : State :=
  { s with aux := { s.aux with
    timerAt := if sqStart new = 2 then s.time.clk else s.aux.timerAt
    probeDue := if sqStart new = 4 then s.aux.probeDue else []
    excAt := (s.aux.excAt.zip (Vector.ofFn fun (j : Fin 4) => decide (sqExc old j.val = sqExc new j.val))).map
      fun p => if p.2 then p.1 else s.time.clk } }

end Sys2Proof.Machine
end

