-- ==== Sys2Proof/Machine/Commit.lean ====
section
/-! DEFINITION. Scheduled commits (2.6, 2.7): budgets they hold, application of blocks, completion and withdrawal. -/

namespace Sys2Proof.Machine

/-! ## Admission budgets (R429, Table 17.2) -/

/-- G of a PROBE set (Table 4.5). -/
def groupsOf (p : List Word) : Nat := 2 ^ bf p 0 1 2
/-- PERIOD of a PROBE set, in 8 ns. -/
def periodOf (p : List Word) : Nat := bf p 1 0 18
/-- PERIOD in ps. -/
def periodPs (p : List Word) : Nat := periodOf p * 8000
/-- EN of tone k. -/
def toneOn (p : List Word) (k : Nat) : Bool := bfb p (16 + 2 * k) 0
/-- GROUP of tone k. -/
def toneGroup (p : List Word) (k : Nat) : Nat := bf p (16 + 2 * k) 1 3
/-- FREQ of tone k in kHz. -/
def toneFreq (p : List Word) (k : Nat) : Nat := bf p (17 + 2 * k) 0 21
/-- AMPL of tone k. -/
def toneAmpl (p : List Word) (k : Nat) : Nat := bf p (16 + 2 * k) 16 16
/-- The enabled tones. -/
def tonesOf (p : List Word) : List Nat := (List.range 8).filter (toneOn p)
/-- RUN of a PROBE set. -/
def runOf (p : List Word) : Bool := bfb p 0 0
/-- N_CH of a RECV set. -/
def nChOf (r : List Word) : Nat := bf r 7 0 18

/-- Budget in mW of an engine under its sets; 0 where RUN is 0 (Table 17.2). -/
def engineBudget (probe recv therm : List Word) : Nat :=
  if runOf probe then
    let p8 := 8 * periodOf probe
    let n := nChOf recv
    2700 + ceilDiv (300 * n * (2 * (tonesOf probe).length) + 400 * n * groupsOf probe) p8 + (if bfb therm 0 0 then 400 else 0)
  else 0

/-- Budget in mW of a dynamic Press stream; 0 where it is not dynamic (Table 17.2, R281). -/
def pressBudget (probe stream press : List Word) : Nat :=
  if bfb press 0 0 && bfb press 0 3 && bfb stream 0 0 then
    200 + ceilDiv (280 * bf stream 2 0 18 * groupsOf probe) (8 * periodOf probe * 2 ^ bf stream 0 4 3)
  else 0

/-- The budget held under a grant. -/
def State.grantOf (s : State) (g : Grant) : Nat := (assocGet s.power.grants g).getD 0

/-- Hold a budget under a grant; 0 releases it. -/
def State.setGrant (s : State) (g : Grant) (mw : Nat) : State :=
  { s with power := { s.power with
    grants := if mw = 0 then s.power.grants.filter fun x => x.1 ≠ g else assocSet s.power.grants g mw } }

/-- Release a grant. -/
def State.release (s : State) (g : Grant) : State := s.setGrant g 0

/-- The admitted total A in mW (17.4): the base and every budget held. -/
def admitted (s : State) : Nat := 10400 + (s.power.grants.map (·.2)).foldl (· + ·) 0

/-- The Taster run in progress ends with no result where it is of a kind (R462, R469): its admission is released, a vat under rotation
is returned to service, and a host's TASTER_RUN is answered ABORTED. -/
def stopTaster (p : TastRun → Bool) (s : State) : State :=
  match s.taster.run with
  | none => s
  | some run =>
    if p run then
      let s1 := ({ s with
        taster := { s.taster with run := none }
        vat := if run.test = 0 then { s.vat with rotating := none } else s.vat }).release .taster
      match s1.opWhere fun k => match k with | .tasterRun _ _ => true | _ => false with
      | some o => s1.finish o stAborted 0 []
      | none => s1
    else s

/-! ## Trims (R404) -/

/-- The trims of some words of Table 16.1 take effect. -/
def State.trimPoint (s : State) (ws : List Nat) : State :=
  { s with vint := { s.vint with force := (List.range 48).map fun i => if ws.contains i then wordAt s.vint.trims i else wordAt s.vint.force i } }

/-- The words of the aux trims, of a TIU channel, and of an engine's launch delay. -/
def auxTrims : List Nat := [9, 10, 11, 12, 13, 14, 15, 16]
def tiuTrims (c : Fin 4) : List Nat := [1 + c.val, 5 + c.val]

/-! ## Commit records -/

/-- Replace a commit by one of the same session and sequence. -/
def State.updCommit (s : State) (c : Commit) (f : Commit → Commit) : State :=
  { s with commits := s.commits.map fun d => if d = c then f d else d }

/-- Bit of Table 2.13. -/
def hasFe (c : Commit) (f : Fe) : Bool := c.doms.getLsbD f.val
def hasZone (c : Commit) : Bool := c.doms.getLsbD 4
def hasLocal (c : Commit) : Bool := c.doms.getLsbD 5

/-- Every included domain has applied (R61). -/
def commitDone (c : Commit) : Bool :=
  !c.queued && (List.finRange 4).all (fun f => !hasFe c f || c.feDone.any fun d => d.1 = f) && c.left.isEmpty

/-- The result of Table 2.14; an engine that has not applied the commit shows PPN 0. -/
def commitResult (c : Commit) : List Word :=
  split64 c.arrival ++
  ((List.finRange 4).flatMap fun f => match c.feDone.find? fun d => d.1 = f with
    | some d => [d.2.extractLsb' 0 32, BitVec.ofNat 32 (d.2.toNat / 2 ^ 32 + f.val * 65536)]
    | none => if hasFe c f then [0, BitVec.ofNat 32 (f.val * 65536)] else []) ++
  (if hasZone c || hasLocal c then split64 c.applied else [])

/-- The operation a commit belongs to. -/
def commitOp (s : State) (c : Commit) : Option Op := s.proto.ops.find? fun o => o.sess = c.sess && o.seq = c.seq &&
  (o.kind = .commit || o.kind = .commitArm || o.kind = .commitShared)

/-- Per-peer status words of a COMMIT_SHARED (Table 3.10): 0, the refusal's status, or TIMEOUT where nothing came (R95). -/
def peerWords (x : Shared) : List Word :=
  ((List.finRange 4).filter fun d => x.peers.getLsbD d.val).map fun d =>
    BitVec.ofNat 32 ((match x.answers.find? fun a => a.1 = d with | some a => a.2.toNat | none => stTimeout) + d.val * 256)

/-- Drop a commit and what it holds, answering its command. -/
def State.endCommit (s : State) (c : Commit) (st det : Nat) (ws : List Word) : State :=
  let s1 := { s with commits := s.commits.erase c }
  let s2 := s1.release (.commit c.sess c.seq)
  let s3 := match commitOp s2 c with
    | some o => s2.finish o st det ws
    | none => s2
  if c.kind = 2 then { s3 with peer := { s3.peer with shared := s3.peer.shared.filter fun x => !(x.sess = c.sess && x.seq = c.seq) } }
  else if c.kind = 1 then { s3 with peer := { s3.peer with armed := s3.peer.armed.filter fun x => !(x.sess = c.sess && x.seq = c.seq) } }
  else s3

/-- An area that a commit of some domains has reserved and not put in force. -/
def areaPending (s : State) (doms : BitVec 6) (a : Area) : Bool :=
  a.pending && (match a.kind with
    | .ct f => doms.getLsbD f.val
    | .therm f => doms.getLsbD f.val
    | .queue st => doms.getLsbD (streamFe (s.shad 0x14 st.val))
    | .harvest _ => doms.getLsbD 5)

/-- Drop the areas that a commit of some domains has reserved and not put in force. -/
def State.dropPending (s : State) (doms : BitVec 6) : State :=
  { s with cellar := { s.cellar with areas := s.cellar.areas.filter fun a => !areaPending s doms a } }

/-- The result words of a commit: Table 2.14, and for COMMIT_SHARED the peers' status (Table 3.10). -/
def scheduleWords (s : State) (c : Commit) : List Word :=
  commitResult c ++ (if c.kind = 2 then ((s.peer.shared.filter fun x => x.sess = c.sess && x.seq = c.seq).take 1).flatMap peerWords else [])

/-- Report a commit once every included domain has applied it (R61). -/
def State.settle (s : State) (c : Commit) : State :=
  if commitDone c then
    s.endCommit c stOk 0 (scheduleWords s c)
  else s

/-- Withdraw a commit before its completion point (R63, R94): the shadows keep their contents. The ABORTED answer of a COMMIT_SHARED names its
peers' statuses too; the words of what took effect are then 0 (log entry 17). -/
def State.withdraw (s : State) (c : Commit) : State :=
  (s.dropPending c.doms).endCommit c stAborted 0 (if c.kind = 2 then scheduleWords s c else [])

/-- At the application of the commit that concerns an area's kind: what the commit reserved comes into force, and what it replaces, or leaves
unwanted, is released (R334). -/
def areaSwitch (k : AreaKind) (wanted : Bool) (s : State) : State :=
  let new := s.cellar.areas.any fun a => a.kind = k && a.pending
  { s with cellar := { s.cellar with areas := s.cellar.areas.map fun a =>
    if a.kind = k then (if a.pending then { a with pending := false } else if new || !wanted then { a with releasing := true } else a) else a } }

/-! ## Peer frames out (R90) -/

/-- DEVICE_NUM of the active TIME set. -/
def deviceNum (s : State) : Nat := bf (s.act 0x02 0) 0 4 2

/-- The eight words of a frame. -/
def frameWords (type src : Nat) (fseq : BitVec 16) (pl : List Word) : List Word :=
  let ws := BitVec.ofNat 32 (type + src * 256 + fseq.toNat * 65536) :: (List.range 6).map (wordAt pl)
  ws ++ [crc32c (wordsBytes ws)]

/-- Send a frame in a number of copies, which share its FSEQ. -/
def State.sendFrame (s : State) (lane : Fin 4) (type copies : Nat) (pl : List Word) : State :=
  let l := s.peer.lanes[lane]
  (s.updLane lane fun x => { x with txSeq := x.txSeq + 1, lastTx := s.time.clk }).emits
    (List.replicate copies (.frame lane (frameWords type (deviceNum s) l.txSeq pl)))

/-- The active PEER set of a lane. -/
def peerSet (s : State) (l : Fin 4) : List Word := s.act 0xE0 l.val

/-! ## Lanes that go down (R89, R91, R94, R95) -/

def lnEn (b : List Word) : Bool := bfb b 0 0
def lnTimePath (b : List Word) : Bool := bfb b 0 1
def lnRxZones (b : List Word) : Bool := bfb b 0 3

/-- TIME_SOURCE in force: the device is a follower (R88, R91). -/
def follower (s : State) : Bool := s.time.src

/-- The version byte of PEER_STATUS: major in the high nibble. -/
def verByte (major minor : Nat) : Byte := BitVec.ofNat 8 (major * 16 + minor)

/-- The UP lane to a device that runs version 1.1. -/
def laneTo (s : State) (d : Fin 4) : Option (Fin 4) :=
  (List.finRange 4).find? fun l => s.peer.lanes[l].st = .up && s.peer.lanes[l].farNum = d && s.peer.lanes[l].ver = verByte 1 1

/-- A control frame with a TAG, sent three times (R90). -/
def sendCtl (type : Nat) (pl : List Word) (l : Fin 4) (s : State) : State := s.sendFrame l type 3 pl

/-- A word with TAG and a status. -/
def tagWord (tag : BitVec 16) (st : Nat) : Word := BitVec.ofNat 32 (tag.toNat + st * 65536)

/-- The shared completion point T - 20 µs is reached (R94). -/
def sharedPast (s : State) (t : BitVec 64) (stands : Bool) : Bool :=
  stands || decide (t.toNat ≤ s.now.toNat + 20 * 2 ^ 32 / 10 ^ 6)

/-- The commit record of a shared commit's command. -/
def sharedCommit (s : State) (sess : BitVec 8) (seq : Word) (kind : Fin 3) : Option Commit :=
  s.commits.find? fun c => c.sess = sess && c.seq = seq && c.kind = kind

/-- WITHDRAW to a device where its lane is UP. -/
def withdrawTo (tag : BitVec 16) (s : State) (d : Fin 4) : State :=
  match laneTo s d with
  | some l => sendCtl 8 [tagWord tag 0] l s
  | none => s

/-- The named peers that have accepted. -/
def acceptedBy (x : Shared) : List (Fin 4) := (x.answers.filter fun a => a.2 = 0).map (·.1)

/-- The named peers that may hold the commit prepared: all that have not refused, since an ACCEPT may be on its way. -/
def mayHold (x : Shared) : List (Fin 4) :=
  (List.finRange 4).filter fun d => x.peers.getLsbD d.val && !x.answers.any fun a => a.1 = d && a.2 ≠ 0

/-- The originator withdraws a shared commit: WITHDRAW to some of its peers, and COMMIT_SHARED is answered ABORTED. -/
def withdrawShared (peers : List (Fin 4)) (x : Shared) (s : State) : State :=
  let s1 := peers.foldl (withdrawTo x.tag) s
  match sharedCommit s1 x.sess x.seq 2 with
  | some c => s1.withdraw c
  | none => s1

/-- A peer withdraws a prepared commit; its COMMIT_ARM reports ABORTED. -/
def withdrawArmed (a : Armed) (s : State) : State :=
  match sharedCommit s a.sess a.seq 1 with
  | some c => s.withdraw c
  | none => s

/-- What depends on a lane ends with it (R91, R94, R95): the follower's time path, and shared commits before their completion point, scheduled or
not. An originator that reports such a commit later gives the peer's status as TIMEOUT. -/
def laneLost (dst : LaneState) (lane : Fin 4) (s : State) : State :=
  let far := s.peer.lanes[lane].farNum
  let s1 := s.updLane lane fun x => { x with st := dst, rxSeqs := [] }
  let s2 := if follower s1 && lnTimePath (peerSet s1 lane) then
      ({ s1 with time := { s1.time with peerLocked := false, peerGood := 0 } }).timeEvent 6 else s1
  let s3 := (s2.peer.armed.filter fun a => match a.prep with | some (l, t) => l = lane && !sharedPast s2 t a.stands | none => false).foldl
    (fun s a => withdrawArmed a s) s2
  let mine : Shared → Bool := fun x => x.peers.getLsbD far.val
  let s4 := (s3.peer.shared.filter fun x => mine x && !sharedPast s3 x.target x.stands).foldl (fun s x => withdrawShared (mayHold x) x s) s3
  let late := fun (x : Shared) => mine x && x.scheduled && decide (s4.now.toNat < x.target.toNat - 10 * 2 ^ 32 / 10 ^ 6)
  let mark := fun (x : Shared) => { x with answers := x.answers.map fun a => if a.1 = far then (far, BitVec.ofNat 8 stTimeout) else a }
  { s4 with peer := { s4.peer with shared := s4.peer.shared.map fun x => if late x then mark x else x } }

/-- A lane goes DOWN, and into a further state: what depended on it ends where it was UP. -/
def laneTurns (dst : LaneState) (lane : Fin 4) (s : State) : State :=
  if s.peer.lanes[lane].st = .up then (laneLost dst lane s).raise vecPeer else s.updLane lane fun x => { x with st := dst, rxSeqs := [] }

/-- Every peer lane goes DOWN. -/
def lanesDown (s : State) : State := (List.finRange 4).foldl (fun s l => laneTurns .down l s) s

/-! ## Application of LOCAL blocks -/

/-- What a LOCAL block's class does at application beyond becoming active. -/
def blockEffect (b : BlockId) (old new : List Word) (s : State) : State :=
  match b.code with
  | 0x01 => -- a changed HB_TIMEOUT restarts the interval (R466)
    if bf old 0 0 16 ≠ bf new 0 0 16 then { s with life := { s.life with heartbeat := if bf new 0 0 16 = 0 then none else s.life.heartbeat.map fun _ => s.time.clk } } else s
  | 0x02 => -- PTM_VALID clears when PTM is disabled (R84); PPS_EN and TIME_SOURCE wait for an edge or a synchronisation (R88)
    if bfb new 0 6 then s else { s with time := { s.time with ptmValid := false } }
  | 0x40 => areaSwitch (.harvest ⟨b.inst % 4, by omega⟩) true s
  | 0x60 => -- RING_ID counts for later posts, a changed TIMER from now (R311)
    s.updCore ⟨b.inst % 8, by omega⟩ fun c => { c with
      timerAt := if bf old 2 0 24 = bf new 2 0 24 then c.timerAt else s.time.clk
      posts := if bf old 0 0 5 = bf new 0 0 5 then c.posts
        else c.posts.map fun p => { p with ring := some (p.ring.getD ⟨bf old 0 0 5 % 32, by omega⟩) } }
  | 0x70 => -- a changed set-point rate marks it untrained on the channel (R340)
    let ch : Fin 4 := ⟨b.inst % 4, by omega⟩
    let m : BitVec 3 := BitVec.ofNat 3 ((List.range 3).foldl (fun m i => if bf old (1 + i) 0 14 = bf new (1 + i) 0 14 then m + 2 ^ i else m) 0)
    s.updCel ch fun c => { c with trained := c.trained &&& m }
  | 0x90 => refreshIntlk (auxEffect b.inst old new s)
  | 0x91 => refreshIntlk (auxSeqEffect old new s)
  | 0xE0 => -- a change of EN retrains the lane at once (R96)
    let l : Fin 4 := ⟨b.inst % 4, by omega⟩
    if bfb old 0 0 = bfb new 0 0 then s else laneTurns (if bfb new 0 0 then .training else .down) l s
  | _ => s

/-- Copy one block from the shadow to the active set, with its effect. -/
def applyBlock (b : BlockId) (s : State) : State :=
  let old := getBlk s.params.active b
  let new := getBlk s.params.shadow b
  blockEffect b old new (s.setAct b new)

/-- The commit's target has been reached for ZONE and LOCAL: at once under TARGET 0, at TARGET_VALUE under TARGET 2 (R58). -/
def localDue (c : Commit) (now : BitVec 64) : Bool := !c.queued && (c.target ≠ 2 || c.value ≤ now)

/-- Apply to a set of blocks, at one of their application points, the commit that holds them (R58). -/
def State.localPoint (s : State) (ids : List BlockId) : State :=
  match s.commits.find? fun c => localDue c s.now && c.left.any fun b => ids.contains b with
  | none => s
  | some c =>
    let here := c.left.filter fun b => ids.contains b
    let s1 := here.foldl (fun s b => applyBlock b s) s
    let c' := { c with left := c.left.filter (fun b => !ids.contains b), begun := true, applied := s.now }
    let s2 := { s1 with commits := s1.commits.map fun d => if d = c then c' else d }
    s2.settle c'

end Sys2Proof.Machine
end

