-- ==== Sys2Proof/Machine/Admit.lean ====
section
/-! DEFINITION. Power admission (17.4): immediate grant, queue and denial of heavy commands. -/

namespace Sys2Proof.Machine

/-- BOARD_LIMIT in mW of the active POWER set. -/
def boardLimit (s : State) : Nat := bf (s.act 0xC0 0) 0 0 9 * 100

/-- QUEUE_TIMEOUT in ps. -/
def queueTimeout (s : State) : Nat := bf (s.act 0xC0 0) 1 0 16 * 10 ^ 9

/-- A shedding step is in force. -/
def shedding (s : State) : Bool := s.power.shed1 || s.power.shed2 || decide (0 < s.power.shed3)

/-- THERMAL_HOLD: a die sensor reads 120 °C or more (R430). -/
def thermalHold (s : State) : Bool := s.power.sensors.toList.any fun t => decide (120000 ≤ t)

/-- A request of a budget fits the conditions of R430, the queue aside. -/
def fits (s : State) (mw : Nat) : Bool := decide (admitted s + mw ≤ boardLimit s) && !shedding s && !thermalHold s

/-- What a heavy command finds at admission (R430, R431). -/
inductive Admit where
  | granted
  | queued
  | denied (det : Nat)
  deriving DecidableEq, Repr

/-- Judge a new request (R430, R431). -/
def judgeAdmit (s : State) (mw : Nat) : Admit :=
  if boardLimit s < 10400 + mw then .denied 0xFFC1
  else if s.power.queue.isEmpty && fits s mw then .granted
  else if 16 ≤ s.power.queue.length then .denied 0xFFC2
  else .queued

/-- A heavy command after its other checks (Table 2.3 step 10): a command already granted goes on; else it is granted, queued with `onQueue`, or
denied. Each grant and denial raises vector 41. -/
def heavy (granted : Bool) (r : Req) (g : Grant) (mw : Nat) (onQueue : State → State) (go : State → Res) (s : State) : Res :=
  if granted then go (s.setGrant g (s.grantOf g + mw))
  else if mw = 0 then go s
  else match judgeAdmit s mw with
    | .granted => go ((s.setGrant g (s.grantOf g + mw)).raise vecPower)
    | .denied d => Res.rep stDenied d [] (s.raise vecPower)
    | .queued =>
      Res.rep stQueued 0 [] (onQueue { s with power := { s.power with queue := s.power.queue ++ [⟨r, mw, s.time.clk⟩] } })

/-- Answer a queued command finally, as a completion event (R66); discarded where its session is closed. -/
def State.answerQ (s : State) (q : QReq) (st det : Nat) : State :=
  if q.req.sess = 0 then s
  else s.answer q.req.via q.req.sess q.req.opcode q.req.seq true [statusWord st det]

/-- Take a request out of the queue. -/
def State.unqueue (s : State) (q : QReq) : State := { s with power := { s.power with queue := s.power.queue.erase q } }

/-- The queued request of a session's sequence number. -/
def queuedReq (s : State) (sess : BitVec 8) (seq : Word) : Option QReq :=
  s.power.queue.find? fun q => q.req.sess = sess && q.req.seq = seq

end Sys2Proof.Machine
end

