-- ==== Sys2Proof/Machine/Memory.lean ====
section
/-! DEFINITION. The Vats and the Cellar as memories (13): protected vat access, aliases, ECC outcomes, DRAM address orders, areas, and the
commands on vat words. -/

namespace Sys2Proof.Machine

/-! ## Vats (13.1-13.4) -/

/-- Bytes of the vat region (R314). -/
def vatBytes : Nat := 0x3000000

/-- A master may write the area an offset lies in (Table 13.4); before firmware runs every master reaches the whole region (R318). -/
def vatAllowed (phase : Fin 8) (m : Master) (a : Nat) : Bool :=
  decide (a < vatBytes) &&
    (decide (phase.val < 2) ||
      (if a < 0x2800000 then decide (m.val ≤ 3) || m.val = 16
       else if a < 0x2A00000 then m.val = 14
       else m.val = 5 || m.val = 14 || m.val = 15))

/-- A vat word holds an uncorrectable error. -/
def vatBad (s : State) (a : Nat) : Bool := s.vat.bad.contains (a / 32)

/-- An uncorrectable vat error met by a master: counted, its address recorded, vector 42 (R322). -/
def vatUncorr (m : Master) (a : Nat) (s : State) : State :=
  ({ s with vat := { s.vat with
    eccUncorr := addSat s.vat.eccUncorr 1
    eccAddr := BitVec.ofNat 32 (a / 32 * 32 + m.val * 2 ^ 26 + 2 ^ 31) } }).raise vecFault

/-- A corrected error: counted, and the word waits for its write-back (R321). -/
def eccCorrected (cellar : Bool) (word : Nat) (s : State) : State :=
  let s1 := { s with cellar := { s.cellar with writeBacks := s.cellar.writeBacks ++ [(cellar, word)] } }
  if cellar then s1 else { s1 with vat := { s1.vat with eccCorr := addSat s1.vat.eccCorr 1 } }

/-- What the ECC finds in a vat word that a master reads (R321, R322). An engine that meets an uncorrectable word of its own state writes the state
anew (R170, R226). -/
def vatEcc (m : Master) (a : Nat) (found : EccRead) (s : State) : State :=
  match found with
  | .clean => s
  | .corrected => eccCorrected false (a / 32) s
  | .uncorrectable =>
    vatUncorr m a (if a < 0x2800000 && m.val ≤ 3 then s
      else { s with vat := { s.vat with bad := (a / 32) :: s.vat.bad.filter fun w => w ≠ a / 32 } })

/-- How a write acts on a word: plain, bit-set alias, bit-clear alias (R320). -/
inductive WriteMode where
  | plain
  | set
  | clear
  deriving DecidableEq, Repr

/-- A byte as a write leaves it. -/
def mixByte (mode : WriteMode) (old new : Byte) : Byte :=
  match mode with
  | .plain => new
  | .set => old ||| new
  | .clear => old &&& ~~~new

/-- Write the enabled bytes within one word. -/
def vatMix (mode : WriteMode) : Mem → Nat → List (Option Byte) → Mem
  | m, _, [] => m
  | m, a, none :: l => vatMix mode m (a + 1) l
  | m, a, some b :: l => vatMix mode (m.write a (mixByte mode (m.read a) b)) (a + 1) l

/-- One access to a vat word (R315, R318, R320, R322): at offset `a`, bytes within the word. -/
def vatWordWrite (mode : WriteMode) (m : Master) (a : Nat) (data : List (Option Byte)) (s : State) : State :=
  if data.all Option.isNone then s
  else if !vatAllowed s.life.phase m a then { s with vat := { s.vat with wrDenied := addSat s.vat.wrDenied 1 } }
  else if vatBad s a then
    if mode = .plain && data.length = 32 && data.all Option.isSome then
      { s with vat := { s.vat with mem := vatMix mode s.vat.mem a data, bad := s.vat.bad.filter fun w => w ≠ a / 32 } }
    else { s with vat := { s.vat with eccUncorr := addSat s.vat.eccUncorr 1 } }
  else { s with vat := { s.vat with mem := vatMix mode s.vat.mem a data } }

/-- Accesses word by word from an offset on. The first argument bounds the number of words. -/
def vatWrite (mode : WriteMode) (m : Master) : Nat → Nat → List (Option Byte) → State → State
  | 0, _, _, s => s
  | n + 1, a, data, s =>
    if data.isEmpty then s
    else
      let k := 32 - a % 32
      vatWrite mode m n (a + k) (data.drop k) (vatWordWrite mode m a (data.take k) s)

/-- A write of bytes by a master at an offset of the vat region. -/
def State.vatStore (s : State) (mode : WriteMode) (m : Master) (a : Nat) (data : List (Option Byte)) : State :=
  vatWrite mode m (data.length / 32 + 2) a data s

/-- Bytes of a channel's granule under a plan of NB branches: 16 of live state and 2 for each branch's reference (R175). -/
def granuleBytes (probe : List Word) : Nat := 16 + 4 * (tonesOf probe).length

/-- Offset in the vats of channel `j` of an engine. Where in its area an engine's state lies is not stated: free. -/
def feStateAt (_s : State) (f : Fe) (probe : List Word) (j : Nat) : Nat := (Config.feStateBase f.val + j * granuleBytes probe) % 0x2800000

/-- Byte `i` of a channel's live state and references (Table 6.3): references of every enabled tone's branches in ascending order. -/
def chanByte (probe : List Word) (c : ChanSt) (i : Nat) : Byte :=
  let le := fun (x k : Nat) => BitVec.ofNat 8 (x / 256 ^ k)
  if i < 4 then le c.unwrap.toNat i
  else if i < 6 then le c.theta.toNat (i - 4)
  else if i < 8 then le c.ampMean (i - 6)
  else if i < 12 then le (c.drift % 2 ^ 32).toNat (i - 8)
  else if i < 14 then le (c.driftN % 65536) (i - 12)
  else if i = 14 then c.init
  else if i = 15 then BitVec.ofNat 8 (c.broken.toNat + 2 * (decide (65536 ≤ c.driftN)).toNat)
  else
    let b := ((tonesOf probe).flatMap fun k => [2 * k, 2 * k + 1]).getD ((i - 16) / 2) 0
    le (c.refs.toList.getD b 0).toNat (i % 2)

/-- The byte of an engine's state that lies at a vat offset, where the engine holds channels. -/
def feByte (s : State) (a : Nat) (f : Fe) : Option Byte :=
  let p := s.act 0x10 f.val
  let i := a - Config.feStateBase f.val
  if Config.feStateBase f.val ≤ a && a < 0x2800000 then (s.fe[f].chans[i / granuleBytes p]?).map fun c => chanByte p c (i % granuleBytes p) else none

/-- A vat byte as it reads: the engines' channel state stands in their area. -/
def State.vatByte (s : State) (a : Nat) : Byte := match (List.finRange 4).findSome? (feByte s a) with | some b => b | none => s.vat.mem.read a

/-- Vat bytes as read. -/
def State.vatRead (s : State) (a n : Nat) : List Byte := (List.range n).map fun i => s.vatByte (a + i)

/-- A write of CONFL_CLEAR (R317): an increment of the same slot is kept. -/
def conflClear (mask : Word) (sameSlot : BitVec 17) (s : State) : State :=
  { s with vat := { s.vat with
    confl := Vector.ofFn fun (i : Fin 17) =>
      addSat (if mask.getLsbD i.val then 0 else s.vat.confl[i]) (if sameSlot.getLsbD i.val then 1 else 0) } }

/-- CONFL_CLEAR (R317). -/
def execConflClear (mask : Word) (sameSlot : BitVec 17) (s : State) : Host.Outcome State Fault Refusal := ok (conflClear mask sameSlot s)

/-- VAT_BIT_SET_WRITE (R320). -/
def execVatBitSetWrite (m : Master) (addr : BitVec 26) (data : List (Option Byte)) (s : State) : Host.Outcome State Fault Refusal :=
  ok (s.vatStore .set m addr.toNat data)

/-- VAT_BIT_CLEAR_WRITE (R320). -/
def execVatBitClearWrite (m : Master) (addr : BitVec 26) (data : List (Option Byte)) (s : State) : Host.Outcome State Fault Refusal :=
  ok (s.vatStore .clear m addr.toNat data)

/-! ## Cellar addresses (13.6) -/

/-- First MiB of the training scratch area (4 MiB) and of the save area (16 MiB below it). -/
def scratchMib (s : State) : Nat := visibleMib s - 4
def saveMib (s : State) : Nat := visibleMib s - 20

/-- DRAM coordinates of physical address `p` of a channel of `cap` bytes, as one number (Table 13.6). -/
def dramCoord (order cap p : Nat) : Nat :=
  let byte := p % 64
  let pack := fun (col bg bank row : Nat) => byte + 64 * (col + 64 * (bg + 4 * (bank + 4 * row)))
  match order with
  | 0 => pack (bitsOf p 6 6) (bitsOf p 14 2) (bitsOf p 12 2) (p / 65536)
  | 1 => pack (bitsOf p 6 6) (p / (cap / 4)) (p % (cap / 4) / (cap / 16)) (p % (cap / 16) / 4096)
  | 2 => pack (bitsOf p 8 6) (bitsOf p 6 2) (bitsOf p 14 2) (p / 65536)
  | _ => pack (bitsOf p 6 6) (bitsOf p 14 2 ^^^ bitsOf p 18 2) (bitsOf p 12 2 ^^^ bitsOf p 16 2) (p / 65536)

/-- The key in the Cellar's memory of visible byte V (R326, R327): channel V[13:12], channel-local address, coordinates. -/
def cellarKey (s : State) (v : Nat) : Nat :=
  let ch : Fin 4 := ⟨v / 4096 % 4, by omega⟩
  let p := v / 16384 * 4096 + v % 4096
  ch.val + 4 * dramCoord (bf (s.act 0x70 ch.val) 0 0 2) (s.cellar.ch[ch].densityMib * 2 ^ 20) p

/-- Bytes of the visible Cellar from V on. -/
def State.celRead (s : State) (v n : Nat) : List Byte := (List.range n).map fun i => s.cellar.mem.read (cellarKey s (v + i))

/-- Channel of a visible address. -/
def celChan (v : Nat) : Fin 4 := ⟨v / 4096 % 4, by omega⟩

/-- A Cellar word (V / 32) holds an uncorrectable error. -/
def celBad (s : State) (v : Nat) : Bool := s.cellar.bad.contains (v / 32)

/-- An uncorrectable Cellar error (R322). -/
def celUncorr (v : Nat) (s : State) : State :=
  (s.updCel (celChan v) fun c => { c with
    uncorr := addSat c.uncorr 1, badAddr := BitVec.ofNat 40 (v / 32 * 32 + cellarLo) }).raise vecFault

/-- What the ECC finds in a Cellar word that the device reads (R321, R322). -/
def celEcc (v : Nat) (found : EccRead) (s : State) : State :=
  match found with
  | .clean => s
  | .corrected => eccCorrected true (v / 32) (s.updCel (celChan v) fun c => { c with corr := addSat c.corr 1 })
  | .uncorrectable => celUncorr v { s with cellar := { s.cellar with bad := (v / 32) :: s.cellar.bad.filter fun w => w ≠ v / 32 } }

/-- A write joins its channel's write queue of at most 64 (R331). -/
def wqPush (v : Nat) (s : State) : State := s.updCel (celChan v) fun c => { c with wq := (c.wq ++ [s.time.clk]).drop (c.wq.length - 63) }

/-- Write the enabled bytes of one Cellar word. -/
def celMix : State → Nat → List (Option Byte) → State
  | s, _, [] => s
  | s, v, none :: l => celMix s (v + 1) l
  | s, v, some b :: l => celMix { s with cellar := { s.cellar with mem := s.cellar.mem.write (cellarKey s v) b } } (v + 1) l

/-- One write to a Cellar word (R315, R322). -/
def celWordWrite (v : Nat) (data : List (Option Byte)) (s : State) : State :=
  if data.all Option.isNone then s
  else if celBad s v then
    if data.length = 32 && data.all Option.isSome then
      wqPush v (celMix { s with cellar := { s.cellar with bad := s.cellar.bad.filter fun w => w ≠ v / 32 } } v data)
    else s.updCel (celChan v) fun c => { c with uncorr := addSat c.uncorr 1 }
  else wqPush v (celMix s v data)

/-- Writes word by word. The first argument bounds the number of words. -/
def celWrite : Nat → Nat → List (Option Byte) → State → State
  | 0, _, _, s => s
  | n + 1, v, data, s =>
    if data.isEmpty then s
    else
      let k := 32 - v % 32
      celWrite n (v + k) (data.drop k) (celWordWrite v (data.take k) s)

/-- A write of bytes at visible address V. -/
def State.celStore (s : State) (v : Nat) (data : List (Option Byte)) : State := celWrite (data.length / 32 + 2) v data s

/-! ## Areas (R334) -/

/-- Two extents in MiB overlap. -/
def overlaps (b1 n1 b2 n2 : Nat) : Bool := decide (b1 < b2 + n2) && decide (b2 < b1 + n1) && decide (0 < n1) && decide (0 < n2)

/-- Whether an extent of MiB is free for an area: in the visible Cellar below the save area, over no reserved area. -/
def mibFree (s : State) (areas : List Area) (base n : Nat) : Bool :=
  decide (base + n ≤ saveMib s) && areas.all fun a => !overlaps base n a.baseMib a.sizeMib

/-- First fit from the bottom: the lowest base is 0 or the end of some area. -/
def firstFit (s : State) (areas : List Area) (n : Nat) : Option Nat :=
  let cands := (0 :: areas.map fun a => a.baseMib + a.sizeMib).filter fun b => mibFree s areas b n
  match cands with
  | [] => none
  | c :: r => some (r.foldl min c)

/-- The largest free extent in MiB. -/
def largestFree (s : State) : Nat :=
  let ends := 0 :: s.cellar.areas.map fun a => a.baseMib + a.sizeMib
  let sizes := ends.map fun b =>
    if s.cellar.areas.any fun a => a.baseMib ≤ b && b < a.baseMib + a.sizeMib then 0
    else ((s.cellar.areas.filter fun a => b ≤ a.baseMib).map (·.baseMib)).foldl min (saveMib s) - b
  sizes.foldl max 0

/-- The area that serves a purpose: in force, and not being released. -/
def areaOf (s : State) (k : AreaKind) : Option Area := s.cellar.areas.find? fun a => a.kind = k && !a.releasing && !a.pending

/-- Base of an area in visible bytes. -/
def areaBase (s : State) (k : AreaKind) : Nat := match areaOf s k with | some a => a.baseMib * 2 ^ 20 | none => 0

/-! ## Scrub and write-back (R321, R322) -/

/-- VAT_SCRUB: the read of one word by the scrub; Cellar errors are handled with SCRUB_EN set. -/
def execVatScrub (cellar : Bool) (addr : Nat) (found : EccRead) (s : State) : Host.Outcome State Fault Refusal :=
  let s := { s with cellar := { s.cellar with scrubbed := s.cellar.scrubbed + 1 } }
  if cellar then
    if !bfb (s.act 0x70 (celChan addr).val) 0 22 then ok s
    else ok (celEcc addr found s)
  else ok (vatEcc 16 addr found s)

/-- ECC_WRITE_BACK: the oldest corrected word is written back. -/
def execEccWriteBack (s : State) : Host.Outcome State Fault Refusal :=
  ok { s with cellar := { s.cellar with writeBacks := s.cellar.writeBacks.drop 1 } }

/-! ## Refresh, temperature and drains (R328, R331, R339) -/

/-- tREFI in ps: 3.906 µs, or 1.953 µs while the channel is hot. -/
def trefi (c : CelCh) : Nat := if c.hot then 1953000 else 3906000

/-- CELLAR_REFRESH (R328): an all-bank refresh, tREFI after the last. -/
def execCellarRefresh (ch : Fin 4) (s : State) : Host.Outcome State Fault Refusal :=
  if s.cellar.selfRefresh then ok s
  else
    let c := s.cellar.ch[ch]
    let due := c.refreshed + trefi c
    let s := s.goTo due
    ok (s.updCel ch fun c => { c with refreshed := s.time.clk, refreshes := c.refreshes + 1 })

/-- CELLAR_TEMP_READ (R328, R339): the channel's indication, and its drift correction of the same 16 ms. -/
def execCellarTempRead (ch : Fin 4) (hot : Bool) (s : State) : Host.Outcome State Fault Refusal :=
  ok (s.updCel ch fun c => { c with hot := hot, drifts := c.drifts + 1 })

/-- WRITE_DRAIN (R331): at WR_HWM entries, or when the oldest write has waited 1.0 µs, down to WR_LWM. -/
def execWriteDrain (ch : Fin 4) (s : State) : Host.Outcome State Fault Refusal :=
  let c := s.cellar.ch[ch]
  let blk := s.act 0x70 ch.val
  match c.wq with
  | [] => ok s
  | t :: _ =>
    let s := if bf blk 0 8 6 ≤ c.wq.length then s else s.goTo (t + 1000000)
    let keep := min (bf blk 0 16 6) (c.wq.length - 1)
    ok (s.updCel ch fun c => { c with wq := c.wq.drop (c.wq.length - keep), drains := addSat c.drains 1 })

end Sys2Proof.Machine
end

