-- ==== Sys2Proof/Machine/Phase.lean ====
section
/-! DEFINITION. The receive path and the phase engine as functions (05, 06): carriers, the channel grid, down-conversion, compression,
interpolation, Golay sums, differential products, combining, and one channel's step. -/

namespace Sys2Proof.Machine

/-! ## Rates, carriers, grid -/

/-- f_dac and f_conv in kHz (R115, R128). -/
def fDac (p : List Word) : Nat := 125000 * bf p 2 0 5
def fConv (r : List Word) : Nat := 125000 * bf r 1 0 5
/-- D of D_CODE (R139). -/
def decD (r : List Word) : Nat := 8 * 2 ^ bf r 0 20 2
/-- PC_EN. -/
def pcEn (r : List Word) : Bool := bfb r 0 16
/-- SHAPE and PULSE_LEN, GOLAY_LOG2. -/
def shapeOf (p : List Word) : Nat := bf p 0 3 2
def pulseLen (p : List Word) : Nat := bf p 3 0 16
def golayLog (p : List Word) : Nat := bf p 3 16 4

/-- Accumulator step of tone k (R108). -/
def ncoStep (p : List Word) (k : Nat) : Nat := (roundEven (toneFreq p k * 2 ^ 32) (max 1 (fDac p))).toNat
/-- NCO step of the receive side in 2^-48 turns a converter sample (R139). -/
def recvStep (p r : List Word) (k : Nat) : Nat := (roundEven (ncoStep p k * fDac p * 2 ^ 16) (max 1 (fConv r))).toNat

/-- Samples of the whole pulse in DAC samples: PULSE_LEN, times the chips for Golay (R112). -/
def pulseDac (p : List Word) : Nat := if shapeOf p = 2 then pulseLen p * 2 ^ golayLog p else pulseLen p
/-- τ in ps, rounded up to the strobe grid only where used (exact when f_dac divides). -/
def pulsePs (p : List Word) : Nat := pulseDac p * 10 ^ 9 / max 1 (fDac p)
/-- round(τ × f_t) (R142). -/
def autoTaps (p r : List Word) : Nat := (roundEven (pulseDac p * fConv r) (max 1 (fDac p * decD r))).toNat
/-- N, the reference's taps. -/
def refTaps (p r : List Word) : Nat := if bfb r 0 22 then bf r 8 0 10 else autoTaps p r

/-- d0 in metres as a fraction (R145). -/
def d0Num (r : List Word) : Nat := 299792458 * 2 ^ 20 * decD r
def d0Den (r : List Word) : Nat := max 1 (2 * bf r 4 0 21 * 125000000 * bf r 1 0 5)
/-- s_0 in 1/64 native samples (R145). -/
def s0of (r : List Word) : Nat := (roundEven (64 * bf r 6 0 32 * d0Den r) (1000 * d0Num r)).toNat
/-- s_j in 1/64 native samples. -/
def sOf (r : List Word) (j : Nat) : Nat := s0of r + j * bf r 5 0 8 * 8
/-- W, the receive window in native samples (R147). -/
def window (p r : List Word) : Nat := sOf r (nChOf r - 1) / 64 + 5 + (if pcEn r then refTaps p r - 1 else 0)
/-- The window's length in ps. -/
def windowPs (p r : List Word) : Nat := ceilDiv (window p r * decD r * 10 ^ 9) (max 1 (fConv r))

/-- M = ⌊GAUGE / Δ + 0.5⌋ with Δ = K × d0 / 8 (R159). -/
def gaugeM (phase recv : List Word) : Nat :=
  let dn := 1000 * bf recv 5 0 8 * d0Num recv
  let dd := 8 * d0Den recv
  (2 * bf phase 1 0 17 * dd + dn) / max 1 (2 * dn)
/-- Edge channels a at the near end and b at the far end. -/
def edgeA (phase recv : List Word) : Nat := gaugeM phase recv / 2
def edgeB (phase recv : List Word) : Nat := gaugeM phase recv - edgeA phase recv
/-- GAUGE_EFF in mm (R180). -/
def gaugeEff (phase recv : List Word) : Nat :=
  (roundEven (gaugeM phase recv * 1000 * bf recv 5 0 8 * d0Num recv) (8 * d0Den recv)).toNat

/-! ## Trigonometry in fixed point (2^60) -/

/-- Series of the cosine (from term 1) or sine (from term x) in 2^60 fixed point. -/
def taylor (x2 : Int) : Nat → Nat → Int → Int
  | 0, _, _ => 0
  | n + 1, k, term => term + taylor x2 n (k + 2) (-(floorDiv (floorDiv (term * x2) (2 ^ 60)) ((k + 1) * (k + 2))))

/-- cos and sin, in 2^60, of an angle in 2^-48 turns. -/
def cosSin (t : Nat) : Int × Int :=
  let q := t / 2 ^ 46 % 4
  let x : Int := (t % 2 ^ 46 * 1811004864519280711) / 2 ^ 46
  let x2 := floorDiv (x * x) (2 ^ 60)
  let c := taylor x2 16 0 (2 ^ 60)
  let s := taylor x2 16 1 x
  match q with
  | 0 => (c, s)
  | 1 => (-s, c)
  | 2 => (-c, -s)
  | _ => (s, -c)

/-- Q15 cosine and sine of a phase in units, +1.0 held as 32 767 (R161). -/
def q15 (u : Nat) : Int × Int :=
  let cs := cosSin (u % 65536 * 2 ^ 32)
  (min 32767 (roundEven cs.1 (2 ^ 45)), min 32767 (roundEven cs.2 (2 ^ 45)))

/-- In the first quadrant, the largest n of `lo .. lo + 2^k - 1` whose angle less half a unit (x, y) reaches. -/
def angSearch (x y : Int) : Nat → Nat → Nat
  | 0, lo => lo
  | k + 1, lo =>
    let m := lo + 2 ^ k
    let cs := cosSin ((2 * m - 1) * 2 ^ 31)
    if 0 ≤ cs.1 * y - cs.2 * x then angSearch x y k m else angSearch x y k lo

/-- The phase unit nearest to the angle of a phasor; 0 for a zero phasor (R161). -/
def angNear (x y : Int) : Nat :=
  if x = 0 && y = 0 then 0
  else
    let (q, a, b) := if 0 < x && 0 ≤ y then (0, x, y) else if x ≤ 0 && 0 < y then (1, y, -x)
      else if x < 0 && y ≤ 0 then (2, -x, -y) else (3, -y, x)
    (q * 16384 + angSearch a b 15 0) % 65536

/-- The angle the device forms: a unit within one of the exact value (R161), so the nearest one or its neighbour on the other side of the exact
value; which of them is free. -/
def angleOf (seed ch : Nat) (x y : Int) : BitVec 16 :=
  if x = 0 && y = 0 then 0
  else
    let n := angNear x y
    let cs := cosSin (n * 2 ^ 32)
    let past := cs.1 * y - cs.2 * x
    let dev := clamp (-1) 1 (Config.angleDev seed ch)
    BitVec.ofInt 16 (n + if (0 < dev && 0 ≤ past) || (dev < 0 && past ≤ 0) then dev else 0)

/-- ⌊√n⌋ by bits. -/
def isqrtFrom (n : Nat) : Nat → Nat → Nat
  | 0, r => r
  | b + 1, r => if (r + 2 ^ b) * (r + 2 ^ b) ≤ n then isqrtFrom n b (r + 2 ^ b) else isqrtFrom n b r
def isqrt (n : Nat) : Nat := isqrtFrom n 66 0

/-- round(√n / 2^k), halves to even. -/
def rootScaled (n k : Nat) : Nat :=
  let q := isqrt (n / 4 ^ k)
  let h := (2 * q + 1) ^ 2 * 4 ^ k
  if 4 * n < h then q else if h < 4 * n then q + 1 else if q % 2 = 0 then q else q + 1

/-- AMP: the rounded magnitude, or its neighbour on the other side of the exact magnitude, which is within one LSB of it too (R162); which of them
is free. -/
def ampOf (seed ch shift : Nat) (x y : Int) : Nat :=
  if x = 0 && y = 0 then 0
  else
    let m := (x * x + y * y).toNat
    let n := rootScaled m (15 + shift)
    let dev := clamp (-1) 1 (Config.ampDev seed ch)
    let here := n * n * 4 ^ (15 + shift)
    (clamp 0 65535 (n + if (0 < dev && here ≤ m) || (dev < 0 && m ≤ here) then dev else 0)).toNat

/-! ## Branch samples (R138-R148) -/

/-- A component saturated to int16. -/
def sat16i (x : Int) : Int := satInt 16 x
/-- How many of the components saturate. -/
def satCount (l : List Int) : Nat := (l.filter fun x => decide (satInt 16 x ≠ x)).length

/-- z(m) = x(m) exp(-j 2 pi phi m / 2^48) in 2^60 fixed point, m = 0, 1, ... from the timeline origin, where the NCO's phase is 0 (R139). -/
def mixDown (phi : Nat) (x : List Int) : List (Int × Int) :=
  ((List.range x.length).zip x).map fun p =>
    let cs := cosSin (phi * p.1 % 2 ^ 48)
    (p.2 * cs.1, -(p.2 * cs.2))

/-- How far, in native samples, the decimation filter reaches to either side of its output: what Table 5.4 allows the stage. -/
def ddcReach : Nat := 25

/-- The low-pass filter's output at converter sample i x D, the native sample i, rounded half to even: the weights are the filter's coefficients in
2^-40, which the spec leaves to the device (R139, R140, log entry 110). -/
def decimate (d i : Nat) (z : List (Int × Int)) : Int × Int :=
  let lo := i * d - ddcReach * d
  let win := (z.drop lo).take (i * d + ddcReach * d + 1 - lo)
  let sum := ((List.range win.length).zip win).foldl (fun (s : Int × Int) p =>
    let w := Config.ddcTap d ((lo + p.1 : Nat) - (i * d : Nat) : Int)
    (s.1 + w * p.2.1, s.2 + w * p.2.2)) (0, 0)
  (roundEven sum.1 (2 ^ 100), roundEven sum.2 (2 ^ 100))

/-- Down-converted native samples of one converter stream from the timeline origin, unsaturated components (R139, R140). -/
def ddc (r : List Word) (phi w : Nat) (x : List Int) : List (Int × Int) :=
  let z := mixDown phi x
  (List.range w).map fun i => decimate (decD r) i z

/-- The response of weights at a frequency of `u` in 2^-48 turns a sample: weight `k` stands `k - back` samples after the output. The square of its
magnitude, in the weights' unit times 2^60. -/
def responseSq (n back : Nat) (w : Nat → Int) (u : Nat) : Int :=
  let h := (List.range n).foldl (fun (s : Int × Int) k =>
    let cs := cosSin ((u * (k + (2 ^ 48 - 1) * back)) % 2 ^ 48)
    (s.1 + w k * cs.1, s.2 + w k * cs.2)) (0, 0)
  h.1 * h.1 + h.2 * h.2

/-- What R140 asks of a decimation filter: ±0.01 dB up to 0.4 f_t and at least 85 dB from 0.6 f_t on. The device's coefficients meet it; a claim
about its response takes this as a premise (log entry 110). -/
def ddcConforms (d : Nat) : Prop :=
  ∀ u < 2 ^ 47,
    let sq := responseSq (2 * ddcReach * d + 1) (ddcReach * d) (fun k => Config.ddcTap d ((k : Int) - (ddcReach * d : Nat))) u
    (10 * d * u ≤ 4 * 2 ^ 48 → 997700 * 2 ^ 200 ≤ 1000000 * sq ∧ 1000000 * sq ≤ 1002305 * 2 ^ 200) ∧
      (6 * 2 ^ 48 ≤ 10 * d * u → 10 ^ 10 * sq ≤ 31 * 2 ^ 200)

/-- Saturate both components. -/
def satPair (v : Int × Int) : Int × Int := (sat16i v.1, sat16i v.2)
/-- Saturations of a list of pairs. -/
def pairSats (l : List (Int × Int)) : Nat := satCount (l.map (·.1)) + satCount (l.map (·.2))

/-- Chip i of the Golay sequence A_n, or of B_n, as the sign of the envelope (R114). -/
def golayChip : Nat → Bool → Nat → Bool
  | 0, _, _ => true
  | 1, b, i => if i = 0 then true else !b
  | n + 2, b, i =>
    if i < 2 ^ (n + 1) then golayChip (n + 1) false i
    else if b then !(golayChip (n + 1) true (i - 2 ^ (n + 1))) else golayChip (n + 1) true (i - 2 ^ (n + 1))

/-- The chirp's added phase in 2^-48 turns at `t` samples of a rate in kHz after the pulse's start: ±(B/2)(t²/τ - t) turns with B in Hz, t in s and
τ = PULSE_LEN / f_dac (R113). -/
def chirpTurns (p : List Word) (t rate : Nat) : Nat :=
  let bw : Int := bf p 4 0 17 * 1000
  let fs : Int := rate * 1000
  let num : Int := bw * (t * t * (fDac p * 1000) - t * fs * pulseLen p)
  (floorDiv ((if bfb p 0 5 then -num else num) * 2 ^ 48) (max 1 (2 * fs.toNat * fs.toNat * pulseLen p)) % 2 ^ 48).toNat

/-- The ideal baseband pulse at t / f_t, as envelope sign and added phase in 2^-48 turns (R113, R114). -/
def pulseAt (p r : List Word) (oddPpn : Bool) (t : Nat) : Bool × Nat :=
  match shapeOf p with
  | 1 => (true, chirpTurns p (t * decD r) (fConv r))
  | 2 => (golayChip (golayLog p) oddPpn (t * decD r * fDac p / max 1 (fConv r * pulseLen p)), 0)
  | _ => (true, 0)

/-! ## What is launched (R108, R109, R113, R114) -/

/-- The 32-bit phase accumulator of tone k at DAC sample n of a launch, from phase 0 at the launch (R108). -/
def toneAccumulator (p : List Word) (k n : Nat) : BitVec 32 := BitVec.ofNat 32 (ncoStep p k) * BitVec.ofNat 32 n

/-- The envelope e(n) of a pulse: ±1 or 0; a Golay plan sends A_n in periods of even PPN and B_n in periods of odd PPN (R109, R114). -/
def pulseEnvelope (p : List Word) (odd : Bool) (n : Nat) : Int :=
  if pulseDac p ≤ n then 0
  else if shapeOf p = 2 then (if golayChip (golayLog p) odd (n / max 1 (pulseLen p)) then 1 else -1) else 1

/-- The phase of tone k at DAC sample n in 2^-48 turns (R108, R113). -/
def tonePhase (p : List Word) (k n : Nat) : Nat :=
  (toneAccumulator p k n).toNat * 2 ^ 16 + if shapeOf p = 1 then chirpTurns p n (fDac p) else 0

/-- The I and Q codes at DAC sample n of a launch of some tones, each rounded to the nearest integer (R109). -/
def launchCode (p : List Word) (tones : BitVec 8) (odd : Bool) (n : Nat) : BitVec 16 × BitVec 16 :=
  let sum := ((List.range 8).filter tones.getLsbD).foldl (fun (a : Int × Int) k =>
    let cs := cosSin (tonePhase p k n)
    let w : Int := toneAmpl p k * pulseEnvelope p odd n
    (a.1 + w * cs.1, a.2 + w * cs.2)) (0, 0)
  (BitVec.ofInt 16 (roundEven sum.1 (2 ^ 60)), BitVec.ofInt 16 (roundEven sum.2 (2 ^ 60)))

/-- Tap t of the reference in 2^46 fixed point (R142, R143): loaded taps, or 16 384 × w(t) × conj(p(t)). The Hann window's span, N or N - 1, is
left open by the spec. -/
def refTap (p r : List Word) (refs : List (Nat × Word)) (tone : Nat) (odd : Bool) (t : Nat) : Int × Int :=
  let bank := if shapeOf p = 2 && odd then 1 else 0
  if bfb r 0 22 then
    let w := (assocGet refs (tone * 1024 + bank * 512 + t)).getD 0
    (signed 16 w.toNat * 2 ^ 46, signed 16 (w.toNat / 65536) * 2 ^ 46)
  else
    let n := refTaps p r
    let (sgn, ph) := pulseAt p r odd t
    let cs := cosSin ph
    let span := if (Config.freeWord 0 142).getLsbD 0 then n else n - 1
    let hann : Int := if bfb r 0 23 then floorDiv (2 ^ 60 - (cosSin (t * 2 ^ 48 / max 1 span)).1) 2 else 2 ^ 60
    let amp : Int := if sgn then 1 else -1
    (amp * floorDiv (hann * cs.1) (2 ^ 60), -(amp * floorDiv (hann * cs.2) (2 ^ 60)))

/-- Compressed sample i: the direct sum rounded, within one LSB (R141), unsaturated. -/
def compress (seed branch : Nat) (p r : List Word) (taps : List (Int × Int)) (u : List (Int × Int)) (i : Nat) : Int × Int :=
  let prods := (List.zip taps (u.drop i)).map fun hu =>
    (hu.1.1 * hu.2.1 - hu.1.2 * hu.2.2, hu.1.1 * hu.2.2 + hu.1.2 * hu.2.1)
  let re := (prods.map (·.1)).foldl (· + ·) 0
  let im := (prods.map (·.2)).foldl (· + ·) 0
  let d := 2 ^ (46 + bf r 5 8 5)
  (roundEven re d + clamp (-1) 1 (Config.compressDev seed i branch false),
    roundEven im d + clamp (-1) 1 (Config.compressDev seed i branch true))

/-- Native sample ⌊s_j⌋ - 3 + k of the interpolator's eight; before the timeline origin there is none, and what the device takes there is free. -/
def interpSample (u : List (Int × Int)) (base k : Nat) : Int × Int :=
  if base + k < 3 then (Config.beforeOrigin false (3 - base - k), Config.beforeOrigin true (3 - base - k)) else u.getD (base + k - 3) (0, 0)

/-- Interpolated sample of channel j (R146), rounded half to even, unsaturated: eight taps of one of 64 phases, in 2^-30, which the spec leaves to
the device (log entry 110). -/
def interp (r : List Word) (u : List (Int × Int)) (j : Nat) : Int × Int :=
  let s := sOf r j
  let sum := (List.range 8).foldl (fun (a : Int × Int) k =>
    let v := interpSample u (s / 64) k
    let w := Config.interpTap (s % 64) k
    (a.1 + w * v.1, a.2 + w * v.2)) (0, 0)
  (roundEven sum.1 (2 ^ 30), roundEven sum.2 (2 ^ 30))

/-- What R146 asks of the interpolator: each phase flat within ±0.05 dB up to 0.4 f_t (log entry 110). -/
def interpConforms : Prop :=
  ∀ phase < 64, ∀ u, 10 * u ≤ 4 * 2 ^ 48 →
    let sq := responseSq 8 3 (Config.interpTap phase) u
    988554 * 2 ^ 180 ≤ 1000000 * sq ∧ 1000000 * sq ≤ 1011579 * 2 ^ 180

/-- The branches of a shot's group: enabled tones of the group, X then Y (5.4). -/
def groupBranches (p : List Word) (g : Nat) : List Nat :=
  ((tonesOf p).filter fun k => toneGroup p k = g).flatMap fun k => [2 * k, 2 * k + 1]

/-- The stream of a polarisation: converter 0 is X unless POL_SWAP (R128). -/
def polStream (r : List Word) (x : PairSamples) (y : Bool) : List Int := if y != bfb r 0 17 then x.c1 else x.c0

/-- A pair's samples from the timeline origin on: the converter sample whose analog instant is the launch reaches the balls the converter's latency
later, in samples (R138, R219). -/
def fromOrigin (latency : Nat) (x : PairSamples) : PairSamples :=
  ⟨x.c0.drop latency, x.c1.drop latency, (x.bad.filter (latency ≤ ·)).map (· - latency)⟩

/-- ADC_LATENCY and RAM_LATENCY (R138, R219). -/
def adcLatency (r : List Word) : Nat := bf r 2 0 12
def ramLatency (r : List Word) : Nat := bf r 2 16 12

/-- Branch samples of one branch over every channel, with the saturations counted (R139-R146). -/
def branchRun (seed : Nat) (sh : Shot) (x : PairSamples) (b : Nat) : List (Int × Int) × Nat × Nat :=
  let w := window sh.probe sh.recv
  let raw := ddc sh.recv (recvStep sh.probe sh.recv (b / 2)) w (polStream sh.recv x (b % 2 = 1))
  let u := raw.map satPair
  let taps := (List.range (refTaps sh.probe sh.recv)).map (refTap sh.probe sh.recv sh.refs (b / 2) (sh.ppn.getLsbD 0))
  let comp := if pcEn sh.recv then
      (List.range (w - (refTaps sh.probe sh.recv - 1))).map (compress seed b sh.probe sh.recv taps u) else u
  let uc := comp.map satPair
  let out := (List.range (nChOf sh.recv)).map (interp sh.recv uc)
  (out.map satPair, pairSats raw, (if pcEn sh.recv then pairSats comp else 0) + pairSats out)

/-- The half-sum of a Golay pair, halves to even (R143). -/
def golaySum (a b : Int × Int) : Int × Int := (roundEven (a.1 + b.1) 2, roundEven (a.2 + b.2) 2)

/-! ## One channel of the phase engine (R159-R172) -/

/-- One element of a row (Table 6.1). -/
structure Elem where
  rate : Int
  amp : Nat
  fq : Nat
  faded : Bool
  bridged : Bool
  init : Bool
  edge : Bool
  unwrap : Word
  deriving DecidableEq, Repr

/-- An element of all zeros. -/
def zeroElem : Elem := ⟨0, 0, 0, false, false, false, false, 0⟩

/-- conj(a) × b, saturated to int32 (R159). -/
def diffProd (a b : Int × Int) : Int × Int := (satInt 32 (a.1 * b.1 + a.2 * b.2), satInt 32 (a.1 * b.2 - a.2 * b.1))

/-- q rotated by -ρ, shifted right by 15 half to even (R161). -/
def rotateQ (q : Int × Int) (rho : BitVec 16) : Int × Int :=
  let cs := q15 rho.toNat
  (roundEven (q.1 * cs.1 + q.2 * cs.2) 32768, roundEven (q.2 * cs.1 - q.1 * cs.2) 32768)

/-- |q|². -/
def mag2 (q : Int × Int) : Int := q.1 * q.1 + q.2 * q.2

/-- Reference of a branch. -/
def ChanSt.ref (c : ChanSt) (b : Nat) : BitVec 16 := c.refs.toList.getD b 0
/-- Set a reference and mark it valid. -/
def ChanSt.setRef (c : ChanSt) (b : Nat) (v : BitVec 16) : ChanSt :=
  { c with refs := Vector.ofFn fun (i : Fin 16) => if i.val = b then v else c.refs[i], valid := c.valid ||| ((1 : BitVec 16) <<< b) }

/-- The combined phasor over branches with a valid reference (R161). -/
def combine (c : ChanSt) (qs : List (Nat × (Int × Int))) : Int × Int :=
  (qs.filter fun q => c.valid.getLsbD q.1).foldl (fun acc q => let r := rotateQ q.2 (c.ref q.1); (acc.1 + r.1, acc.2 + r.2)) (0, 0)

/-- FQ (R165). -/
def fqOf (amp mean : Nat) : Nat :=
  if amp = 0 then 0 else if mean = 0 then 255 else (min 255 (roundEven (255 * amp) mean)).toNat

/-- The running mean after a shot (R165). -/
def meanStep (mean amp k : Nat) : Nat := ((mean : Int) + roundEven ((amp : Int) - mean) (2 ^ k)).toNat

/-- The branch of largest |q|, lowest index on a tie (R167). -/
def anchorOf : List (Nat × (Int × Int)) → Nat × (Int × Int)
  | [] => (0, (0, 0))
  | q :: r => r.foldl (fun m x => if mag2 m.2 < mag2 x.2 then x else m) q

/-- What one channel gives at a shot: element, state, faded and bridged counts. -/
structure ChanOut where
  el : Elem
  st : ChanSt
  deriving DecidableEq, Repr

/-- Initialise a group at this shot by R167 from the products `qs` of its launched, masked-in branches. -/
def initGroup (seed ch : Nat) (phase : List Word) (g : Nat) (qs : List (Nat × (Int × Int))) (c : ChanSt) : ChanSt :=
  if qs.all fun q => q.2 = (0, 0) then c
  else
    let first := c.init = 0
    let a := anchorOf qs
    let th := if first then angleOf seed (ch * 32 + a.1) a.2.1 a.2.2 else c.theta
    let r0 := rotateQ a.2 0
    let c1 := if first then { c with theta := th, ampMean := ampOf seed (ch * 32 + 16) (bf phase 4 0 5) r0.1 r0.2 } else c
    let c2 := qs.foldl (fun c q => c.setRef q.1 (angleOf seed (ch * 32 + q.1) q.2.1 q.2.2 - th)) c1
    { c2 with init := c2.init ||| ((1 : BitVec 8) <<< g) }

/-- One live channel at one shot of group `g` (R161-R168). `qs`: products of the group's branches that are launched and masked in. -/
def chanStep (seed ch : Nat) (phase : List Word) (g : Nat) (qs : List (Nat × (Int × Int))) (c0 : ChanSt) : ChanOut :=
  let kAmp := bf phase 0 24 4
  let shift := bf phase 4 0 5
  let anyValid := qs.any fun q => c0.valid.getLsbD q.1
  let initNow := !c0.init.getLsbD g || (!anyValid && !qs.isEmpty)
  let c := if initNow then initGroup seed ch phase g qs c0 else c0
  let cc := combine c qs
  let amp := ampOf seed (ch * 32 + 17) shift cc.1 cc.2
  let fq := fqOf amp c.ampMean
  let c1 := { c with ampMean := meanStep c.ampMean amp kAmp }
  let fadeMin := bf phase 0 0 8
  let faded := !initNow && decide (fq < fadeMin)
  let bridged := !initNow && ((faded && bfb phase 0 8) || cc = (0, 0))
  if initNow then ⟨⟨0, amp, fq, false, false, true, false, c1.unwrap⟩, c1⟩
  else if bridged then ⟨⟨0, amp, fq, faded, true, false, false, c1.unwrap⟩, c1⟩
  else
    let th := angleOf seed (ch * 32 + 18) cc.1 cc.2
    let rate := (th - c1.theta).toInt
    let live := qs.filter fun q => c1.valid.getLsbD q.1
    let mx := (live.map fun q => mag2 q.2).foldl max 0
    let gate := bf phase 0 20 3
    let c2 := live.foldl (fun c q =>
      if mx ≤ mag2 q.2 * 4 ^ gate then
        let e := (angleOf seed (ch * 32 + q.1) q.2.1 q.2.2 - th - c.ref q.1).toInt
        c.setRef q.1 (c.ref q.1 + BitVec.ofInt 16 (roundEven e (2 ^ bf phase 0 16 4)))
      else c) c1
    let c3 := (qs.filter fun q => !c1.valid.getLsbD q.1).foldl
      (fun c q => c.setRef q.1 (angleOf seed (ch * 32 + q.1) q.2.1 q.2.2 - th)) c2
    let un := c3.unwrap + BitVec.ofInt 32 rate
    ⟨⟨rate, amp, fq, faded, false, false, false, un⟩,
      { c3 with theta := th, unwrap := un, drift := signed 32 ((c3.drift + rate) % 2 ^ 32).toNat, driftN := c3.driftN + 1 }⟩

/-- A combining reset of one channel (R167). -/
def resetChan (c : ChanSt) : ChanSt := { c with init := 0, valid := 0, unwrap := 0, broken := true }

/-- The rescale of AMP_MEAN when AMP_SHIFT changes (R179). -/
def rescaleMean (old new mean : Nat) : Nat :=
  if old < new then (roundEven mean (2 ^ (new - old))).toNat else min 65535 (mean * 2 ^ (old - new))

/-- A row of the phase engine as its consumers take it (R158, R173). -/
structure Row where
  fe : Fe
  ppn : BitVec 48
  group : Nat
  t : Nat
  time : BitVec 64
  flags : BitVec 16
  elems : List Elem
  /-- Elements of an INVALID row that keep their values (R497). -/
  keep : Nat
  deriving DecidableEq, Repr

/-- Samples of [a, b) meet a tainted interval, or an outage that still runs (R135, R136). -/
def taintMeets (l : List (Nat × Nat)) (out : Option Nat) (a b : Nat) : Bool :=
  l.any (fun (i : Nat × Nat) => decide (i.1 < b) && decide (a < i.2)) || (match out with | some o => decide (o < b) | none => false)

/-! ## Shedding of tones (R19, R122) -/

/-- One shedding step on the tones of a plan: the highest of every group with more than one. -/
def shedOnce (p : List Word) (l : List Nat) : List Nat :=
  l.filter fun k => !((l.filter fun j => toneGroup p j = toneGroup p k).length > 1 &&
    l.all fun j => toneGroup p j ≠ toneGroup p k || j ≤ k)

/-- The tones left after a number of steps. -/
def shedTones (p : List Word) : Nat → List Nat → List Nat
  | 0, l => l
  | n + 1, l => shedTones p n (shedOnce p l)

/-- The tones an engine launches under a PROBE set. -/
def tonesLive (p : List Word) (steps : Nat) : List Nat := shedTones p steps (tonesOf p)

/-- A tone could still be shed: some running engine would launch fewer with one step more (R19). -/
def canShedTone (s : State) : Bool :=
  (List.finRange 4).any fun f =>
    let p := s.act 0x10 f.val
    runOf p && tonesLive p s.power.shed3 ≠ tonesLive p (s.power.shed3 + 1)

/-- The last shedding step has been taken: only then are samples lost and OVERRUN marked (R19). -/
def shedLast (s : State) : Bool := s.power.shed1 && s.power.shed2 && !canShedTone s

/-- Flag bits of Table 7.4. -/
def flSettling : Nat := 0
def flDisc : Nat := 1
def flInvalid : Nat := 2
def flOverrun : Nat := 3
def flHoldover : Nat := 4
def flExact : Nat := 5
def flCompressed : Nat := 6
def flFade : Nat := 7
def flEdge : Nat := 8
def flRowMajor : Nat := 9

/-- A flag word with one bit. -/
def flagBit (n : Nat) (on : Bool) : BitVec 16 := if on then (1 : BitVec 16) <<< n else 0

end Sys2Proof.Machine
end

