-- ==== Sys2Proof/Machine/Zones.lean ====
section
/-! DEFINITION. Events that reach the Harvest sequencers, and the zone detector (08): energy, decisions,
rows that are not ordinary, live changes, pins, records and the zone opcodes. -/

namespace Sys2Proof.Machine

/-! ## Zone entries (Table 8.6) -/

/-- The default entry: a disabled zone. -/
def zoneDflt : List Word := (dfltWords fldZoneTable 64).take 8

/-- Zone z's eight words of a ZONE_TABLE block set. -/
def zoneShadow (s : State) (z : Nat) : List Word := ((s.shad 0x21 (z / 8)).drop (8 * (z % 8))).take 8

/-- A zone that is disabled and reset. -/
def zoneInit : ZoneSt := ⟨zoneDflt, false, false, 0, 0, 0, true, 0, 0, 0, false⟩

/-- A zone. -/
def State.zone (s : State) (z : Nat) : ZoneSt := (assocGet s.zones.zs z).getD zoneInit
/-- Replace a zone. -/
def State.setZone (s : State) (z : Nat) (v : ZoneSt) : State := { s with zones := { s.zones with zs := assocSet s.zones.zs z v } }

def zEn (e : List Word) : Bool := bfb e 0 0
def zPinEn (e : List Word) : Bool := bfb e 0 1
def zEventEn (e : List Word) : Bool := bfb e 0 2
def zLatch (e : List Word) : Bool := bfb e 0 3
def zSettleHold (e : List Word) : Bool := bfb e 0 4
def zFe (e : List Word) : Nat := bf e 0 8 2
def zPin (e : List Word) : Nat := bf e 0 12 4
def zK (e : List Word) : Nat := bf e 0 16 4
def zExp (e : List Word) : Nat := bf e 0 20 5
def zFirst (e : List Word) : Nat := bf e 1 0 18
def zLast (e : List Word) : Nat := bf e 2 0 18
def zOnTh (e : List Word) : Nat := bf e 3 0 32
def zOffTh (e : List Word) : Nat := bf e 4 0 32
def zOnDwell (e : List Word) : Nat := bf e 5 0 16
def zOffDwell (e : List Word) : Nat := bf e 5 16 16

/-- ALERT (R206). -/
def alertOf (z : ZoneSt) : Bool := z.on || z.latched

/-- An engine is stopped and its streams have ended (R207). -/
def feEnded (s : State) (f : Fe) : Bool := !runOf (s.act 0x10 f.val) && s.fe[f].shots.isEmpty

/-- Out of range of the N_CH in force for an engine's rows. -/
def zoneOut (s : State) (e : List Word) : Bool :=
  let f : Fe := ⟨zFe e, by unfold zFe bf bitsOf; exact Nat.mod_lt _ (by decide)⟩
  let recv := match s.fe[f].shots with | sh :: _ => sh.recv | [] => s.act 0x11 f.val
  decide (nChOf recv ≤ zLast e)

/-! ## Pins and bitmap (R208, R209) -/

/-- Level of ALARM[p]. -/
def pinLevel (s : State) (p : Nat) : Bool :=
  let ctl := s.act 0x20 0
  let active := bfb ctl 1 p || (bfb ctl 0 p && s.zones.zs.any fun z => zEn z.2.entry && zPinEn z.2.entry && zPin z.2.entry = p && alertOf z.2)
  s.zones.committed && !s.life.thermtrip && decide (s.power.state.val < 3) && (active != bfb ctl 0 (16 + p))

/-- Drive every ALARM pin to its level, showing those that change. -/
def refreshPins (s : State) : State :=
  let lv : List (Fin 16 × Bool) := (List.finRange 16).map fun p => (p, pinLevel s p.val)
  let new : BitVec 16 := lv.foldl (fun m (x : Fin 16 × Bool) => if x.2 then m ||| ((1 : BitVec 16) <<< x.1.val) else m) 0
  let changed := lv.filter fun x => s.zones.pins.getLsbD x.1.val ≠ x.2
  ({ s with zones := { s.zones with pins := new } }).emits (changed.map fun (x : Fin 16 × Bool) => .pin (.alarm x.1) x.2)

/-- ALARM_BITS n (Table 8.2). -/
def alarmBits (s : State) (n : Nat) : Word :=
  s.zones.zs.foldl (fun w z => if z.1 / 32 = n && zEn z.2.entry && alertOf z.2 then w ||| ((1 : Word) <<< (z.1 % 32)) else w) 0

/-! ## Transitions (8.5) -/

/-- A transition of zone `z`, decided at an instant, reaches the sequencers, the peer lanes and, where enabled, the event records (R211, R212). -/
def zoneEvent (s : State) (z : Nat) (st : ZoneSt) (on settling : Bool) (cause : Nat) (ppn : BitVec 48) (group e clk : Nat) : State :=
  let time := s.time.at clk
  let fe := zFe st.entry
  let s1 := { s with zones := { s.zones with locals := addSat s.zones.locals 1 } }
  let s2 := s1.seqEvent ⟨if on then 1 else 2, z + fe * 65536, time, 0, 0, clk⟩
  let pl := [BitVec.ofNat 32 (z + (if on then 2048 else 0) + fe * 4096), ppn.extractLsb' 0 32, BitVec.ofNat 32 (ppn.toNat / 2 ^ 32)] ++
    split64 time
  let s3 := (List.finRange 4).foldl (fun s l =>
    if s.peer.lanes[l].st = .up && bfb (peerSet s l) 0 2 then s.sendFrame l 4 2 pl else s) s2
  if zEventEn st.entry && bfb (s.act 0x20 0) 2 5 then
    { s3 with zones := { s3.zones with events := s3.zones.events ++
      [⟨false, on, st.latched, settling, cause, z, fe, deviceNum s3, ppn, group, time, e⟩] } }
  else s3

/-- The zone is reset (first line of Table 8.1, R214): an event if it was ON; energy, counters and LATCHED cleared; it then primes. -/
def zoneReset (cause z : Nat) (s : State) : State :=
  let st := s.zone z
  let st' := { st with on := false, latched := false, e := 0, onCnt := 0, offCnt := 0, priming := true }
  let s1 := s.setZone z st'
  if st.on then zoneEvent s1 z st' false false cause st.ppn st.group (if cause = 2 then st.e / 65536 else 0) s.time.clk else s1

/-! ## ZONE_ACK (R206, R218) -/

/-- The acknowledgements of a zone among some operations, oldest first: the first counts the clear of LATCHED (R218). -/
def ackOps (only : Op → Bool) (z : Nat) : Bool → List Op → List Op
  | _, [] => []
  | lat, o :: r => match o.kind with
    | .zoneAck l c =>
      if only o && l.contains z then { o with kind := .zoneAck (l.filter (· ≠ z)) (if lat then c + 1 else c) } :: ackOps only z false r
      else o :: ackOps only z lat r
    | _ => o :: ackOps only z lat r

/-- A zone takes the acknowledgements that wait for it, of some operations; each answers once every zone it names has. -/
def takeAcksOf (only : Op → Bool) (z : Nat) (s : State) : State :=
  let waits := fun (o : Op) => only o && match o.kind with | .zoneAck l _ => l.contains z | _ => false
  if s.proto.ops.any waits then
    let lat := (s.zone z).latched
    let s1 := s.setZone z { s.zone z with latched := false }
    let s2 := { s1 with proto := { s1.proto with ops := ackOps only z lat s1.proto.ops } }
    (s2.proto.ops.filter fun o => match o.kind with | .zoneAck l _ => l.isEmpty | _ => false).foldl (fun s o => match o.kind with
      | .zoneAck _ c => s.finish o stOk 0 [BitVec.ofNat 32 c]
      | _ => s) s2
  else s

/-- A zone takes every acknowledgement that waits for it. -/
def takeAcks (z : Nat) (s : State) : State := takeAcksOf (fun _ => true) z s

/-! ## Rows (R203-R207) -/

/-- Raw energy of a zone in a row (R203). -/
def rawEnergy (row : Row) (e : List Word) : Nat :=
  (((row.elems.drop (zFirst e)).take (zLast e + 1 - zFirst e)).map fun x => (x.rate * x.rate).toNat).foldl (· + ·) 0

/-- The evaluation of R205 after an update of the energy; `primed`: the row primed the zone, which comes before SETTLE_HOLD in Table 8.1. -/
def zoneJudge (row : Row) (decided : Nat → Nat) (primed : Bool) (z : Nat) (s : State) : State :=
  let st := s.zone z
  let ent := st.entry
  let ei := st.e / 65536
  let settling := row.flags.getLsbD flSettling
  let hold := settling && zSettleHold ent && !primed
  if st.on then
    if ei < zOffTh ent * 2 ^ zExp ent then
      let n := st.offCnt + 1
      if zOffDwell ent ≤ n then
        let st' := { st with on := false, offCnt := 0, onCnt := 0 }
        zoneEvent (s.setZone z st') z st' false settling 0 row.ppn row.group ei (decided (zLast ent))
      else s.setZone z { st with offCnt := n }
    else s.setZone z { st with offCnt := 0 }
  else if hold then s.setZone z { st with onCnt := 0 }
  else if zOnTh ent * 2 ^ zExp ent < ei then
    let n := st.onCnt + 1
    if zOnDwell ent ≤ n then
      let st' := { st with on := true, onCnt := 0, offCnt := 0, latched := st.latched || zLatch ent, trans := addSat st.trans 1 }
      zoneEvent (s.setZone z st') z st' true settling 0 row.ppn row.group ei (decided (zLast ent))
    else s.setZone z { st with onCnt := n }
  else s.setZone z { st with onCnt := 0 }

/-- One zone meets one row (Table 8.1); `decided`: when a zone decides, by its last channel (R210). -/
def zoneRow (row : Row) (decided : Nat → Nat) (nch z : Nat) (s : State) : State :=
  let st := s.zone z
  let ent := st.entry
  if nch ≤ zLast ent then (if st.on || st.latched || !st.priming then zoneReset 1 z s else s)
  else if row.flags.getLsbD flInvalid && row.keep ≤ zLast ent then s
  else
    let s1 := takeAcks z s
    let st1 := s1.zone z
    let e := rawEnergy row ent
    let primed := st1.priming || row.flags.getLsbD flDisc
    let new := if primed then e * 65536
      else ((st1.e : Int) + roundEven ((e : Int) * 65536 - st1.e) (2 ^ zK ent)).toNat
    zoneJudge row decided primed z (s1.setZone z { st1 with e := new, priming := false, ppn := row.ppn, group := row.group })

/-- Insert by end channel, then zone number: the order in which a row decides zones. -/
def zoneInsert (s : State) (z : Nat) : List Nat → List Nat
  | [] => [z]
  | y :: r => if zLast (s.zone z).entry < zLast (s.zone y).entry ||
      (zLast (s.zone z).entry = zLast (s.zone y).entry && z < y) then z :: y :: r else y :: zoneInsert s z r

/-- Zones of an engine, enabled, in decision order. -/
def zonesOf (s : State) (f : Fe) : List Nat :=
  ((s.zones.zs.filter fun z => zEn z.2.entry && zFe z.2.entry = f.val).map (·.1)).foldl (fun l z => zoneInsert s z l) []

/-- Every zone of the row's engine meets the row, then the pins follow. -/
def zonesRow (row : Row) (decided : Nat → Nat) (nch : Nat) (s : State) : State :=
  refreshPins ((zonesOf s row.fe).foldl (fun s z => zoneRow row decided nch z s) s)

/-- The zones of an engine whose streams have ended are reset with CAUSE 1 (R207). -/
def zonesStop (f : Fe) (s : State) : State := refreshPins ((zonesOf s f).foldl (fun s z => zoneReset 1 z s) s)

/-! ## Live changes (8.6) -/

/-- Entry `new` replaces the zone's entry in force (R214). -/
def zoneApply (z : Nat) (new : List Word) (s : State) : State :=
  let st := s.zone z
  let old := st.entry
  let reset := (zEn new && !zEn old) || (!zEn new && zEn old) ||
    (zEn new && (zFe new ≠ zFe old || zFirst new ≠ zFirst old || zLast new ≠ zLast old || zK new ≠ zK old))
  let s1 := if reset then zoneReset 2 z s else s
  s1.setZone z { s1.zone z with entry := new, left := false }

/-- The zone leaves its old engine and waits for its new one (R213). -/
def zoneLeave (z : Nat) (s : State) : State :=
  let s1 := zoneReset 2 z s
  let e := (s1.zone z).entry
  s1.setZone z { s1.zone z with entry := ((wordAt e 0) &&& 0xFFFFFFFE#32) :: e.drop 1, left := true }

/-- A zone's change at an application point of engine `f`, or of every engine (`none`) for zones whose engine has stopped (R213). -/
def zonePoint (f : Option Fe) (z : Nat) (s : State) : State :=
  let st := s.zone z
  let new := zoneShadow s z
  let here := fun (n : Nat) => match f with
    | some g => n = g.val
    | none => if h : n < 4 then feEnded s ⟨n, h⟩ else false
  if st.entry = new then s
  else if zEn st.entry && zEn new && zFe st.entry ≠ zFe new then
    if here (zFe st.entry) then
      let s1 := zoneLeave z s
      if here (zFe new) then zoneApply z new s1 else s1
    else s
  else if here (zFe new) || (!zEn new && here (zFe st.entry)) || (!zEn new && !zEn st.entry) then zoneApply z new s
  else s

/-- The ZONE_TABLE blocks of a commit that are fully applied leave it, as does ZONE_CTL, which applies at once (R213, R61). At a row: the device time of
its launch, and when its first element reaches the detector. -/
def zoneCommitPoint (f : Option Fe) (launched : Option (BitVec 64 × Nat)) (s : State) : State :=
  match s.commits.find? fun c => hasZone c && !c.queued && c.left.any (fun b => b.code = 0x20 || b.code = 0x21) with
  | none => s
  | some c =>
    let due := match launched with
      | some (t, first) => if c.target = 2 then decide (c.value ≤ t) else decide (c.arrivalClk < first)
      | none => localDue c s.now
    if !due then s
    else
      let tables := c.left.filter fun b => b.code = 0x21
      let s1 := tables.foldl (fun s b => (List.range 8).foldl (fun s i => zonePoint f (b.inst * 8 + i) s) s) s
      let ctl := c.left.contains (bid 0x20 0) && localDue c s.now
      let doneB := (tables.filter fun b => (List.range 8).all fun i => (s1.zone (b.inst * 8 + i)).entry = zoneShadow s1 (b.inst * 8 + i)) ++
        (if ctl then [bid 0x20 0] else [])
      if doneB.isEmpty then
        let moved := !(s1.zones.zs == s.zones.zs)
        refreshPins { s1 with commits := s1.commits.map fun d => if d = c && moved then { d with begun := true } else d }
      else
        let s2 := doneB.foldl (fun s b => applyBlock b s) s1
        let c' := { c with left := c.left.filter (fun b => !doneB.contains b), begun := true, applied := s2.now }
        let s3 := { s2 with commits := s2.commits.map fun d => if d = c then c' else d, zones := { s2.zones with committed := true } }
        (refreshPins s3).settle c'

/-! ## Records (R212) -/

/-- Whether a ring can take one more small record: posted descriptors beyond the items that wait (log entry 31). -/
def ringRoom (s : State) (n : RingId) : Bool :=
  let r := s.rings[n]
  bfb (s.act 0x80 n.val) 0 0 && !r.halted && decide (r.queue.length + (if r.cur.isSome then 1 else 0) < fwd r.cons r.prod)

/-- The words of a record (Table 8.4). -/
def zoneRecord (e : ZoneEv) (eseq : BitVec 16) (lost : Nat) : List Word :=
  [BitVec.ofNat 32 ((if e.remote then 2 else 1) + 256 * e.on.toNat + 512 * e.latched.toNat + 1024 * e.settling.toNat + 2048 * e.cause +
      65536 * e.zone + 2 ^ 27 * e.fe + 2 ^ 29 * e.src),
    BitVec.ofNat 32 (eseq.toNat + 65536 * min 65535 lost), e.ppn.extractLsb' 0 32, BitVec.ofNat 32 (e.ppn.toNat / 2 ^ 32 + e.group * 65536)] ++
  split64 e.time ++ split64 (BitVec.ofNat 64 (e.e % 2 ^ 48))

/-- ZONE_EVENT_RECORD: the oldest transition becomes a record of the event ring, or is dropped; vector 36 follows the record's write (R212). -/
def execZoneEventRecord (s : State) : Host.Outcome State Fault Refusal :=
  match s.zones.events with
  | [] => ok s
  | e :: r =>
    let n := ringOf (bf (s.act 0x20 0) 2 0 5)
    let z := { s.zones with events := r, eseq := s.zones.eseq + 1 }
    if ringRoom s n then
      ok (({ s with zones := { z with lost := 0 } }).ringPush n ⟨wordsBytes (zoneRecord e s.zones.eseq s.zones.lost), 0, 2, 0⟩)
    else ok { s with zones := { z with lost := s.zones.lost + 1, dropped := addSat z.dropped 1 } }

/-! ## Opcodes (Table 8.8) -/

/-- A zone that cannot decide: disabled, out of range, or its engine stopped (R218). -/
def zoneIdle (s : State) (z : Nat) : Bool :=
  let e := (s.zone z).entry
  !zEn e || zoneOut s e || (if h : zFe e < 4 then feEnded s ⟨zFe e, h⟩ else true)

/-- ZONE_ACK. -/
def doZoneAck (r : Req) (s : State) : Res :=
  let w := wordAt r.payload 0
  let first := wbits w 0 11
  let n := wbits w 16 12
  if rsvdBad r 0 0x0FFF07FF || n = 0 || 2048 < first + n then Res.bad 0 s
  else
    let zs := (List.range n).map (· + first)
    let s1 := s.addOp r (.zoneAck zs 0) false
    Res.later (refreshPins ((zs.filter (zoneIdle s1)).foldl (fun s z => takeAcks z s) s1))

/-- ZONE_ACK (R218). -/
def execZoneAck (r : Req) (s : State) : Host.Outcome State Fault Refusal := ok (runOp 0x0301 [] 1 1 false doZoneAck r s)

/-- ZONE_ACK_TIMEOUT (R218): 2.2 ms after execution the zones of the oldest ZONE_ACK that have not decided take it. -/
def execZoneAckTimeout (s : State) : Host.Outcome State Fault Refusal :=
  match s.opWhere fun k => match k with | .zoneAck _ _ => true | _ => false with
  | none => ok s
  | some o =>
    let s := s.goTo (o.start + 2200000000)
    match o.kind with
    | .zoneAck l _ => ok (refreshPins (l.foldl (fun s z => takeAcksOf (fun x => x.sess = o.sess && x.seq = o.seq) z s) s))
    | _ => ok s

/-- ZONE_STATUS. -/
def doZoneStatus (r : Req) (s : State) : Res :=
  if rsvdBad r 0 0x7FF then Res.bad 0 s
  else
    let z := wbits (wordAt r.payload 0) 0 11
    let st := s.zone z
    Res.ok ([BitVec.ofNat 32 (st.on.toNat + 2 * st.latched.toNat + 4 * (zEn st.entry && zoneOut s st.entry).toNat +
        8 * (zEn st.entry && st.priming).toNat), BitVec.ofNat 32 (st.onCnt + 65536 * st.offCnt)] ++
      split64 (BitVec.ofNat 64 (st.e / 65536)) ++ split64 (st.ppn.zeroExtend 64) ++ [st.trans])
      (if (assocGet s.zones.zs z).isSome then s.setZone z { st with trans := 0 } else s)

/-- ZONE_STATUS (R218). -/
def execZoneStatus (r : Req) (s : State) : Host.Outcome State Fault Refusal := ok (runOp 0x0302 [] 1 1 false doZoneStatus r s)

/-- ZONE_SUMMARY: pins before PIN_INV, zones ON, zones out of range, records dropped, local events. -/
def doZoneSummary (_ : Req) (s : State) : Res :=
  let act := fun (p : Nat) => s.zones.committed && (pinLevel s p != bfb (s.act 0x20 0) 0 (16 + p))
  let pins := (List.range 16).foldl (fun m p => if act p then m + 2 ^ p else m) 0
  let en := s.zones.zs.filter fun z => zEn z.2.entry
  Res.ok [BitVec.ofNat 32 pins, BitVec.ofNat 32 (en.filter fun z => z.2.on).length,
      BitVec.ofNat 32 (en.filter fun z => zoneOut s z.2.entry).length, s.zones.dropped, s.zones.locals]
    { s with zones := { s.zones with dropped := 0, locals := 0 } }

/-- ZONE_SUMMARY (R218). -/
def execZoneSummary (r : Req) (s : State) : Host.Outcome State Fault Refusal := ok (runOp 0x0303 [] 0 0 false doZoneSummary r s)

end Sys2Proof.Machine
end

