-- ==== Sys2Proof/Machine/Records.lean ====
section
/-! DEFINITION. Stream records (7.5, 7.6): fields of the STREAM and PRESS sets, the queue, drops and the header. -/

namespace Sys2Proof.Machine

/-! ## Windows, queues and drops -/

/-- Fields of a STREAM set. -/
def stEn (b : List Word) : Bool := bfb b 0 0
def stFmt (b : List Word) : Nat := bf b 0 3 1
def stD (b : List Word) : Nat := bf b 0 4 3
def stFadeEn (b : List Word) : Bool := bfb b 0 7
def stResp (b : List Word) : Nat := bf b 0 8 4
def stFadeLog (b : List Word) : Nat := bf b 0 12 4
def stRing (b : List Word) : RingId := ringOf (bf b 0 16 5)
def stFirst (b : List Word) : Nat := bf b 1 0 18
def stCount (b : List Word) : Nat := bf b 2 0 18
def stQueueMib (b : List Word) : Nat := bf b 3 0 16
/-- EN, RATIO_CODE and DYNAMIC of a PRESS set. -/
def prEn (b : List Word) : Bool := bfb b 0 0
def prRatio (b : List Word) : Nat := bf b 0 1 2
def prDyn (b : List Word) : Bool := bfb b 0 3

/-- S bytes of filter state per channel (R196). -/
def filterBytes (set : List Word) : Nat := 64 * stD set + (if stResp set = 0 then 0 else 128)

/-- Bytes of the queue's state area per channel: with Press at d ≥ 5 also its open samples (R267). -/
def stateBytes (set press : List Word) : Nat := filterBytes set + (if prEn press && 5 ≤ stD set then 128 else 0)

/-- Bytes the records of a stream's queue occupy. -/
def recBytes (r : Rec) : Nat := 32 + r.payload.length
def queueUsed (s : State) (n : StreamId) : Nat := (s.stream[n].queue.map recBytes).foldl (· + ·) 0

/-- Bytes of the queue left for records. -/
def queueRoom (s : State) (n : StreamId) (set press : List Word) : Nat :=
  let fade := if s.stream[n].fade.isSome then 128 else 0
  stQueueMib set * 2 ^ 20 - stCount set * (stateBytes set press + fade) - queueUsed s n

/-- Set a flag of a record's header. -/
def hdrFlag (h : List Word) (bit : Nat) : List Word :=
  [wordAt h 0, wordAt h 1 ||| ((1 : Word) <<< bit)] ++ h.drop 2

/-- Drops among waiting records, oldest first, by what becomes of each (1: dropped, 2: ends where its delivery stands); `owed` are tiles of which a
record was lost before. The next record of a lost one's channels carries DISCONTINUITY (R197). Answers the records that stay, the tiles still owed and
how many were lost. -/
def sweepRecs (fate : Rec → Nat) : List Nat → List Rec → List Rec × List Nat × Nat
  | owed, [] => ([], owed, 0)
  | owed, r :: l =>
    if fate r = 0 then
      let hit := owed.contains r.tile && !r.begun
      let (l', o, n) := sweepRecs fate (if hit then owed.filter (· ≠ r.tile) else owed) l
      ((if hit then { r with hdr := hdrFlag r.hdr flDisc } else r) :: l', o, n)
    else
      let (l', o, n) := sweepRecs fate (r.tile :: owed) l
      (if fate r = 1 then l' else { r with cut := true } :: l', o, n + 1)

/-- Waiting records of a stream are lost (R196, R197, R334): counted, and where no record of the channels waits behind them, the next one made carries
DISCONTINUITY. -/
def dropRecs (n : StreamId) (owed : List Nat) (fate : Rec → Nat) (s : State) : State :=
  s.updStream n fun x =>
    let r := sweepRecs fate owed x.queue
    { x with queue := r.1, cont := x.cont.filter fun t => !r.2.1.contains t, dropped := (List.range (owed.length + r.2.2)).foldl (fun d _ => addSat d 1) x.dropped }

/-- A record of a tile whose delivery had begun is lost. -/
def dropRec (n : StreamId) (tile : Nat) (s : State) : State := dropRecs n [tile] (fun _ => 0) s

/-- A record of a tile that has just been made is lost: the next one made of the tile carries DISCONTINUITY (R197). -/
def dropNew (n : StreamId) (tile : Nat) (s : State) : State :=
  s.updStream n fun x => { x with dropped := addSat x.dropped 1, cont := x.cont.filter (· ≠ tile) }

/-- A finished record: its RSEQ is spent, and it joins the queue or is dropped whole (R195, R197). -/
def putRec (n : StreamId) (set press : List Word) (r : Rec) (s : State) : State :=
  let s1 := s.updStream n fun x => { x with rseq := x.rseq + 1 }
  if recBytes r ≤ queueRoom s n set press then
    s1.updStream n fun x => { x with queue := x.queue ++ [r], cont := if x.cont.contains r.tile then x.cont else r.tile :: x.cont }
  else dropNew n r.tile s1

/-- Header of an acoustic record (Table 7.3). -/
def recHeader (n : StreamId) (fe : Fe) (width d : Nat) (flags rseq : BitVec 16) (first group samplesM1 count : Nat) (ppn : BitVec 48)
    (payloadLen : Nat) (time : BitVec 64) (kind : Nat) : List Word :=
  [BitVec.ofNat 32 (0xA7 + 256 + 4096 * n.val + 65536 * kind + 2 ^ 24 * fe.val + 2 ^ 26 * width + 2 ^ 28 * d),
    BitVec.ofNat 32 (flags.toNat + 65536 * rseq.toNat), BitVec.ofNat 32 (first + 2 ^ 18 * group + 2 ^ 21 * samplesM1),
    BitVec.ofNat 32 count, ppn.extractLsb' 0 32, BitVec.ofNat 32 (ppn.toNat / 2 ^ 32 + 65536 * payloadLen)] ++ split64 time

/-- Pad to whole 32-byte units. -/
def pad32 (l : List Byte) : List Byte := l ++ List.replicate ((32 - l.length % 32) % 32) 0

end Sys2Proof.Machine
end

