-- ==== Sys2Proof/Machine/Press.lean ====
section
/-! DEFINITION. Press (11): block format, rate control, superblocks, flushes, PRESS_RECORD and the Press opcodes. -/

namespace Sys2Proof.Machine

/-! ## Codes (R271-R274) -/

/-- The quantised sample (R271). -/
def quant (s : Nat) (x : Int) : Int :=
  let q := if s = 0 then x else floorDiv (x + 2 ^ (s - 1)) (2 ^ s)
  clamp (-(2 ^ (15 - s))) (2 ^ (15 - s) - 1) q

/-- Residuals of order p over q's (R272), given the two q before, newest first. -/
def residuals (p : Nat) : List Int → List Int → List Int
  | _, [] => []
  | prev, q :: r =>
    let e := match p, prev with
      | 0, _ => 0
      | _, [] => 0
      | 1, a :: _ => a
      | _, [a] => a
      | _, a :: b :: _ => 2 * a - b
    (q - e) :: residuals p (q :: prev.take 1) r

/-- The mapped residual u and its class c (R272). -/
def mapU (r : Int) : Nat := if 0 ≤ r then (2 * r).toNat else (-2 * r - 1).toNat
def bitLen : Nat → Nat → Nat
  | 0, _ => 0
  | k + 1, u => if u = 0 then 0 else 1 + bitLen k (u / 2)
def classOf (r : Int) : Nat := bitLen 19 (mapU r)

/-- Lengths of static table t (R274). -/
def staticLens (t : Nat) : List Nat := (List.range 19).map fun c => if c = 2 * t then 1 else 2 + (if c < 2 * t then 2 * t - c else c - 2 * t)

/-- Lengths of the dynamic table from the counts of the previous superblock (R277). -/
def dynLens (counts : List Nat) : List Nat :=
  let h := counts.foldl (· + ·) 0
  counts.map fun hc => ((List.range 12).find? fun l => decide (1 ≤ l) && decide (h + 19 ≤ (hc + 1) * 2 ^ l)).getD 11

/-- Classes sorted by length, then class. -/
def insClass (x : Nat × Nat) : List (Nat × Nat) → List (Nat × Nat)
  | [] => [x]
  | y :: r => if x.1 < y.1 || (x.1 = y.1 && x.2 < y.2) then x :: y :: r else y :: insClass x r

/-- Canonical codewords as (class, length, value) (R273). -/
def canonStep : Nat → Nat → List (Nat × Nat) → List (Nat × Nat × Nat)
  | _, _, [] => []
  | v, l, (l', c) :: r => let v' := v * 2 ^ (l' - l); (c, l', v') :: canonStep (v' + 1) l' r
def canonical (lens : List Nat) : List (Nat × Nat × Nat) :=
  let sorted := ((List.zip lens (List.range lens.length)).filter fun x => 0 < x.1).foldl (fun l x => insClass x l) []
  match sorted with
  | [] => []
  | (l, c) :: r => (c, l, 0) :: canonStep 1 l r

/-- Bits of a value, most significant first. -/
def msbBits (width v : Nat) : List Bool := (List.range width).map fun i => v.testBit (width - 1 - i)

/-- Coded bits of one residual under a table. -/
def codeBits (tab : List (Nat × Nat × Nat)) (r : Int) : List Bool :=
  let u := mapU r
  let c := classOf r
  let (l, v) := match tab.find? fun e => e.1 = c with | some e => e.2 | none => (0, 0)
  msbBits l v ++ msbBits (c - 1) (u - 2 ^ (c - 1))

/-- Bits a list of residuals takes under lengths. -/
def codedLen (lens : List Nat) (rs : List Int) : Nat :=
  (rs.map fun r => lens.getD (classOf r) 0 + (classOf r - 1)).foldl (· + ·) 0

/-! ## Rate control (R275) -/

/-- BS of a RATIO_CODE. -/
def blockBits (ratio : Nat) : Nat := 1024 / 2 ^ ratio

/-- A way to code a block: bits, order, table (order 3 raw). -/
structure Choice where
  bits : Nat
  order : Nat
  table : Nat
  deriving DecidableEq, Repr

/-- The first of the fewest bits. -/
def bestOf : Option Choice → List Choice → Option Choice
  | b, [] => b
  | none, c :: r => bestOf (some c) r
  | some b, c :: r => bestOf (some (if c.bits < b.bits then c else b)) r

/-- The combinations at one shift that fit, in tie order: lower order, lower table, raw last. -/
def choicesAt (bs : Nat) (dyn : Option (List Nat)) (s : Nat) (xs : List Int) : List Choice :=
  let qs := xs.map (quant s)
  let tabs := (List.range 7).map (fun t => (t, staticLens t)) ++ (match dyn with | some l => [(7, l)] | none => [])
  let coded := (List.range 3).flatMap fun p =>
    let rs := residuals p [] qs
    tabs.map fun t => (⟨16 + codedLen t.2 rs, p, t.1⟩ : Choice)
  (coded ++ [(⟨16 + xs.length * (16 - s), 3, 0⟩ : Choice)]).filter fun (c : Choice) => c.bits ≤ bs

/-- The first shift at which something fits, and what is taken (R275). -/
def chooseFrom (bs : Nat) (dyn : Option (List Nat)) (xs : List Int) : Nat → Nat → Nat × Choice
  | 0, s => (s, ⟨16, 3, 0⟩)
  | n + 1, s => match bestOf none (choicesAt bs dyn s xs) with
    | some c => (s, c)
    | none => chooseFrom bs dyn xs n (s + 1)

/-- One encoded block: bytes, EXACT, worst error, shift, order, the reconstruction, and class counts of its residuals. -/
structure Block where
  bytes : List Byte
  exact : Bool
  maxErr : Nat
  shift : Nat
  order : Nat
  recon : List Int
  classes : List Nat
  deriving DecidableEq, Repr

/-- Bytes of a bit string: b[i] in byte i / 8 at bit i mod 8 (11.2). -/
def packBits : Nat → List Bool → List Byte
  | 0, _ => []
  | n + 1, l => BitVec.ofNat 8 ((List.range 8).foldl (fun m i => if l.getD i false then m + 2 ^ i else m) 0) :: packBits n (l.drop 8)

/-- Encode one block (R270-R275). -/
def encodeBlock (ratio : Nat) (dyn : Option (List Nat)) (xs : List Int) : Block :=
  let bs := blockBits ratio
  let (s, c) := chooseFrom bs dyn xs 16 0
  let qs := xs.map (quant s)
  let ys := qs.map (· * 2 ^ s)
  let exact := decide (ys = xs)
  let rs := if c.order = 3 then [] else residuals c.order [] qs
  let tab := canonical (if c.table = 7 then dyn.getD [] else staticLens c.table)
  let body := if c.order = 3 then qs.flatMap fun q => msbBits (16 - s) (q % 2 ^ (16 - s)).toNat else rs.flatMap (codeBits tab)
  let hdr := (if exact then 32768 else 0) + s * 2048 + c.table * 256 + c.order * 64 + (xs.length - 1)
  let bits := (List.range 16).map (fun i => hdr.testBit i) ++ body
  ⟨packBits (bs / 8) bits, exact, ((List.zip xs ys).map fun p => (p.2 - p.1).natAbs).foldl max 0, s, c.order, ys,
    (List.range 19).map fun k => (rs.filter fun r => classOf r = k).length⟩

/-! ## Superblocks (R269, R276, R277) -/

/-- Samples as 2 little-endian bytes. -/
def sampleBytes (l : List Int) : List Byte := l.flatMap fun v => (wordBytes (Word.ofInt v)).take 2

/-- Add counts. -/
def addCounts (a b : List Nat) : List Nat := (List.range 19).map fun k => a.getD k 0 + b.getD k 0

/-- The side record (Table 11.3). -/
def sideRecord (ratio first : Nat) (dyn : Option (List Nat)) (input : List Int) (bl : List Block) : List Byte :=
  let mask := (List.range bl.length).foldl (fun m i => if ((bl[i]?).map (·.exact)).getD false then m + 2 ^ i else m) 0
  let err := fun (i : Nat) => min 65535 (((bl[i]?).map (·.maxErr)).getD 0)
  let lens := dyn.getD []
  let lenNat := (List.range 19).foldl (fun m c => m + lens.getD c 0 * 16 ^ c) 0
  wordsBytes ([BitVec.ofNat 32 (1 + 256 * bl.length + 8192 * dyn.isSome.toNat + 16384 * ratio + 65536 * mask), crc32c (sampleBytes input),
      crc32c (sampleBytes (bl.flatMap (·.recon))), BitVec.ofNat 32 first] ++
    ((List.range 8).map fun w => BitVec.ofNat 32 (err (2 * w) + 65536 * err (2 * w + 1))) ++ List.replicate 4 0 ++
    (match dyn with
      | some _ => [BitVec.ofNat 32 lenNat, BitVec.ofNat 32 (lenNat / 2 ^ 32), BitVec.ofNat 32 (lenNat / 2 ^ 64)] ++ List.replicate 5 0
      | none => []))

/-- What an encoding run leaves. -/
structure PressOut where
  bytes : List Byte
  counts : List Nat
  blocks : List Block
  deriving DecidableEq, Repr

/-- Encode blocks superblock by superblock; the first argument bounds their number. -/
def superblocks (ratio : Nat) (dynamic : Bool) : Nat → Nat → List Nat → List (List Int) → PressOut
  | 0, _, counts, _ => ⟨[], counts, []⟩
  | n + 1, first, counts, xs =>
    if xs.isEmpty then ⟨[], counts, []⟩
    else
      let here := xs.take 16
      let dyn := if dynamic then some (dynLens counts) else none
      let bl := here.map (encodeBlock ratio dyn)
      let body := pad32 (sideRecord ratio first dyn (here.flatMap id) bl ++ bl.flatMap (·.bytes))
      let counts' := (bl.map (·.classes)).foldl addCounts (List.replicate 19 0)
      let rest := superblocks ratio dynamic n (first + 16) counts' (xs.drop 16)
      ⟨body ++ rest.bytes, rest.counts, bl ++ rest.blocks⟩

/-- Blocks of 64 of one channel. -/
def cut64 : Nat → List Int → List (List Int)
  | 0, _ => []
  | n + 1, l => if l.isEmpty then [] else l.take 64 :: cut64 n (l.drop 64)

/-! ## PRESS_RECORD (R267, R268, R278, R279) -/

/-- A stream has flushed for every PRESS_FLUSH that names it; each answers once all have (R283). -/
def pressFlushed (n : StreamId) (s : State) : State :=
  let step := fun (o : Op) => match o.kind with
    | .pressFlush l c t => { o with kind := .pressFlush (l &&& ~~~((1 : BitVec 16) <<< n.val)) c t }
    | _ => o
  let s1 := { s with proto := { s.proto with ops := s.proto.ops.map step } }
  (s1.proto.ops.filter fun o => match o.kind with | .pressFlush l _ _ => l = 0 | _ => false).foldl (fun s o => match o.kind with
    | .pressFlush _ c _ => s.finish o stOk 0 [c.zeroExtend 32]
    | _ => s) s1

/-- A flush of a stream is complete: counted, and with it each PRESS_FLUSH it serves (R278, R283). -/
def flushEnds (n : StreamId) (cmd : Bool) (s : State) : State :=
  let s1 := s.updStream n fun y => { y with flushes := addSat y.flushes 1 }
  if cmd then pressFlushed n s1 else s1

/-- A record was closed in a stream for the PRESS_FLUSHes that name it. -/
def pressClosed (n : StreamId) (s : State) : State :=
  { s with proto := { s.proto with ops := s.proto.ops.map fun o => match o.kind with
    | .pressFlush l c t => if l.getLsbD n.val then { o with kind := .pressFlush l (c ||| ((1 : BitVec 16) <<< n.val)) t } else o
    | _ => o } }

/-- Where in the Cellar the state area of a stream holds a channel's filter state and open samples (R196): the spec gives the area, and the model lays
the channels out in order. -/
def stateAt (s : State) (n : StreamId) (set press : List Word) (ch : Nat) : Nat :=
  areaBase s (.queue n) + (ch - stFirst set) * stateBytes set press

/-- A handed record goes through Press (R268). `eccOpen`: what the ECC finds in channels' open samples (R279, R321); lost samples carry OVERRUN. -/
def pressOne (n : StreamId) (i : PressIn) (eccOpen : List (Nat × EccRead)) (s : State) : State :=
  let x := s.stream[n]
  let open_ := (x.opens.find? fun o => o.tile = i.tile).getD ⟨i.tile, i.firstCh, i.outs.map (fun _ => []), []⟩
  let seed := s.free
  let here := eccOpen.filter fun e => open_.firstCh ≤ e.1 && decide (e.1 < open_.firstCh + open_.chans.length) && !open_.metas.isEmpty
  let lostCh := (List.range open_.chans.length).filter fun k => here.contains (open_.firstCh + k, .uncorrectable)
  let lost := !lostCh.isEmpty
  let old : List (List Int) := (List.range open_.chans.length).map fun k =>
    let c := open_.chans.getD k []
    if lostCh.contains k then (List.range c.length).map fun t => signed 16 (Config.freeWord seed (k * 1024 + t)).toNat else c
  let all : List (List Int) := (List.range i.outs.length).map fun k => old.getD k [] ++ i.outs.getD k []
  let metas := open_.metas.map (fun y => { y with flags := y.flags ||| flagBit flOverrun lost }) ++ i.metas
  let total := metas.length
  let t := if i.flush then total else total / 64 * 64
  let tails : List (List Int) := all.map (List.drop t)
  let rest : List OpenTile := if t < total then [⟨i.tile, i.firstCh, tails, metas.drop t⟩] else []
  let s1 := ({ s with free := s.free + 1 }).updStream n fun y => { y with
    toPress := y.toPress.drop 1, opens := (y.opens.filter fun (o : OpenTile) => o.tile ≠ i.tile) ++ rest }
  let s2 := here.foldl (fun s e => celEcc (stateAt s n i.set i.press e.1) e.2 s) s1
  let s3 :=
    if t = 0 then s2
    else
      let ratio := max 1 (prRatio i.press)
      let blocks := all.flatMap fun c => cut64 (t / 64 + 1) (c.take t)
      let out := superblocks ratio (prDyn i.press && !s.power.shed1) (blocks.length / 16 + 1) 0 x.counts blocks
      let a := metas.headD ⟨0, 0, 0, 0⟩
      let flags := (((metas.take t).map (·.flags)).foldl (· ||| ·) (0 : BitVec 16)) ||| flagBit flCompressed true |||
        flagBit flExact (out.blocks.all (·.exact)) ||| flagBit flDisc (!x.cont.contains i.tile)
      let hdr := recHeader n i.fe 0 (stD i.set) flags x.rseq i.firstCh a.group (t - 1) all.length a.ppn (out.bytes.length / 32) a.time 0x01
      let s4 := putRec n i.set i.press ⟨hdr, out.bytes, i.tile, none, false, false⟩ s2
      let s5 := s4.updStream n fun y => { y with
        counts := out.counts
        maxShift := (out.blocks.map (·.shift)).foldl max y.maxShift
        blocks := addSat y.blocks out.blocks.length
        exacts := addSat y.exacts (out.blocks.filter (·.exact)).length
        raws := addSat y.raws (out.blocks.filter fun b => b.order = 3).length }
      if i.cmdFlush then pressClosed n s5 else s5
  if i.flush && i.last then flushEnds n i.cmdFlush s3 else s3

/-- Press takes every record handed to it. The first argument bounds their number. -/
def pressAll (n : StreamId) : Nat → State → State
  | 0, s => s
  | k + 1, s => match s.stream[n].toPress with
    | [] => s
    | i :: _ => pressAll n k (pressOne n i [] s)

/-- PRESS_RECORD (R268): the oldest record handed to Press for the stream. -/
def execPressRecord (st : StreamId) (eccOpen : List (Nat × EccRead)) (s : State) : Host.Outcome State Fault Refusal :=
  match s.stream[st].toPress with
  | [] => ok s
  | i :: _ => ok (pressOne st i eccOpen s)

/-! ## Opcodes (Table 11.6) -/

/-- A stream runs with Press. -/
def pressRuns (s : State) (n : StreamId) : Bool :=
  (List.finRange 4).any fun f => s.fe[f].curStreams.any (fun c => c.st = n && prEn c.press) && !feEnded s f

/-- The time limit of PRESS_FLUSH, ps: two band durations of the slowest engine that a named stream runs on, and 1 s (Table 11.6). -/
def pressLimit (s : State) (run : BitVec 16) : Nat :=
  let d := fun (f : Fe) => if s.fe[f].curStreams.any fun c => run.getLsbD c.st.val then
    1024 * periodPs (s.act 0x10 f.val) / groupsOf (s.act 0x10 f.val) else 0
  10 ^ 12 + 2 * ((List.finRange 4).map d).foldl max 0

/-- PRESS_FLUSH. -/
def doPressFlush (r : Req) (s : State) : Res :=
  if rsvdBad r 0 0xFFFF then Res.bad 0 s
  else
    let m : BitVec 16 := BitVec.ofNat 16 (wbits (wordAt r.payload 0) 0 16)
    let run : BitVec 16 := (List.finRange 16).foldl
      (fun (a : BitVec 16) n => if m.getLsbD n.val && pressRuns s n then a ||| ((1 : BitVec 16) <<< n.val) else a) 0
    if run = 0 then Res.ok [0] s
    else
      let s1 := (List.finRange 16).foldl (fun s n => if run.getLsbD n.val then s.updStream n fun y => { y with flushReq := true } else s) s
      Res.later (s1.addOp r (.pressFlush run 0 (pressLimit s run)) false)

/-- PRESS_FLUSH (R278). -/
def execPressFlush (r : Req) (s : State) : Host.Outcome State Fault Refusal := ok (runOp 0x0208 [] 1 1 false doPressFlush r s)

/-- PRESS_STATUS. -/
def doPressStatus (r : Req) (s : State) : Res :=
  if rsvdBad r 0 0xF then Res.bad 0 s
  else
    let n : StreamId := ⟨wbits (wordAt r.payload 0) 0 4, by unfold wbits bitsOf; exact Nat.mod_lt _ (by decide)⟩
    let x := s.stream[n]
    let p := (((List.finRange 4).findSome? fun f => s.fe[f].curStreams.find? fun c => c.st = n).map (·.press)).getD (s.act 0x50 n.val)
    let en := pressRuns s n
    Res.ok [BitVec.ofNat 32 (en.toNat + 2 * (en && prDyn p && !s.power.shed1).toNat + 4 * (en && prDyn p && s.power.shed1).toNat +
        8 * x.maxShift), x.blocks, x.exacts, x.raws, x.flushes]
      (s.updStream n fun y => { y with maxShift := 0, blocks := 0, exacts := 0, raws := 0, flushes := 0 })

/-- PRESS_STATUS (R283). -/
def execPressStatus (r : Req) (s : State) : Host.Outcome State Fault Refusal := ok (runOp 0x0209 [] 1 1 false doPressStatus r s)

end Sys2Proof.Machine
end

