-- ==== Sys2Proof/Machine/Streams.lean ====
section
/-! DEFINITION. Corner-turn, tile bands, the Fining chain and its records (07). -/

namespace Sys2Proof.Machine

/-! ## The filters (R184, R185) -/

/-- A 24-bit value with 8 fraction bits, saturated. -/
def sat24 (x : Int) : Int := satInt 24 x

/-- An 18-bit coefficient with 17 fraction bits. -/
def romTap (filter k : Nat) : Int := (Config.finingRom filter k).toInt

/-- Σ over taps of coefficient k × x(i - k), x given newest first from index i. -/
def dotTaps (filter : Nat) : Nat → List Int → Int
  | _, [] => 0
  | k, x :: r => romTap filter k * x + dotTaps filter (k + 1) r

/-- One rounded filter output and whether it saturates. -/
def firOut (filter taps : Nat) (newest : List Int) : Int × Nat :=
  let y := roundEven (dotTaps filter 0 (newest.take taps)) (2 ^ 17)
  (sat24 y, if sat24 y = y then 0 else 1)

/-- A half-band over a band's inputs (oldest first) after history (newest first): outputs oldest first, new history, saturations. -/
def halfBand : List Int → List Int → List Int × List Int × Nat
  | h, a :: b :: r =>
    let h2 := b :: a :: h
    let y := firOut 16 15 h2
    let (ys, h', n) := halfBand (h2.take 14) r
    (y.1 :: ys, h', n + y.2)
  | h, [a] => ([], (a :: h).take 14, 0)
  | h, [] => ([], h, 0)

/-- The cascade of half-bands. -/
def cascade : List (List Int) → List Int → List Int × List (List Int) × Nat
  | [], x => (x, [], 0)
  | h :: hs, x =>
    let (y, h', n) := halfBand h x
    let (z, hs', m) := cascade hs y
    (z, h' :: hs', n + m)

/-- The response at one output: code 0 passes it, others filter (newest first with history). -/
def respOut (code : Nat) (newest : List Int) : Int × Nat := if code = 0 then (newest.headD 0, 0) else firOut code 31 newest

/-- The response filter over a band with an optional fade whose outputs so far are `fade.outs` (R191). History newest first. -/
def respRun (code : Nat) (fade : Option Fade) : List Int → Nat → List Int → List Int × List Int × Nat
  | h, _, [] => ([], h, 0)
  | h, n, y :: r =>
    let full := y :: h
    let (z, c) := match fade with
      | none => respOut code full
      | some f =>
        let i := f.outs + n
        let o := respOut f.old full
        let w := respOut f.new (full.take (i + 1))
        if i < 30 then o
        else if i < 30 + 2 ^ f.log2 then
          let k := i - 29
          (roundEven ((2 ^ f.log2 - k : Nat) * o.1 + k * w.1) (2 ^ f.log2), o.2 + w.2)
        else w
    let (zs, h', m) := respRun code fade (full.take 30) (n + 1) r
    (z :: zs, h', m + c)

/-- The output of a stream (R185) and whether it saturates. -/
def outFmt (fmt : Nat) (z : Int) : Int × Nat :=
  if fmt = 1 then (z, 0) else let y := roundEven z 256; (satInt 16 y, if satInt 16 y = y then 0 else 1)

/-- N_settle (Table 7.2). -/
def nSettle (d resp : Nat) : Nat :=
  let b := [0, 7, 10, 12, 13, 13, 13].getD d 13
  if resp = 0 then b else b + 30

/-- Rows an output's support reaches back (R190). -/
def supportBack (d : Nat) : Nat := 14 * (2 ^ d - 1) + 30 * 2 ^ d

/-! ## Tile bands (R181-R183) -/

/-- Channels per tile row and number of tiles. -/
def tilesOf (nch : Nat) : Nat := ceilDiv nch 512

/-- Cellar offset of an element of a band (R182). -/
def ctAddr (b : Band) (tile row i : Nat) : Nat :=
  b.base + b.slot * tilesOf b.nch * 2 ^ 20 + tile * 2 ^ 20 + row * 1024 + 2 * i

/-- Write a row's format-0 elements into the corner-turn area (R182). -/
def cornerWrite (b : Band) (row : Nat) (elems : List Elem) (s : State) : State :=
  (List.range (tilesOf b.nch)).foldl (fun s m =>
    s.celStore (ctAddr b m row 0) (((elems.drop (512 * m)).take 512).flatMap fun e =>
      let w := BitVec.ofInt 16 e.rate
      [some (w.extractLsb' 0 8), some (w.extractLsb' 8 8)])) s

/-- The settings of two STREAM sets differ in what resets the stream (R188). -/
def setResets (old new : List Word) : Bool :=
  stD old ≠ stD new || stFmt old ≠ stFmt new || stFirst old ≠ stFirst new || stCount old ≠ stCount new ||
    (stResp old ≠ stResp new && !stFadeEn new)

/-- What a commit brings to the streams of an engine, from their sets before and after it (R188, R191, R192); `fades`: a fade of the stream runs. -/
def streamEvs (no : Nat) (fades : StreamId → Bool) (old new : List StreamSet) : List StreamEv :=
  new.filterMap fun n => match old.find? fun o => o.st = n.st with
    | none => some ⟨no, n.st, true, true, none, false, prEn n.press⟩
    | some o =>
      let e : StreamEv := ⟨no, n.st, false, setResets o.set n.set,
        if stResp o.set ≠ stResp n.set && stFadeEn n.set then some (stResp n.set) else none, fades n.st, !prEn o.press && prEn n.press⟩
      if e.reset || e.fadeTo.isSome || e.pressOn then some e else none

/-- The job of a stream at a tile origin (R188, R191): its settings there, whether it ran before, and the events that meet the origin. -/
def jobOf (first reset ran : Bool) (evs : List StreamEv) (n : StreamSet) : Job :=
  let mine := evs.filter fun e => e.st = n.st
  let start := first || !ran || mine.any (·.start)
  let rs := start || reset || mine.any (·.reset)
  ⟨n.st, n.set, n.press, start, rs, if rs then none else (mine.filterMap (·.fadeTo)).getLast?, start || mine.any (·.pressOn), false, false⟩

/-- Streams whose open Press blocks close at the end of the band before this origin (R278): at each engine reset point, commit and stop. -/
def flushed (old : List StreamSet) (first reset commit : Bool) (new : List StreamSet) : List StreamSet :=
  old.filter fun o => first || reset || commit || !new.any fun n => n.st = o.st

/-- The last record of each tile that is done becomes a flush. -/
def flushLast (cmd : Bool) (done : Nat → Bool) : List PressIn → List PressIn
  | [] => []
  | i :: r =>
    (if done i.tile && !i.flush && !r.any (fun j => j.tile = i.tile) then { i with flush := true, cmdFlush := cmd, last := false } else i) :: flushLast cmd done r

/-- The last record handed over ends the flush. -/
def endsFlush (cmd : Bool) : List PressIn → List PressIn
  | [] => []
  | [i] => [{ i with flush := true, last := true, cmdFlush := cmd || i.cmdFlush }]
  | i :: r => i :: endsFlush cmd r

/-- The last tile that a stream's window meets. -/
def lastTile (set : List Word) : Nat := (stFirst set + stCount set - 1) / 512

/-- Close the open blocks of a stream at the end of the band just ended (R278): in the band's own records where they are still to be handed over or
taken by Press, else by records of their own. `stop`: it was the stream's last band, and serves a PRESS_FLUSH that waits. -/
def pressClose (f : Fe) (o : StreamSet) (stop : Bool) (s : State) : State :=
  if !prEn o.press then s
  else
    let x := s.fe[f]
    let b := x.closed.getLast?.filter fun b => b.jobs.any fun j => j.st = o.st
    let whole := decide (1 < x.closed.length) || x.tile = 0
    let cmd := stop && s.stream[o.st].flushReq && !(b.isSome && whole)
    let mark := fun (j : Job) => if j.st = o.st then { j with flush := true, cmdFlush := j.cmdFlush || cmd } else j
    let s1 := match b with
      | some b => s.updFe f fun x => { x with closed := x.closed.dropLast ++ [{ b with jobs := b.jobs.map mark }] }
      | none => s
    if b.isSome && whole then s1
    else
      let left := match b with | some _ => x.tile | none => tilesOf (2 ^ 18)
      let done := fun (m : Nat) => decide (m < left)
      let y := s1.stream[o.st]
      let extra := (y.opens.filter fun t => done t.tile && !y.toPress.any fun i => i.tile = t.tile).map fun t =>
        (⟨t.tile, t.firstCh, t.chans.map (fun _ => []), [], true, cmd, false, o.set, o.press, f⟩ : PressIn)
      let items := flushLast cmd done y.toPress ++ extra
      let all := decide (lastTile o.set < left)
      let s2 := s1.updStream o.st fun y => { y with
        toPress := if all then endsFlush cmd items else items, flushReq := y.flushReq && !cmd }
      if all && items.isEmpty then flushEnds o.st cmd s2 else s2

/-- Direct records whose tile lies in a part of the Cellar that a later band takes are dropped, or end where their delivery stands (R196). -/
def cutDirect (lo hi : Nat) (s : State) : State :=
  let fate := fun (r : Rec) => match r.direct with
    | some (a, _) => if lo ≤ a && a < hi && !r.cut then (if r.begun then 2 else 1) else 0
    | none => 0
  (List.finRange 16).foldl (fun s n => if s.stream[n].queue.any (fun r => fate r ≠ 0) then dropRecs n [] fate s else s) s

/-! ## Fining (R183-R197) -/

/-- What a job finds at the band's first tile: a start clears RSEQ, a reset the history; a change of RESPONSE is held, and begins to fade in where no fade
runs (R188, R191, R192, R277). Press takes the records of the bands before first. -/
def jobBegin (b : Band) (j : Job) (s0 : State) : State :=
  let ppn := (b.rows.head?.map (·.ppn)).getD 0
  let s := if j.start || j.reset || j.zero || !prEn j.press then pressAll j.st s0.stream[j.st].toPress.length s0 else s0
  s.updStream j.st fun x =>
    let x := if j.start then { x with rseq := 0 } else x
    let x := if j.zero then { x with counts := List.replicate 19 0 } else x
    if j.reset then { x with
      hist := [], outs := 0, rowsSince := 0, cont := [], opens := [], fade := none, held := none, resp := stResp j.set, lastReset := ppn }
    else
      let held := j.fadeTo.or x.held
      match x.fade, held with
      | none, some r => { x with fade := some ⟨x.resp, r, 0, stFadeLog j.set⟩, held := none }
      | _, _ => { x with held := held }

/-- Outputs of a band at decimation d. -/
def bandOuts (b : Band) (d : Nat) : Nat := b.rows.length / 2 ^ d

/-- What a job leaves after the band's last tile. -/
def jobEnd (b : Band) (j : Job) (s : State) : State :=
  let n := bandOuts b (stD j.set)
  s.updStream j.st fun x =>
    let x1 := { x with outs := x.outs + n, rowsSince := x.rowsSince + b.rows.length }
    match x1.fade with
    | some f =>
      if 30 + 2 ^ f.log2 ≤ f.outs + n then { x1 with fade := none, resp := f.new }
      else { x1 with fade := some { f with outs := f.outs + n }, resp := if 30 < f.outs + n then f.new else f.old }
    | none => x1

/-- Flags of a row of the band, by index, or of one before it (negative). -/
def supportFlags (b : Band) (since : Nat) (d n : Nat) : BitVec 16 :=
  let r := (n + 1) * 2 ^ d - 1
  let back := supportBack d
  let here := (b.rows.drop (r - back)).take (r + 1 - (r - back))
  let before := if back ≤ r then [] else (b.past.take since).take (back - r)
  (here.map (·.flags) ++ before).foldl (· ||| ·) 0

/-- Flags and anchor of output n of a job (R187, R190, R194). -/
def outMeta (b : Band) (j : Job) (x : StreamSt) (edge : Bool) (n : Nat) : RowMeta :=
  let d := stD j.set
  let sup := supportFlags b x.rowsSince d n
  let anchor := (b.rows[(n + 1) * 2 ^ d - 1]?).getD ⟨0, 0, 0, 0⟩
  let resp := match x.fade with | some f => f.old | none => x.resp
  let ramp := match x.fade with | some f => decide (30 ≤ f.outs + n) && decide (f.outs + n < 30 + 2 ^ f.log2) | none => false
  ⟨flagBit flSettling (sup.getLsbD flSettling || decide (x.outs + n < nSettle d resp)) ||| flagBit flInvalid (sup.getLsbD flInvalid) |||
      flagBit flOverrun (sup.getLsbD flOverrun) ||| flagBit flHoldover (sup.getLsbD flHoldover) ||| flagBit flFade ramp ||| flagBit flEdge edge,
    anchor.ppn, anchor.group, anchor.time⟩

/-- One channel of a tile through the chain: outputs, history, saturations, and whether OVERRUN falls on the record. -/
def fineChan (b : Band) (j : Job) (x : StreamSt) (samples : List Int) (h : ChHist) : List Int × ChHist × Nat :=
  let d := stD j.set
  let st := (List.range d).map fun i => (h.stages.getD i []) ++ List.replicate (14 - (h.stages.getD i []).length) 0
  let (y, st', n1) := cascade st (samples.map (· * 256))
  let rh := h.resp ++ List.replicate (30 - h.resp.length) 0
  let (z, rh', n2) := respRun x.resp x.fade rh 0 (y.take (bandOuts b d))
  let o := z.map (outFmt (stFmt j.set))
  (o.map (·.1), ⟨st', rh', h.ovr - z.length⟩, n1 + n2 + (o.map (·.2)).foldl (· + ·) 0)

/-- Bytes of a record's outputs, channel by channel. -/
def outBytes (fmt : Nat) (outs : List (List Int)) : List Byte :=
  pad32 (outs.flatMap fun o => o.flatMap fun v => if fmt = 1 then wordBytes (Word.ofInt v) else (wordBytes (Word.ofInt v)).take 2)

/-- One stream's share of one tile. `eccElems`: lost tile elements as (channel, row); `eccState`: channels whose filter state is lost. -/
def fineJob (f : Fe) (b : Band) (m : Nat) (eccElems : List (Nat × Nat)) (eccState : List Nat) (j : Job) (s : State) : State :=
  let lo := max (stFirst j.set) (512 * m)
  let hi := min (min (stFirst j.set + stCount j.set) (512 * (m + 1))) b.nch
  if hi ≤ lo then s
  else
    let x := s.stream[j.st]
    let d := stD j.set
    let outs := bandOuts b d
    let edge := decide (lo < b.edgeLo) || decide (b.nch < hi + b.edgeHi)
    let metas := (List.range outs).map (outMeta b j x edge)
    let last := lastTile j.set = m || m + 1 = tilesOf b.nch
    let direct := d = 0 && x.resp = 0 && x.fade.isNone && stFmt j.set = 0 && !prEn j.press
    let chans := (List.range (hi - lo)).map (· + lo)
    let ovrElem := eccElems.any fun e => lo ≤ e.1 && e.1 < hi
    let kindFlags := fun (extra : BitVec 16) (ms : List RowMeta) => (ms.map (·.flags)).foldl (· ||| ·) extra
    let disc := flagBit flDisc (!x.cont.contains m)
    if outs = 0 then
      if j.flush && prEn j.press then s.updStream j.st fun x => { x with toPress := x.toPress ++
        [⟨m, lo, chans.map (fun _ => []), [], true, j.cmdFlush, last, j.set, j.press, f⟩] } else s
    else if direct then
      let flags := kindFlags (disc ||| flagBit flExact true ||| flagBit flRowMajor true ||| flagBit flOverrun ovrElem) metas
      let a := metas.headD ⟨0, 0, 0, 0⟩
      let len := ceilDiv (2 * outs * (hi - lo)) 32
      let hdr := recHeader j.st f 0 0 flags x.rseq lo a.group (outs - 1) (hi - lo) a.ppn len a.time 0x01
      putRec j.st j.set j.press ⟨hdr, [], m, some (ctAddr b m 0 (lo - 512 * m), outs), false, false⟩ s
    else
      let seed := s.free
      let read := fun (c r : Nat) => if eccElems.contains (c, r) then signed 16 (Config.freeWord seed (c * 1024 + r)).toNat
        else signed 16 (bytesNat (s.celRead (ctAddr b m r (c - 512 * m)) 2))
      let hist := fun (c : Nat) => if eccState.contains c then (⟨[], [], nSettle d x.resp⟩ : ChHist) else (assocGet x.hist c).getD ⟨[], [], 0⟩
      let res := chans.map fun c => (c, hist c, fineChan b j x ((List.range b.rows.length).map (read c)) (hist c))
      let ovr := ovrElem || res.any fun r => 0 < r.2.1.ovr
      let sats := (res.map fun r => r.2.2.2.2).foldl (· + ·) 0
      let carry := fun (c : Nat) => ((eccElems.filter fun e => e.1 = c).map fun e =>
        (supportBack d - min (supportBack d) (b.rows.length - 1 - e.2)) / 2 ^ d).foldl max 0
      let s1 := { s with free := s.free + 1 }
      let s2 := s1.updStream j.st fun x => { x with
        sat := addSat x.sat sats
        hist := res.foldl (fun h r => assocSet h r.1 { r.2.2.2.1 with ovr := max r.2.2.2.1.ovr (carry r.1) }) x.hist }
      let metas := if ovr then metas.map fun y => { y with flags := y.flags ||| flagBit flOverrun true } else metas
      if prEn j.press then
        s2.updStream j.st fun x => { x with toPress := x.toPress ++
          [⟨m, lo, res.map (fun r => r.2.2.1), metas, j.flush, j.cmdFlush, last, j.set, j.press, f⟩] }
      else
        let bytes := outBytes (stFmt j.set) (res.map fun r => r.2.2.1)
        let a := metas.headD ⟨0, 0, 0, 0⟩
        let flags := kindFlags (disc ||| flagBit flExact true) metas
        let hdr := recHeader j.st f (stFmt j.set) d flags x.rseq lo a.group (outs - 1) (hi - lo) a.ppn (bytes.length / 32) a.time 0x01
        putRec j.st j.set j.press ⟨hdr, bytes, m, none, false, false⟩ s2

/-- A PRESS_FLUSH takes effect at the end of the first band that Press begins after it (R278). -/
def takeFlush (s : State) (j : Job) : Job :=
  if prEn j.press && s.stream[j.st].flushReq then { j with flush := true, cmdFlush := true } else j

/-- Fining begins the oldest closed band of an engine. -/
def bandBegin (f : Fe) (b : Band) (rest : List Band) (s : State) : Band × State :=
  let b' := { b with jobs := b.jobs.map (takeFlush s) }
  let s1 := b'.jobs.foldl (fun s j => if j.cmdFlush then s.updStream j.st fun x => { x with flushReq := false } else s) s
  (b', b'.jobs.foldl (fun s j => jobBegin b' j s) (s1.updFe f fun x => { x with closed := b' :: rest }))

/-- One tile of the oldest closed band, for every stream of the band (R183), with the tile elements and filter states that are lost. -/
def fineTile (f : Fe) (eccElems : List (Nat × Nat)) (eccState : List (StreamId × Nat)) (s : State) : State :=
  match s.fe[f].closed with
  | [] => s
  | b0 :: rest =>
    let m := s.fe[f].tile
    let (b, s1) := if m = 0 then bandBegin f b0 rest s else (b0, s)
    let s2 := b.jobs.foldl (fun s j => fineJob f b m eccElems ((eccState.filter fun e => e.1 = j.st).map (·.2)) j s) s1
    if tilesOf b.nch ≤ m + 1 then
      let s3 := b.jobs.foldl (fun s j => jobEnd b j s) s2
      s3.updFe f fun x => { x with closed := rest, tile := 0 }
    else s2.updFe f fun x => { x with tile := m + 1 }

/-- What the ECC finds in the tile elements and filter states that the next tile's reading meets (R321, R322). -/
def tileEcc (f : Fe) (eccElems : List (Nat × Nat × EccRead)) (eccState : List (StreamId × Nat × EccRead)) (s : State) : State :=
  match s.fe[f].closed with
  | [] => s
  | b :: _ =>
    let m := s.fe[f].tile
    let s1 := eccElems.foldl (fun s e => celEcc (ctAddr b m e.2.1 (e.1 - 512 * m)) e.2.2 s) s
    eccState.foldl (fun s e => match b.jobs.find? fun j => j.st = e.1 with
      | some j => celEcc (stateAt s e.1 j.set j.press e.2.1) e.2.2 s
      | none => s) s1

/-- FINING_TILE (R183). -/
def execFiningTile (fe : Fe) (eccElems : List (Nat × Nat × EccRead)) (eccState : List (StreamId × Nat × EccRead)) (s : State) :
    Host.Outcome State Fault Refusal :=
  ok (fineTile fe ((eccElems.filter fun e => e.2.2 = .uncorrectable).map fun e => (e.1, e.2.1))
    ((eccState.filter fun e => e.2.2 = .uncorrectable).map fun e => (e.1, e.2.1)) (tileEcc fe eccElems eccState s))

/-- Read further tiles of the closed bands. -/
def finishTiles (f : Fe) : Nat → State → State
  | 0, s => s
  | n + 1, s => finishTiles f n (fineTile f [] [] s)

/-- A band's slot: where it begins and ends. -/
def slotAt (b : Band) : Nat × Nat :=
  (b.base + b.slot * tilesOf b.nch * 2 ^ 20, b.base + (b.slot + 1) * tilesOf b.nch * 2 ^ 20)

/-- Tiles of the closed bands up to the last one whose slot meets a part of the Cellar. -/
def tilesMeeting (lo hi : Nat) : List Band → Nat
  | [] => 0
  | b :: l =>
    let r := tilesMeeting lo hi l
    if 0 < r || (decide ((slotAt b).1 < hi) && decide (lo < (slotAt b).2)) then tilesOf b.nch + r else 0

/-- A band takes its slot as it writes its first element: the Fining chain has finished reading the bands that used it, and direct records that wait there
are lost (R183, R196). -/
def takeSlot (f : Fe) (b : Band) (s : State) : State :=
  let at_ := slotAt b
  cutDirect at_.1 at_.2 (finishTiles f (tilesMeeting at_.1 at_.2 s.fe[f].closed - s.fe[f].tile) s)

/-- Close the open band (R183). -/
def closeBand (f : Fe) (s : State) : State :=
  match s.fe[f].band with
  | none => s
  | some b => s.updFe f fun x => { x with band := none, closed := x.closed ++ [b], past := ((b.rows.reverse.map (·.flags)) ++ b.past).take 2810 }

/-- The open band of an engine holds 1 024 rows. -/
def bandFull (s : State) (f : Fe) : Bool :=
  match s.fe[f].band with
  | some b => decide (1024 ≤ b.rows.length)
  | none => false

/-- The last band of a stopped engine closes, and its open Press blocks with it (R278). -/
def lastBand (f : Fe) (s : State) : State :=
  let s1 := closeBand f s
  let s2 := s1.fe[f].curStreams.foldl (fun s o => pressClose f o true s) s1
  s2.updFe f fun x => { x with curStreams := [] }

/-- BAND_CLOSE (R183). -/
def execBandClose (fe : Fe) (s : State) : Host.Outcome State Fault Refusal :=
  if feEnded s fe then ok (lastBand fe s) else if bandFull s fe then ok (closeBand fe s) else ok s

/-- Base of the corner-turn area that holds bands of `nch` channels: the one in force, or the one it replaced while old shots are still processed. -/
def ctBase (s : State) (f : Fe) (bands nch : Nat) : Nat :=
  match s.cellar.areas.find? fun a => a.kind = .ct f && !a.pending && a.sizeMib = bands * tilesOf nch with
  | some a => a.baseMib * 2 ^ 20
  | none => areaBase s (.ct f)

/-- Open a band at a tile origin (R181, R182, R188): slot, jobs, flushes of the band before. -/
def openBand (f : Fe) (sh : Shot) (reset : Bool) (s : State) : State :=
  let x := s.fe[f]
  let bands := max 1 (bf (s.act 0x13 f.val) 0 0 4)
  let commit := x.originCommit ≠ sh.commitNo
  let stays := fun (o : StreamSet) => !sh.first && sh.streams.any fun n => n.st = o.st && prEn n.press
  let s1 := (flushed x.curStreams sh.first reset commit sh.streams).foldl (fun s o => pressClose f o (!stays o) s) s
  let evs := x.evs.filter fun e => e.no ≤ sh.commitNo
  let jobs := sh.streams.map fun n => jobOf sh.first reset (x.curStreams.any fun o => o.st = n.st) evs n
  let slot := if sh.first then 0 else x.slot
  let n := nChOf sh.recv
  let b : Band := ⟨slot, ctBase s1 f bands n, n, groupsOf sh.probe, edgeA sh.phase sh.recv, edgeB sh.phase sh.recv, [],
    if reset || sh.first then [] else x.past, jobs, false⟩
  s1.updFe f fun y => { y with
    band := some b, slot := (slot + 1) % bands, curStreams := sh.streams, originCommit := sh.commitNo
    evs := y.evs.filter fun e => sh.commitNo < e.no }

/-- A row reaches the corner-turn (R181, R182, R188): it is written while a stream is enabled, or the open band is one of a stream's. -/
def cornerRow (f : Fe) (sh : Shot) (row : Row) (s : State) : State :=
  let reset := row.flags.getLsbD flDisc
  let full := match s.fe[f].band with | some b => decide (1024 ≤ b.rows.length) | none => true
  let s1 := if sh.first || reset || full then openBand f sh reset (closeBand f s) else s
  match s1.fe[f].band with
  | none => s1
  | some b =>
    let writes := !b.jobs.isEmpty || !sh.streams.isEmpty
    let s2 := if writes && !b.written then takeSlot f b s1 else s1
    let b' := { b with rows := b.rows ++ [⟨row.flags, row.ppn, row.group, row.time⟩], written := b.written || writes }
    let s3 := s2.updFe f fun y => { y with band := some b' }
    if writes then cornerWrite b b.rows.length row.elems s3 else s3

/-- Jobs of a stream that Fining has not begun, oldest first. -/
def jobsToCome (s : State) (n : StreamId) : List Job :=
  (List.finRange 4).flatMap fun f =>
    let x := s.fe[f]
    ((if x.tile = 0 then x.closed else x.closed.drop 1) ++ x.band.toList).flatMap fun b => b.jobs.filter fun j => j.st = n

/-- A fade of a stream runs, or has met its tile origin. -/
def fadeRuns (s : State) (n : StreamId) : Bool := s.stream[n].fade.isSome || (jobsToCome s n).any fun j => j.fadeTo.isSome

/-- The held response change of a stream, from the commit that brought it on (R192). -/
def heldOf (s : State) (n : StreamId) : Option Nat :=
  let x := s.stream[n]
  let h := (jobsToCome s n).foldl (fun h j => if j.reset then none else if x.fade.isSome then j.fadeTo.or h else h) x.held
  ((List.finRange 4).flatMap fun f => s.fe[f].evs).foldl (fun h e => if e.st = n && e.held then e.fadeTo.or h else h) h

/-! ## Opcodes (Table 7.9) -/

/-- STREAM_STATUS. -/
def doStreamStatus (r : Req) (s : State) : Res :=
  if rsvdBad r 0 0xF then Res.bad 0 s
  else
    let n : StreamId := ⟨wbits (wordAt r.payload 0) 0 4, by unfold wbits bitsOf; exact Nat.mod_lt _ (by decide)⟩
    let x := s.stream[n]
    let running := (List.finRange 4).any fun f => s.fe[f].curStreams.any (fun c => c.st = n) && !feEnded s f
    let out := match x.fade with | some f => if 30 < f.outs then f.new else f.old | none => x.resp
    let held := if running then heldOf s n else none
    Res.ok ([BitVec.ofNat 32 (running.toNat + 2 * (running && x.fade.isSome).toNat + 4 * held.isSome.toNat + 8 * out + 128 * held.getD 0),
        x.rseq.zeroExtend 32, x.dropped, x.sat, BitVec.ofNat 32 (ceilDiv (queueUsed s n) 1024)] ++ split64 (x.lastReset.zeroExtend 64))
      (s.updStream n fun y => { y with dropped := 0, sat := 0 })

/-- STREAM_STATUS (R202). -/
def execStreamStatus (r : Req) (s : State) : Host.Outcome State Fault Refusal := ok (runOp 0x0206 [] 1 1 false doStreamStatus r s)

/-- FINING_ROM_GET: the taps of a response or of the half-band. -/
def doFiningRomGet (r : Req) (s : State) : Res :=
  let f := wbits (wordAt r.payload 0) 0 5
  if rsvdBad r 0 0x1F || 16 < f then Res.bad 0 s
  else
    let t := if f = 0 then 0 else if f = 16 then 15 else 31
    Res.ok (BitVec.ofNat 32 t :: (List.range t).map fun k => (Config.finingRom f k).signExtend 32) s

/-- FINING_ROM_GET (R186). -/
def execFiningRomGet (r : Req) (s : State) : Host.Outcome State Fault Refusal := ok (runOp 0x0207 [] 1 1 false doFiningRomGet r s)

end Sys2Proof.Machine
end

