-- ==== Sys2Proof/Machine/Reserve.lean ====
section
/-! DEFINITION. Guaranteed Cellar reservations and the cap (R198, R227, R333), in bytes per second. -/

namespace Sys2Proof.Machine

/-- The cap in force: 80 GB/s × r / 8 533, r the rate of the set point in force (R333). -/
def capOf (s : State) (fsp : Nat) : Nat := 80000000000 * bf (s.act 0x70 0) (1 + fsp) 0 14 / 8533

/-- Bytes of a row in the corner-turn: ⌈N_CH × 2 / 32⌉ × 32. -/
def rowBytes (recv : List Word) : Nat := ceilDiv (nChOf recv * 2) 32 * 32

/-- A stream is the direct case of R196. -/
def isDirect (set press : List Word) : Bool := stD set = 0 && stResp set = 0 && stFmt set = 0 && !prEn press

/-- Reservation of an engine's streams (R198). Shots per second are G × 125 × 10^6 / PERIOD. -/
def streamRes (probe recv fining : List Word) (streams : List (List Word × List Word)) : Nat :=
  if streams.isEmpty then 0
  else
    let g := groupsOf probe
    let p := max 1 (periodOf probe)
    let write := ceilDiv (rowBytes recv * g * 125000000) p
    let band := 8192 * p
    let read := if bf fining 0 0 4 = 2 then ceilDiv (write * band) (max 1 (band - 1100000 * g)) else write
    let st := (streams.map fun x => ceilDiv (2 * stCount x.1 * filterBytes x.1 * g * 125000000) (1024 * p)).foldl (· + ·) 0
    let rc := (streams.map fun x => if isDirect x.1 x.2 then 0 else
      ceilDiv (stCount x.1 * (if stFmt x.1 = 1 then 4 else 2) * g * 125000000) (p * 2 ^ stD x.1)).foldl (· + ·) 0
    write + read + st + rc

/-- Number of fused channels of a THERM set (R241). -/
def fusedCount (therm : List Word) : Nat := if bfb therm 0 3 then ceilDiv (bf therm 9 0 18) (max 1 (bf therm 10 0 8)) else 0

/-- Reservation of the thermal sums: 2 × 16 × N_BIN bytes per sub-interval, and the fused state read and written once per epoch (R227). -/
def thermRes (probe phase therm : List Word) : Nat :=
  if bfb therm 0 0 then
    let p := max 1 (periodOf probe)
    let div := max 1 (bf probe 6 0 9)
    ceilDiv (32 * bf therm 2 0 17 * 125000000) (bf therm 3 0 17 * div * p) +
      ceilDiv (32 * fusedCount therm * 125000000) (2 ^ bf phase 3 0 5 * p)
  else 0

/-- The enabled streams of an engine in a set. -/
def feStreams (set : List (BlockId × List Word)) (f : Fe) : List (StreamId × List Word × List Word) :=
  ((List.finRange 16).map fun n => (n, getBlk set (bid 0x14 n.val), getBlk set (bid 0x50 n.val))).filter
    fun x => stEn x.2.1 && streamFe x.2.1 = f.val

/-- Reservation of an engine under a set. -/
def feRes (set : List (BlockId × List Word)) (f : Fe) : Nat :=
  streamRes (getBlk set (bid 0x10 f.val)) (getBlk set (bid 0x11 f.val)) (getBlk set (bid 0x13 f.val))
      ((feStreams set f).map fun x => (x.2.1, x.2.2)) +
    thermRes (getBlk set (bid 0x10 f.val)) (getBlk set (bid 0x12 f.val)) (getBlk set (bid 0x30 f.val))

/-- An engine is covered by a commit that waits or is scheduled. -/
def feLocked (s : State) (f : Fe) : Bool := s.commits.any fun c => hasFe c f && !c.feDone.any fun d => d.1 = f

/-- What an engine holds: the larger of its active and its scheduled reservation. -/
def feHeld (s : State) (f : Fe) : Nat :=
  if feLocked s f then max (feRes s.params.active f) (feRes s.params.shadow f) else feRes s.params.active f

/-- Reservations of the capture units that are armed or queued. -/
def harvRes (s : State) : Nat := (s.harv.toList.map fun h => h.rate).foldl (· + ·) 0

/-- Every guaranteed reservation in force. -/
def reservedNow (s : State) : Nat := ((List.finRange 4).map (feHeld s)).foldl (· + ·) 0 + harvRes s

/-- CELLAR_CAP (Table 10.11). -/
def dtCellarCap : Nat := 0xFF50

end Sys2Proof.Machine
end

