-- ==== Sys2Proof/Machine/Harvest.lean ====
section
/-! DEFINITION. Harvest (10): sources, ring, sequencer, level detector, triggering, capture records and the Harvest opcodes. -/

namespace Sys2Proof.Machine

/-! ## The HARVEST set -/

def hvSrc (b : List Word) : Nat := bf b 0 0 3
def hvFe (b : List Word) : Fe := ⟨bf b 0 3 2, by unfold bf bitsOf; exact Nat.mod_lt _ (by decide)⟩
def hvFmt (b : List Word) : Nat := bf b 0 5 2
def hvAvg (b : List Word) : Nat := bf b 0 8 4
def hvRing (b : List Word) : RingId := ringOf (bf b 0 12 5)
def hvAuto (b : List Word) : Bool := bfb b 0 17
def hvTherm (b : List Word) : Nat := bf b 0 18 2
def hvFirst (b : List Word) : Nat := bf b 1 0 18
def hvCount (b : List Word) : Nat := bf b 2 0 13
def hvSel (b : List Word) : Nat := bf b 2 16 16
def hvPre (b : List Word) : Nat := bf b 3 0 32
def hvPost (b : List Word) : Nat := bf b 4 0 32
def hvMib (b : List Word) : Nat := bf b 7 0 16
def hvLvlKind (b : List Word) : Nat := bf b 8 0 3
def hvLvlFe (b : List Word) : Nat := bf b 8 3 2
def hvLvlCh (b : List Word) : Nat := bf b 8 8 18
def hvLvlTh (b : List Word) : Int := bfs b 9 0 32
def hvLvlHyst (b : List Word) : Int := bf b 10 0 16
def hvTimeout (b : List Word) : Nat := bf b 11 0 24
/-- Fields of sequencer state n (Table 10.8). -/
def hvKind (b : List Word) (n : Nat) : Nat := bf b (16 + 4 * n) 0 4
def hvHit (b : List Word) (n : Nat) : Nat := bf b (16 + 4 * n) 4 4
def hvTmo (b : List Word) (n : Nat) : Nat := bf b (16 + 4 * n) 8 4
def hvUnit (b : List Word) (n : Nat) : Nat := bf b (16 + 4 * n) 12 2
def hvNeed (b : List Word) (n : Nat) : Nat := bf b (16 + 4 * n) 16 16
def hvArg (b : List Word) (n : Nat) : Nat := bf b (17 + 4 * n) 0 13
def hvTimer (b : List Word) (n : Nat) : Nat := bf b (18 + 4 * n) 0 32

/-- Selected branches of a group of a PROBE set. -/
def selBranches (probe : List Word) (sel g : Nat) : List Nat := (groupBranches probe g).filter fun b => sel.testBit b
/-- NBMAX (R246). -/
def nbMaxOf (probe : List Word) (sel : Nat) : Nat := ((List.range (groupsOf probe)).map fun g => (selBranches probe sel g).length).foldl max 0
/-- Groups with a selected branch. -/
def selGroups (probe : List Word) (sel : Nat) : Nat := ((List.range (groupsOf probe)).filter fun g => !(selBranches probe sel g).isEmpty).length

/-- Bytes of a thermal record of a kind (9.7): header, prefix, elements, in whole 32-byte units. -/
def thermRecBytes (therm : List Word) (kind : Nat) : Nat :=
  let n := if kind = 1 then fusedCount therm * 4 else if kind = 2 then bf therm 2 0 17 * 16 else bf therm 2 0 17 * 4
  64 + ceilDiv n 32 * 32

/-- Bytes of one component as it is stored. -/
def compBytes (b : List Word) : Nat :=
  match hvSrc b with
  | 0 | 1 => if hvAvg b = 0 then 2 else 4
  | 2 => 4
  | 3 => if 0 < hvAvg b then 4 else [2, 8, 4].getD (hvFmt b) 2
  | _ => 1

/-- ESZ (Table 10.1). -/
def eszOf (s : State) (b : List Word) : Nat :=
  let f := (hvFe b).val
  match hvSrc b with
  | 0 | 1 => if hvAvg b = 0 then 4 else 8
  | 2 => ceilDiv (hvCount b * nbMaxOf (s.act 0x10 f) (hvSel b) * 4) 32 * 32
  | 3 => ceilDiv (hvCount b * compBytes b) 32 * 32
  | _ => thermRecBytes (s.act 0x30 f) (hvTherm b)

/-- Reservation in bytes per second: ESZ × element rate, or 1 MB/s for SRC 4 (Table 10.3, check 5). -/
def harvRate (s : State) (b : List Word) : Nat :=
  let f := (hvFe b).val
  let p := s.act 0x10 f
  let r := s.act 0x11 f
  let per := max 1 (periodOf p)
  match hvSrc b with
  | 0 => ceilDiv (eszOf s b * fConv r * 1000) (2 ^ hvAvg b)
  | 1 => ceilDiv (eszOf s b * bf r 1 16 3 * 125000000) (2 ^ hvAvg b)
  | 2 => ceilDiv (eszOf s b * selGroups p (hvSel b) * 125000000) per
  | 3 => ceilDiv (eszOf s b * groupsOf p * 125000000) (per * 2 ^ hvAvg b)
  | _ => 1000000

/-- CAP in elements of ESZ bytes (R249). -/
def capElems (b : List Word) (esz : Nat) : Nat := (hvMib b * 2 ^ 20 - 4096) / max 1 esz

/-- Cellar offset of the element slot. -/
def elemAddr (s : State) (u : Fin 4) (n : Nat) : Nat :=
  s.harv[u].base + 4096 + (n % max 1 s.harv[u].cap) * s.harv[u].esz

/-! ## Summary and records (10.5) -/

/-- Bit of a flag in an element's flags, counted. -/
def countFlag (l : List ElemMeta) (bit : Nat) : Nat := (l.filter fun e => e.flags.getLsbD bit).length

/-- Elements per data record (R262). -/
def eRec (b : List Word) (esz : Nat) : Nat :=
  let n := 2097088 / max 1 esz
  max 1 (if hvSrc b ≤ 1 then n else min 1024 n)

/-- Data records of a capture. -/
def dataRecords (h : HarvSt) : Nat := ceilDiv h.elems.length (eRec h.set h.esz)

/-- The summary (Table 10.6). -/
def summary (h : HarvSt) : List Word :=
  let t := h.trig.getD ⟨0, 0, 0, 0, 0⟩
  let b := h.set
  [BitVec.ofNat 32 (1 + 256 * hvSrc b + 2048 * hvAvg b + 32768 * h.truncated.toNat + 65536 * t.kind + 2 ^ 20 * t.state + 2 ^ 24 * t.sub.toNat),
    h.number.zeroExtend 32] ++ split64 t.time ++
  [BitVec.ofNat 32 h.esz, BitVec.ofNat 32 h.pre, BitVec.ofNat 32 h.preAct, BitVec.ofNat 32 (hvPost b), BitVec.ofNat 32 h.elems.length,
    BitVec.ofNat 32 (dataRecords h), satWord (countFlag h.elems flInvalid), satWord (countFlag h.elems flOverrun),
    BitVec.ofNat 32 t.frac, h.ignoredCap] ++ split64 h.armAt

/-- WIDTH of a capture (Table 10.4). -/
def capWidth (b : List Word) : Nat :=
  match hvSrc b with
  | 0 | 1 => if hvAvg b = 0 then 0 else 1
  | 2 => 1
  | 3 => if 0 < hvAvg b then 1 else [0, 2, 1].getD (hvFmt b) 0
  | _ => 1

/-- Absolute number of the first element of a capture. -/
def firstKept (h : HarvSt) : Nat := match h.trigAt with | some t => t - h.preAct | none => h.written - h.elems.length

/-- Elements of data record `k` of a read-out whose Cellar word is read with an error: those given, and those the device knows as bad (R322). -/
def captureEcc (s : State) (u : Fin 4) (k : Nat) (ecc : List (Nat × EccRead)) : List (Nat × EccRead) :=
  let h := s.harv[u]
  let per := eRec h.set h.esz
  if k = 0 then []
  else ((List.range per).map (· + (k - 1) * per)).filterMap fun i =>
    if h.elems.length ≤ i then none
    else if (List.range h.esz).any fun j => celBad s (elemAddr s u (firstKept h + i) + j) then some (i, .uncorrectable)
    else ecc.find? fun e => e.1 = i

/-- Record `k` of a held capture (0 the summary); `ecc`: elements (index in the capture) whose word is uncorrectable (Table 13.5). -/
def captureRecord (s : State) (u : Fin 4) (k : Nat) (ecc : List (Nat × EccRead)) : List Byte :=
  let h := s.harv[u]
  let b := h.set
  let win := hvSrc b = 2 || hvSrc b = 3
  let first := if win then hvFirst b else 0
  let count := if win then hvCount b else if hvSrc b ≤ 1 then 2 else 1
  let unit : StreamId := ⟨u.val, by omega⟩
  let hdr := fun (kind width samples : Nat) (flags : BitVec 16) (m : ElemMeta) (len : Nat) =>
    wordsBytes (recHeader unit (hvFe b) width 0 flags (BitVec.ofNat 16 k) first m.group samples count m.ppn len m.time kind)
  let all := (h.elems.map (·.flags)).foldl (· ||| ·) (0 : BitVec 16)
  let m0 := h.elems.headD ⟨0, 0, 0, 0, 0⟩
  if k = 0 then hdr 0x2F 1 0 (all ||| flagBit flExact true) m0 2 ++ wordsBytes (summary h)
  else
    let per := eRec b h.esz
    let here := (h.elems.drop ((k - 1) * per)).take per
    let m := here.headD m0
    let base := firstKept h
    let bad := (captureEcc s u k ecc).filterMap fun e => if e.2 = .uncorrectable then some e.1 else none
    let flags := (here.map (·.flags)).foldl (· ||| ·) (flagBit flExact true ||| flagBit flOverrun !bad.isEmpty)
    let data := (List.range here.length).flatMap fun i =>
      if bad.contains ((k - 1) * per + i) then List.replicate h.esz 0 else s.celRead (elemAddr s u (base + (k - 1) * per + i)) h.esz
    let idx : Int := (k - 1 : Nat) * per - h.preAct
    let pre := [BitVec.ofNat 32 (1 + 256 * hvSrc b + 2048 * hvAvg b + 65536 * h.number.toNat), BitVec.ofNat 32 here.length] ++
      split64 (BitVec.ofInt 64 idx) ++ [BitVec.ofNat 32 (if hvSrc b = 2 then hvSel b + 65536 * h.nbMax else 0), 0, 0, 0]
    let body := pad32 (wordsBytes pre ++ data)
    hdr (0x20 + hvSrc b) (capWidth b) (if hvSrc b ≤ 1 then 0 else here.length - 1) flags m (body.length / 32) ++ body

/-! ## Ends of a capture (R258, R259) -/

/-- The operation of a unit's ARM. -/
def armOp (s : State) (u : Fin 4) : Option Op := s.opWhere fun k => k = .harvestArm u

/-- Report the ARM and let a HARVEST commit apply at the idle instant (R260). -/
def endArm (u : Fin 4) (st det : Nat) (ws : List Word) (s : State) : State :=
  let s1 := match armOp s u with
    | some o => s.finish o st det ws
    | none => s
  let s2 := (s1.updHarv u fun h => { h with rate := 0, inbox := [], inputs := [], avg := none, ending := false, gap := false }).release (.capture u)
  s2.localPoint [bid 0x40 u.val]

/-- The capture ends without standing: STOP, timeout or abort before the trigger. -/
def dropCapture (u : Fin 4) (st det : Nat) (s : State) : State :=
  endArm u st det [] ((s.updHarv u fun h => { h with st := .idle, elems := [], trig := none, trigAt := none, written := 0 }).raise vecHarvest)

/-- The capture completes (R258): held, and read out at once with AUTO_READ (R261). -/
def completeCapture (u : Fin 4) (st : Nat) (s : State) : State :=
  let s1 := s.updHarv u fun h => { h with st := if hvAuto h.set then .reading else .held, unread := true, sent := 0 }
  endArm u st 0 (summary s1.harv[u]) (s1.raise vecHarvest)

/-- What is kept at the end: PRE_ACTUAL elements before the trigger element, and from it at most POST (R250). Where no element has reached T_trig yet, the
trigger element is the next one. -/
def HarvSt.keep (h : HarvSt) : HarvSt :=
  match h.trigAt with
  | some t => { h with elems := (h.elems.drop (t - h.preAct - (h.written - h.elems.length))).take (h.preAct + hvPost h.set) }
  | none =>
    let pre := min h.pre h.elems.length
    { h with preAct := pre, trigAt := some h.written, elems := h.elems.drop (h.elems.length - pre) }

/-- The unit has recorded POST elements from the trigger element (R250). -/
def checkDone (u : Fin 4) (s : State) : State :=
  let h := s.harv[u]
  match h.st, h.trigAt with
  | .post, some t =>
    if t + hvPost h.set ≤ h.written then completeCapture u stOk (s.updHarv u (·.keep)) else s
  | _, _ => s

/-- The trigger element, once one holds an input at or after T_trig (R250). -/
def findTrig (u : Fin 4) (s : State) : State :=
  s.updHarv u fun h => match h.trig, h.trigAt with
    | some t, none =>
      match h.elems.findIdx? fun e => t.time ≤ e.last with
      | some i => { h with trigAt := some (h.written - h.elems.length + i), preAct := min h.pre i }
      | none => h
    | _, _ => h

/-- TRIGGER (R256). -/
def triggerUnit (u : Fin 4) (t : Trig) (s : State) : State :=
  checkDone u (findTrig u ((s.updHarv u fun h => { h with st := .post, trig := some t }).raise vecHarvest))

/-- Distance of an engine's shot instants, and how many a period has. -/
def shotStep (s : State) (f : Fe) : Nat := periodPs (s.act 0x10 f.val) / groupsOf (s.act 0x10 f.val)

/-- The engine's shot instants B + g × P / G up to an instant, whether it runs or not (R103, R253); the boundary timer's count of them before the period in
progress is State's. -/
def shotInstants (s : State) (f : Fe) (clk : Nat) : Nat :=
  let x := s.fe[f]
  let d := max 1 (shotStep s f)
  if clk < x.bnd then x.ticks - (ceilDiv (x.bnd - clk) d - 1)
  else x.ticks + min (groupsOf (s.act 0x10 f.val)) (min (clk - x.bnd) (x.next - 1 - x.bnd) / d + 1)

/-- When an engine's `k`-th shot instant falls, where it lies before the next boundary. -/
def shotAt (s : State) (f : Fe) (k : Nat) : Option Nat :=
  let x := s.fe[f]
  if k ≤ x.ticks then some (x.bnd - (x.ticks + 1 - k) * shotStep s f)
  else if k ≤ shotInstants s f (x.next - 1) then some (x.bnd + (k - x.ticks - 1) * shotStep s f) else none

/-- When the timer of a unit's present state expires (R253): shots are counted as far as the period in progress. -/
def timerAt (s : State) (u : Fin 4) : Option Nat :=
  let h := s.harv[u]
  match hvUnit h.set h.seq with
  | 1 => shotAt s (hvFe h.set) (h.mark + hvTimer h.set h.seq)
  | 2 => some (h.entered + ceilDiv (hvTimer h.set h.seq) 8 * 8000)
  | _ => none

/-- Go at an instant to a state, TRIGGER or STOP (R253). -/
def seqGoto (u : Fin 4) (n : Nat) (t : Trig) (clk : Nat) (s : State) : State :=
  if n = 8 then triggerUnit u t s
  else if n = 9 then dropCapture u stTimeout 0xFF51 s
  else s.updHarv u fun h => { h with seq := n, cnt := 0, entered := clk, mark := shotInstants s (hvFe h.set) clk }

/-- An event is one that a state of the sequencer watches (Table 10.2). -/
def watches (b : List Word) (n : Nat) (ev : SeqEvent) : Bool :=
  let k := hvKind b n
  let a := hvArg b n
  match k with
  | 0 => false
  | 1 | 2 => ev.kind.val = k && ev.arg % 65536 = a % 2048
  | 3 => ev.kind.val = 1 && (a % 16).testBit (ev.arg / 65536)
  | 4 => ev.kind.val = 4 && ev.arg = a
  | 5 | 6 | 7 => ev.kind.val = k && ev.arg = a % 4
  | 11 => ev.kind.val = 9 || ev.kind.val = 10
  | _ => ev.kind.val = k

/-- The 2.5 ns within which events count as arriving together (R254). -/
def seqSlot (clk : Nat) : Nat := clk / 2500

/-- The event that a sequencer takes next: the earliest, and of those that arrived within the same 2.5 ns the one of lowest kind (R254). -/
def nextEvent : List SeqEvent → Option SeqEvent
  | [] => none
  | e :: r => match nextEvent r with
    | some f => if seqSlot f.clk < seqSlot e.clk || (seqSlot f.clk = seqSlot e.clk && f.kind < e.kind) then some f else some e
    | none => some e

/-- The sequencer takes an event (R253, R254): after the trigger it is only counted; in an armed unit it counts where the present state, entered by then,
watches it. -/
def takeEvent (u : Fin 4) (ev : SeqEvent) (s : State) : State :=
  let h := s.harv[u]
  let s1 := s.updHarv u fun x => { x with inbox := x.inbox.erase ev }
  if h.st = .post then s1.updHarv u fun x => { x with ignored := addSat x.ignored 1, ignoredCap := addSat x.ignoredCap 1 }
  else if h.st = .armed && watches h.set h.seq ev && h.entered ≤ ev.clk then
    if hvNeed h.set h.seq ≤ h.cnt + 1 then seqGoto u (hvHit h.set h.seq) ⟨ev.time, ev.sub, hvKind h.set h.seq, h.seq, ev.frac⟩ ev.clk s1
    else s1.updHarv u fun x => { x with cnt := x.cnt + 1 }
  else s1

/-- The timer of the present state expires at an instant, which is T_trig where it triggers (R253, R256). -/
def takeTimer (u : Fin 4) (e : Nat) (s0 : State) : State :=
  let s := s0.goTo e
  let h := s.harv[u]
  seqGoto u (hvTmo h.set h.seq) ⟨s.time.at e, 0, 14, h.seq, 0⟩ e s

/-- The timer of an armed unit's state. -/
def armedTimer (s : State) (u : Fin 4) : Option Nat := if s.harv[u].st = .armed then timerAt s u else none

/-- HARVEST_SEQ_EVENT (R253, R254): what reached the sequencer first, an event that waits or an expiry before it; in the same 2.5 ns the event. -/
def execHarvestSeqEvent (u : Fin 4) (s : State) : Host.Outcome State Fault Refusal :=
  match nextEvent s.harv[u].inbox, armedTimer s u with
  | none, _ => ok s
  | some ev, none => ok (takeEvent u ev s)
  | some ev, some e => ok (if seqSlot e < seqSlot ev.clk then takeTimer u e s else takeEvent u ev s)

/-- HARVEST_SEQ_TIMER (R253, R254): the timer of the present state expires, unless an event came first or in the same 2.5 ns. -/
def execHarvestSeqTimer (u : Fin 4) (s : State) : Host.Outcome State Fault Refusal :=
  match armedTimer s u, nextEvent s.harv[u].inbox with
  | none, _ => ok s
  | some e, none => ok (takeTimer u e s)
  | some e, some ev => ok (if seqSlot ev.clk ≤ seqSlot e then takeEvent u ev s else takeTimer u e s)

/-- HARVEST_ARM_TIMEOUT (R256). -/
def execHarvestArmTimeout (u : Fin 4) (s : State) : Host.Outcome State Fault Refusal :=
  let h := s.harv[u]
  if h.st ≠ .armed || hvTimeout h.set = 0 then ok s
  else ok (dropCapture u stTimeout 0 (s.goTo (h.armClk + hvTimeout h.set * 10 ^ 9)))

/-! ## Elements (R248, R250) -/

/-- Little-endian bytes of an integer. -/
def intBytes (n : Nat) (v : Int) : List Byte := (List.range n).map fun i => BitVec.ofInt 8 (floorDiv v (256 ^ i))

/-- Store one element in the ring. -/
def storeElem (u : Fin 4) (comps : List Int) (m : ElemMeta) (s : State) : State :=
  let h := s.harv[u]
  let bytes := comps.flatMap (intBytes (compBytes h.set))
  let data := (bytes ++ List.replicate (h.esz - bytes.length) 0).take h.esz
  let s1 := s.celStore (elemAddr s u h.written) (data.map some)
  let s2 := s1.updHarv u fun x => { x with
    written := x.written + 1, elems := (x.elems ++ [m]).drop ((x.elems.length + 1) - max 1 x.cap) }
  checkDone u (findTrig u s2)

/-- Flags an averaged output takes from its inputs (R248). -/
def mergeFlags (a b : BitVec 16) : BitVec 16 := a ||| b

/-- One input of an element: stored, or added to its averaging group (R248). An INVALID raw input is a zero element (R247). -/
def takeInput (u : Fin 4) (i : HarvestInput) (s : State) : State :=
  let h := s.harv[u]
  let k := hvAvg h.set
  let comps := if i.flags.getLsbD flInvalid && hvSrc h.set ≤ 1 then i.comps.map (fun _ => 0) else i.comps
  if k = 0 then storeElem u comps ⟨i.time, i.flags, i.ppn, i.group, i.time⟩ s
  else
    let (n, sums, f) := match h.avg with
      | some (n, sums, f) => (n + 1, List.zipWith (· + ·) sums comps, { f with flags := mergeFlags f.flags i.flags })
      | none => (1, comps, i)
    if n = 2 ^ k then
      storeElem u (sums.map (· * 2 ^ (8 - k))) ⟨f.time, f.flags, f.ppn, f.group, i.time⟩ (s.updHarv u fun x => { x with avg := none })
    else s.updHarv u fun x => { x with avg := some (n, sums, f) }

/-- The period and group of an instant of an engine (Table 10.4). -/
def periodAt (s : State) (f : Fe) (t : Nat) : BitVec 48 × Nat :=
  let x := s.fe[f]
  let p := max 1 (periodPs (s.act 0x10 f.val))
  if x.bnd ≤ t then (x.ppn, (t - x.bnd) / max 1 (shotStep s f))
  else
    let back := ceilDiv (x.bnd - t) p
    (x.ppn - BitVec.ofNat 48 back, (back * p - (x.bnd - t)) / max 1 (shotStep s f))

/-- A pair of raw samples as a unit takes it (R247): samples of a tainted multiblock or of an outage are INVALID; the first after an outage starts a record's
DISCONTINUITY (R262). -/
def rawInput (u : Fin 4) (r : RawSample) (s : State) : HarvestInput :=
  let h := s.harv[u]
  let f := hvFe h.set
  let x := s.fe[f]
  let bad := r.tainted ||
    (if hvSrc h.set = 0 then taintMeets x.taintA x.outage[0] r.t (r.t + 1) else taintMeets x.taintB x.outage[1] r.t (r.t + 1))
  let at_ := periodAt s f r.t
  ⟨[r.x, r.y], s.time.at r.t, flagBit flInvalid bad ||| flagBit flDisc (h.gap && !bad) ||| flagBit flHoldover s.time.holdover, at_.1, at_.2⟩

/-- A link's samples come again after an outage: units that record them mark their next record (R262). -/
def rawBack (f : Fe) (src : Nat) (s : State) : State :=
  { s with harv := s.harv.map fun (h : HarvSt) =>
    if (h.st = .armed || h.st = .post) && hvSrc h.set = src && hvFe h.set = f then { h with gap := true } else h }

/-- The unit's capture ends with the last row of its engine, which has been written (R259). -/
def endsNow (u : Fin 4) (s : State) : State :=
  if s.harv[u].st = .post && s.harv[u].ending && s.harv[u].inputs.isEmpty then
    completeCapture u stOk (s.updHarv u fun x => { x.keep with truncated := true })
  else s

/-- HARVEST_ELEMENT_WRITE (R250). -/
def execHarvestElementWrite (u : Fin 4) (raw : RawSample) (s0 : State) : Host.Outcome State Fault Refusal :=
  let h := s0.harv[u]
  if h.st ≠ .armed && h.st ≠ .post then ok s0
  else if hvSrc h.set ≤ 1 then
    let s := s0.goTo raw.t
    let i := rawInput u raw s
    ok (takeInput u i (s.updHarv u fun x => { x with gap := x.gap && i.flags.getLsbD flInvalid }))
  else match h.inputs with
    | [] => ok s0
    | i :: r => ok (endsNow u (takeInput u i (s0.updHarv u fun x => { x with inputs := r })))

/-- A row-source unit that has triggered ends at the last row of its engine (R259). -/
def harvestStop (f : Fe) (s : State) : State :=
  (List.finRange 4).foldl (fun s u =>
    let h := s.harv[u]
    if h.st = .post && (hvSrc h.set = 2 || hvSrc h.set = 3) && hvFe h.set = f then endsNow u (s.updHarv u fun x => { x with ending := true }) else s) s

/-! ## Level detector (R255) -/

/-- Device time of an instant given in 1/256 of the way between two, with its refinement in 2^-40 s. -/
def betweenTime (t : TimeBase) (a b frac : Nat) : BitVec 64 × Byte :=
  let x := t.at96 a
  let d := (t.at96 b - x).toInt
  let v := x.toNat + floorDiv (d * frac) 256
  let r := (roundEven v (2 ^ 24)).toNat
  (BitVec.ofNat 64 (r / 256), BitVec.ofNat 8 r)

/-- One sample of the watched series, of instant `t`, reaches a unit's detector at `clk`. -/
def levelSample (u : Fin 4) (x : Int) (t : Nat) (invalid : Bool) (clk : Nat) (s : State) : State :=
  let h := s.harv[u]
  if h.st ≠ .armed && h.st ≠ .post then s
  else if invalid then s.updHarv u fun y => { y with upArmed := false, downArmed := false, last := none }
  else
    let th := hvLvlTh h.set
    let hy := hvLvlHyst h.set
    let (s1, up, down) := match h.last with
      | none => (s, h.upArmed, h.downArmed)
      | some (p, tp) =>
        let f := (clamp 1 256 ((roundEven (256 * (th - p) * (if p < x then 1 else -1)) (max 1 (x - p).natAbs)))).toNat
        let w := betweenTime s.time tp t f
        if h.upArmed && p < th && th ≤ x then (s.seqEventTo u ⟨9, 0, w.1, w.2, f, clk⟩, false, h.downArmed)
        else if h.downArmed && th < p && x ≤ th then (s.seqEventTo u ⟨10, 0, w.1, w.2, f, clk⟩, h.upArmed, false)
        else (s, h.upArmed, h.downArmed)
    s1.updHarv u fun y => { y with upArmed := up || decide (x < th - hy), downArmed := down || decide (th + hy < x), last := some (x, t) }

/-- RAW_STREAM_LEVEL_CROSSING (R255): the next sample of the raw stream the unit's detector watches. -/
def execRawStreamLevelCrossing (u : Fin 4) (x : Int) (t : Nat) (invalid : Bool) (s : State) : Host.Outcome State Fault Refusal :=
  let k := hvLvlKind s.harv[u].set
  if 2 ≤ k && k ≤ 5 then ok (levelSample u x t invalid (max t s.time.clk) (s.goTo t)) else ok s

/-- TRIG_IN_EDGE (R252, R97): an event of kind 5 or 6 with its 625 ps stamp. -/
def trigInEvent (pin : Fin 4) (falling : Bool) (s : State) : State :=
  s.seqEvent ⟨if falling then 6 else 5, pin.val, s.time.stamp s.time.clk, 0, 0, s.time.clk⟩

/-! ## Opcodes (Table 10.10) -/

/-- Arm a unit that has passed every check (R257). -/
def armUnit (u : Fin 4) (b : List Word) (rate : Nat) (s : State) : State :=
  let esz := eszOf s b
  let cap := capElems b esz
  s.updHarv u fun h => { h with
    st := .armed, inputs := [], inbox := [], seq := 0, cnt := 0, entered := s.time.clk, mark := shotInstants s (hvFe b) s.time.clk, armAt := s.now, armClk := s.time.clk
    pre := if cap < hvPre b + hvPost b then cap - hvPost b else hvPre b, cap := cap, rate := rate, base := areaBase s (.harvest u), ending := false, gap := false, written := 0, elems := [], avg := none
    trig := none, trigAt := none, preAct := 0, truncated := false, ignoredCap := 0, upArmed := false, downArmed := false, last := none
    unread := false, sent := 0, set := b, esz := esz, nbMax := nbMaxOf (s.act 0x10 (hvFe b).val) (hvSel b)
    number := h.number + 1 }

/-- KIND of a RING set (Table 14.10), and a ring that is enabled and of a kind. -/
def ringKind (blk : List Word) : Nat := bf blk 0 1 3
def ringIsKind (s : State) (n : RingId) (kind : Nat) : Bool := bfb (s.act 0x80 n.val) 0 0 && ringKind (s.act 0x80 n.val) = kind

/-- The unit a payload names, and the units of a mask. -/
def unitOf (r : Req) : Fin 4 := ⟨wbits (wordAt r.payload 0) 0 2, by unfold wbits bitsOf; exact Nat.mod_lt _ (by decide)⟩
def unitsOf (r : Req) : List (Fin 4) := (List.finRange 4).filter fun u => (wordAt r.payload 0).getLsbD u.val

/-- The window, branch, level-channel and ring checks of Table 10.3, order 3. -/
def armCross (s : State) (b : List Word) : Bool :=
  let f := (hvFe b).val
  let nch := nChOf (s.act 0x11 f)
  (!(hvSrc b = 2 || hvSrc b = 3) || decide (hvFirst b + hvCount b ≤ nch)) && (hvSrc b ≠ 2 || decide (0 < nbMaxOf (s.act 0x10 f) (hvSel b))) &&
    (hvLvlKind b ≠ 1 || decide (hvLvlCh b < nChOf (s.act 0x11 (hvLvlFe b)))) && ringIsKind s (hvRing b) 4

/-- A unit holds a complete capture: also while a new ARM of it waits for power (R257). -/
def captureHeld (h : HarvSt) : Bool := h.st = .held || h.st = .reading || (h.st = .queued && h.before = .held)

/-- A queued ARM goes: the unit is as before it, and a HARVEST commit that waits for it to be idle applies (R257, R260). -/
def unqueueUnit (u : Fin 4) (s : State) : State :=
  if s.harv[u].st = .queued then (s.updHarv u fun h => { h with st := h.before, rate := 0 }).localPoint [bid 0x40 u.val] else s

/-- HARVEST_ARM after its length check, as a new request or at its grant (Table 10.3). -/
def doHarvestArm (granted : Bool) (r : Req) (s : State) : Res :=
  let u := unitOf r
  let again := (wordAt r.payload 0).getLsbD 2
  let h := s.harv[u]
  let b := s.act 0x40 u.val
  let idle := h.st = .idle || (h.st = .held && again) || (granted && h.st = .queued)
  let rate := harvRate s b
  let mb := ceilDiv rate 1000000
  let arm := fun (s : State) =>
    let s1 := (armUnit u b rate s).addOp r (.harvestArm u) true
    let x := s1.harv[u]
    Res.rep stPending 0 ([BitVec.ofNat 32 x.pre, BitVec.ofNat 32 x.cap] ++ split64 x.armAt ++ [BitVec.ofNat 32 mb]) s1
  if rsvdBad r 0 7 then Res.bad 0 s
  else if !idle then Res.rep stBusy (if captureHeld h && h.unread then 0xFF52 else 0) [] s
  else if hvSrc b = 0 && (s.fe[hvFe b]).links[0] ≠ .data || hvSrc b = 1 && (s.fe[hvFe b]).links[1] ≠ .data then Res.rep stBusy 0xFF54 [] s
  else if !armCross s b then Res.bad dtCross s
  else if capElems b (eszOf s b) < hvPost b then Res.rep stLength 0 [] s
  else if !granted && capOf s s.cellar.fsp < reservedNow s + rate then Res.rep stExhausted dtCellarCap [] s
  else if hvSrc b ≤ 1 then
    heavy granted r (.capture u) (if hvSrc b = 0 then 900 else 300)
      (fun s => s.updHarv u fun x => { x with st := .queued, before := x.st, rate := rate }) arm s
  else arm s

/-- The feature of a HARVEST_ARM: 3 where the unit's source is raw (R47). -/
def harvFeats (r : Req) (s : State) : List Nat := if hvSrc (s.act 0x40 (unitOf r).val) ≤ 1 then [3] else []

/-- HARVEST_ARM (R257). -/
def execHarvestArm (r : Req) (s : State) : Host.Outcome State Fault Refusal :=
  ok (runOp 0x0501 (harvFeats r s) 1 1 false (doHarvestArm false) r s)

/-- The queued ARM of a unit. -/
def queuedArm (s : State) (u : Fin 4) : Option QReq := s.power.queue.find? fun q => q.req.opcode = 0x0501 && unitOf q.req = u

/-- DISARM of one unit (R259): nothing stands before the trigger, a truncated capture after it. -/
def disarm (u : Fin 4) (s : State) : State :=
  match s.harv[u].st with
  | .queued => match queuedArm s u with
    | some q => unqueueUnit u ((s.unqueue q).answerQ q stAborted 0)
    | none => unqueueUnit u s
  | .armed => dropCapture u stAborted 0 s
  | .post => completeCapture u stAborted (s.updHarv u fun x => { x.keep with truncated := true })
  | _ => s

/-- HARVEST_DISARM (R259). -/
def doHarvestDisarm (r : Req) (s : State) : Res :=
  let us := unitsOf r
  let live := us.filter fun u => s.harv[u].st = .queued || s.harv[u].st = .armed || s.harv[u].st = .post
  if rsvdBad r 0 0xF then Res.bad 0 s
  else if live.isEmpty && !us.isEmpty then Res.rep stCompleted 0 [] s
  else Res.ok [] (live.foldl (fun s u => disarm u s) s)

/-- HARVEST_DISARM (R259). -/
def execHarvestDisarm (r : Req) (s : State) : Host.Outcome State Fault Refusal := ok (runOp 0x0502 [] 1 1 false doHarvestDisarm r s)

/-- FORCE of one unit: an event of kind 8, or with IMMEDIATE a trigger in any state (R256). -/
def force (imm : Bool) (u : Fin 4) (s : State) : State :=
  let h := s.harv[u]
  if imm then
    if h.st = .armed then triggerUnit u ⟨s.now, 0, 15, h.seq, 0⟩ s
    else if h.st = .post then s.updHarv u fun x => { x with ignored := addSat x.ignored 1, ignoredCap := addSat x.ignoredCap 1 } else s
  else s.seqEventTo u ⟨8, 0, s.now, 0, 0, s.time.clk⟩

/-- HARVEST_FORCE (R256). -/
def doHarvestForce (r : Req) (s : State) : Res :=
  if rsvdBad r 0 0x1F then Res.bad 0 s
  else Res.ok [] ((unitsOf r).foldl (fun s u => force ((wordAt r.payload 0).getLsbD 4) u s) s)

/-- HARVEST_FORCE (R256). -/
def execHarvestForce (r : Req) (s : State) : Host.Outcome State Fault Refusal := ok (runOp 0x0503 [] 1 1 false doHarvestForce r s)

/-- HARVEST_READ (R261): a held capture is delivered from the start; its completion comes with its last record. -/
def doHarvestRead (r : Req) (s : State) : Res :=
  let u := unitOf r
  let h := s.harv[u]
  if rsvdBad r 0 3 then Res.bad 0 s
  else match h.st with
    | .held => Res.rep stPending 0 [] ((s.updHarv u fun x => { x with st := .reading, sent := 0 }).addOp r (.harvestRead u) true)
    | .idle => Res.bad 0xFF53 s
    | _ => Res.rep stBusy 0 [] s

/-- HARVEST_READ (R261). -/
def execHarvestRead (r : Req) (s : State) : Host.Outcome State Fault Refusal := ok (runOp 0x0504 [] 1 1 false doHarvestRead r s)

/-- HARVEST_RELEASE (R261). -/
def doHarvestRelease (r : Req) (s : State) : Res :=
  let us := unitsOf r
  if rsvdBad r 0 0xF then Res.bad 0 s
  else if us.any fun u => s.harv[u].st = .reading then Res.rep stBusy 0 [] s
  else Res.ok [] (us.foldl (fun s u =>
    if s.harv[u].st = .held then
      (s.updHarv u fun h => { h with st := .idle, elems := [], trig := none, trigAt := none, unread := false }).localPoint [bid 0x40 u.val]
    else s) s)

/-- HARVEST_RELEASE (R261). -/
def execHarvestRelease (r : Req) (s : State) : Host.Outcome State Fault Refusal := ok (runOp 0x0505 [] 1 1 false doHarvestRelease r s)

/-- STATE of HARVEST_STATUS. -/
def UnitSt.code : UnitSt → Nat
  | .idle => 0
  | .queued => 1
  | .armed => 2
  | .post => 3
  | .held => 4
  | .reading => 5

/-- HARVEST_STATUS (Table 10.10). -/
def doHarvestStatus (r : Req) (s : State) : Res :=
  let u := unitOf r
  let h := s.harv[u]
  if rsvdBad r 0 3 then Res.bad 0 s
  else Res.ok ([BitVec.ofNat 32 (h.st.code + 8 * h.seq + 64 * h.cnt), BitVec.ofNat 32 h.pre, BitVec.ofNat 32 h.cap] ++ split64 h.armAt ++
    [satWord h.written, h.ignored]) (s.updHarv u fun x => { x with ignored := 0 })

/-- HARVEST_STATUS (R265). -/
def execHarvestStatus (r : Req) (s : State) : Host.Outcome State Fault Refusal := ok (runOp 0x0506 [] 1 1 false doHarvestStatus r s)

end Sys2Proof.Machine
end

