-- ==== Sys2Proof/Machine/Areas.lean ====
section
/-! DEFINITION. Reserved areas of the Cellar (R334): what a commit's sets ask for, where it is placed, and what its application releases. -/

namespace Sys2Proof.Machine

/-- Visible MiB of an internal base address. -/
def mibOf (base : Nat) : Nat := (base - cellarLo) / 2 ^ 20

/-- What a set asks for: base address (0: allocated by the device) and MiB. -/
abbrev Want := AreaKind × Option (Nat × Nat)

/-- The corner-turn area of an engine (R182), wanted while a stream of it is enabled. -/
def wantCt (set : List (BlockId × List Word)) (f : Fe) : Want :=
  let fi := getBlk set (bid 0x13 f.val)
  (.ct f, if (feStreams set f).isEmpty then none
    else some (bf fi 1 0 40, bf fi 0 0 4 * tilesOf (nChOf (getBlk set (bid 0x11 f.val)))))

/-- The queue of a stream, wanted while it is enabled. -/
def wantQueue (set : List (BlockId × List Word)) (n : StreamId) : Want :=
  let b := getBlk set (bid 0x14 n.val)
  (.queue n, if stEn b then some (bf b 4 0 40, stQueueMib b) else none)

/-- The thermal sums of an engine (R227): 32 bytes a bin and 16 a fused channel. -/
def wantTherm (set : List (BlockId × List Word)) (f : Fe) : Want :=
  let b := getBlk set (bid 0x30 f.val)
  (.therm f, if bfb b 0 0 then some (0, ceilDiv (32 * bf b 2 0 17 + 16 * fusedCount b) (2 ^ 20)) else none)

/-- The region of a capture unit (R249). -/
def wantHarvest (set : List (BlockId × List Word)) (u : Fin 4) : Want :=
  let b := getBlk set (bid 0x40 u.val)
  (.harvest u, some (bf b 5 0 40, hvMib b))

/-- Everything the shadows of a commit's domains ask for. -/
def wantsOf (s : State) (doms : BitVec 6) : List Want :=
  let sh := s.params.shadow
  let fes := (List.finRange 4).filter fun f => doms.getLsbD f.val
  fes.map (wantCt sh) ++
  (((List.finRange 16).filter fun n => (enginesOf s (bid 0x14 n.val)).any fun e => doms.getLsbD e).map (wantQueue sh)) ++
  fes.map (wantTherm sh) ++
  (if doms.getLsbD 5 then (List.finRange 4).map (wantHarvest sh) else [])

/-- Something of a releasing area is still needed (R334). -/
def areaNeeded (s : State) (a : Area) : Bool :=
  match a.kind with
  | .ct f =>
    let inside := fun (b : Nat) => decide (a.baseMib * 2 ^ 20 ≤ b) && decide (b < (a.baseMib + a.sizeMib) * 2 ^ 20)
    (match s.fe[f].band with | some b => inside b.base | none => false) || s.fe[f].closed.any (fun b => inside b.base) ||
      s.stream.toList.any fun x => x.queue.any fun r => match r.direct with | some (b, _) => inside b | none => false
  | .queue st => !s.stream[st].queue.isEmpty
  | .therm _ => false
  | .harvest u => captureHeld s.harv[u] && s.harv[u].base = a.baseMib * 2 ^ 20

/-- Let go of the areas whose release has taken effect. -/
def sweepAreas (s : State) : State :=
  { s with cellar := { s.cellar with areas := s.cellar.areas.filter fun a => !a.releasing || areaNeeded s a } }

/-- The area in force already serves a want. -/
def servedBy (a : Area) (base size : Nat) : Bool :=
  a.sizeMib = size && (if base = 0 then !a.fixed else a.baseMib = mibOf base)

/-- Place one want among the areas: with a given base in the visible Cellar over no other reserved area, or first fit (R334). -/
def placeWant (s : State) (areas : Option (List Area)) (w : Want) : Option (List Area) :=
  match areas, w.2 with
  | none, _ => none
  | some l, none => some l
  | some l, some (base, size) =>
    match l.find? fun a => a.kind = w.1 && !a.pending && !a.releasing with
    | some a => if servedBy a base size then some l else put l base size
    | none => put l base size
where
  put (l : List Area) (base size : Nat) : Option (List Area) :=
    if base = 0 then
      match firstFit s l size with
      | some b => some (l ++ [⟨w.1, b, size, false, true, false⟩])
      | none => none
    else if cellarLo ≤ base && mibFree s (l.filter fun a => a.kind ≠ w.1) (mibOf base) size then
      some (l ++ [⟨w.1, mibOf base, size, true, true, false⟩])
    else none

/-- The areas after a COMMIT of some domains reserves what its shadows ask for, given bases first; none where it does not fit. -/
def planAreas (s : State) (doms : BitVec 6) : Option (List Area) :=
  let ws := wantsOf s doms
  let given := fun (w : Want) => match w.2 with | some (b, _) => decide (b ≠ 0) | none => false
  (ws.filter given ++ ws.filter (fun w => !given w)).foldl (placeWant s) (some s.cellar.areas)

/-- Data of a replaced area with a given base that the new extent covers is lost (R334): unread bands, and records that wait, are dropped whole. -/
def loseOverlap (k : AreaKind) (s : State) : State :=
  let new := s.cellar.areas.find? fun a => a.kind = k && a.pending && a.fixed
  let old := s.cellar.areas.find? fun a => a.kind = k && !a.pending && !a.releasing
  match new, old with
  | some n, some o =>
    if overlaps n.baseMib n.sizeMib o.baseMib o.sizeMib then
      match k with
      | .ct f =>
        let s1 := s.fe[f].closed.foldl (fun s b => b.jobs.foldl (fun s j =>
          (List.range (tilesOf b.nch)).foldl (fun s m =>
            if stFirst j.set < 512 * (m + 1) && decide (512 * m < stFirst j.set + stCount j.set) then
              dropNew j.st m (s.updStream j.st fun x => { x with rseq := x.rseq + 1 }) else s) s) s) s
        s1.updFe f fun x => { x with closed := [], tile := 0 }
      | .queue st =>
        dropRecs st [] (fun r => if r.begun then 0 else 1) s
      | _ => s
    else s
  | _, _ => s

/-- The application of an engine's commit to its areas: the streams that name the engine in the set now active. -/
def areasApply (f : Fe) (s : State) : State :=
  let act := s.params.active
  let one := fun (w : Want) (s : State) => areaSwitch w.1 w.2.isSome (loseOverlap w.1 s)
  let qs := (List.finRange 16).filter fun n => streamFe (getBlk act (bid 0x14 n.val)) = f.val && !s.stream[n].moving
  let s1 := one (wantTherm act f) (one (wantCt act f) s)
  sweepAreas (qs.foldl (fun s n => one (wantQueue act n) s) s1)

end Sys2Proof.Machine
end

