-- ==== Sys2Proof/Machine/Maths.lean ====
section
/-! DEFINITION. Logarithm and exponential in fixed point with 100 fraction bits, for the formulas of 9.3, 9.5 and Table 15.4. -/

namespace Sys2Proof.Machine

/-- The fixed-point unit. -/
def fx : Int := 2 ^ 100

/-- Terms of atanh y, y in units of `fx`: `p` is the present odd power and `k` its exponent. -/
def atanhTerms : Nat → Int → Int → Nat → Int
  | 0, _, _, _ => 0
  | n + 1, p, y2, k => Int.fdiv p k + atanhTerms n (Int.fdiv (p * y2) fx) y2 (k + 2)

/-- atanh of num / den, |num / den| ≤ 1/3. -/
def atanhFx (num : Int) (den : Nat) : Int :=
  let y := Int.fdiv (num * fx) den
  atanhTerms 40 y (Int.fdiv (y * y) fx) 1

/-- ln 2. -/
def ln2Fx : Int := 2 * atanhFx 1 3

/-- ln (num / den) for positive operands. -/
def lnFx (num den : Nat) : Int :=
  let e : Int := (Nat.log2 num : Int) - Nat.log2 den
  let a := if 0 ≤ e then num else num * 2 ^ e.natAbs
  let b := if 0 ≤ e then den * 2 ^ e.natAbs else den
  e * ln2Fx + 2 * atanhFx ((a : Int) - b) (a + b)

/-- Terms of exp (-x), x in units of `fx`. -/
def expTerms : Nat → Int → Int → Nat → Int
  | 0, _, _, _ => 0
  | n + 1, t, x, k => t + expTerms n (Int.fdiv (-(t * x)) (fx * k)) x (k + 1)

/-- exp (-num / den). -/
def expNeg (num den : Nat) : Int := expTerms 60 fx (Int.fdiv (num * fx) den) 1

end Sys2Proof.Machine
end

