-- ==== Sys2Proof/Machine/AuxFront.lean ====
section
/-! DEFINITION. The auxiliary measurement front end (15): conversions, results and curves, sequencer, wire break, interlocks, calibration
commands and the aux opcodes. Voltages of conversions are given after the corrections of R391. -/

namespace Sys2Proof.Machine

/-! ## Converter (R375, R376) -/

/-- 2.048 V in nV. -/
def vRef : Int := 2048000000
/-- FS in nV at a gain code (×1, ×4, ×16, ×64). -/
def fsNv (gain : Nat) : Int := vRef / 4 ^ gain

/-- The code of a voltage and whether it overranges (R375). -/
def auxCode (gain : Nat) (v : Int) : Nat × Bool :=
  let fs := fsNv gain
  if v < -fs then (0, true)
  else if fs * 2047 ≤ v * 2048 then (4095, true)
  else ((clamp 0 4095 (roundEven (2048 * fs + 2048 * v) fs.toNat)).toNat, false)

/-- What a conversion adds to its result, in 2^-20 LSB: its code, or with dither the voltage itself (R379). -/
def auxAdd (ovs gain : Nat) (v : Int) : Nat :=
  let (c, o) := auxCode gain v
  if o || ovs < 6 then c * 2 ^ 20 else (roundEven ((2048 * fsNv gain + 2048 * v) * 2 ^ 20) (fsNv gain).toNat).toNat

/-! ## Curves (R378, R384) -/

/-- R / R0 of IEC 60751 at m m°C, ×10^27. -/
def ptRatio (m : Int) : Int :=
  10 ^ 27 + 39083 * m * 10 ^ 17 - 5775 * m * m * 10 ^ 11 - (if m < 0 then 4183 * (m - 100000) * m * m * m else 0)

/-- The least m in [lo, lo + 2^k) whose ratio is at least num / den (the ratio rises over the range). -/
def ptSearch : Nat → Int → Int → Nat → Int
  | 0, lo, _, _ => lo
  | k + 1, lo, num, den => if num * 10 ^ 27 ≤ ptRatio (lo + 2 ^ k - 1) * den then ptSearch k lo num den else ptSearch k (lo + 2 ^ k) num den

/-- Temperature of a platinum resistance num / den times its nominal, to the nearest m°C; none outside −200 to 850 °C. -/
def ptTemp (num : Int) (den : Nat) : Option Int :=
  if num * 10 ^ 27 < ptRatio (-200000) * den || ptRatio 850000 * den < num * 10 ^ 27 then none
  else
    let m := ptSearch 21 (-200000) num den
    some (if -200000 < m && 2 * num * 10 ^ 27 < (ptRatio m + ptRatio (m - 1)) * den then m - 1 else m)

/-- Temperature of an NTC by Steinhart–Hart, resistance num / den in mΩ; none outside 0.1 Ω to 2 MΩ and −55 to 250 °C. -/
def ntcTemp (b : List Word) (num : Int) (den : Nat) : Option Int :=
  if num < 100 * den || 2000000000 * (den : Int) < num then none
  else
    let l := lnFx num.toNat (1000 * den)
    let inv := bfs b 6 0 32 * fx + bfs b 7 0 32 * l + bfs b 8 0 32 * Int.fdiv (Int.fdiv (l * l) fx * l) fx
    if inv ≤ 0 then none
    else
      let t := roundEven (1000 * fx * 2 ^ 40) inv.toNat - 273150
      if t < -55000 || 250000 < t then none else some t

/-- Add the linearisation's deviation, at most ±10 m°C (R384). -/
def withDev (seed : Nat) : Option Int → Option Int
  | some t => some (t + clamp (-10) 10 (Config.curveDev seed))
  | none => none

/-- VALUE from a voltage vn / vd in nV (MUX 0, 1) or a resistance (MUX 2) by the curve of the set. -/
def curveValue (seed : Nat) (b : List Word) (cold : Int) (n : Int) (d : Nat) : Option Int :=
  let c := axCurve b
  if axMux b = 2 then
    if c = 0 then (let r := roundEven n d; if 0 ≤ r && r ≤ 2147483647 then some r else none)
    else if c = 1 then withDev seed (ptTemp n (100000 * d))
    else if c = 2 then withDev seed (ptTemp n (1000000 * d))
    else if c = 0x20 then withDev seed (ntcTemp b n d)
    else none
  else if c = 0 then some (roundEven n d)
  else Config.thermocouple c (roundEven n d + Config.junctionEmf c cold)

/-- The corrected current of a source in nA, as a fraction (R377, R378). -/
def excCurrent (s : State) (j : Nat) : Nat × Nat :=
  let base := sqExc (seqBlk s) j * 1000
  let corr : Int := 2 ^ 24 + (wordAt s.vint.force (13 + j)).toInt
  let (m, n) := (s.aux.sysCur.toList.getD j none).getD (1, 1)
  (base * corr.toNat * m, 2 ^ 24 * n)

/-- The resistance of R378 from a voltage vn / vd in nV, in mΩ; none is a RATIO_FAULT. -/
def auxOhms (s : State) (b : List Word) (vn : Int) (vd : Nat) : Option (Int × Nat) :=
  if axRatio b then
    let x := (s.aux.inp.toList.getD (axRatioIn b) {}).latest
    let w1 := wordAt x 1
    let vr := (wordAt x 0).toInt
    if w1.getLsbD 18 || w1.getLsbD 19 || vr ≤ 0 then none else some (bf b 2 0 32 * vn, vd * vr.toNat)
  else
    let (i, k) := excCurrent s (axExc b)
    some (vn * 1000 * k, vd * max 1 i)

/-- Form the result of a slot whose last conversion has ended (R379, R382-R385). -/
def formResult (s : State) (c : AuxSlot) (sampled endAt : Nat) : AuxRes × State :=
  let (seed, s1) := s.seed
  let n := max 1 c.n
  let dev : Int := if 6 ≤ axOver c.set && !c.ovr then clamp (-104857) 104857 (Config.ditherDev seed) * n else 0
  let sum : Int := (c.sum : Int) + dev
  let mean16 := (clamp 0 65520 (roundEven (sum * 16) (n * 2 ^ 20))).toNat
  let vn := (sum - 2048 * 2 ^ 20 * n) * fsNv c.gain
  let vd := 2048 * 2 ^ 20 * n
  let die := s.vint.used[13]
  let mux := axMux c.set
  let (fault, value) :=
    if mux = 3 then (false, if -40000 ≤ die && die ≤ 125000 then some die else none)
    else if mux = 2 then (match auxOhms s c.set vn vd with
      | some (a, d) => (false, curveValue seed c.set die a d)
      | none => (true, none))
    else (false, curveValue seed c.set die vn vd)
  let code := if mux = 3 then (Config.freeWord seed 374).toNat % 65536 else mean16
  (⟨if mux = 2 then sampled + 10000000 else endAt, sampled, c.began, c.set, c.gain, code, c.ovr, fault, value, c.time, c.holdover, c.calNone, c.inserted⟩, s1)

/-- The gain of the input's next result after the result of a slot (R386). -/
def nextGain (c : AuxSlot) (x : AuxIn) : AuxIn × Bool :=
  if !axAuto c.set || axMux c.set = 3 then (x, false)
  else
    let full : Nat := 2048 * 2 ^ 20 * c.n
    let dev := ((c.sum : Int) - (full : Int)).natAbs
    if c.ovr || 19 * full < 20 * dev then
      if x.gain = 0 then ({ x with low := 0 }, false) else ({ x with gain := x.gain - 1, low := 0 }, true)
    else if 5 * dev < full then
      if x.low + 1 < 4 then ({ x with low := x.low + 1 }, false)
      else if x.gain = 3 then ({ x with low := 4 }, false) else ({ x with gain := x.gain + 1, low := 0 }, true)
    else ({ x with low := 0 }, false)

/-! ## Sequencer (R379-R381, R385) -/

def State.updAux (s : State) (f : AuxSt → AuxSt) : State := { s with aux := f s.aux }
def State.updInp (s : State) (i : AuxId) (f : AuxIn → AuxIn) : State := s.updAux fun a => { a with inp := a.inp.set i (f a.inp[i]) }

/-- Begin a slot's conversions at an instant, or later where its source has changed within 20 µs (R377); aux trims change here (R404). -/
def beginSlot (i : AuxId) (inserted : Bool) (at_ : Nat) (s0 : State) : State :=
  let s := s0.trimPoint auxTrims
  let b := auxBlk s i
  let at1 := if axMux b = 2 then max at_ (s.aux.excAt.toList.getD (axExc b) 0 + 20000000) else at_
  s.updAux fun a => { a with
    cur := some ⟨i, b, a.inp[i].gain, 0, 0, false, at1, s.time.at (at1 + 350000), s.time.holdover, !a.selfValid, a.discard, inserted⟩
    convAt := at1, discard := false, discards := if a.discard then addSat a.discards 1 else a.discards }

/-- The slot that follows: an inserted one, the cycle's next, or the end of the cycle (R381, R395). -/
def nextSlot (at_ : Nat) (s : State) : State :=
  match s.aux.ins with
  | i :: r => beginSlot i true at_ (s.updAux fun a => { a with ins := r })
  | [] => match s.aux.todo with
    | i :: r => beginSlot i false at_ (s.updAux fun a => { a with todo := r })
    | [] => (s.updAux fun a => { a with cur := none, cycle := false }).localPoint [bid 0x91 0]

/-- A start of a cycle, counted where one runs (R379, R380). -/
def cycleStart (at_ : Nat) (s : State) : State :=
  if s.aux.cycle || s.aux.cur.isSome then s.updAux fun a => { a with missed := addSat a.missed 1 }
  else nextSlot at_ (s.updAux fun a => { a with cycle := true, todo := sqInputs (seqBlk s) })

/-- AUX_CYCLE_START (R379): at once, at the timer, or at a probe instant. -/
def execAuxCycleStart (s : State) : Host.Outcome State Fault Refusal :=
  let b := seqBlk s
  if !seqRuns s then ok s
  else match sqStart b with
    | 1 => if s.aux.cycle || s.aux.cur.isSome then ok s else ok (cycleStart s.time.clk s)
    | 2 =>
      let t := s.aux.timerAt + bf b 1 0 24 * 1000000
      let s1 := s.goTo t
      ok (cycleStart s1.time.clk (s1.updAux fun a => { a with timerAt := t }))
    | 4 => match s.aux.probeDue with
      | t :: r => let s1 := s.goTo t; ok (cycleStart s1.time.clk (s1.updAux fun a => { a with probeDue := r }))
      | [] => ok s
    | _ => ok s

/-- AUX_CONVST_EDGE (R379): the first sampling phase begins 100 ns after the edge. -/
def execAuxConvstEdge (falling : Bool) (s : State) : Host.Outcome State Fault Refusal :=
  let b := seqBlk s
  if seqRuns s && sqStart b = 3 && falling = bfb b 0 3 then ok (cycleStart (s.time.clk + 100000) s) else ok s

/-- AUX_CONVERSION_END (R376): the conversion in progress ends with the code of the voltage sampled. -/
def execAuxConversionEnd (volts : Int) (s : State) : Host.Outcome State Fault Refusal :=
  match s.aux.cur with
  | none => ok s
  | some c =>
    if syscalRuns s then ok s
    else
      let at0 := s.aux.convAt
      let s := s.goTo (at0 + 1000000)
      let next := at0 + (if halfRate s then 2000000 else 1000000)
      if c.discard then
        ok (s.updAux fun a => { a with
          convAt := next, cur := some { c with discard := false, began := next, time := s.time.at (next + 350000), holdover := s.time.holdover } })
      else
        let o := axMux c.set ≠ 3 && (auxCode c.gain volts).2
        let c1 := { c with n := c.n + 1, sum := c.sum + auxAdd (axOver c.set) c.gain volts, ovr := c.ovr || o }
        if c1.n < 2 ^ axOver c.set then ok (s.updAux fun a => { a with convAt := next, cur := some c1 })
        else
          let (r, s1) := formResult s c1 (at0 + 350000) (at0 + 1000000)
          let (x, changed) := nextGain c1 s1.aux.inp[c.input]
          let s2 := s1.updAux fun a => { a with
            inp := a.inp.set c.input { x with wait := x.wait ++ [r] }, discard := r.ovr, cur := none
            ranges := if changed then addSat a.ranges 1 else a.ranges }
          ok (nextSlot next (s2.localPoint [bid 0x90 c.input.val]))

/-! ## Release (R382, R388, R390) -/

/-- The source was in break state between two instants (R388). -/
def brokenIn (s : State) (j lo hi : Nat) : Bool :=
  (match s.aux.brk.toList.getD j none with | some t => decide (t ≤ hi) | none => false) ||
    (match s.aux.brkPast.toList.getD j none with | some (a, b) => decide (a ≤ hi) && decide (lo ≤ b) | none => false)

/-- The four words of a result (Table 15.3). -/
def resultWords (r : AuxRes) (brk : Bool) (rseq : Byte) : List Word :=
  let v := if brk || r.ratioFault then none else r.value
  [match v with | some x => Word.ofInt x | none => 0x80000000,
    BitVec.ofNat 32 ((if brk then 0xFFF0 else r.code16) + 65536 * r.gain + 2 ^ 18 * r.ovr.toNat + 2 ^ 19 * brk.toNat +
      2 ^ 20 * r.ratioFault.toNat + 2 ^ 21 * r.holdover.toNat + 2 ^ 22 * r.calNone.toNat + 2 ^ 24 * rseq.toNat)] ++ split64 r.time

/-- The interlock switch of a released result (R390): trip, release, event on vector 39. -/
def interlock (i : AuxId) (r : AuxRes) (brk : Bool) (s : State) : State :=
  let b := r.set
  if !axIntlk b then s
  else
    let x := s.aux.inp[i]
    let lowSide := bfb b 3 3
    let th := bfs b 4 0 32
    let rel := bfs b 5 0 32
    let trip := brk || r.ratioFault || (match r.value with | some v => if lowSide then decide (v < th) else decide (th < v) | none => false)
    let clear := !brk && !r.ratioFault && (match r.value with | some v => if lowSide then decide (rel < v) else decide (v < rel) | none => false)
    let ev := fun (s : State) => if bfb (seqBlk s) 6 0 then s.raise vecAux else s
    if trip then
      let s1 := s.updInp i fun x => { x with tripped := true, freed := !bfb b 3 4 }
      refreshIntlk (if x.tripped then s1 else ev s1)
    else if x.tripped && clear && (x.freed || !bfb b 3 4) then refreshIntlk (ev (s.updInp i fun x => { x with tripped := false }))
    else s

/-- The latest results of a mask, ascending (Table 15.9). -/
def auxWords (s : State) (mask : BitVec 16) : List Word :=
  ((List.finRange 16).filter fun i => mask.getLsbD i.val).flatMap fun i => s.aux.inp[i].latest

/-- AUX_READ with CONVERT answers once every named input has released its converted result (R381, R399). -/
def auxReadDone (i : AuxId) (s : State) : State :=
  s.proto.ops.foldl (fun s o => match o.kind with
    | .auxRead mask left =>
      if left.getLsbD i.val then
        let left1 := left ^^^ ((1 : BitVec 16) <<< i.val)
        if left1 = 0 then s.finish o stOk 0 (auxWords s mask)
        else { s with proto := { s.proto with ops := s.proto.ops.map fun p => if p = o then { p with kind := .auxRead mask left1 } else p } }
      else s
    | _ => s) s

/-- The thermal profilers see a released result (R230, R382). -/
def auxToTherm (x : AuxSample) (s : State) : State :=
  (List.finRange 4).foldl (fun s f =>
    if bfb (s.act 0x30 f.val) 0 0 then s.updTherm f fun t => { t with aux := t.aux ++ [x] } else s) s

/-- AUX_RESULT_RELEASE (R382): the oldest result of the input that waits becomes its latest. -/
def execAuxResultRelease (i : AuxId) (s : State) : Host.Outcome State Fault Refusal :=
  match s.aux.inp[i].wait with
  | [] => ok s
  | r :: rest =>
    let s := s.goTo r.due
    let brk := axMux r.set = 2 && brokenIn s (axExc r.set) r.began r.sampled
    let x := s.aux.inp[i]
    let s1 := s.updAux fun a => { a with
      inp := a.inp.set i { x with latest := resultWords r brk x.rseq, rseq := x.rseq + 1, wait := rest }
      ovrs := if r.ovr then addSat a.ovrs 1 else a.ovrs, brks := if brk then addSat a.brks 1 else a.brks }
    let s2 := if r.ovr && bfb (seqBlk s) 6 2 then s1.raise vecAux else s1
    let s3 := auxToTherm ⟨i, r.time, if brk || r.ratioFault then none else r.value, r.ovr || brk⟩ s2
    let s4 := interlock i r brk s3
    ok (if r.inserted then auxReadDone i s4 else s4)

/-- EXCITATION_BREAK (R387): the source enters break state. -/
def execExcitationBreak (j : Fin 4) (s : State) : Host.Outcome State Fault Refusal :=
  if (s.aux.brk[j]).isSome then ok s
  else
    let s1 := s.updAux fun a => { a with brk := a.brk.set j (some s.time.clk) }
    ok (if bfb (seqBlk s) 6 1 then s1.raise vecAux else s1)

/-- EXCITATION_BREAK_CLEAR (R387): 100 µs without a report. -/
def execExcitationBreakClear (j : Fin 4) (s : State) : Host.Outcome State Fault Refusal :=
  match s.aux.brk[j] with
  | some t => ok (s.updAux fun a => { a with brk := a.brk.set j none, brkPast := a.brkPast.set j (some (t, s.time.clk)) })
  | none => ok s

/-! ## Calibration and test (R392-R395) -/

/-- A calibration or test command, VINTAGE_STORE, or a Taster aux check is running (R395, R412, R462). -/
def calRuns (s : State) : Bool :=
  s.proto.ops.any fun o => match o.kind with
    | .auxCal _ _ _ | .devCal _ _ _ | .vintageStore _ => true
    | _ => false

/-- One of them, or the Taster's aux check, keeps the aux calibrations out (R462, Table 15.5). -/
def auxBusy (s : State) : Bool := calRuns s || (match s.taster.run with | some run => decide (run.test = 5) | none => false)

/-- Start a command that AUX_CAL_COMPLETE ends; system calibration drops the running cycle and the pins (R393). -/
def startAuxCal (r : Req) (kind : OpKind) (s : State) : Res :=
  let s1 := s.addOp r kind true
  let s2 := if syscalRuns s1 then s1.updAux fun a => { a with cur := none, todo := [], cycle := false } else s1
  Res.rep stPending 0 [] (refreshIntlk s2)

/-- AUX_SELFCAL (R392). -/
def doAuxSelfcal (r : Req) (s : State) : Res :=
  if auxBusy s then Res.rep stBusy 0 [] s else startAuxCal r (.auxCal 0x0902 0 0) s

/-- AUX_SELFCAL (R392). -/
def execAuxSelfcal (r : Req) (s : State) : Host.Outcome State Fault Refusal := ok (runOp 0x0902 [] 0 0 false doAuxSelfcal r s)

/-- V_CAL lies within 0.50–0.95 FS of every gain of a mask (R393). -/
def inCalWindow (mask : Nat) (v : Int) : Bool :=
  (List.range 4).all fun g => !mask.testBit g || (fsNv g ≤ 2 * v && 100 * v ≤ 95 * fsNv g)

/-- What the payload of AUX_SYSCAL and CAL_AUX must hold (Table 15.9): none, or the refusal's DETAIL. -/
def syscalBad (r : Req) : Option Nat :=
  let w0 := wordAt r.payload 0
  let w1 := wordAt r.payload 1
  let step := wbits w0 0 2
  if rsvdBad r 0 0x1FF || step = 3 then some 0
  else if step = 0 && w1 ≠ 0 then some 1
  else if step = 1 && !inCalWindow (wbits w0 2 4) w1.toNat then some 0xFF90
  else none

/-- AUX_SYSCAL (R393). -/
def doAuxSyscal (r : Req) (s : State) : Res :=
  match syscalBad r with
  | some d => Res.bad d s
  | none => if auxBusy s then Res.rep stBusy 0 [] s else startAuxCal r (.auxCal 0x0903 (wordAt r.payload 0) (wordAt r.payload 1)) s

/-- AUX_SYSCAL (R393). -/
def execAuxSyscal (r : Req) (s : State) : Host.Outcome State Fault Refusal := ok (runOp 0x0903 [] 2 2 false doAuxSyscal r s)

/-- AUX_TEST (R394). -/
def doAuxTest (r : Req) (s : State) : Res :=
  if rsvdBad r 0 0xF then Res.bad 0 s
  else if auxBusy s then Res.rep stBusy 0 [] s else startAuxCal r (.auxCal 0x0904 (wordAt r.payload 0) 0) s

/-- AUX_TEST (R394). -/
def execAuxTest (r : Req) (s : State) : Host.Outcome State Fault Refusal := ok (runOp 0x0904 [] 1 1 false doAuxTest r s)

/-- Offset and gain of a gain code in one word. -/
def factWord (m : AuxMeasure) (g : Fin 4) : Word := (BitVec.ofInt 16 m.gain[g]) ++ (BitVec.ofInt 16 m.ofs[g])

/-- The gains of a mask. -/
def gainsOf (mask : Nat) : List (Fin 4) := (List.finRange 4).filter fun g => mask.testBit g.val

/-- The result words of a calibration step: per gain in the mask, or the current (Table 15.9). -/
def stepWords (m : AuxMeasure) (w0 : Word) : List Word :=
  if wbits w0 0 2 = 2 then [BitVec.ofNat 32 m.currentNa] else (gainsOf (wbits w0 2 4)).map (factWord m)

/-- System-calibration factors written by a step with WRITE = 1 (R393). -/
def writeSyscal (m : AuxMeasure) (w0 : Word) (s : State) : State :=
  let gs := gainsOf (wbits w0 2 4)
  match wbits w0 0 2 with
  | 0 => s.updAux fun a => { a with sys := { a.sys with ofs := gs.foldl (fun (v : Vector Int 4) (g : Fin 4) => v.set g m.ofs[g]) a.sys.ofs } }
  | 1 => s.updAux fun a => { a with sys := { a.sys with gain := gs.foldl (fun (v : Vector Int 4) (g : Fin 4) => v.set g m.gain[g]) a.sys.gain } }
  | _ =>
    let j : Fin 4 := ⟨wbits w0 6 2, by unfold wbits bitsOf; exact Nat.mod_lt _ (by decide)⟩
    let nom := sqExc (seqBlk s) j.val * 1000
    s.updAux fun a => { a with sysCur := a.sysCur.set j (if nom = 0 then none else some (m.currentNa, nom)) }

/-- AUX_CAL_COMPLETE (R392-R394). -/
def execAuxCalComplete (m : AuxMeasure) (s : State) : Host.Outcome State Fault Refusal :=
  match s.opWhere fun k => match k with | .auxCal _ _ _ => true | _ => false with
  | none => ok s
  | some o => match o.kind with
    | .auxCal op w0 _ =>
      if op = 0x0902 then
        let s1 := s.updAux fun a => { a with self := ⟨m.ofs, m.gain⟩, selfValid := true, selfTime := s.now }
        ok (refreshIntlk ((s1.finish o stOk 0 ((List.finRange 4).map (factWord m))).raise vecAux))
      else if op = 0x0903 then
        let s1 := if w0.getLsbD 8 then writeSyscal m w0 s else s
        ok (refreshIntlk ((s1.finish o stOk 0 (stepWords m w0)).raise vecAux))
      else
        let pass := (gainsOf (wbits w0 0 4)).filter fun g => (m.testErr[g]).natAbs ≤ 64
        let ws := [BitVec.ofNat 32 ((pass.map fun g => 2 ^ g.val).foldl (· + ·) 0)] ++
          (List.finRange 4).map fun g => if (wbits w0 0 4).testBit g.val then Word.ofInt m.testErr[g] else 0
        ok ((s.finish o stOk 0 ws).raise vecAux)
    | _ => ok s

/-! ## Opcodes (Table 15.9) -/

/-- AUX_READ (R381, R399). -/
def doAuxRead (r : Req) (s : State) : Res :=
  let w0 := wordAt r.payload 0
  let mask : BitVec 16 := w0.extractLsb' 0 16
  let ins := (List.finRange 16).filter fun i => mask.getLsbD i.val
  let conv := w0.getLsbD 16
  let b := seqBlk s
  if rsvdBad r 0 0x1FFFF || ins.any fun i => !axEn (auxBlk s i) then Res.bad 0 s
  else if r.via = .smbus && 14 < ins.length then Res.rep stBadLength 59 [] s
  else if !conv || ins.isEmpty then Res.ok (auxWords s mask) s
  else if sqStart b = 0 && ins.any fun i => !(sqInputs b).contains i then Res.bad 0xFF91 s
  else if syscalRuns s then Res.rep stBusy 0 [] s
  else
    let s1 := (s.addOp r (.auxRead mask mask) false).updAux fun a => { a with ins := a.ins ++ ins }
    Res.later (if s1.aux.cur.isSome then s1 else nextSlot s1.time.clk s1)

/-- AUX_READ (R381). -/
def execAuxRead (r : Req) (s : State) : Host.Outcome State Fault Refusal := ok (runOp 0x0901 [] 1 1 false doAuxRead r s)

/-- AUX_INTLK_RESET (R390): latched switches of the named pins may release at their next result that allows it. -/
def doAuxIntlkReset (r : Req) (s : State) : Res :=
  if rsvdBad r 0 0xF then Res.bad 0 s
  else Res.ok [] ((List.finRange 16).foldl (fun s i =>
    if axIntlk (auxBlk s i) && (wordAt r.payload 0).getLsbD (axPin (auxBlk s i)) then s.updInp i fun x => { x with freed := true } else s) s)

/-- AUX_INTLK_RESET (R390). -/
def execAuxIntlkReset (r : Req) (s : State) : Host.Outcome State Fault Refusal := ok (runOp 0x0905 [] 1 1 false doAuxIntlkReset r s)

/-- AUX_STATUS (Table 15.9); its counters clear as they are read. -/
def doAuxStatus (_ : Req) (s : State) : Res :=
  let a := s.aux
  let latched := fun (p : Nat) => (List.finRange 16).any fun i =>
    axIntlk (auxBlk s i) && axPin (auxBlk s i) = p && bfb (auxBlk s i) 3 4 && a.inp[i].tripped
  let selfRuns := s.proto.ops.any fun o => match o.kind with | .auxCal op _ _ => op = 0x0902 | _ => false
  let w1 := a.pins.toNat + (((List.range 4).filter latched).map fun p => 2 ^ (4 + p)).foldl (· + ·) 0 + 256 * (seqRuns s).toNat +
    512 * selfRuns.toNat + 1024 * (syscalRuns s).toNat + 2048 * a.selfValid.toNat +
    (((List.finRange 4).filter fun j => a.brk[j].isSome).map fun j => 2 ^ (12 + j.val)).foldl (· + ·) 0
  Res.ok ([BitVec.ofNat 32 w1, a.missed, a.discards, a.ovrs, a.brks, a.ranges] ++ split64 a.selfTime ++ [Word.ofInt s.vint.used[12]])
    (s.updAux fun a => { a with missed := 0, discards := 0, ovrs := 0, brks := 0, ranges := 0 })

/-- AUX_STATUS (R399). -/
def execAuxStatus (r : Req) (s : State) : Host.Outcome State Fault Refusal := ok (runOp 0x0906 [] 0 0 false doAuxStatus r s)

/-- Abort by SEQUENCE an operation of some kind and the session's own (R63, R64); after it completed COMPLETED_BEFORE_ABORT, else COMMIT_UNKNOWN. -/
def abortOp (codes : List (BitVec 16)) (mine : OpKind → Bool) (undo : Op → State → State) (r : Req) (s : State) : Res :=
  let q := wordAt r.payload 0
  match s.findOp r.sess q with
  | some o => if mine o.kind then Res.ok [] (undo o (s.finish o stAborted 0 [])) else Res.bad dtUnknown s
  | none => if s.wasCompleted r.sess q codes then Res.rep stCompleted 0 [] s else Res.bad dtUnknown s

/-- AUX_CAL_ABORT (R399). -/
def execAuxCalAbort (r : Req) (s : State) : Host.Outcome State Fault Refusal :=
  ok (runOp 0x0907 [] 1 1 false
    (abortOp [0x0902, 0x0903, 0x0904] (fun k => match k with | .auxCal _ _ _ => true | _ => false) fun _ s => refreshIntlk s) r s)

end Sys2Proof.Machine
end

