-- ==== Sys2Proof/Machine/CellarOps.lean ====
section
/-! DEFINITION. The Cellar opcodes of group 0x07 (13.9-13.11): training, pattern and comparator, set-point switches and status. -/

namespace Sys2Proof.Machine

/-- CELLAR_IN_USE, TRAIN_FAILED, FSP_UNTRAINED (Table 13.11). -/
def dtCellarInUse : Nat := 0xFF70
def dtTrainFailed : Nat := 0xFF71
def dtFspUntrained : Nat := 0xFF72

/-- A ring's channel moves Cellar data: a stream or capture record in progress, or a bulk descriptor begun whose DEV_ADDR lies in the
visible Cellar (R338). -/
def ringCellar (r : Ring) : Bool :=
  (match r.cur with | some (i, _) => i.tag = 3 || i.tag = 4 | none => false) ||
  match r.descs with
  | d :: _ => (decide (0 < r.done) || !r.reads.isEmpty || !r.gathered.isEmpty) && decide (cellarLo ≤ bf d.toList 4 0 40)
  | [] => false

/-- A Racking channel has a Cellar transfer in progress (R338, R341). -/
def cellarMoving (s : State) : Bool := s.rings.toList.any ringCellar

/-- A training command runs. -/
def trainingRuns (s : State) : Bool := s.proto.ops.any fun o => match o.kind with
  | .cellarTrain _ _ => true
  | .cellarStep _ _ _ => true
  | _ => false

/-- Milliwatts of CELLAR_TRAIN and CELLAR_TRAIN_STEP (Table 17.2). -/
def trainingMw : Nat := 1500

/-- The checks of R338 that come before admission. -/
def trainBusy (s : State) : Option Nat :=
  if trainingRuns s || s.cellar.gathering then some 0
  else if 0 < reservedNow s || cellarMoving s then some dtCellarInUse else none

/-- Gathering begins or ends. -/
def State.gather (s : State) (b : Bool) : State := { s with cellar := { s.cellar with gathering := b } }

/-- CELLAR_TRAIN (R337, R338). -/
def doCellarTrain (granted : Bool) (r : Req) (s : State) : Res :=
  let w := wordAt r.payload 0
  if rsvdBad r 0 0x7F then Res.bad 0 s
  else match trainBusy s with
    | some d => Res.rep stBusy d [] s
    | none => heavy granted r .training trainingMw id (fun s =>
        Res.rep stPending 0 [] ((s.addOp r (.cellarTrain (BitVec.ofNat 4 (wbits w 0 4)) (BitVec.ofNat 3 (wbits w 4 3))) true).gather true)) s

/-- CELLAR_TRAIN (R337). -/
def execCellarTrain (r : Req) (s : State) : Host.Outcome State Fault Refusal := ok (runOp 0x0701 [] 1 1 false (doCellarTrain false) r s)

/-- A set point of a channel is trained anew (R336): its values are what the training found, a free value. -/
def trainPoint (ch : Fin 4) (fsp : Fin 3) (s : State) : State :=
  let s1 := s.updCel ch fun c => { c with
    trained := c.trained ||| ((1 : BitVec 3) <<< fsp.val)
    values := c.values.set fsp ((List.range 36).map fun i => Config.freeWord s.free (1300 + i)) }
  { s1 with free := s.free + 1 }

/-- The channel and set-point pairs of masks, channels first, each ascending. -/
def trainPairs (chans : BitVec 4) (fsps : BitVec 3) : List (Fin 4 × Fin 3) :=
  ((List.finRange 4).filter fun c => chans.getLsbD c.val).flatMap fun c =>
    ((List.finRange 3).filter fun f => fsps.getLsbD f.val).map fun f => (c, f)

/-- Nominal length of one set point's training, 90 ms, in ps (Table 13.8). -/
def trainPs : Nat := 90 * 10 ^ 9

/-- The result word of one pair (Table 13.10). -/
def trainWord (t : TrainResult) : Word :=
  BitVec.ofNat 32 (t.channel.val + 4 * t.fsp.val + 16 * t.failedStep.toNat + 256 * t.readEye.toNat + 65536 * t.writeEye.toNat)

/-- CELLAR_TRAIN_COMPLETE (R336, R337): the end of the last step of the last set point. It needs a result for every pair of the command. -/
def execCellarTrainComplete (results : List TrainResult) (s : State) : Host.Outcome State Fault Refusal :=
  match s.opWhere fun k => match k with | .cellarTrain _ _ => true | _ => false with
  | none => ok s
  | some o => match o.kind with
    | .cellarTrain chans fsps =>
      let found := (trainPairs chans fsps).filterMap fun p => results.find? fun t => t.channel = p.1 && t.fsp = p.2
      if found.length < (trainPairs chans fsps).length then ok s
      else
        let n := ((List.finRange 3).filter fun f => fsps.getLsbD f.val).length
        let s1 := s.goTo (o.start + trainPs * n)
        let s2 := (found.filter fun t => t.failedStep = 0).foldl (fun s t => trainPoint t.channel t.fsp s) s1
        let s3 := (s2.gather false).release .training
        let ws := found.map trainWord
        if found.all fun t => t.failedStep = 0 then ok (s3.finish o stOk 0 ws)
        else ok ((s3.finish o stHwFault dtTrainFailed ws).raise vecFault)
    | _ => ok s

/-- What an abort leaves (R337): each set point whose eight steps ran out keeps what they gave, its outcome a free value. -/
def trainAborted (o : Op) (s : State) : State :=
  match o.kind with
  | .cellarTrain chans fsps =>
    let whole := (s.time.clk - o.start) / trainPs
    let f := ((List.finRange 3).filter fun f => fsps.getLsbD f.val).take whole
    let pairs := (trainPairs chans fsps).filter fun p => f.contains p.2
    let s1 := pairs.foldl (fun s p =>
      if (Config.freeWord s.free 1299).getLsbD 0 then trainPoint p.1 p.2 s else { s with free := s.free + 1 }) s
    (s1.gather false).release .training
  | _ => s

/-- CELLAR_TRAIN_ABORT (R337): of the queued command too. -/
def doCellarTrainAbort (r : Req) (s : State) : Res :=
  match queuedReq s r.sess (wordAt r.payload 0) with
  | some q =>
    if q.req.opcode = 0x0701 then Res.ok [] ((s.unqueue q).answerQ q stAborted 0)
    else Res.bad dtUnknown s
  | none => abortOp [0x0701] (fun k => match k with | .cellarTrain _ _ => true | _ => false) trainAborted r s

/-- CELLAR_TRAIN_ABORT (R337). -/
def execCellarTrainAbort (r : Req) (s : State) : Host.Outcome State Fault Refusal := ok (runOp 0x0707 [] 1 1 false doCellarTrainAbort r s)

/-- CELLAR_TRAIN_STEP (R338, R342). -/
def doCellarTrainStep (granted : Bool) (r : Req) (s : State) : Res :=
  let w := wordAt r.payload 0
  let step := wbits w 2 4
  if rsvdBad r 0 0x7F || step = 0 || 8 < step then Res.bad 0 s
  else match trainBusy s with
    | some d => Res.rep stBusy d [] s
    | none => heavy granted r .training trainingMw id (fun s =>
        Res.rep stPending 0 [] ((s.addOp r
          (.cellarStep ⟨wbits w 0 2, Nat.mod_lt _ (by decide)⟩ (BitVec.ofNat 4 step) (w.getLsbD 6)) true).gather true)) s

/-- CELLAR_TRAIN_STEP (R342). -/
def execCellarTrainStep (r : Req) (s : State) : Host.Outcome State Fault Refusal := ok (runOp 0x0702 [8] 1 1 false (doCellarTrainStep false) r s)

/-- Duration of a step in ms (Table 13.8). -/
def stepMs (step : Nat) : Nat := [0, 1, 4, 2, 2, 25, 35, 15, 6].getD step 0

/-- CELLAR_TRAIN_STEP_COMPLETE (R342): a passing step with KEEP replaces the trained values of the set point in force. -/
def execCellarTrainStepComplete (res : StepResult) (s : State) : Host.Outcome State Fault Refusal :=
  match s.opWhere fun k => match k with | .cellarStep _ _ _ => true | _ => false with
  | none => ok s
  | some o => match o.kind with
    | .cellarStep ch step keep =>
      let lines := (List.range 36).map (wordAt res.lines)
      let s1 := s.goTo (o.start + stepMs step.toNat * 10 ^ 9)
      let s2 := if keep && res.pass then s1.updCel ch fun c => { c with values := c.values.set s1.cellar.fsp lines } else s1
      ok (((s2.gather false).release .training).finish o stOk 0 ((if res.pass then 1 else 0) :: lines))
    | _ => ok s

/-- The channel of payload word 0. -/
def celOf (r : Req) : Fin 4 := ⟨wbits (wordAt r.payload 0) 0 2, Nat.mod_lt _ (by decide)⟩

/-- CELLAR_PATTERN (R335). -/
def doCellarPattern (r : Req) (s : State) : Res :=
  if rsvdBad r 0 3 then Res.bad 0 s
  else if s.cellar.gathering then Res.rep stBusy 0 [] s
  else Res.ok [] (s.updCel (celOf r) fun c => { c with pattern := Vector.ofFn fun (i : Fin 16) => wordAt r.payload (1 + i.val) })

/-- CELLAR_PATTERN (R342). -/
def execCellarPattern (r : Req) (s : State) : Host.Outcome State Fault Refusal := ok (runOp 0x0703 [8] 17 17 false doCellarPattern r s)

/-- CELLAR_COMPARE (R335, R342): the saturating error counters of the run. -/
def doCellarCompare (errs : Vector Nat 36) (r : Req) (s : State) : Res :=
  let n := (wordAt r.payload 1).toNat
  if rsvdBad r 0 0xF then Res.bad 0 s
  else if n = 0 || 65536 < n then Res.bad 1 s
  else if s.cellar.gathering then Res.rep stBusy 0 [] s
  else Res.ok (errs.toList.map satWord) s

/-- CELLAR_COMPARE (R342). -/
def execCellarCompare (r : Req) (errs : Vector Nat 36) (s : State) : Host.Outcome State Fault Refusal :=
  ok (runOp 0x0704 [8] 2 2 false (doCellarCompare errs) r s)

/-- The device time at which a switch that begins at `b` and takes `ps` ends, and the state it leaves (R329): the refresh schedule restarts. -/
def switchTo (f : Fin 3) (refreshEnd ps : Nat) (s : State) : State :=
  let base := max refreshEnd s.time.clk
  let b := match s.cellar.lastSwitch with | some t => max base (t + 10 ^ 8) | none => base
  let e := b + min ps 1500000
  let s1 := { s with cellar := { s.cellar with
    fsp := f, lastSwitch := some b, ch := s.cellar.ch.map fun (c : CelCh) => { c with refreshed := e, refreshes := c.refreshes + 1 } } }
  s1.goTo e

/-- FREQ_SET (R329, R333, R338). -/
def doFreqSet (refreshEnd ps : Nat) (r : Req) (s : State) : Res :=
  let n := wbits (wordAt r.payload 0) 0 2
  if rsvdBad r 0 3 then Res.bad 0 s
  else if h : n < 3 then
    let f : Fin 3 := ⟨n, h⟩
    if s.cellar.gathering then Res.rep stBusy 0 [] s
    else if s.cellar.ch.toList.any fun c => !c.trained.getLsbD n then Res.bad dtFspUntrained s
    else if capOf s n < reservedNow s then Res.rep stExhausted dtCellarCap [] s
    else
      let s1 := switchTo f refreshEnd ps s
      Res.ok (split64 s1.now) s1
  else Res.bad 0 s

/-- FREQ_SET (R329). -/
def execFreqSet (r : Req) (refreshEnd switchPs : Nat) (s : State) : Host.Outcome State Fault Refusal :=
  ok (runOp 0x0705 [] 1 1 false (doFreqSet refreshEnd switchPs) r s)

/-- CELLAR_STATUS (Table 13.10). Reservations are rounded up and the cap down to MB/s. -/
def doCellarStatus (r : Req) (s : State) : Res :=
  let n := celOf r
  let c := s.cellar.ch[n]
  if rsvdBad r 0 3 then Res.bad 0 s
  else Res.ok
    ([BitVec.ofNat 32 (s.cellar.fsp.val + 4 * c.trained.toNat + 32 * c.hot.toNat + 64 * s.cellar.gathering.toNat),
      BitVec.ofNat 32 c.densityMib, c.corr, c.uncorr] ++ split64 (c.badAddr.zeroExtend 64) ++
      [c.drains, BitVec.ofNat 32 (ceilDiv (reservedNow s) 1000000), BitVec.ofNat 32 (capOf s s.cellar.fsp.val / 1000000),
       BitVec.ofNat 32 (largestFree s)])
    (s.updCel n fun c => { c with corr := 0, uncorr := 0, drains := 0 })

/-- CELLAR_STATUS (R342). -/
def execCellarStatus (r : Req) (s : State) : Host.Outcome State Fault Refusal := ok (runOp 0x0706 [] 1 1 false doCellarStatus r s)

end Sys2Proof.Machine
end

