-- ==== Sys2Proof/Machine/CooperCore.lean ====
section
/-! DEFINITION. The Cooper cores (12): registers, bundles, arithmetic, addressing, loops, interrupts, and the issue of one bundle. -/

namespace Sys2Proof.Machine

/-- A bundle in one of the formats of Table 12.4. -/
structure Bundle where
  rsvd : Bool := false
  ls : BitVec 20 := 0
  a1 : BitVec 21 := 0
  a2 : BitVec 21 := 0
  ctl : Option (BitVec 6 × BitVec 35) := none
  deriving DecidableEq, Repr

/-- A 64-bit word as a bundle (Table 12.4). -/
def decodeBundle (w : BitVec 64) : Bundle :=
  match (w.extractLsb' 62 2).toNat with
  | 0 => { ls := w.extractLsb' 42 20, a1 := w.extractLsb' 21 21, a2 := w.extractLsb' 0 21 }
  | 1 => { ctl := some (w.extractLsb' 56 6, w.extractLsb' 21 35), a2 := w.extractLsb' 0 21 }
  | _ => { rsvd := true }

/-! ## Slot fields (Table 12.5) -/

def arOp (a : BitVec 21) : Nat := (a.extractLsb' 15 6).toNat
def arDst (a : BitVec 21) : BitVec 5 := a.extractLsb' 10 5
def arSa (a : BitVec 21) : BitVec 5 := a.extractLsb' 5 5
def arSb (a : BitVec 21) : BitVec 5 := a.extractLsb' 0 5
def arSlot (op : BitVec 6) (d sa sb : BitVec 5) : BitVec 21 := op ++ d ++ sa ++ sb
def lsOp (l : BitVec 20) : Nat := (l.extractLsb' 16 4).toNat
def lsG (l : BitVec 20) : BitVec 5 := l.extractLsb' 11 5
def lsP (l : BitVec 20) : BitVec 3 := l.extractLsb' 8 3
def lsMode (l : BitVec 20) : Nat := (l.extractLsb' 6 2).toNat
def lsOff (l : BitVec 20) : BitVec 6 := l.extractLsb' 0 6
def lsSlot (op : BitVec 4) (g : BitVec 5) (p : BitVec 3) (mode : BitVec 2) (off : BitVec 6) : BitVec 20 := op ++ g ++ p ++ mode ++ off

/-! ## Registers -/

/-- The physical number of a logical general register (R288). -/
def physG (c : Core) (r : BitVec 5) : Fin 32 :=
  if r.toNat < 16 then ⟨r.toNat, by omega⟩ else ⟨16 + (r.toNat + c.lb.toNat) % 16, by omega⟩

/-- A physical register in the main or shadow bank; g16-g31 have no shadow (Table 12.1). -/
def readPhys (c : Core) (shadow : Bool) (r : Fin 32) : Word :=
  if h : shadow = true ∧ r.val < 16 then c.gs[r.val]'h.2 else c.g[r]

/-- A general register as the kernel names it. -/
def greg (c : Core) (r : BitVec 5) : Word := readPhys c c.inHandler (physG c r)

/-- Write a physical register. -/
def writePhys (c : Core) (shadow : Bool) (r : Fin 32) (v : Word) : Core :=
  if h : shadow = true ∧ r.val < 16 then { c with gs := c.gs.set r.val v h.2 } else { c with g := c.g.set r v }

/-- A pointer of the bank in use. -/
def preg (c : Core) (r : BitVec 3) : BitVec 18 := if c.inHandler then c.ps[r.toFin] else c.p[r.toFin]

/-- The accumulators of the bank in use: as left by every writer, and as a reader sees them (R292). -/
def accs (c : Core) : Vector (BitVec 72) 4 := if c.inHandler then c.as_ else c.a
def accsSeen (c : Core) : Vector (BitVec 72) 4 := if c.inHandler then c.asOld else c.aOld

/-- A result becomes visible (R291). -/
def land1 (c : Core) (f : Flight) : Core :=
  match f.dest with
  | .g sh r => writePhys c sh r f.val
  | .p sh r => if sh then { c with ps := c.ps.set r (f.val.extractLsb' 0 18) } else { c with p := c.p.set r (f.val.extractLsb' 0 18) }
  | .m r => { c with m := c.m.set r f.val }

/-- A bundle has issued: the results due in the next one become visible, the later-issued last (R291). -/
def landNext (c : Core) : Core :=
  (c.flight.filter fun f => f.left ≤ 1).foldl land1
    { c with flight := (c.flight.filter fun f => !decide (f.left ≤ 1)).map fun f => { f with left := f.left - 1 } }

/-- Every result in flight becomes visible (R308, R309). -/
def landAll (c : Core) : Core := landNext (landNext (landNext c))

/-! ## Arithmetic (Table 12.6) -/

/-- EXP of a value of `width` bits: leading bits equal to the sign bit, less 1 (R294). -/
def expOf (width : Nat) (x : Nat) : Nat :=
  ((List.range (width - 1)).reverse.takeWhile fun i => x.testBit i = x.testBit (width - 1)).length

/-- Two int16 lanes. -/
def lanes (f : BitVec 16 → BitVec 16 → BitVec 16) (x y : Word) : Word :=
  f (x.extractLsb' 16 16) (y.extractLsb' 16 16) ++ f (x.extractLsb' 0 16) (y.extractLsb' 0 16)

/-- The signed imm5 of ADDI and ASH. -/
def imm5 (b : BitVec 5) : Int := b.toInt

/-- round(acc, s) of R293, half up. -/
def roundAcc (acc : Int) (s : Nat) : Int := if s = 0 then acc else floorDiv (acc + (2 ^ (s - 1) : Nat)) (2 ^ s)

/-- The result of a one-cycle arithmetic operation or MUL on two register values (0x01-0x1A). -/
def aluResult (op : Nat) (x y : Word) (sb : BitVec 5) : Word :=
  let imm := sb.toNat
  match op with
  | 0x01 => x + y
  | 0x02 => x - y
  | 0x03 => Word.ofInt (satInt 32 (x.toInt + y.toInt))
  | 0x04 => Word.ofInt (satInt 32 (x.toInt - y.toInt))
  | 0x05 => x &&& y
  | 0x06 => x ||| y
  | 0x07 => x ^^^ y
  | 0x08 => x <<< (y.toNat % 32)
  | 0x09 => x <<< imm
  | 0x0A => x.sshiftRight (y.toNat % 32)
  | 0x0B => x.sshiftRight imm
  | 0x0C => x >>> (y.toNat % 32)
  | 0x0D => x >>> imm
  | 0x0E => x
  | 0x0F => Word.ofInt (x.toInt + imm5 sb)
  | 0x10 => Word.ofInt (min x.toInt y.toInt)
  | 0x11 => Word.ofInt (max x.toInt y.toInt)
  | 0x12 => Word.ofInt (satInt 32 x.toInt.natAbs)
  | 0x13 => if x = y then 1 else 0
  | 0x14 => if x.toInt < y.toInt then 1 else 0
  | 0x15 => lanes (· + ·) x y
  | 0x16 => lanes (· - ·) x y
  | 0x17 => (y.extractLsb' 0 16) ++ (x.extractLsb' 0 16)
  | 0x18 => x * y
  | 0x19 => x <<< expOf 32 x.toNat
  | 0x1A => BitVec.ofNat 32 (expOf 32 x.toNat)
  | _ => 0

/-- The result of an accumulator reader (0x28-0x2A, 0x2D-0x2F), and whether it saturated (R293). -/
def accRead (op : Nat) (acc : BitVec 72) (imm : Nat) : Word × Bool :=
  match op with
  | 0x28 => let v := roundAcc acc.toInt imm; (Word.ofInt (satInt 32 v), satInt 32 v ≠ v)
  | 0x29 => let v := roundAcc acc.toInt imm; (Word.ofInt (satInt 16 v), satInt 16 v ≠ v)
  | 0x2A => (BitVec.ofNat 32 (expOf 72 acc.toNat), false)
  | 0x2D => (acc.extractLsb' 0 32, false)
  | 0x2E => (acc.extractLsb' 32 32, false)
  | 0x2F => ((acc.extractLsb' 64 8).signExtend 32, false)
  | _ => (0, false)

/-- The operation writes a general register in one or two bundles; reads an accumulator; writes an accumulator. -/
def isAlu (op : Nat) : Bool := 1 ≤ op && op ≤ 0x1A
def isAccReader (op : Nat) : Bool := [0x28, 0x29, 0x2A, 0x2D, 0x2E, 0x2F].contains op
def isMac (op : Nat) : Bool := 0x20 ≤ op && op ≤ 0x25
def isAccWriter (op : Nat) : Bool := isMac op || op = 0x2B || op = 0x2C

/-- An arithmetic slot is legal (R290): a known opcode, unused and accumulator fields at 0. -/
def arLegal (a : BitVec 21) : Bool :=
  let op := arOp a
  if op = 0 then a = 0
  else if isAlu op then !([0x0E, 0x12, 0x19, 0x1A].contains op) || arSb a = 0
  else if isMac op then (arDst a).extractLsb' 2 2 = 0
  else if op = 0x2B then (arDst a).extractLsb' 2 2 = 0 && arSa a = 0
  else if op = 0x2C then (arDst a).extractLsb' 2 2 = 0 && arSa a = 0 && arSb a = 0
  else if isAccReader op then (arSa a).extractLsb' 2 3 = 0 && (op = 0x28 || op = 0x29 || arSb a = 0)
  else false

/-- The product of a MAC- or MPY-family slot (Table 12.6). -/
def product (c : Core) (a : BitVec 21) : Int :=
  let x := greg c (arSa a)
  let y := greg c (arSb a)
  if arOp a ≤ 0x22 then x.toInt * y.toInt
  else (x.extractLsb' 0 16).toInt * (y.extractLsb' 0 16).toInt + (x.extractLsb' 16 16).toInt * (y.extractLsb' 16 16).toInt

/-- The slots of a bundle that write accumulator `k`. -/
def accWriters (b : Bundle) (k : Fin 4) : List (BitVec 21) :=
  [b.a1, b.a2].filter fun a => isAccWriter (arOp a) && (arDst a).toNat % 4 = k.val

/-- The exact value the writers of an accumulator leave (R292). -/
def accExact (c : Core) (ws : List (BitVec 21)) (acc : Int) : Int :=
  match ws with
  | [] => acc
  | w :: _ =>
    if arOp w = 0x2C then 0
    else if arOp w = 0x2B then
      (if imm5 (arSb w) < 0 then floorDiv acc (2 ^ (imm5 (arSb w)).natAbs) else acc * 2 ^ (imm5 (arSb w)).natAbs)
    else
      (if ws.any fun a => arOp a = 0x22 || arOp a = 0x25 then 0 else acc) +
        (ws.map fun a => if arOp a = 0x21 || arOp a = 0x24 then -product c a else product c a).foldl (· + ·) 0

/-- An accumulator after a bundle, and whether it overflowed (R293). -/
def accNext (c : Core) (b : Bundle) (k : Fin 4) : BitVec 72 × Bool :=
  let ws := accWriters b k
  let x := accExact c ws (accs c)[k].toInt
  if ws.isEmpty then ((accs c)[k], false)
  else if satInt 72 x = x then (BitVec.ofInt 72 x, false)
  else (BitVec.ofInt 72 (if ws.any fun a => (arDst a).getLsbD 4 then satInt 72 x else x), true)

/-- The general-register result of an arithmetic slot (latencies: Table 12.9). -/
def arResult (c : Core) (a : BitVec 21) : List Flight × Bool :=
  let op := arOp a
  let d := Dest.g c.inHandler (physG c (arDst a))
  if isAlu op then
    ([⟨if op = 0x18 then 2 else 1, d, aluResult op (greg c (arSa a)) (greg c (arSb a)) (arSb a)⟩], false)
  else if isAccReader op then
    let r := accRead op ((accsSeen c)[(arSa a).toNat % 4]'(by omega)) (arSb a).toNat
    ([⟨2, d, r.1⟩], r.2)
  else ([], false)

/-! ## Addressing (R295, Table 12.10) -/

/-- Reverse the low `k` bits. -/
def bitrev (k i : Nat) : Nat := ((List.range k).map fun j => if i.testBit j then 2 ^ (k - 1 - j) else 0).foldl (· + ·) 0

/-- The step a modifier gives has no stated result: a buffer of length 0, or index fields outside their ranges. -/
def modOpen (m : Word) : Bool :=
  match wbits m 16 2 with
  | 1 => wbits m 18 14 = 0
  | 2 => wbits m 0 4 > 3 || wbits m 4 5 = 0 || wbits m 4 5 > 15 || wbits m 9 7 ≠ 0 || wbits m 18 14 ≠ 0
  | _ => false

/-- A pointer after its post-modify. -/
def postMod (seed : Nat) (m : Word) (base p : BitVec 18) : BitVec 18 :=
  let inc := signed 16 (wbits m 0 16)
  if modOpen m then (Config.freeWord seed 295).extractLsb' 0 18
  else match wbits m 16 2 with
    | 0 => BitVec.ofInt 18 (p.toNat + inc)
    | 1 => BitVec.ofInt 18 (base.toNat + ((p.toNat : Int) - base.toNat + inc) % (4 * wbits m 18 14 : Nat))
    | 2 =>
      let sh := wbits m 0 4
      let k := wbits m 4 5
      let i := bitsOf p.toNat sh k
      let i' := bitrev k ((bitrev k i + 1) % 2 ^ k)
      BitVec.ofNat 18 (p.toNat - i * 2 ^ sh + i' * 2 ^ sh)
    | _ => p

/-- Element size of a load or store in bytes (Table 12.7). -/
def lsSize (op : Nat) : Nat := if op = 1 || op = 5 then 4 else if op = 4 || op = 7 then 8 else 2
def isLoad (op : Nat) : Bool := 1 ≤ op && op ≤ 4
def isStore (op : Nat) : Bool := 5 ≤ op && op ≤ 7
def isAccess (op : Nat) : Bool := 1 ≤ op && op ≤ 7

/-- The address of an access. -/
def lsAddr (c : Core) (l : BitVec 20) : BitVec 18 :=
  let p := preg c (lsP l)
  if lsMode l = 2 then BitVec.ofInt 18 (p.toNat + (lsOff l).toInt * lsSize (lsOp l)) else p

/-- The slot post-modifies its pointer. -/
def postModifies (l : BitVec 20) : Bool := lsMode l = 1 && (isAccess (lsOp l) || lsOp l = 11)

/-- A load/store slot is legal (R290, Table 12.10): known opcode and mode, unused fields 0, even pair register, known modifier kind. -/
def lsLegal (c : Core) (l : BitVec 20) : Bool :=
  let op := lsOp l
  if op = 0 then l = 0
  else
    decide (op ≤ 11) && decide (lsMode l ≠ 3) && (lsMode l = 2 || lsOff l = 0) &&
    (if op = 11 then lsMode l = 1 && lsG l = 0 else if 8 ≤ op then lsMode l = 0 else true) &&
    ((op ≠ 4 && op ≠ 7) || !(lsG l).getLsbD 0) &&
    (!postModifies l || wbits c.m[(lsP l).toFin] 16 2 ≠ 3)

/-- The access is misaligned (R295). -/
def lsMisaligned (c : Core) (l : BitVec 20) : Bool := isAccess (lsOp l) && (lsAddr c l).toNat % lsSize (lsOp l) ≠ 0

/-- The odd register of a pair. -/
def pairReg (g : BitVec 5) : BitVec 5 := g ||| 1

/-- The results a load/store slot sends into flight. -/
def lsResult (c : Core) (seed : Nat) (l : BitVec 20) : List Flight :=
  let op := lsOp l
  let d := fun (r : BitVec 5) => Dest.g c.inHandler (physG c r)
  let x := (lsAddr c l).toNat
  let post := if postModifies l then
      [Flight.mk 1 (.p c.inHandler (lsP l).toFin)
        ((postMod seed c.m[(lsP l).toFin] c.base[(lsP l).toFin] (preg c (lsP l))).zeroExtend 32)] else []
  let main := match op with
    | 1 => [Flight.mk 3 (d (lsG l)) (bytesWord (c.dm.readN x 4))]
    | 2 => [Flight.mk 3 (d (lsG l)) (((bytesWord (c.dm.readN x 2)).extractLsb' 0 16).signExtend 32)]
    | 3 => [Flight.mk 3 (d (lsG l)) (bytesWord (c.dm.readN x 2))]
    | 4 => [Flight.mk 3 (d (lsG l)) (bytesWord (c.dm.readN x 4)),
            Flight.mk 3 (d (pairReg (lsG l))) (bytesWord (c.dm.readN (x + 4) 4))]
    | 8 => [Flight.mk 1 (.p c.inHandler (lsP l).toFin) (greg c (lsG l))]
    | 9 => [Flight.mk 1 (d (lsG l)) ((preg c (lsP l)).zeroExtend 32)]
    | 10 => [Flight.mk 1 (.m (lsP l).toFin) (greg c (lsG l))]
    | _ => []
  main ++ post

/-- DM after a store slot. -/
def lsStore (c : Core) (l : BitVec 20) : Mem :=
  let x := (lsAddr c l).toNat
  match lsOp l with
  | 5 => c.dm.writeN x (wordBytes (greg c (lsG l)))
  | 6 => c.dm.writeN x ((wordBytes (greg c (lsG l))).take 2)
  | 7 => c.dm.writeN x (wordBytes (greg c (lsG l)) ++ wordBytes (greg c (pairReg (lsG l))))
  | _ => c.dm

/-! ## Control slot (Table 12.8) -/

/-- Fields of a control operand. -/
def cG (o : BitVec 35) : BitVec 5 := o.extractLsb' 27 5
def cTarget (o : BitVec 35) : BitVec 13 := o.extractLsb' 0 13
def cCond (o : BitVec 35) : Nat := (o.extractLsb' 32 3).toNat
def cCntReg (o : BitVec 35) : Bool := o.getLsbD 32

/-- Operand bits the opcode uses; the others must be 0 (R290). -/
def ctlMask (op : Nat) : Nat :=
  match op with
  | 0x01 => 0x7F8001FFF
  | 0x02 => 0x0F8001FFF
  | 0x03 => 0x0F8000000
  | 0x05 => 0x7FFFFFFFF
  | 0x06 => 0x1F8001FFF
  | 0x07 => 0x4F800001F
  | 0x08 => 0x0F800FFFF
  | 0x09 => 0x0F800FFFF
  | 0x0C => 0x0F8000000
  | 0x0D => 0x00000000F
  | _ => 0

/-- A control slot is legal (R290). -/
def ctlLegal (op : Nat) (o : BitVec 35) : Bool :=
  decide (op ≤ 0x0D) && decide (o.toNat &&& ctlMask op = o.toNat) && (op ≠ 0x01 || decide (cCond o ≤ 4))

/-- A loop level is active (R296). -/
def loopOn (c : Core) (l : Fin 2) : Bool := c.loops[l].on

/-- The branch stands in one of the last three bundles of an active loop's body (R298). -/
def nearEnd (c : Core) : Bool :=
  (List.finRange 2).any fun l => loopOn c l && c.loops[l].last.toNat - 2 ≤ c.pc.toNat && c.pc.toNat ≤ c.loops[l].last.toNat &&
    decide (c.loops[l].first.toNat ≤ c.pc.toNat)

/-- Level, END and count of a LOOP operand. -/
def loopLevel (o : BitVec 35) : Fin 2 := if o.getLsbD 34 then 1 else 0
def loopCount (c : Core) (o : BitVec 35) : Word := if cCntReg o then greg c (cG o) else (o.extractLsb' 13 14).zeroExtend 32
def repCount (c : Core) (o : BitVec 35) : Nat := if cCntReg o then (greg c (cG o)).toNat else (cTarget o).toNat

/-- The control slot faults LOOP (R298). -/
def loopFault (c : Core) (op : Nat) (o : BitVec 35) : Bool :=
  if op = 0x05 then
    decide ((cTarget o).toNat ≤ c.pc.toNat) || loopOn c (loopLevel o) || c.inHandler ||
      (loopLevel o = 1 && loopOn c 0 && decide (c.loops[(0 : Fin 2)].last.toNat < (cTarget o).toNat))
  else if 1 ≤ op && op ≤ 4 then nearEnd c
  else false

/-- A BR condition (Table 12.8). -/
def brTaken (cond : Nat) (x : Word) : Bool :=
  match cond with
  | 0 => true
  | 1 => x = 0
  | 2 => x ≠ 0
  | 3 => x.toInt < 0
  | _ => 0 ≤ x.toInt

/-- CSTAT (Table 12.3). -/
def cstat (c : Core) : Word :=
  BitVec.ofNat 32 (c.ie.toNat + 2 * c.inHandler.toNat + 4 * c.av.toNat + 64 * c.rsat.toNat + 128 * c.ovfTrap.toNat + 256 * c.msgValid.toNat)

/-- A read of a control register, with its side effects (Table 12.2). -/
def creadReg (c : Core) (now : BitVec 64) (k : Nat) : Word × Core :=
  match k with
  | 0 => (cstat c, c)
  | 1 => (c.ivec.zeroExtend 32, c)
  | 2 => (c.ien.zeroExtend 32, c)
  | 3 => (c.ipend.zeroExtend 32, c)
  | 4 => (c.iret.zeroExtend 32, c)
  | 5 => (c.lb.zeroExtend 32, c)
  | 6 => (c.lc[(0 : Fin 2)], c)
  | 7 => (c.lc[(1 : Fin 2)], c)
  | 8 => (c.tapst.zeroExtend 32, c)
  | 9 => (BitVec.ofNat 32 c.posts.length, c)
  | 10 => (c.bundles.extractLsb' 0 32, { c with latBundles := c.bundles.extractLsb' 32 32 })
  | 11 => (c.latBundles, c)
  | 12 => (now.extractLsb' 0 32, { c with latTime := now.extractLsb' 32 32 })
  | 13 => (c.latTime, c)
  | 14 => (c.msgIn, { c with msgIn := 0, msgValid := false })
  | k => if h : 16 ≤ k ∧ k < 24 then ((c.base[k - 16]'(by omega)).zeroExtend 32, c) else (0, c)

/-- A write of a loop count: 0 ends the loop (Table 12.2). -/
def writeLc (c : Core) (l : Fin 2) (v : Word) : Core :=
  { c with lc := c.lc.set l v, loops := if v = 0 then c.loops.set l { c.loops[l] with on := false } else c.loops }

/-- A write of a control register (Table 12.2, R5). -/
def cwriteReg (c : Core) (k : Nat) (v : Word) : Core :=
  match k with
  | 0 => { c with ie := v.getLsbD 0, av := c.av &&& ~~~(v.extractLsb' 2 4), rsat := c.rsat && !v.getLsbD 6, ovfTrap := v.getLsbD 7 }
  | 1 => { c with ivec := v.extractLsb' 0 13 }
  | 2 => { c with ien := v.extractLsb' 0 6 }
  | 3 => { c with ipend := c.ipend &&& ~~~(v.extractLsb' 0 6) }
  | 4 => { c with iret := v.extractLsb' 0 13 }
  | 5 => { c with lb := v.extractLsb' 0 4 }
  | 6 => writeLc c 0 v
  | 7 => writeLc c 1 v
  | 15 => { c with msgOut := v }
  | k => if h : 16 ≤ k ∧ k < 24 then { c with base := c.base.set (k - 16) (v.extractLsb' 0 18) (by omega) } else c

/-- A result descriptor is acceptable (R305, Table 12.14). -/
def postOk (addr : Word) (d : List Word) : Bool :=
  addr.toNat % 32 = 0 && decide (addr.toNat + 64 ≤ 2 ^ 18) && wbits (wordAt d 0) 18 14 = 0 && wbits (wordAt d 0) 0 5 = 0 &&
    decide (1 ≤ (wordAt d 1).toNat) && decide ((wordAt d 1).toNat ≤ 65536) &&
    wbits (wordAt d 2) 9 7 = 0 && wbits (wordAt d 2) 24 8 = 0 && wbits (wordAt d 3) 31 1 = 0 && wbits (wordAt d 4) 18 14 = 0 &&
    wbits (wordAt d 6) 16 16 = 0 && ((d.drop 9).take 7).all (· = 0) && decide ((wordAt d 0).toNat + (wordAt d 1).toNat ≤ 2 ^ 18)

/-- POST: its status, and the core with the post accepted (R305). -/
def doPost (c : Core) (addr : Word) : Nat × Core :=
  let d := bytesWords 16 (c.dm.readN (addr.toNat % 2 ^ 18) 64)
  if 4 ≤ c.posts.length then (1, c)
  else if postOk addr d then (0, { c with posts := c.posts ++ [⟨d, none⟩], posted := addSat c.posted 1 })
  else (2, c)

/-! ## Sequence -/

/-! ## Memories (R284-R287) -/

/-- Words of 32 bytes that a write of `n` bytes replaces whole are good again. -/
def mendWords (off n : Nat) (bad : List Nat) : List Nat := bad.filter fun w => !(decide (off ≤ 32 * w) && decide (32 * w + 32 ≤ off + n))

/-- Words of 32 bytes that `n` bytes meet. -/
def wordsMet (off n : Nat) : List Nat := (List.range ((off + n - 1) / 32 + 1 - off / 32)).map (off / 32 + ·)

/-- An access from outside to `n` bytes of DM claims the banks of its words (R285): in a core that does not issue, none waits. -/
def Core.claim (c : Core) (cls off n : Nat) : Core :=
  if c.st = .running && 0 < n then { c with ext := c.ext ++ (wordsMet off n).map fun w => ⟨w / 2048, cls, 0⟩ } else c

/-- Write bytes of DM, or of IM, from outside the core. -/
def Core.putDm (c : Core) (cls off : Nat) (data : List (Option Byte)) : Core :=
  { c.claim cls off data.length with
    dm := c.dm.writeOpt off data, dmBad := if data.all Option.isSome then mendWords off data.length c.dmBad else c.dmBad }
def Core.putIm (c : Core) (off : Nat) (data : List (Option Byte)) : Core :=
  { c with im := c.im.writeOpt off data, imBad := if data.all Option.isSome then mendWords off data.length c.imBad else c.imBad }

/-- A DM bank serves the first of the accesses that wait for it: tap fills, then result reads, then the host and the CP (R285). -/
def serveBank (l : List ExtAccess) (b : Nat) : List ExtAccess :=
  match (l.filter fun a => a.bank = b).map (·.cls) with
  | [] => l
  | c :: r => l.eraseP fun a => a.bank = b && a.cls = r.foldl min c

/-- Accesses after a bundle: the banks that its load/store slot leaves free have served one each, and the others have waited one bundle more. -/
def serveExt (used : Option Nat) (l : List ExtAccess) : List ExtAccess :=
  (((List.range 4).filter fun b => used ≠ some b).foldl serveBank l).map fun a => { a with waited := a.waited + 1 }

/-- Bundles in which the core issues nothing, because an access has waited 16 (R285). The first argument bounds their number. -/
def stallOut : Nat → Core → Core
  | 0, c => c
  | k + 1, c =>
    if c.ext.any fun a => 16 ≤ a.waited then stallOut k { c with stalls := addSat c.stalls 1, ext := (List.range 4).foldl serveBank c.ext } else c

/-- The bundle issued after END of the active loops, with counts and rotation (R296, R297): inner level first. -/
def endLoop (l : Fin 2) (c : Core) : Bool × Core :=
  if loopOn c l && c.loops[l].last = c.pc then
    let c := if c.loops[l].rot then { c with lb := c.lb - 1 } else c
    if 1 < c.lc[l].toNat then (true, { c with lc := c.lc.set l (c.lc[l] - 1), pc := c.loops[l].first })
    else (false, writeLc c l 0)
  else (false, c)

/-- Advance past the present bundle: loop back at END, else the next address. -/
def advance (c : Core) : Core :=
  let (back1, c1) := endLoop 1 c
  if back1 then c1 else
    let (back0, c0) := endLoop 0 c1
    if back0 then c0 else { c0 with pc := c0.pc + 1 }

/-- The control flow after a bundle has issued: repetition, delay slots, jump (R291, R299, R300). -/
def flow (c : Core) : Core :=
  match c.rep with
  | some k => if 1 < k then { c with rep := some (k - 1) } else advance { c with rep := none }
  | none =>
    let c := advance c
    match c.jump with
    | none => c
    | some (k, j) =>
      if 1 < k then { c with jump := some (k - 1, j) }
      else match j with
        | .to a => { c with jump := none, pc := a }
        | .reti => { c with jump := none, pc := c.iret, ie := true, inHandler := false }

/-- What a core sends outside it. -/
inductive CoreOut where
  | vector
  deriving DecidableEq, Repr

/-- The core stops in FAULT at the faulting bundle, whose effects are discarded (R309). -/
def coreFault (c : Core) (cause : BitVec 3) : Core × List CoreOut :=
  ({ landAll c with st := .fault, cause := cause, asm := {}, stopReq := false, pauseReq := false }, [.vector])

/-- The bundle may be issued at an interruptible point: no delay slot, no repetition (R300). -/
def interruptible (c : Core) : Bool := c.jump.isNone && c.rep.isNone

/-- The DM words a load reads. -/
def loadWords (c : Core) (l : BitVec 20) : List Nat := if isLoad (lsOp l) then wordsMet (lsAddr c l).toNat (lsSize (lsOp l)) else []

/-- What the fetch of the bundle at PC meets, and what the load of a bundle meets: what is found now, or an error that the word already holds (R286). -/
def fetchFinds (c : Core) (found : EccRead) : EccRead := if c.imBad.contains (c.pc.toNat / 4) then .uncorrectable else found
def loadFinds (c : Core) (b : Bundle) (found : EccRead) : EccRead :=
  if b.ctl.isSome || (loadWords c b.ls).isEmpty then .clean
  else if (loadWords c b.ls).any fun w => c.dmBad.contains w then .uncorrectable else found

/-- The cause that stops the core at a bundle before its load reads, if any (R290, R295, R298, R286). -/
def earlyFault (c : Core) (b : Bundle) (fetch : EccRead) : Option (BitVec 3) :=
  if fetchFinds c fetch = .uncorrectable then some 4 else
  let two := (List.finRange 4).any fun k =>
    (accWriters b k).length = 2 && (accWriters b k).any fun a => arOp a = 0x2B || arOp a = 0x2C
  match b.ctl with
  | some (op, o) =>
    if b.rsvd || c.jump.isSome || c.rep.isSome || !ctlLegal op.toNat o || !arLegal b.a2 then some 1
    else if loopFault c op.toNat o then some 3 else none
  | none =>
    if b.rsvd || !lsLegal c b.ls || !arLegal b.a1 || !arLegal b.a2 || two then some 1
    else if lsMisaligned c b.ls then some 2 else none

/-- The cause that stops the core at a bundle, if any: last what its load finds (R286). -/
def bundleFault (c : Core) (b : Bundle) (load fetch : EccRead) : Option (BitVec 3) :=
  match earlyFault c b fetch with
  | some x => some x
  | none => if loadFinds c b load = .uncorrectable then some 4 else none

/-- What a control slot does as its bundle issues: results in flight, and the core changed. HALT and WAIT act after it. -/
def ctlEffect (c : Core) (now : BitVec 64) (op : Nat) (o : BitVec 35) : List Flight × Core :=
  let d := Dest.g c.inHandler (physG c (cG o))
  match op with
  | 0x01 => ([], if brTaken (cCond o) (greg c (cG o)) then { c with jump := some (3, .to (cTarget o)) } else c)
  | 0x02 => ([⟨1, d, (c.pc + 3).zeroExtend 32⟩], { c with jump := some (3, .to (cTarget o)) })
  | 0x03 => ([], { c with jump := some (3, .to ((greg c (cG o)).extractLsb' 0 13)) })
  | 0x04 => ([], { c with jump := some (3, .reti) })
  | 0x07 =>
    if o.getLsbD 34 then let r := creadReg c now (o.extractLsb' 0 5).toNat; ([⟨1, d, r.1⟩], r.2)
    else ([], cwriteReg c (o.extractLsb' 0 5).toNat (greg c (cG o)))
  | 0x08 => ([⟨1, d, (o.extractLsb' 0 16).signExtend 32⟩], c)
  | 0x09 => ([⟨1, d, (o.extractLsb' 0 16) ++ (greg c (cG o)).extractLsb' 0 16⟩], c)
  | 0x0C => let r := doPost c (greg c (cG o)); ([⟨1, d, BitVec.ofNat 32 r.1⟩], r.2)
  | 0x0D => ([], { c with tapst := c.tapst &&& ~~~(o.extractLsb' 0 4) })
  | _ => ([], c)

/-- The accumulators after a bundle, and the AV bits it sets (R292, R293). -/
def accStep (c0 : Core) (b : Bundle) (c : Core) : Core :=
  let next := fun (k : Fin 4) => accNext c0 b k
  let ov := (List.finRange 4).foldl (fun (m : BitVec 4) k => if (next k).2 then m ||| ((1 : BitVec 4) <<< k.val) else m) 0
  let v := #v[(next 0).1, (next 1).1, (next 2).1, (next 3).1]
  let c := if c0.inHandler then { c with asOld := c0.as_, as_ := v, aOld := c0.a } else { c with aOld := c0.a, a := v, asOld := c0.as_ }
  { c with av := c.av ||| ov, ipend := if ov ≠ 0 && c.ovfTrap then c.ipend ||| 1 else c.ipend }

/-- LOOP and REPEAT set up after the bundle has taken its place in the sequence (R296, R299). -/
def loopSetup (c0 : Core) (op : Nat) (o : BitVec 35) (c : Core) : Core :=
  if op = 0x05 then
    let l := loopLevel o
    let n := loopCount c0 o
    if n = 0 then { c with pc := cTarget o + 1 }
    else { c with lc := c.lc.set l n, loops := c.loops.set l ⟨true, c0.pc + 1, cTarget o, o.getLsbD 33⟩ }
  else if op = 0x06 then
    let k := repCount c0 o
    if k = 0 then { c with pc := c.pc + 1 } else { c with rep := some k }
  else c

/-- Stop, or pause, where one waits and the next bundle could take an interrupt (R308, R310). -/
def stopPoint (clk : Nat) (c : Core) : Core :=
  if c.stopReq && interruptible c then { landAll c with st := .stopped, stopReq := false, pauseReq := false, stoppedAt := clk }
  else if c.pauseReq && interruptible c then
    { landAll c with st := .paused, pauseReq := false, wasWaiting := c.st = .waiting }
  else c

/-- Issue one bundle (R290-R301). The results of this bundle are visible as Table 12.9 states; the registers of the answer hold what the
next bundle sees. -/
def issue (b : Bundle) (load fetch : EccRead) (now : BitVec 64) (clk seed : Nat) (c : Core) : Core × List CoreOut :=
  match bundleFault c b load fetch with
  | some cause => coreFault c cause
  | none =>
    let (op, o) := match b.ctl with | some (op, o) => (op.toNat, o) | none => (0, 0)
    let (fc, c1) := ctlEffect c now op o
    let fl := if b.ctl.isSome then fc else lsResult c seed b.ls ++ (arResult c b.a1).1
    let c2 := accStep c b { c1 with
      dm := if b.ctl.isSome then c1.dm else lsStore c b.ls
      flight := c1.flight ++ fl ++ (arResult c b.a2).1
      rsat := c1.rsat || (arResult c b.a2).2 || (b.ctl.isNone && (arResult c b.a1).2)
      bundles := c.bundles + 1, asm := {} }
    let c3 := landNext (loopSetup c op o (flow c2))
    let outs := if op = 0x07 && !o.getLsbD 34 && (o.extractLsb' 0 5).toNat = 15 then [CoreOut.vector] else []
    if op = 0x0A then ({ landAll c3 with st := .halted, stopReq := false, pauseReq := false }, outs ++ [.vector])
    else if op = 0x0B && c3.ipend &&& c3.ien = 0 then (stopPoint clk { c3 with st := .waiting }, outs)
    else (stopPoint clk c3, outs)

/-- What the ECC found stays with the core (R286): corrected errors are counted, and an uncorrectable word stays as it was. -/
def eccNotes (b : Bundle) (load fetch : EccRead) (c0 c : Core) : Core :=
  let f := fetchFinds c0 fetch
  let l := if (earlyFault c0 b fetch).isSome then .clean else loadFinds c0 b load
  let one := fun (x : EccRead) => if x = .corrected then 1 else 0
  { c with
    eccCorr := addSat c.eccCorr (one f + one l)
    imBad := if f = .uncorrectable then (c0.pc.toNat / 4 :: c.imBad).eraseDups else c.imBad
    dmBad := if l = .uncorrectable then (loadWords c0 b.ls ++ c.dmBad).eraseDups else c.dmBad }

/-- One bundle time of a core that issues `b`: stalls before it, the bundle, and the accesses that its banks serve (R285, R286, R291). -/
def bundleTime (b : Bundle) (load fetch : EccRead) (now : BitVec 64) (clk seed : Nat) (c0 : Core) : Core × List CoreOut :=
  let c := stallOut c0.ext.length c0
  let r := issue b load fetch now clk seed c
  let used := if b.ctl.isNone && isAccess (lsOp b.ls) then some ((lsAddr c b.ls).toNat / 65536) else none
  (eccNotes b load fetch c { r.1 with ext := if r.1.st = .running then serveExt used c.ext else [] }, r.2)

/-- An event sets an IPEND bit; a core that waits goes on once an enabled one is pending (R301). -/
def setIpend (bit : Nat) (c : Core) : Core :=
  let c := { c with ipend := c.ipend ||| ((1 : BitVec 6) <<< bit) }
  if c.st = .waiting && c.ipend &&& c.ien ≠ 0 then { c with st := .running } else c

/-- The core takes an interrupt before the next bundle (R300). -/
def interruptDue (c : Core) : Bool :=
  c.st = .running && c.ie && !c.inHandler && c.ipend &&& c.ien ≠ 0 && interruptible c

/-- Take it: one step of one issued bundle. -/
def takeInterrupt (c : Core) : Core :=
  landNext { c with
    iret := c.pc, pc := c.ivec, ie := false, inHandler := true, bundles := c.bundles + 1, aOld := c.a, asOld := c.as_
    ext := serveExt none c.ext }

/-- The bundle in IM at an address (R284). -/
def fetchBundle (c : Core) (a : BitVec 13) : Bundle := decodeBundle (BitVec.ofNat 64 (bytesNat (c.im.readN (8 * a.toNat) 8)))

/-- IM may not be written in this state (R287). -/
def coreActive (c : Core) : Bool := c.st ≠ .stopped && c.st ≠ .halted && c.st ≠ .fault

/-- The core as COOPER_START leaves it: every register 0, every control register at reset, fetch at ENTRY; IM, DM and the counters read by
COOPER_STATUS are kept, and posts still to be delivered (R306, R307). -/
def startCore (entry : BitVec 13) (clk : Nat) (c : Core) : Core :=
  { im := c.im, dm := c.dm, imBad := c.imBad, dmBad := c.dmBad, st := .running, pc := entry, stalls := c.stalls, eccCorr := c.eccCorr, posts := c.posts, rseq := c.rseq,
    posted := c.posted, timerAt := clk
    taps := c.taps.map fun t => { written := t.written, missed := t.missed, since := clk } }

end Sys2Proof.Machine
end

