-- ==== Sys2Proof/Machine/Cooper.lean ====
section
/-! DEFINITION. The commands of the Cooper family (12): instructions, core control, interrupts and timers. -/

namespace Sys2Proof.Machine

/-! ## Issue on the block -/

/-- Answer COOPER_STOP once every named core has stopped (R308). -/
def stopReport (s : State) : State :=
  match s.opWhere fun k => match k with
    | .cooperStop m => (List.finRange 8).all fun c => !m.getLsbD c.val || !coreActive s.core[c]
    | _ => false with
  | some o => s.finish o stOk 0 []
  | none => s

/-- Tap fields of a COOPER set (Table 12.15). -/
def tapFlds (blk : List Word) (t : Nat) : List Word := (blk.drop (4 + 6 * t)).take 6

/-- KIND and SHOTS of a tap's fields. -/
def tpKind (b : List Word) : Nat := bf b 0 0 2
def tpShots (b : List Word) : Nat := bf b 3 0 16

/-- The open window holds all it takes (R303). -/
def tapFull (t : Tap) : Bool := !t.rows.isEmpty && (tpKind t.flds = 2 || tpKind t.flds = 3 || decide (tpShots t.flds ≤ t.count))

/-- The window of a tap is in progress: it has begun, takes rows, and has not all of them. -/
def tapUnderWay (t : Tap) : Bool := tpKind t.flds = 1 && 0 < t.count && t.count < tpShots t.flds && !t.miss && !t.lost && !t.skip

/-- The window of a tap is lost, and counted missed (R304). -/
def Tap.lose (t : Tap) : Tap :=
  { t with lost := true, rows := [], short := false, missed := addSat t.missed 1, missedRun := min 65535 (t.missedRun + 1) }

/-- A core that has just been paused abandons the windows in progress (R304). -/
def pauseTaps (was : CoreSt) (c : Core) : Core :=
  if c.st = .paused && was ≠ .paused then
    { c with taps := c.taps.map fun t => if tapUnderWay t then t.lose else t }
  else c

/-- The core starts under its COOPER set (R307). -/
def runCore (blk : List Word) (clk : Nat) (c : Core) : Core :=
  let c' := startCore (BitVec.ofNat 13 (bf blk 1 0 13)) clk c
  { c' with taps := #v[{ c'.taps[(0 : Fin 2)] with flds := tapFlds blk 0 }, { c'.taps[(1 : Fin 2)] with flds := tapFlds blk 1 }] }

/-- The FUNC_REINITs of a function that still run (R457). -/
def reinitOps (func inst : Nat) (s : State) : List Op :=
  s.proto.ops.filter fun o => match o.kind with | .funcReinit f i => f.toNat = func && i.toNat = inst | _ => false

/-- The re-initialisation of a function has reached its completion point (R457). -/
def reinitDone (func inst : Nat) (s : State) : State := (reinitOps func inst s).foldl (fun s o => s.finish o stOk 0 []) s

/-- A COOPER_STOP names the core. -/
def stopNamed (n : CoreId) (s : State) : Bool := s.proto.ops.any fun o => match o.kind with | .cooperStop m => m.getLsbD n.val | _ => false

/-- A core that has stopped, halted or faulted releases its budget (Table 17.2) and may end a COOPER_STOP; one that a FUNC_REINIT stopped has its
registers cleared and restarts at ENTRY with its budget (R457). -/
def coreEnded (n : CoreId) (s : State) : State :=
  if coreActive s.core[n] then s
  else if (reinitOps 1 n.val s).isEmpty then stopReport (s.release (.core n))
  else
    let back := !stopNamed n s && !s.power.isolated.getLsbD 4
    let s1 := s.updCore n fun c =>
      if back then runCore (s.act 0x60 n.val) s.time.clk c
      else { startCore 0 s.time.clk c with st := .stopped, stoppedAt := s.time.clk }
    let s2 := reinitDone 1 n.val s1
    if back then s2 else stopReport (s2.release (.core n))

/-- Issue a bundle on a running core, with what it sends outside. -/
def issueOn (n : CoreId) (b : Bundle) (load fetch : EccRead) (s : State) : State :=
  let r := bundleTime b load fetch s.now s.time.clk s.free s.core[n]
  let s1 := { s with core := s.core.set n (pauseTaps s.core[n].st r.1), free := s.free + 1 }
  coreEnded n (r.2.foldl (fun s _ => s.raise (vecCore n)) s1)

/-- The bundle that the given slots make (Table 12.4). -/
def asmBundle (x : AsmSlots) : Bundle :=
  match x.ctl with
  | some c => { ctl := some c, a2 := x.a2 }
  | none => { ls := x.ls, a1 := x.a1, a2 := x.a2 }

/-- One slot of the bundle the core issues next; the last slot given issues it (log entry 30). -/
def slotCmd (n : CoreId) (f : AsmSlots → AsmSlots) (after : SlotEnd) (s : State) : State :=
  if s.core[n].st = .running then
    let x := f s.core[n].asm
    match after with
    | .more => s.updCore n fun c => { c with asm := x }
    | .last fetch => issueOn n (asmBundle x) x.ecc fetch s
  else s

/-- An arithmetic slot. -/
def arCmd (op : BitVec 6) (a : ArArgs) (s : State) : Host.Outcome State Fault Refusal :=
  ok (slotCmd a.core (fun x => match a.slot with
    | .a1 => { x with a1 := arSlot op a.dst a.sa a.sb }
    | .a2 => { x with a2 := arSlot op a.dst a.sa a.sb }) a.after s)

/-- A load/store slot. -/
def lsCmd (op : BitVec 4) (a : LsArgs) (ecc : EccRead) (s : State) : Host.Outcome State Fault Refusal :=
  ok (slotCmd a.core (fun x => { x with ls := lsSlot op a.g a.p a.mode a.off, ecc := ecc }) a.after s)

/-- A control slot. -/
def ctlCmd (op : BitVec 6) (a : CtlArgs) (s : State) : Host.Outcome State Fault Refusal :=
  ok (slotCmd a.core (fun x => { x with ctl := some (op, a.operand) }) a.after s)

/-! ## Instructions (Tables 12.6-12.8) -/

/-- NOP (Tables 12.6-12.8). -/
def execNop (n : CoreId) (slot : Slot) (after : SlotEnd) (s : State) : Host.Outcome State Fault Refusal :=
  ok (slotCmd n (fun x => match slot with
    | .ls => { x with ls := 0 }
    | .a1 => { x with a1 := 0 }
    | .a2 => { x with a2 := 0 }
    | .ctl => { x with ctl := some (0, 0) }) after s)

/-- ADD (Table 12.6, 0x01). -/
def execAdd (a : ArArgs) (s : State) : Host.Outcome State Fault Refusal := arCmd 0x01 a s

/-- SUB (Table 12.6, 0x02). -/
def execSub (a : ArArgs) (s : State) : Host.Outcome State Fault Refusal := arCmd 0x02 a s

/-- ADDS (Table 12.6, 0x03). -/
def execAdds (a : ArArgs) (s : State) : Host.Outcome State Fault Refusal := arCmd 0x03 a s

/-- SUBS (Table 12.6, 0x04). -/
def execSubs (a : ArArgs) (s : State) : Host.Outcome State Fault Refusal := arCmd 0x04 a s

/-- AND (Table 12.6, 0x05). -/
def execAnd (a : ArArgs) (s : State) : Host.Outcome State Fault Refusal := arCmd 0x05 a s

/-- OR (Table 12.6, 0x06). -/
def execOr (a : ArArgs) (s : State) : Host.Outcome State Fault Refusal := arCmd 0x06 a s

/-- XOR (Table 12.6, 0x07). -/
def execXor (a : ArArgs) (s : State) : Host.Outcome State Fault Refusal := arCmd 0x07 a s

/-- SHL (Table 12.6, 0x08). -/
def execShl (a : ArArgs) (s : State) : Host.Outcome State Fault Refusal := arCmd 0x08 a s

/-- SHLI (Table 12.6, 0x09). -/
def execShli (a : ArArgs) (s : State) : Host.Outcome State Fault Refusal := arCmd 0x09 a s

/-- SRA (Table 12.6, 0x0A). -/
def execSra (a : ArArgs) (s : State) : Host.Outcome State Fault Refusal := arCmd 0x0A a s

/-- SRAI (Table 12.6, 0x0B). -/
def execSrai (a : ArArgs) (s : State) : Host.Outcome State Fault Refusal := arCmd 0x0B a s

/-- SRL (Table 12.6, 0x0C). -/
def execSrl (a : ArArgs) (s : State) : Host.Outcome State Fault Refusal := arCmd 0x0C a s

/-- SRLI (Table 12.6, 0x0D). -/
def execSrli (a : ArArgs) (s : State) : Host.Outcome State Fault Refusal := arCmd 0x0D a s

/-- MOV (Table 12.6, 0x0E). -/
def execMov (a : ArArgs) (s : State) : Host.Outcome State Fault Refusal := arCmd 0x0E a s

/-- ADDI (Table 12.6, 0x0F). -/
def execAddi (a : ArArgs) (s : State) : Host.Outcome State Fault Refusal := arCmd 0x0F a s

/-- MIN (Table 12.6, 0x10). -/
def execMin (a : ArArgs) (s : State) : Host.Outcome State Fault Refusal := arCmd 0x10 a s

/-- MAX (Table 12.6, 0x11). -/
def execMax (a : ArArgs) (s : State) : Host.Outcome State Fault Refusal := arCmd 0x11 a s

/-- ABS (Table 12.6, 0x12). -/
def execAbs (a : ArArgs) (s : State) : Host.Outcome State Fault Refusal := arCmd 0x12 a s

/-- CMPEQ (Table 12.6, 0x13). -/
def execCmpeq (a : ArArgs) (s : State) : Host.Outcome State Fault Refusal := arCmd 0x13 a s

/-- CMPLT (Table 12.6, 0x14). -/
def execCmplt (a : ArArgs) (s : State) : Host.Outcome State Fault Refusal := arCmd 0x14 a s

/-- ADD2 (Table 12.6, 0x15). -/
def execAdd2 (a : ArArgs) (s : State) : Host.Outcome State Fault Refusal := arCmd 0x15 a s

/-- SUB2 (Table 12.6, 0x16). -/
def execSub2 (a : ArArgs) (s : State) : Host.Outcome State Fault Refusal := arCmd 0x16 a s

/-- PACK (Table 12.6, 0x17). -/
def execPack (a : ArArgs) (s : State) : Host.Outcome State Fault Refusal := arCmd 0x17 a s

/-- MUL (Table 12.6, 0x18). -/
def execMul (a : ArArgs) (s : State) : Host.Outcome State Fault Refusal := arCmd 0x18 a s

/-- NORM (Table 12.6, 0x19). -/
def execNorm (a : ArArgs) (s : State) : Host.Outcome State Fault Refusal := arCmd 0x19 a s

/-- EXP (Table 12.6, 0x1A). -/
def execExp (a : ArArgs) (s : State) : Host.Outcome State Fault Refusal := arCmd 0x1A a s

/-- MAC (Table 12.6, 0x20). -/
def execMac (a : ArArgs) (s : State) : Host.Outcome State Fault Refusal := arCmd 0x20 a s

/-- MSU (Table 12.6, 0x21). -/
def execMsu (a : ArArgs) (s : State) : Host.Outcome State Fault Refusal := arCmd 0x21 a s

/-- MPY (Table 12.6, 0x22). -/
def execMpy (a : ArArgs) (s : State) : Host.Outcome State Fault Refusal := arCmd 0x22 a s

/-- MAC2 (Table 12.6, 0x23). -/
def execMac2 (a : ArArgs) (s : State) : Host.Outcome State Fault Refusal := arCmd 0x23 a s

/-- MSU2 (Table 12.6, 0x24). -/
def execMsu2 (a : ArArgs) (s : State) : Host.Outcome State Fault Refusal := arCmd 0x24 a s

/-- MPY2 (Table 12.6, 0x25). -/
def execMpy2 (a : ArArgs) (s : State) : Host.Outcome State Fault Refusal := arCmd 0x25 a s

/-- RND (Table 12.6, 0x28). -/
def execRnd (a : ArArgs) (s : State) : Host.Outcome State Fault Refusal := arCmd 0x28 a s

/-- RNDH (Table 12.6, 0x29). -/
def execRndh (a : ArArgs) (s : State) : Host.Outcome State Fault Refusal := arCmd 0x29 a s

/-- EXPA (Table 12.6, 0x2A). -/
def execExpa (a : ArArgs) (s : State) : Host.Outcome State Fault Refusal := arCmd 0x2A a s

/-- ASH (Table 12.6, 0x2B). -/
def execAsh (a : ArArgs) (s : State) : Host.Outcome State Fault Refusal := arCmd 0x2B a s

/-- CLRA (Table 12.6, 0x2C). -/
def execClra (a : ArArgs) (s : State) : Host.Outcome State Fault Refusal := arCmd 0x2C a s

/-- MOVAL (Table 12.6, 0x2D). -/
def execMoval (a : ArArgs) (s : State) : Host.Outcome State Fault Refusal := arCmd 0x2D a s

/-- MOVAH (Table 12.6, 0x2E). -/
def execMovah (a : ArArgs) (s : State) : Host.Outcome State Fault Refusal := arCmd 0x2E a s

/-- MOVAG (Table 12.6, 0x2F). -/
def execMovag (a : ArArgs) (s : State) : Host.Outcome State Fault Refusal := arCmd 0x2F a s

/-- LDW (Table 12.7, 1); an uncorrectable word faults ECC (R286). -/
def execLdw (a : LsArgs) (ecc : EccRead) (s : State) : Host.Outcome State Fault Refusal := lsCmd 1 a ecc s

/-- LDH (Table 12.7, 2); an uncorrectable word faults ECC (R286). -/
def execLdh (a : LsArgs) (ecc : EccRead) (s : State) : Host.Outcome State Fault Refusal := lsCmd 2 a ecc s

/-- LDHU (Table 12.7, 3); an uncorrectable word faults ECC (R286). -/
def execLdhu (a : LsArgs) (ecc : EccRead) (s : State) : Host.Outcome State Fault Refusal := lsCmd 3 a ecc s

/-- LDD (Table 12.7, 4); an uncorrectable word faults ECC (R286). -/
def execLdd (a : LsArgs) (ecc : EccRead) (s : State) : Host.Outcome State Fault Refusal := lsCmd 4 a ecc s

/-- STW (Table 12.7, 5). -/
def execStw (a : LsArgs) (s : State) : Host.Outcome State Fault Refusal := lsCmd 5 a .clean s

/-- STH (Table 12.7, 6). -/
def execSth (a : LsArgs) (s : State) : Host.Outcome State Fault Refusal := lsCmd 6 a .clean s

/-- STD (Table 12.7, 7). -/
def execStd (a : LsArgs) (s : State) : Host.Outcome State Fault Refusal := lsCmd 7 a .clean s

/-- MOVP (Table 12.7, 8). -/
def execMovp (a : LsArgs) (s : State) : Host.Outcome State Fault Refusal := lsCmd 8 a .clean s

/-- MOVG (Table 12.7, 9). -/
def execMovg (a : LsArgs) (s : State) : Host.Outcome State Fault Refusal := lsCmd 9 a .clean s

/-- MOVM (Table 12.7, 10). -/
def execMovm (a : LsArgs) (s : State) : Host.Outcome State Fault Refusal := lsCmd 10 a .clean s

/-- MODP (Table 12.7, 11). -/
def execModp (a : LsArgs) (s : State) : Host.Outcome State Fault Refusal := lsCmd 11 a .clean s

/-- BR (Table 12.8, 0x01). -/
def execBr (a : CtlArgs) (s : State) : Host.Outcome State Fault Refusal := ctlCmd 0x01 a s

/-- BRL (Table 12.8, 0x02). -/
def execBrl (a : CtlArgs) (s : State) : Host.Outcome State Fault Refusal := ctlCmd 0x02 a s

/-- JR (Table 12.8, 0x03). -/
def execJr (a : CtlArgs) (s : State) : Host.Outcome State Fault Refusal := ctlCmd 0x03 a s

/-- RETI (Table 12.8, 0x04). -/
def execReti (a : CtlArgs) (s : State) : Host.Outcome State Fault Refusal := ctlCmd 0x04 a s

/-- LOOP (Table 12.8, 0x05). -/
def execLoop (a : CtlArgs) (s : State) : Host.Outcome State Fault Refusal := ctlCmd 0x05 a s

/-- REPEAT (Table 12.8, 0x06). -/
def execRepeat (a : CtlArgs) (s : State) : Host.Outcome State Fault Refusal := ctlCmd 0x06 a s

/-- MVC (Table 12.8, 0x07). -/
def execMvc (a : CtlArgs) (s : State) : Host.Outcome State Fault Refusal := ctlCmd 0x07 a s

/-- MOVI (Table 12.8, 0x08). -/
def execMovi (a : CtlArgs) (s : State) : Host.Outcome State Fault Refusal := ctlCmd 0x08 a s

/-- MOVHI (Table 12.8, 0x09). -/
def execMovhi (a : CtlArgs) (s : State) : Host.Outcome State Fault Refusal := ctlCmd 0x09 a s

/-- HALT (Table 12.8, 0x0A). -/
def execHalt (a : CtlArgs) (s : State) : Host.Outcome State Fault Refusal := ctlCmd 0x0A a s

/-- WAIT (Table 12.8, 0x0B). -/
def execWait (a : CtlArgs) (s : State) : Host.Outcome State Fault Refusal := ctlCmd 0x0B a s

/-- POST (Table 12.8, 0x0C). -/
def execPost (a : CtlArgs) (s : State) : Host.Outcome State Fault Refusal := ctlCmd 0x0C a s

/-- TAPREL (Table 12.8, 0x0D). -/
def execTaprel (a : CtlArgs) (s : State) : Host.Outcome State Fault Refusal := ctlCmd 0x0D a s

/-! ## Core control (12.10, 12.11) -/

/-- DETAIL CORE_ACTIVE. -/
def dtCoreActive : Nat := 0xFF60

/-- A core self-test of the Taster ends with no result (R462). -/
def endCoreTest (n : Nat) (s : State) : State :=
  stopTaster (fun run => run.test = 1 && run.inst = n) s

/-- COOPER_LOAD (R287, Table 12.17); BUSY while the DSP region is isolated. -/
def doCooperLoad (r : Req) (s : State) : Res :=
  let w0 := wordAt r.payload 0
  let w1 := wordAt r.payload 1
  let n : CoreId := ⟨wbits w0 0 3, Nat.mod_lt _ (by decide)⟩
  let off := wbits w1 0 19
  let dat := r.payload.drop 2
  let isDm := wbits w0 3 1 = 1
  if rsvdBad r 0 0xF then Res.bad 0 s
  else if rsvdBad r 1 0x7FFFF || off % (if isDm then 4 else 8) ≠ 0 ||
      decide ((if isDm then 0x40000 else 0x10000) < off + 4 * dat.length) then Res.bad 1 s
  else if !isDm && dat.length % 2 = 1 then Res.rep stBadLength (r.payload.length + 1) [] s
  else if s.power.isolated.getLsbD 4 then Res.rep stBusy 0 [] s
  else if !isDm && coreActive s.core[n] then Res.rep stBusy dtCoreActive [] s
  else
    let s := endCoreTest n.val s
    Res.ok [] (s.updCore n fun c =>
      if isDm then c.putDm 2 off ((wordsBytes dat).map some) else c.putIm off ((wordsBytes dat).map some))

/-- COOPER_LOAD (R287). -/
def execCooperLoad (r : Req) (s : State) : Host.Outcome State Fault Refusal := ok (runOp 0x0601 [4] 3 16384 false doCooperLoad r s)

/-- A ring is enabled with a kind in the active RING sets (R499). -/
def ringIs (s : State) (n kind : Nat) : Bool := bfb (s.act 0x80 n) 0 0 && bf (s.act 0x80 n) 0 1 3 = kind

/-- COOPER_START (R307, R499); BUSY while the DSP region is isolated. -/
def doCooperStart (granted : Bool) (r : Req) (s : State) : Res :=
  let n : CoreId := ⟨wbits (wordAt r.payload 0) 0 3, Nat.mod_lt _ (by decide)⟩
  let blk := s.act 0x60 n.val
  if rsvdBad r 0 7 then Res.bad 0 s
  else if !ringIs s (bf blk 0 0 5) 3 then Res.bad dtCross s
  else if s.power.isolated.getLsbD 4 then Res.rep stBusy 0 [] s
  else if coreActive s.core[n] && !(granted && s.core[n].st = .queued) then Res.rep stBusy dtCoreActive [] s
  else
    let s := endCoreTest n.val s
    heavy granted r (.core n) 600 (fun s => s.updCore n fun c => { c with st := .queued })
      (fun s => Res.ok [] (s.updCore n (runCore blk s.time.clk))) s

/-- COOPER_START (R307). -/
def execCooperStart (r : Req) (s : State) : Host.Outcome State Fault Refusal := ok (runOp 0x0602 [4] 1 1 false (doCooperStart false) r s)

/-- A queued COOPER_START of a core. -/
def queuedStart (s : State) (n : CoreId) : Option QReq :=
  s.power.queue.find? fun q => q.req.opcode = 0x0602 && wbits (wordAt q.req.payload 0) 0 3 = n.val

/-- Stop one core, at once where it is at an interruptible bundle (R308). -/
def stopCore (n : CoreId) (s : State) : State :=
  match s.core[n].st with
  | .stopped => s
  | .queued =>
    let s1 := s.updCore n fun c => { c with st := .stopped, stoppedAt := s.time.clk }
    match queuedStart s1 n with
    | some q => (s1.unqueue q).answerQ q stAborted 0
    | none => s1
  | .running => coreEnded n (s.updCore n fun c => stopPoint s.time.clk { c with stopReq := true })
  | _ => coreEnded n (s.updCore n fun c => { landAll c with st := .stopped, stopReq := false, pauseReq := false, stoppedAt := s.time.clk })

/-- COOPER_STOP (R308). -/
def doCooperStop (r : Req) (s : State) : Res :=
  let m := wbits (wordAt r.payload 0) 0 8
  if rsvdBad r 0 0xFF then Res.bad 0 s
  else
    let s1 := (List.finRange 8).foldl (fun s n => if m.testBit n.val then stopCore n s else s) s
    if (List.finRange 8).all fun n => !m.testBit n.val || !coreActive s1.core[n] then Res.ok [] s1
    else Res.later (s1.addOp r (.cooperStop (BitVec.ofNat 8 m)) false)

/-- COOPER_STOP (R308). -/
def execCooperStop (r : Req) (s : State) : Host.Outcome State Fault Refusal := ok (runOp 0x0603 [4] 1 1 false doCooperStop r s)

/-- COOPER_SIGNAL (R313). -/
def doCooperSignal (r : Req) (s : State) : Res :=
  let n : CoreId := ⟨wbits (wordAt r.payload 0) 0 3, Nat.mod_lt _ (by decide)⟩
  if rsvdBad r 0 7 then Res.bad 0 s
  else Res.ok [if s.core[n].msgValid then 1 else 0]
    (s.updCore n fun c => setIpend 5 { c with msgIn := wordAt r.payload 1, msgValid := true })

/-- COOPER_SIGNAL (R313). -/
def execCooperSignal (r : Req) (s : State) : Host.Outcome State Fault Refusal := ok (runOp 0x0604 [4] 2 2 false doCooperSignal r s)

/-- STATE as a number (order of R307). -/
def coreStNum : CoreSt → Nat
  | .stopped => 0
  | .queued => 1
  | .running => 2
  | .waiting => 3
  | .paused => 4
  | .halted => 5
  | .fault => 6

/-- COOPER_STATUS (Table 12.17), with its RC counters. -/
def doCooperStatus (r : Req) (s : State) : Res :=
  let n : CoreId := ⟨wbits (wordAt r.payload 0) 0 3, Nat.mod_lt _ (by decide)⟩
  let c := s.core[n]
  if rsvdBad r 0 7 then Res.bad 0 s
  else Res.ok ([BitVec.ofNat 32 (coreStNum c.st + 256 * (if c.st = .fault then c.cause.toNat else 0) + 65536 * c.pc.toNat)] ++
      split64 c.bundles ++ [c.stalls, c.msgOut, c.taps[(0 : Fin 2)].written, c.taps[(0 : Fin 2)].missed, c.taps[(1 : Fin 2)].written,
      c.taps[(1 : Fin 2)].missed, c.posted, BitVec.ofNat 32 (c.av.toNat + 16 * c.rsat.toNat), c.eccCorr])
    (s.updCore n fun c => { c with
      stalls := 0, posted := 0, eccCorr := 0, taps := c.taps.map fun t => { t with written := 0, missed := 0 } })

/-- COOPER_STATUS (R313). -/
def execCooperStatus (r : Req) (s : State) : Host.Outcome State Fault Refusal := ok (runOp 0x0605 [4] 1 1 false doCooperStatus r s)

/-- COOPER_TIMER (Table 12.11): TIMER µs after the start or the last expiry. -/
def execCooperTimer (n : CoreId) (s : State) : Host.Outcome State Fault Refusal :=
  let us := bf (s.act 0x60 n.val) 2 0 24
  let c := s.core[n]
  if us ≠ 0 && (c.st = .running || c.st = .waiting || c.st = .paused) then
    let due := c.timerAt + us * 10 ^ 6
    ok ((s.goTo due).updCore n fun c => setIpend 4 { c with timerAt := due })
  else ok s

/-- INTERRUPT_TAKE (R300). -/
def execInterruptTake (n : CoreId) (s : State) : Host.Outcome State Fault Refusal :=
  if interruptDue s.core[n] then ok (s.updCore n takeInterrupt) else ok s

/-- What a running core does by itself in one bundle time: an interrupt that is due, else the bundle at its PC. -/
def coreTick (n : CoreId) (s : State) : State :=
  if s.core[n].st = .running then
    if interruptDue s.core[n] then s.updCore n takeInterrupt
    else issueOn n (fetchBundle s.core[n] s.core[n].pc) .clean .clean s
  else s

end Sys2Proof.Machine
end

