-- ==== Sys2Proof/Machine/Taps.lean ====
section
/-! DEFINITION. Cooper taps (12.8): what reaches a tap, its windows, and filling them. -/

namespace Sys2Proof.Machine

/-- Fields of a tap (Table 12.15). -/
def tpFe (b : List Word) : Nat := bf b 0 2 2
def tpFmt (b : List Word) : Nat := bf b 0 4 2
def tpTherm (b : List Word) : Nat := bf b 0 6 2
def tpFirst (b : List Word) : Nat := bf b 1 0 18
def tpCount (b : List Word) : Nat := bf b 2 0 13
def tpBuf (b : List Word) : Nat := bf b 4 0 18
def tpHalf (b : List Word) : Nat := bf b 5 0 18

/-- Rows of a window's cycle. -/
def tpCycle (b : List Word) : Nat := if tpKind b = 3 then 1 else max 1 (tpShots b)

/-- An element in a phase format (Table 6.1). -/
def elemBytes (fmt : Nat) (e : Elem) : List Byte :=
  match fmt with
  | 0 => (wordBytes (Word.ofInt e.rate)).take 2
  | 1 => (wordBytes (Word.ofInt e.rate)).take 2 ++ (wordBytes (BitVec.ofNat 32 e.amp)).take 2 ++
      wordBytes (BitVec.ofNat 32 (e.fq % 256 + 256 * e.faded.toNat + 512 * e.bridged.toNat + 1024 * e.init.toNat + 2048 * e.edge.toNat))
  | _ => wordBytes e.unwrap

/-- Stride of a tap's row (R302). -/
def tpStride (b : List Word) : Nat :=
  match tpKind b with
  | 1 => ceilDiv (tpCount b * [2, 8, 4].getD (tpFmt b) 2) 32 * 32
  | 2 => ceilDiv (tpCount b * 8) 32 * 32
  | _ => 0

/-- Bytes padded with zeros, or cut, to a length. -/
def fitBytes (n : Nat) (l : List Byte) : List Byte := (l ++ List.replicate (n - l.length) 0).take n

/-- A row as a tap of KIND 1 takes it: channels past N_CH are 0 and make the window INVALID. -/
def rowFor (b : List Word) (r : Row) : TapRow :=
  let here := (r.elems.drop (tpFirst b)).take (tpCount b)
  let fl := r.flags ||| flagBit flInvalid (r.elems.length < tpFirst b + tpCount b) ||| flagBit flEdge (here.any (·.edge))
  ⟨fitBytes (tpStride b) (here.flatMap (elemBytes (tpFmt b))), fl, r.ppn, r.group, r.time⟩

/-- A zone snapshot entry of 8 bytes (R302, KIND 2). -/
def zoneSnap (s : State) (z : Nat) : List Byte :=
  let x := s.zone z
  wordsBytes (split64 (BitVec.ofNat 64 (x.e / 2 ^ 16 % 2 ^ 48 + 2 ^ 48 * x.on.toNat + 2 ^ 49 * x.latched.toNat + 2 ^ 50 * (bfb x.entry 0 0).toNat)))

/-- A snapshot as a tap of KIND 2 takes it with a row of its engine. -/
def snapFor (s : State) (b : List Word) (r : Row) : TapRow :=
  ⟨fitBytes (tpStride b) (((List.range (tpCount b)).map (tpFirst b + ·)).flatMap fun z => if z < 2048 then zoneSnap s z else List.replicate 8 0),
    0, r.ppn, r.group, s.now⟩

/-- The header of a window (Table 12.13). -/
def tapHeader (t : Tap) (b : List Word) (trunc : Bool) : List Word :=
  let f := t.rows.headD ⟨[], 0, 0, 0, 0⟩
  let fl := (t.rows.map (·.flags)).foldl (· ||| ·) (0 : BitVec 16)
  [BitVec.ofNat 32 ((t.wseq - 1).toNat + 65536 * min 65535 t.missedRun), BitVec.ofNat 32 (fl.toNat + 65536 * trunc.toNat + 131072 * t.short.toNat)] ++
    split64 (BitVec.ofNat 64 (f.ppn.toNat + 2 ^ 48 * f.group)) ++ split64 f.time ++
    [BitVec.ofNat 32 t.rows.length, BitVec.ofNat 32 (tpStride b)]

/-- The window of a tap ends: written to its half with TAPST and IPEND set (R303). -/
def closeTap (n : CoreId) (k : Fin 2) (s : State) : State :=
  let t := s.core[n].taps[k]
  let b := t.flds
  if t.rows.isEmpty then s
  else
    let room := tpHalf b - 32
    let data := t.rows.flatMap (·.bytes)
    let trunc := tpKind b = 3 && decide (room < data.length)
    let bytes := wordsBytes (tapHeader t b trunc) ++ (if trunc then data.take room else data)
    s.updCore n fun c => setIpend (1 + k.val) { c.putDm 0 (tpBuf b + (if t.half then tpHalf b else 0)) (bytes.map some) with
      tapst := c.tapst ||| ((1 : BitVec 4) <<< (2 * k.val + t.half.toNat))
      taps := c.taps.set k { t with
        rows := [], skip := t.short, short := false, half := !t.half, written := addSat t.written 1, missedRun := 0 } }

/-- The tap is served: its core runs, waits or is paused (R303, R304). -/
def tapLive (c : Core) : Bool := c.st = .running || c.st = .waiting || c.st = .paused

/-- TAP_WINDOW_FILL (R303): a window that has all its rows is written. -/
def execTapWindowFill (n : CoreId) (k : Fin 2) (s : State) : Host.Outcome State Fault Refusal :=
  let t := s.core[n].taps[k]
  if tapLive s.core[n] && (tapFull t || t.short) then ok (closeTap n k s) else ok s

/-- A window begins (R303): it is missed while its half is still marked ready, and lost while the core is paused (R304). -/
def openTap (n : CoreId) (k : Fin 2) (s : State) : State :=
  s.updCore n fun c =>
    let t := c.taps[k]
    let t := { t with wseq := t.wseq + 1, count := 0, rows := [], miss := false, lost := false, skip := false, short := false }
    let t' := if c.st = .paused then t.lose
      else if c.tapst.getLsbD (2 * k.val + t.half.toNat) then { t.lose with lost := false, miss := true }
      else t
    { c with taps := c.taps.set k t' }

/-- The tap takes the fields of its set at a window boundary where they have changed, and restarts with the next row, snapshot or record (R304). -/
def tapFields (n : CoreId) (k : Fin 2) (s : State) : State :=
  let new := tapFlds (s.act 0x60 n.val) k.val
  s.updCore n fun c =>
    let t := c.taps[k]
    if t.flds = new then c
    else { c with
      tapst := c.tapst &&& ~~~((3 : BitVec 4) <<< (2 * k.val))
      taps := c.taps.set k { written := t.written, missed := t.missed, flds := new } }

/-- One row, snapshot instant or record reaches a tap: `item` gives its bytes under the tap's fields. -/
def tapTake (n : CoreId) (k : Fin 2) (item : List Word → TapRow) (s0 : State) : State :=
  let t0 := s0.core[n].taps[k]
  let atEnd := t0.count = 0 || tpCycle t0.flds ≤ t0.count
  let s1 := if atEnd || t0.short then closeTap n k s0 else s0
  let s2 := if atEnd then openTap n k s1 else s1
  s2.updCore n fun c =>
    let t := c.taps[k]
    let take := !t.miss && !t.lost && !t.skip && (tpKind t.flds ≠ 2 || t.count = 0)
    { c with taps := c.taps.set k { t with count := t.count + 1, rows := if take then t.rows ++ [item t.flds] else t.rows } }

/-- Every tap of every live core. -/
def eachTap (f : CoreId → Fin 2 → State → State) (s : State) : State :=
  (List.finRange 8).foldl (fun s n =>
    if tapLive s.core[n] then (List.finRange 2).foldl (fun s k => f n k s) s else s) s

/-- A tap's window boundary lies here, so changed fields may take effect (R304). -/
def atBoundary (t : Tap) : Bool := t.count = 0 || decide (tpCycle t.flds ≤ t.count)

/-- Close the open window of a tap whose fields have changed and let the new ones in. -/
def tapRefresh (n : CoreId) (k : Fin 2) (s : State) : State :=
  let t := s.core[n].taps[k]
  if atBoundary t && t.flds ≠ tapFlds (s.act 0x60 n.val) k.val then tapFields n k (closeTap n k s) else s

/-- A shot row reaches the taps of its engine (R302, R303). -/
def tapsRow (r : Row) (s : State) : State :=
  eachTap (fun n k s0 =>
    let s := tapRefresh n k s0
    let t := s.core[n].taps[k]
    let b := t.flds
    if (tpKind b = 1 || tpKind b = 2) && tpFe b = r.fe.val && t.since < r.t then
      tapTake n k (fun b => if tpKind b = 2 then snapFor s b r else rowFor b r) s
    else s) s

/-- A thermal record reaches the taps that take its kind (R302, KIND 3). -/
def tapsRecord (f : Fe) (kind : Nat) (bytes : List Byte) (flags : BitVec 16) (ppn : BitVec 48) (time : BitVec 64) (s : State) : State :=
  eachTap (fun n k s0 =>
    let s := tapRefresh n k s0
    let b := s.core[n].taps[k].flds
    if tpKind b = 3 && tpFe b = f.val && tpTherm b = kind then tapTake n k (fun _ => ⟨bytes, flags, ppn, 0, time⟩) s else s) s

/-- The engine has stopped: the open windows of its row taps close at its last row, SHORT (R303). -/
def tapsStop (f : Fe) (s : State) : State :=
  eachTap (fun n k s =>
    let t := s.core[n].taps[k]
    if tpFe t.flds = f.val && tapUnderWay t then s.updCore n fun c => { c with taps := c.taps.set k { t with short := true } } else s) s

end Sys2Proof.Machine
end

