-- ==== Sys2Proof/Machine/Thermal.lean ====
section
/-! DEFINITION. Thermal profiling (09): Raman accumulation, temperatures, calibration, fusion, records and the thermal opcodes. -/

namespace Sys2Proof.Machine

/-! ## The sets -/

def thEn (b : List Word) : Bool := bfb b 0 0
def thNBin (b : List Word) : Nat := bf b 2 0 17
def thSub (b : List Word) : Nat := max 1 (bf b 3 0 17)
def thInt (b : List Word) : Nat := max 1 (bf b 4 0 16)
def thRing (b : List Word) : RingId := ringOf (bf b 0 8 5)
def fuseFirst (b : List Word) : Nat := bf b 8 0 18
def fuseStep (b : List Word) : Nat := max 1 (bf b 10 0 8)
def calSects (cal : List Word) : Nat := bf cal 0 0 6
def ramanDiv (p : List Word) : Nat := bf p 6 0 9
def ramanPhase (p : List Word) : Nat := bf p 6 16 8
def ramanOffset (p : List Word) : Nat := bf p 7 0 24

/-- p_0 = round(BIN0_OFFSET / d_R) (R221). -/
def binZero (recv therm : List Word) : Nat :=
  (roundEven (bf therm 1 0 32 * bf recv 4 0 21 * 250000000) (1000 * 299792458 * 2 ^ 20)).toNat

/-- z in metres of sample p as a rational: p × d_R. -/
def zRat (recv : List Word) (p : Rat) : Rat := p * (299792458 * 2 ^ 20 : Nat) / ((max 1 (bf recv 4 0 21) * 250000000 : Nat) : Rat)

/-- q of a Raman shot (R223). -/
def shotIndex (p : List Word) (ppn : BitVec 48) : Nat := (ppn - BitVec.ofNat 48 (ramanPhase p)).toNat / max 1 (ramanDiv p)

/-- T_int in ps. -/
def tInt (probe therm : List Word) : Nat := thSub therm * thInt therm * max 1 (ramanDiv probe) * periodPs probe

/-- Integer nearest to a rational, halves to even or away. -/
def ratEven (x : Rat) : Int := roundEven x.num x.den
def ratAway (x : Rat) : Int := roundAway x.num x.den

/-! ## Resampling (R130, R220) -/

/-- The mean of each `n` consecutive samples, half to even. -/
def meanOf (n : Nat) : Nat → List Int → List Int
  | 0, _ => []
  | k + 1, l => if l.length < n then [] else roundEven ((l.take n).foldl (· + ·) 0) n :: meanOf n k (l.drop n)

/-- One polarity's samples at 125 MS/s from the link's. -/
def resample (recv : List Word) (l : List Int) : List Int :=
  let r := bf recv 1 16 3
  let dec := bfb recv 0 24
  let s := if dec then meanOf 2 l.length l else l
  -- stream rate in 62.5 MS/s
  match (if dec then r else 2 * r) with
  | 2 => s
  | 3 => (List.range (s.length * 2 / 3)).map fun i => satInt 16 (Config.resample187 s i)
  | n => meanOf (n / 2) s.length s

/-- Link samples that a window of `n` resampled samples needs. -/
def linkSamples (recv : List Word) (n : Nat) : Nat := n * bf recv 1 16 3

/-! ## Accumulation (R223-R226) -/

/-- A sum that starts with a fire. -/
def newSum (f : Fire) : RamanSum :=
  ⟨List.replicate (thNBin f.therm) (0, 0), 0, 0, 0, f.holdover, f.ppn, f.time, f.stop, f.t, f, false⟩

/-- Add one shot's bins. -/
def addBins : List (Int × Int) → List Int → List Int → List (Int × Int)
  | (a, b) :: r, x :: xs, y :: ys => (a + x, b + y) :: addBins r xs ys
  | l, _, _ => l

/-- Fold a finished sub-interval into its interval, or exclude it whole (R225, R226). -/
def foldSub (fe : Fe) (found : EccRead) (s : State) : State :=
  match (s.therm[fe]).done with
  | none => s
  | some (d, last) =>
    let ecc := found = .uncorrectable
    let d1 := if ecc then { d with sums := d.sums.map fun _ => (0, 0), used := 0, clipped := 0, excluded := d.excluded + d.used } else d
    let s1 := s.updTherm fe fun t =>
      let m : RamanSum := match t.sums with
        | none => d1
        | some x => { x with
          sums := List.zipWith (fun a b => (a.1 + b.1, a.2 + b.2)) x.sums d1.sums
          used := x.used + d1.used, clipped := x.clipped + d1.clipped, excluded := x.excluded + d1.excluded
          holdover := x.holdover || d1.holdover, stop := d1.stop, last := d1.last, overrun := x.overrun || d1.overrun }
      { t with
        done := none, sums := if last then none else some m, complete := if last then t.complete ++ [m] else t.complete
        excluded := if ecc then addSat t.excluded d.used else t.excluded }
    -- the word of the engine's area that holds the accumulator is not stated
    if found = .clean then s1
    else vatEcc ⟨fe.val, by omega⟩ ((Config.freeWord s.free 226).toNat % 0x2800000) found { s1 with free := s1.free + 1 }

/-- SUBINTERVAL_FOLD (R225): what reading the accumulators finds. -/
def execSubintervalFold (fe : Fe) (ecc : EccRead) (s : State) : Host.Outcome State Fault Refusal := ok (foldSub fe ecc s)

/-- Clips among samples of a converter (R129), which come from instant `t` on at a rate in kHz, at `from_` or later: samples that two windows share
count once. -/
def clipsFrom (from_ t rate : Nat) (l : List Int) : Nat :=
  (((List.range l.length).zip l).filter fun p => (p.2 = 32767 || p.2 = -32768) && decide (from_ ≤ t + p.1 * 10 ^ 9 / max 1 rate)).length

/-- The instant of the sample after a number of them. -/
def samplesEnd (t rate n : Nat) : Nat := t + n * 10 ^ 9 / max 1 rate

/-- The THERM and THERM_CAL sets under which an interval is evaluated whose last shot's window ends at `done`: those active then (R229), but those of
the last fire where a commit applied at the boundary of that period (R239). -/
def evalSets (fe : Fe) (f : Fire) (done : Nat) (s : State) : Fire :=
  let x := s.fe[fe]
  if x.applyAt.any fun b => decide (f.t < b) && decide (done < b + periodPs (s.act 0x10 fe.val)) then f
  else { f with therm := s.act 0x30 fe.val, cal := s.act 0x31 fe.val }

/-- RAMAN_SHOT_ACCUMULATE (R224): the oldest fire's shot. A shot of which samples were lost inside the device is left out as one with missing samples
is, and reported (R17, R150). -/
def execRamanShotAccumulate (fe : Fe) (x : RamanShot) (s : State) : Host.Outcome State Fault Refusal :=
  match (s.therm[fe]).fires with
  | [] => ok s
  | f :: rest =>
    let p0 := binZero f.recv f.therm
    let n := thNBin f.therm
    let done := f.t + (p0 + n) * 8000
    let s0 := (s.goTo done).updTherm fe fun t => { t with fires := rest }
    let q := shotIndex f.probe f.ppn
    let sub := thSub f.therm
    let th := s0.therm[fe]
    let rate := 125000 * bf f.recv 1 16 3
    let swap := bfb f.recv 0 18
    let pick := fun (y : PairSamples) (second : Bool) => if swap != second then y.c1 else y.c0
    let y := fromOrigin (ramLatency f.recv) x.pair
    -- the window: the link samples of the bins
    let lo := linkSamples f.recv p0
    let hi := linkSamples f.recv (p0 + n)
    let lost := x.lost && shedLast s
    let missing := lost || (y.bad.any fun i => lo ≤ i && i < hi) ||
      taintMeets (s.fe[fe]).taintB (s.fe[fe]).outage[1] (f.t + p0 * 8000) done
    let full := fun (l : List Int) => ((l.take hi).drop lo).any fun v => v = 32767 || v = -32768
    let clipped := full (pick y false) || full (pick y true)
    let clips := fun (b : Bool) => clipsFrom (s.fe[fe]).clipTo[1] f.t rate (pick x.pair b)
    let next := match rest with | g :: _ => g.t | [] => done
    let s1 := s0.updFe fe fun e => { e with
      clips := (e.clips.set 2 (min 65535 (e.clips[2] + clips false))).set 3 (min 65535 (e.clips[3] + clips true))
      clipTo := e.clipTo.set 1 (max e.clipTo[1] (samplesEnd f.t rate x.pair.c0.length))
      taintB := e.taintB.filter fun (i : Nat × Nat) => next < i.2 }
    let s1 := if lost then s1.raise vecFault else s1
    let acc := if q % sub = 0 then some (newSum f) else th.acc
    match acc with
    | none => ok s1
    | some m =>
      let m1 : RamanSum := { m with holdover := m.holdover || f.holdover, stop := f.stop, last := f, overrun := m.overrun || lost }
      let m2 : RamanSum :=
        if missing then { m1 with excluded := m1.excluded + 1 }
        else { m1 with
          sums := addBins m1.sums ((resample f.recv (pick y false)).drop p0) ((resample f.recv (pick y true)).drop p0)
          used := m1.used + 1, clipped := m1.clipped + clipped.toNat }
      let ends := q % sub = sub - 1
      let whole := decide ((q + 1) % (sub * thInt f.therm) = 0)
      let m3 : RamanSum := if ends && whole then { m2 with last := evalSets fe f done s } else m2
      let s2 := if ends then foldSub fe .clean s1 else s1
      ok (s2.updTherm fe fun t => { t with
        excluded := if missing then addSat t.excluded 1 else t.excluded
        accumulating := t.accumulating || decide (t.restart ≤ f.ppn)
        acc := if ends then none else some m2
        done := if ends then some (m3, whole) else t.done })

/-- The fires that a Raman restart leaves: up to the last shot of an interval, where its window ends by an instant (R239). -/
def keptFires (until_ : Nat) : List Fire → List Fire
  | [] => []
  | f :: r =>
    let last := decide ((shotIndex f.probe f.ppn + 1) % (thSub f.therm * thInt f.therm) = 0)
    if last && decide (f.t + (binZero f.recv f.therm + thNBin f.therm) * 8000 < until_) then [f]
    else match keptFires until_ r with
      | [] => []
      | l => f :: l

/-- A Raman restart at a boundary (Table 9.3). An interval whose last shot has been fired, and which completes in the period that the boundary begins,
is not discarded (R239). -/
def ramanRestart (fe : Fe) (ppn : BitVec 48) (b : Nat) (s : State) : State :=
  s.updTherm fe fun t =>
    let fires := keptFires (b + periodPs (s.act 0x10 fe.val)) t.fires
    let ended := match t.done with | some (_, last) => last | none => false
    let base := { t with
      fires := fires, restart := ppn, accumulating := false, disc := (t.disc.set 0 true).set 2 true }
    if !fires.isEmpty then base
    else if ended then { base with acc := none }
    else { base with acc := none, done := none, sums := none }

/-! ## Temperature (R228, R229) -/

/-- Background of each polarity over the interval: sum over its bins, and their number. -/
def background (m : RamanSum) : Int × Int × Nat :=
  let b := m.last.therm
  let n := bf b 6 0 13
  let l := (m.sums.drop (bf b 5 0 17)).take n
  (l.foldl (fun s x => s + x.1) 0, l.foldl (fun s x => s + x.2) 0, n)

/-- S' and AS' of sums less background, both times BG_COUNT (or 1). -/
def lessBg (m : RamanSum) (x : Int × Int) (bins : Nat) : Int × Int :=
  let (bs, bas, n) := background m
  if n = 0 then x else (x.1 * n - bs * bins, x.2 * n - bas * bins)

/-- The section of a bin in a THERM_CAL set. -/
def sectOf (cal : List Word) (i : Nat) : Option Nat :=
  (List.range (calSects cal)).find? fun k => bf cal (24 + 6 * k) 0 17 ≤ i && i ≤ bf cal (25 + 6 * k) 0 17

/-- γ, C and Δα of a section, and FUSE. -/
def sectGamma (cal : List Word) (k : Nat) : Int := bfs cal (26 + 6 * k) 0 32
def sectC (cal : List Word) (k : Nat) : Int := bfs cal (27 + 6 * k) 0 32
def sectDalpha (cal : List Word) (k : Nat) : Int := bfs cal (28 + 6 * k) 0 32
def sectFuse (cal : List Word) (k : Nat) : Bool := bfb cal (24 + 6 * k) 17

/-- ln of a positive ratio as a rational. -/
def lnRat (num den : Nat) : Rat := (lnFx num den : Rat) / (fx : Rat)

/-- Temperature of bin i, m°C (R229). -/
def binTemp (seed : Nat) (m : RamanSum) (i : Nat) (x : Int × Int) : Option Int :=
  let cal := m.last.cal
  match sectOf cal i with
  | none => none
  | some k =>
    let (a, b) := lessBg m x 1
    if a ≤ 0 || b ≤ 0 then none
    else
      let z := zRat m.last.recv ((binZero m.last.recv m.last.therm + i : Nat) : Rat)
      let d : Rat := (sectC cal k : Rat) / (2 ^ 24 : Nat) - lnRat b.toNat a.toNat + (sectDalpha cal k : Rat) * z / (2 ^ 36 : Nat)
      if d ≤ 0 then none
      else
        let t := ratEven ((sectGamma cal k : Rat) / (2 ^ 16 : Nat) / d * 1000 - 273150) + clamp (-1) 1 (Config.ramanDev seed i)
        if t < -273150 || 2147483647 < t then none else some t

/-- Every bin's temperature. -/
def binTemps (seed : Nat) (m : RamanSum) : List (Option Int) :=
  ((List.range m.sums.length).zip m.sums).map fun p => binTemp seed m p.1 p.2

/-- The prefix of an interval's records (Table 9.5a). -/
def ramanPrefix (m : RamanSum) : List Word :=
  let (bs, bas, n) := background m
  let per := fun (x : Int) => if n = 0 || m.used = 0 then 0 else satInt 32 (roundEven (x * 256) (n * m.used))
  [0x101, satWord m.used, satWord (thSub m.last.therm * thInt m.last.therm), BitVec.ofNat 32 (min 65535 m.clipped + 65536 * min 65535 m.excluded),
    Word.ofInt (per bs), Word.ofInt (per bas), 0, 0]

/-! ## Calibration (R230-R232) -/

/-- What a reference gives over an interval: ln R, z, T in K, T_REF and spread in m°C; or the DETAIL of its failure. -/
structure RefMeas where
  lnR : Rat
  z : Rat
  t : Rat
  spread : Int

/-- The reference bins' sums less background. -/
def refSums (m : RamanSum) (r : Nat) : Int × Int :=
  let cal := m.last.cal
  let n := bf cal (9 + 4 * r) 0 13
  let l := (m.sums.drop (bf cal (8 + 4 * r) 0 17)).take n
  lessBg m (l.foldl (fun s x => (s.1 + x.1, s.2 + x.2)) (0, 0)) n

/-- Measure one reference (R230, Table 9.2). -/
def measureRef (m : RamanSum) (aux : List AuxSample) (r : Nat) : Except Nat RefMeas :=
  let cal := m.last.cal
  let first := bf cal (8 + 4 * r) 0 17
  let n := max 1 (bf cal (9 + 4 * r) 0 13)
  let mine := aux.filter fun x => x.input.val = bf cal (9 + 4 * r) 16 4 && (m.time ≤ x.time && x.time < m.stop)
  let vals := mine.filterMap (·.value)
  let user := bfb cal (9 + 4 * r) 20
  let spread : Int := if user then 0 else vals.foldl max (vals.headD 0) - vals.foldl min (vals.headD 0)
  let (a, b) := refSums m r
  if !user && (mine.length < 4 || mine.any (·.bad) || vals.length ≠ mine.length) then .error 0xFF40
  else if 100 < spread then .error 0xFF41
  else if a ≤ 0 || b ≤ 0 then .error 0xFF43
  else
    let mc : Rat := if user then (bfs cal (10 + 4 * r) 0 32 : Rat) else ((vals.foldl (· + ·) 0 : Int) : Rat) / (vals.length : Rat)
    .ok ⟨lnRat b.toNat a.toNat,
      zRat m.last.recv ((binZero m.last.recv m.last.therm + first : Nat) + ((n - 1 : Nat) : Rat) / 2), mc / 1000 + 27315 / 100, spread⟩

/-- Every reference of a mask, or the first failure. -/
def measureAll (m : RamanSum) (aux : List AuxSample) : List Nat → Except Nat (List RefMeas)
  | [] => .ok []
  | r :: l => match measureRef m aux r with
    | .error d => .error d
    | .ok x => match measureAll m aux l with
      | .error d => .error d
      | .ok y => .ok (x :: y)

/-- Sum of rationals. -/
def sumRat (l : List Rat) : Rat := l.foldl (· + ·) 0

/-- The determinant of a 3 × 3 matrix by rows. -/
def det3 (a b c d e f g h i : Rat) : Rat := a * (e * i - f * h) - b * (d * i - f * g) + c * (d * h - e * g)

/-- Least squares for (C, Δα, γ) in ln R = C + Δα z − γ / T (R231). -/
def leastSquares (l : List RefMeas) : Option (Rat × Rat × Rat) :=
  let n : Rat := (l.length : Rat)
  let sz := sumRat (l.map (·.z))
  let sx := sumRat (l.map fun r => -(1 / r.t))
  let szz := sumRat (l.map fun r => r.z * r.z)
  let szx := sumRat (l.map fun r => -(r.z / r.t))
  let sxx := sumRat (l.map fun r => 1 / (r.t * r.t))
  let sy := sumRat (l.map (·.lnR))
  let szy := sumRat (l.map fun r => r.z * r.lnR)
  let sxy := sumRat (l.map fun r => -(r.lnR / r.t))
  let d := det3 n sz sx sz szz szx sx szx sxx
  if d = 0 then none
  else some (det3 sy sz sx szy szz szx sxy szx sxx / d, det3 n sy sx sz szy szx sx sxy sxx / d, det3 n sz sy sz szz szy sx szx sxy / d)

/-- Spread of a list of rationals. -/
def spreadRat (l : List Rat) : Rat := l.foldl max (l.headD 0) - l.foldl min (l.headD 0)

/-- Solve the constants (C, Δα, γ) under a MODE with those held (Table 9.1). -/
def solveCal (mode : Nat) (held : Rat × Rat × Rat) (l : List RefMeas) : Option (Rat × Rat × Rat) :=
  let (_, hd, hg) := held
  match mode, l with
  | 0, [a, b] =>
    if spreadRat [a.z, b.z] < 1000 then none
    else
      let ya := a.lnR + hg / a.t
      let yb := b.lnR + hg / b.t
      let d := (ya - yb) / (a.z - b.z)
      some (ya - d * a.z, d, hg)
  | 1, [a, b] =>
    if spreadRat [a.t, b.t] < 10 then none
    else
      let va := a.lnR - hd * a.z
      let vb := b.lnR - hd * b.z
      let g := -((va - vb) / (1 / a.t - 1 / b.t))
      some (va + g / a.t, hd, g)
  | 2, l =>
    if l.length < 3 || 4 < l.length || spreadRat (l.map (·.z)) < 1000 || spreadRat (l.map (·.t)) < 10 then none else leastSquares l
  | _, _ => none

/-- RESID_RMS in m°C: the temperatures the solved constants give at the references against those measured. -/
def residRms (c d g : Rat) (l : List RefMeas) : Nat :=
  let e := l.map fun r => let den := c + d * r.z - r.lnR; if den = 0 then 0 else (g / den - r.t) * 1000
  let m := sumRat (e.map fun x => x * x) / max 1 (l.length : Rat)
  ((Nat.sqrt (4 * m.num.natAbs / m.den)) + 1) / 2

/-- What a calibration answers on an interval: a DETAIL of failure, or the stored constants and the result words (Table 9.8). -/
def calibrate (m : RamanSum) (aux : List AuxSample) (active : List Word) (w0 w1 : Word) : Except Nat (Int × Int × Int × List Word) :=
  let mode := wbits w0 2 2
  let refs := (List.range 4).filter fun r => (wbits w0 4 4).testBit r
  let k := ((List.range 32).find? fun i => w1.getLsbD i).getD 0
  let held : Rat × Rat × Rat := ((sectC active k : Rat) / (2 ^ 24 : Nat), (sectDalpha active k : Rat) / (2 ^ 36 : Nat), (sectGamma active k : Rat) / (2 ^ 16 : Nat))
  match measureAll m aux refs with
  | .error d => .error d
  | .ok l => match solveCal mode held l with
    | none => .error 0xFF42
    | some (c, d, g) =>
      let gs := ratAway (g * (2 ^ 16 : Nat))
      let cs := ratAway (c * (2 ^ 24 : Nat))
      let ds := ratAway (d * (2 ^ 36 : Nat))
      if gs < 6553600 || 131072000 < gs || 1073741824 < cs.natAbs || 68719477 < ds.natAbs then .error 0xFF42
      else .ok (gs, cs, ds, [Word.ofInt gs, Word.ofInt cs, Word.ofInt ds, BitVec.ofNat 32 (if mode = 2 then residRms c d g l else 0),
        m.ppn.extractLsb' 0 32, BitVec.ofNat 32 (m.ppn.toNat / 2 ^ 32)] ++
        l.flatMap fun r => [Word.ofInt (satInt 32 (ratAway (r.lnR * (2 ^ 24 : Nat)))), Word.ofInt (ratEven (r.z * 1000)),
          Word.ofInt (ratEven (r.t * 1000 - 273150)), Word.ofInt r.spread])

/-- The running THERM_CALIBRATE of an engine. -/
def calOp (s : State) (fe : Fe) : Option Op := s.opWhere fun k => match k with | .thermCal f _ _ => f = fe | _ => false

/-- Write the solved constants into the shadow sections of a mask (R232). -/
def writeCal (fe : Fe) (w1 : Word) (g c d : Int) (s : State) : State :=
  let b := bid 0x31 fe.val
  let blk := (List.range 32).foldl (fun (l : List Word) k =>
    if w1.getLsbD k then ((l.set (26 + 6 * k) (Word.ofInt g)).set (27 + 6 * k) (Word.ofInt c)).set (28 + 6 * k) (Word.ofInt d) else l)
    (getBlk s.params.shadow b)
  s.setShad b blk

/-- An interval that began after the command decides the calibration (R232). -/
def decideCal (fe : Fe) (m : RamanSum) (aux : List AuxSample) (s : State) : State :=
  match calOp s fe with
  | none => s
  | some o => match o.kind with
    | .thermCal _ w0 w1 =>
      if m.t < o.start then s
      else match calibrate m aux (s.act 0x31 fe.val) w0 w1 with
        | .error d => s.finish o stBadParam d []
        | .ok (g, c, d, ws) =>
          if !w0.getLsbD 8 then s.finish o stOk 0 ws
          else if locked s ((1 : BitVec 6) <<< fe.val) then s.finish o stBusyCommit 0 ws
          else (writeCal fe w1 g c d s).finish o stOk 0 ws
    | _ => s

/-! ## Fusion (R233-R236) -/

/-- The sample position, as a rational, of the centre of an output channel on the Raman grid; none for an edge channel (R160, R235). -/
def centreOf (recv phase : List Word) (j : Nat) : Option Rat :=
  let a := edgeA phase recv
  let b := edgeB phase recv
  if j < a || nChOf recv ≤ j + b then none
  else some ((sOf recv j + (b - a) * bf recv 5 0 8 * 4 : Nat) * (decD recv : Rat) / ((64 * bf recv 1 0 5 : Nat) : Rat))

/-- The section of a channel and its position in bins of the profile. -/
def chanSect (f : Fire) (j : Nat) : Option (Nat × Rat) :=
  match centreOf f.recv f.phase j with
  | none => none
  | some p =>
    let x := p - (binZero f.recv f.therm : Rat)
    let i := (x + 1 / 2).floor
    if i < 0 then none else match sectOf f.cal i.toNat with
      | some k => some (k, x)
      | none => none

/-- T_R of a channel in 2^-16 m°C (R235). -/
def ramanAt (cal : List Word) (temps : List (Option Int)) (k : Nat) (x : Rat) : Option Int :=
  let lo := bf cal (24 + 6 * k) 0 17
  let hi := bf cal (25 + 6 * k) 0 17
  let i := (max (lo : Int) (min (hi : Int) x.floor)).toNat
  let j := min hi (i + 1)
  let f := if x < (lo : Rat) then 0 else if (hi : Rat) < x then 0 else x - (i : Rat)
  match temps.getD i none, temps.getD j none with
  | some a, some b => some (ratEven (((a : Rat) + ((b - a : Int) : Rat) * f) * 65536))
  | some a, none => if f = 0 then some (a * 65536) else none
  | _, _ => none

/-- Channels of the fused output. -/
def fusedChans (therm : List Word) : List Nat := (List.range (fusedCount therm)).map fun m => fuseFirst therm + m * fuseStep therm

/-- An interval completes for the fused channels (R236). -/
def fuseInterval (fe : Fe) (m : RamanSum) (temps : List (Option Int)) (s : State) : State :=
  let therm := s.act 0x30 fe.val
  if !bfb therm 0 3 then s
  else
    let now := s.time.clk
    let seeds := m.last.cal == s.act 0x31 fe.val
    s.updTherm fe fun t =>
      let t' := { t with fused := ((fusedChans therm).zip t.fused).map fun (p : Nat × FusedCh) =>
        let j := p.1
        let c := p.2
        let tr := match chanSect m.last j with
          | some (k, x) => (ramanAt m.last.cal temps k x).map fun v => (v, sectFuse m.last.cal k)
          | none => none
        match tr with
        | none => { c with tf := none, sum := 0, n := 0, corr := none }
        | some (v, fuse) =>
          -- a reseed for constants that this interval is not evaluated under waits for the next one
          if c.tf.isNone || (c.reseed && seeds) then
            { c with tf := some v, seeded := now, reseed := c.reseed && !seeds, still := !fuse, corr := none, sum := 0, n := 0, overrun := m.overrun }
          else if !fuse then { c with tf := some v, still := true, corr := none, sum := 0, n := 0, overrun := m.overrun }
          else { c with still := false, corr := if c.n = 0 then none else some (v * c.n - c.sum, c.n), sum := 0, n := 0 } }
      -- channels that take the Raman value take it now; the others are corrected at the first epoch end (R236, R241)
      let direct := (t'.fused.zip t.fused).any fun p => p.1.tf ≠ p.2.tf
      { t' with
        corr := some (tInt m.last.probe m.last.therm, ramanPrefix m, m.overrun), prefixW := if direct then ramanPrefix m else t.prefixW }

/-- The common-mode drift of an epoch; none where every common-mode channel is broken (R233). -/
def commonMode (therm : List Word) (e : Epoch) (ktg : Rat) (dCoil : Rat) : Option Rat :=
  if !bfb therm 0 4 then some 0
  else
    let l := ((e.chans.drop (bf therm 11 0 18)).take (bf therm 12 0 11)).filter fun c => !c.2.2
    if l.isEmpty then none else some (((l.foldl (fun s c => s + c.1) 0 : Int) : Rat) / (l.length : Rat) - ktg * dCoil)

/-- The latest result of every aux input in m°C; none where it is missing or carries OVR or BRK (R233). -/
def auxLatest (s : State) : List (Option Int) :=
  s.aux.inp.toList.map fun w =>
    let w1 := wordAt w.latest 1
    if wordAt w.latest 0 = 0x80000000 || w1.getLsbD 18 || w1.getLsbD 19 then none else some (wordAt w.latest 0).toInt

/-- A drift epoch ends at a boundary, under the sets in force before what applies there (R233, R238). -/
def markEpochEnd (fe : Fe) (ppn : BitVec 48) (old now : State) : State :=
  now.updTherm fe fun t => { t with
    ends := t.ends ++ [⟨ppn, auxLatest old, old.act 0x30 fe.val, old.act 0x11 fe.val, old.act 0x12 fe.val⟩] }

/-- FUSION_EPOCH (R234): the oldest epoch handed over, with the sets in force at its end. -/
def execFusionEpoch (fe : Fe) (s : State) : Host.Outcome State Fault Refusal :=
  match (s.therm[fe]).epochs with
  | [] => ok s
  | e :: rest =>
    let therm := s.act 0x30 fe.val
    let end_ := (s.therm[fe]).ends.find? fun m => decide (e.ppn < m.ppn)
    let begin_ := (s.therm[fe]).ends.find? fun m => m.ppn = e.ppn
    let m := end_.getD ⟨0, auxLatest s, therm, s.act 0x11 fe.val, s.act 0x12 fe.val⟩
    let s0 := s.updTherm fe fun t => { t with epochs := rest, ends := t.ends.filter fun x => decide (m.ppn ≤ x.ppn) }
    if !(thEn therm && bfb therm 0 3) then ok s0
    else
      let coil := fun (x : EpochEnd) => x.aux.getD (bf m.therm 12 16 4) none
      let cmEn := bfb m.therm 0 4
      let dCoil : Option Rat := match begin_.bind coil, coil m with | some a, some b => some (((b - a : Int) : Rat) / 1000) | _, _ => none
      let g : Rat := (gaugeEff m.phase m.recv : Rat) / 1000
      let ktg := (bf m.therm 13 0 24 : Rat) * g
      let cm := commonMode m.therm e ktg (dCoil.getD 0)
      let beta : Rat := match (s.therm[fe]).corr with
        | some c => 1 - (expNeg c.1 (max 1 (bf m.therm 7 0 12) * 10 ^ 12) : Rat) / (fx : Rat)
        | none => 0
      let chans := fusedChans therm
      let edge := fun (j : Nat) => (centreOf (s.act 0x11 fe.val) (s.act 0x12 fe.val) j).isNone
      let skipped := cm.isNone || chans.any fun j => !edge j && (e.chans.getD j (0, 0, true)).2.2
      ok (s0.updTherm fe fun t => { t with
        auxFaults := if cmEn && dCoil.isNone then addSat t.auxFaults 1 else t.auxFaults
        skipped := if skipped then addSat t.skipped 1 else t.skipped
        disc := if skipped then t.disc.set 1 true else t.disc
        corr := none
        prefixW := match t.corr with | some c => c.2.1 | none => t.prefixW
        fused := (chans.zip t.fused).map fun p =>
          let (j, c) := p
          let (drift, _, broken) := e.chans.getD j (0, 0, true)
          match c.tf with
          | none => { c with corr := none }
          | some v =>
            let drifts := !(broken || c.still || ktg = 0) && cm.isSome
            let v1 := if drifts then v + ratEven (((drift : Rat) - cm.getD 0) / ktg * 65536000) else v
            let v2 := match c.corr with
              | some (d, n) => v1 + ratEven (beta * ((d : Rat) / (n : Rat)))
              | none => v1
            { c with
              tf := some v2, corr := none, sum := c.sum + v2, n := c.n + 1
              overrun := c.overrun || (drifts && e.overrun) || (c.corr.isSome && (match t.corr with | some x => x.2.2 | none => false)) } })

/-! ## Interval completion (R228, R240) -/

/-- The bytes of a 64-bit integer. -/
def int64Bytes (x : Int) : List Byte := wordsBytes (split64 (BitVec.ofInt 64 x))

/-- A temperature element. -/
def tempWord : Option Int → Word
  | some t => Word.ofInt t
  | none => 0x80000000

/-- Flags of an interval's records (R241). -/
def ramanFlags (m : RamanSum) : BitVec 16 := flagBit flExact true ||| flagBit flInvalid (m.used = 0) ||| flagBit flOverrun m.overrun |||
  flagBit flHoldover m.holdover

/-- INTERVAL_COMPLETE (R228): the oldest completed interval is evaluated; its records wait to be written. -/
def execIntervalComplete (fe : Fe) (s : State) : Host.Outcome State Fault Refusal :=
  match (s.therm[fe]).complete with
  | [] => ok s
  | m :: rest =>
    let (seed, s0) := s.seed
    let temps := binTemps seed m
    let therm := m.last.therm
    let aux := (s.therm[fe]).aux
    let fl := ramanFlags m
    let pre := wordsBytes (ramanPrefix m)
    let mk := fun (kind width samples : Nat) (data : List Byte) =>
      let body := pad32 (pre ++ data)
      (kind, recHeader 0 fe width 0 0 0 0 0 samples (thNBin therm) m.ppn (body.length / 32) m.time kind, body, fl)
    let recs := (if bfb therm 0 1 then [mk 0x10 1 0 (wordsBytes (temps.map tempWord))] else []) ++
      (if bfb therm 0 2 then [mk 0x12 2 1 (m.sums.flatMap fun x => int64Bytes x.1 ++ int64Bytes x.2)] else [])
    let s1 := s0.updTherm fe fun t => { t with
      complete := rest, intervals := addSat t.intervals 1, recs := t.recs ++ recs, aux := t.aux.filter fun x => decide (m.stop ≤ x.time) }
    ok (fuseInterval fe m temps (decideCal fe m aux s1))

/-! ## Records (R240, R241) -/

/-- Index of a kind among 0x10, 0x11, 0x12. -/
def kindIdx (kind : Nat) : Fin 3 := if kind = 0x10 then 0 else if kind = 0x11 then 1 else 2

/-- Capture units that take a thermal kind of an engine get the record as an input (R246, R240). -/
def harvestRecord (fe : Fe) (kind : Nat) (bytes : List Byte) (flags : BitVec 16) (ppn : BitVec 48) (time : BitVec 64) (s : State) : State :=
  (List.finRange 4).foldl (fun s u =>
    let h := s.harv[u]
    if (h.st = .armed || h.st = .post) && hvSrc h.set = 4 && hvFe h.set = fe && hvTherm h.set = kind then
      s.updHarv u fun x => { x with inputs := x.inputs ++ [⟨bytes.map fun b => (b.toNat : Int), time, flags, ppn, 0⟩] }
    else s) s

/-- Write one thermal record: to its ring, or dropped whole (R240); Harvest and the taps take it too. -/
def writeThermal (fe : Fe) (kind : Nat) (hdr : List Word) (payload : List Byte) (flags : BitVec 16) (ppn : BitVec 48) (time : BitVec 64) (s : State) :
    State :=
  let k := kindIdx kind
  let t := s.therm[fe]
  let fl := flags ||| flagBit flDisc t.disc[k]
  let bytes := wordsBytes (hdr.set 1 (BitVec.ofNat 32 (fl.toNat + 65536 * (t.rseq[k]).toNat))) ++ payload
  let ring := thRing (s.act 0x30 fe.val)
  let s1 := s.updTherm fe fun x => { x with rseq := x.rseq.set k (x.rseq[k] + 1) }
  let s2 :=
    if ringRoom s ring then (s1.ringPush ring ⟨bytes, 0, 3, 16 + fe.val⟩).updTherm fe fun x => { x with disc := x.disc.set k false }
    else s1.updTherm fe fun x => { x with dropped := addSat x.dropped 1, disc := x.disc.set k true }
  let sel := if kind = 0x10 then 0 else if kind = 0x11 then 1 else 2
  tapsRecord fe sel bytes fl ppn time (harvestRecord fe sel bytes fl ppn time s2)

/-- RAMAN_RECORD (R240): the oldest record that waits. -/
def execRamanRecord (fe : Fe) (s : State) : Host.Outcome State Fault Refusal :=
  match (s.therm[fe]).recs with
  | [] => ok s
  | (kind, hdr, payload, fl) :: rest =>
    let ppn := BitVec.ofNat 48 ((wordAt hdr 4).toNat + 2 ^ 32 * wbits (wordAt hdr 5) 0 16)
    ok (writeThermal fe kind hdr payload fl ppn (word64 hdr 6) (s.updTherm fe fun t => { t with recs := rest }))

/-- FUSED_RECORD (R239, R240): the record of an integer second; the next one where the present has its record. -/
def execFusedRecord (fe : Fe) (s : State) : Host.Outcome State Fault Refusal :=
  let therm := s.act 0x30 fe.val
  if !(thEn therm && bfb therm 0 3) then ok s
  else
    let sec1 : BitVec 32 := (s.therm[fe]).second + 1
    let s0 := s.goTo (s.time.clkOf (sec1 ++ (0 : BitVec 32)))
    let t := s0.therm[fe]
    let e := s0.fe[fe]
    let tau := bf therm 7 0 12
    let settling := t.fused.any fun c => c.tf.isSome && decide (s0.time.clk < c.seeded + 3 * tau * 10 ^ 12)
    let fl := flagBit flExact true ||| flagBit flInvalid (t.fused.all fun c => c.tf.isNone) ||| flagBit flSettling settling |||
      flagBit flOverrun (t.fused.any fun c => c.tf.isSome && c.overrun) |||
      flagBit flHoldover s0.time.holdover
    let pre := (t.prefixW.set 0 (BitVec.ofNat 32 (1 + 256 * fuseStep therm))).set 6 (BitVec.ofNat 32 tau)
    let body := pad32 (wordsBytes pre ++ wordsBytes (t.fused.map fun c => tempWord (c.tf.map fun v => roundEven v 65536)))
    let time : BitVec 64 := sec1 ++ (0 : BitVec 32)
    let hdr := recHeader 0 fe 1 0 0 0 (fuseFirst therm) 0 0 t.fused.length e.ppn (body.length / 32) time 0x11
    ok (writeThermal fe 0x11 hdr body fl e.ppn time (s0.updTherm fe fun x => { x with second := sec1 }))

/-! ## Opcodes (Table 9.8) -/

/-- The engine a payload names in word 0. -/
def feOf (r : Req) : Fe := ⟨wbits (wordAt r.payload 0) 0 2, by unfold wbits bitsOf; exact Nat.mod_lt _ (by decide)⟩

/-- THERM_STATUS. -/
def doThermStatus (r : Req) (s : State) : Res :=
  let fe := feOf r
  let t := s.therm[fe]
  if rsvdBad r 0 3 then Res.bad 0 s
  else Res.ok ([BitVec.ofNat 32 (t.accumulating.toNat + 2 * (calOp s fe).isSome.toNat)] ++ split64 (BitVec.ofNat 64 (t.q % 2 ^ 48)) ++
      [t.intervals, t.excluded, t.skipped, t.auxFaults, t.dropped] ++ split64 (t.restart.zeroExtend 64))
    (s.updTherm fe fun t => { t with intervals := 0, excluded := 0, skipped := 0, auxFaults := 0, dropped := 0 })

/-- THERM_STATUS (R245). -/
def execThermStatus (r : Req) (s : State) : Host.Outcome State Fault Refusal := ok (runOp 0x0401 [] 1 1 false doThermStatus r s)

/-- THERM_CALIBRATE (R232). -/
def doThermCalibrate (r : Req) (s : State) : Res :=
  let w0 := wordAt r.payload 0
  let w1 := wordAt r.payload 1
  let fe := feOf r
  if rsvdBad r 0 0x1FF || wbits w0 2 2 = 3 then Res.bad 0 s
  else if w1 = 0 then Res.bad 1 s
  else if (calOp s fe).isSome then Res.rep stBusy 0 [] s
  else Res.rep stPending 0 [] (s.addOp r (.thermCal fe w0 w1) true)

/-- THERM_CALIBRATE (R232). -/
def execThermCalibrate (r : Req) (s : State) : Host.Outcome State Fault Refusal := ok (runOp 0x0402 [] 2 2 false doThermCalibrate r s)

/-- THERM_CAL_TIMEOUT (R232): 3 × the interval duration + 1 s. -/
def execThermCalTimeout (fe : Fe) (s : State) : Host.Outcome State Fault Refusal :=
  match calOp s fe with
  | none => ok s
  | some o => ok ((s.goTo (o.start + 3 * tInt (s.act 0x10 fe.val) (s.act 0x30 fe.val) + 10 ^ 12)).finish o stTimeout 0 [])

/-- A THERM_CALIBRATE. -/
def isThermCal : OpKind → Bool
  | .thermCal _ _ _ => true
  | _ => false

/-- THERM_ABORT (R232). -/
def execThermAbort (r : Req) (s : State) : Host.Outcome State Fault Refusal :=
  ok (runOp 0x0403 [] 1 1 false (abortOp [0x0402] isThermCal fun _ s => s) r s)

/-- Mark for reseeding the fused channels that lie, in one of some THERM_CAL sets, in a section of which a predicate holds. -/
def reseed (fe : Fe) (cals : List (List Word)) (p : Nat → Bool) (s : State) : State :=
  let therm := s.act 0x30 fe.val
  let lies := fun (j : Nat) (cal : List Word) =>
    match chanSect ⟨0, 0, 0, 0, s.act 0x10 fe.val, s.act 0x11 fe.val, s.act 0x12 fe.val, therm, cal, false⟩ j with
    | some (k, _) => p k
    | none => false
  s.updTherm fe fun t => { t with fused := ((fusedChans therm).zip t.fused).map fun (x : Nat × FusedCh) =>
    (if cals.any (lies x.1) then { x.2 with reseed := true } else x.2 : FusedCh) }

/-- THERM_RESEED (R245). -/
def doThermReseed (r : Req) (s : State) : Res :=
  if rsvdBad r 0 3 then Res.bad 0 s else Res.ok [] (reseed (feOf r) [s.act 0x31 (feOf r).val] (fun k => (wordAt r.payload 1).getLsbD k) s)

/-- THERM_RESEED (R245). -/
def execThermReseed (r : Req) (s : State) : Host.Outcome State Fault Refusal := ok (runOp 0x0404 [5] 2 2 false doThermReseed r s)

/-! ## Commits (Table 9.3) -/

/-- The words of a set from which some fields are masked out. -/
def maskWords (b : List Word) (keep : List (Nat × Nat)) : List Nat := keep.map fun p => (wordAt b p.1).toNat &&& p.2

/-- The Raman fields of PROBE and RECV, and the THERM fields, whose change restarts accumulation. -/
def ramanKey (probe recv therm : List Word) : List Nat :=
  maskWords probe [(0, 1), (1, 0xFFFFFFFF), (6, 0xFFFFFFFF), (7, 0xFFFFFFFF), (8, 0xFFFF)] ++
    [bf recv 0 8 6, bf recv 0 18 1, bf recv 0 24 1, bf recv 1 16 3, bf recv 2 16 12, bf recv 3 16 8, bf recv 4 0 21] ++
    maskWords therm [(0, 1), (1, 0xFFFFFFFF), (2, 0xFFFFFFFF), (3, 0xFFFFFFFF), (4, 0xFFFFFFFF), (5, 0xFFFFFFFF), (6, 0xFFFFFFFF)]

/-- Sections whose range, FUSE or constants differ between two THERM_CAL sets, N_SECT included. -/
def sectChanged (old new : List Word) (k : Nat) : Bool :=
  decide (k < calSects old) != decide (k < calSects new) || (List.range 6).any fun i => wordAt old (24 + 6 * k + i) ≠ wordAt new (24 + 6 * k + i)

/-- A commit of the engine applies at a boundary (R238, Table 9.3): the old sets are given, the new ones are active. -/
def thermCommit (fe : Fe) (ppn : BitVec 48) (b : Nat) (op or_ ot oc : List Word) (s : State) : State :=
  let p := s.act 0x10 fe.val
  let r := s.act 0x11 fe.val
  let t := s.act 0x30 fe.val
  let c := s.act 0x31 fe.val
  let s1 := if ramanKey op or_ ot ≠ ramanKey p r t then ramanRestart fe ppn b s else s
  let fuseKey := fun (b : List Word) => [bf b 0 3 1, bf b 8 0 18, bf b 9 0 18, bf b 10 0 8]
  let s2 :=
    if fuseKey ot ≠ fuseKey t || (bfb t 0 3 && (s.therm[fe]).fused.length ≠ fusedCount t) then
      s1.updTherm fe fun x => { x with
        fused := List.replicate (fusedCount t) ⟨none, false, none, 0, 0, 0, true, false⟩, corr := none, disc := x.disc.set 1 true
        second := s.now.extractLsb' 32 32 }
    else if !thEn ot && thEn t then s1.updTherm fe fun x => { x with second := s.now.extractLsb' 32 32 }
    else s1
  if oc ≠ c then reseed fe [oc, c] (sectChanged oc c) s2 else s2

end Sys2Proof.Machine
end

