-- ==== Sys2Proof/Machine/Time.lean ====
section
/-! DEFINITION. The time base and the time-interval unit (03): reference, holdover, PPS, PTM, TIME opcodes, TIU. -/

namespace Sys2Proof.Machine

/-- TIME_STATUS (Table 3.2). -/
def timeStatus (t : TimeBase) : Word :=
  BitVec.ofNat 32 (t.refLocked.toNat + 2 * t.refLost.toNat + 4 * t.refBad.toNat + 8 * t.holdover.toNat + 16 * t.ppsLocked.toNat +
    32 * t.ppsLost.toNat + 64 * t.ptmValid.toNat + 128 * t.peerLocked.toNat)

/-- An error in ps as PPS_ERROR reports it: saturating at ±(2^31 - 1) (R85). -/
def errWord (e : Int) : Word := Word.ofInt (clamp (-2147483647) 2147483647 e)

/-- The active TIME set. -/
def timeSetOf (s : State) : List Word := s.act 0x02 0
/-- PPS_EN in force (R88). -/
def ppsEn (s : State) : Bool := s.time.pps
/-- PPS alignment runs: a follower ignores PPS_IN (R91). -/
def aligning (s : State) : Bool := ppsEn s && !follower s
/-- REF_LOST or REF_BAD is set. -/
def refGone (s : State) : Bool := s.time.refLost || s.time.refBad

/-- An open TIU measurement that sees REF_LOST or REF_BAD carries REF_FAULT (R100). -/
def tiuRefFault (s : State) : State :=
  { s with tiu := s.tiu.map fun c => if c.ph = .open || c.ph = .gating then { c with refFault := true } else c }

/-- The device enters holdover: the PLL is no longer locked to REF_IN (R74). -/
def enterHoldover (s : State) : State :=
  tiuRefFault { s with time := { s.time with refLocked := false, holdover := true, goodSince := none } }

/-- REF_LOST (R73, R74). -/
def execRefLost (t : Nat) (s : State) : Host.Outcome State Fault Refusal :=
  let s := s.goTo t
  if s.time.refLost then ok s
  else ok ((enterHoldover { s with time := { s.time with refLost := true, lostInGate := true } }).timeEvent 0)

/-- REF_IN_EDGE_RETURN (R73). -/
def execRefInEdgeReturn (t : Nat) (s : State) : Host.Outcome State Fault Refusal :=
  let s := s.goTo t
  if s.time.refLost then
    ok { s with time := { s.time with
      refLost := false, goodSince := if s.time.refBad then none else some s.time.clk } }
  else ok s

/-- REF_GATE_END (R73): 1 ms gates of nominally 100 000 edges, limit 200 ppm; a gate that saw REF_LOST is not evaluated. -/
def execRefGateEnd (t edges : Nat) (s : State) : Host.Outcome State Fault Refusal :=
  let s := s.goTo t
  if s.time.lostInGate || s.time.refLost then ok { s with time := { s.time with lostInGate := s.time.refLost } }
  else if edges + 20 < 100000 || 100020 < edges then
    if s.time.refBad then ok s
    else ok ((enterHoldover { s with time := { s.time with refBad := true } }).timeEvent 1)
  else ok { s with time := { s.time with
    refBad := false, goodSince := if s.time.refBad then some s.time.clk else s.time.goodSince } }

/-- The PLL may relock: REF_IN has been good for 10 ms (R75). -/
def relockDue (s : State) (t : Nat) : Bool :=
  !s.time.refLocked && !refGone s && (match s.time.goodSince with | some g => g + 10 ^ 10 ≤ t | none => false)

/-- RELOCKED (R75, R77): holdover ends, or with PPS alignment lasts until the next accepted edge; should PPS alignment end before one comes, HOLDOVER
clears with it (adoptTime; the model's choice, log entry 215). -/
def execRelocked (t : Nat) (s : State) : Host.Outcome State Fault Refusal :=
  let s := s.goTo t
  if relockDue s s.time.clk then
    ok (({ s with time := { s.time with refLocked := true, holdover := s.time.holdover && aligning s } }).timeEvent 2)
  else ok s

/-! ## PPS (R79-R82) -/

/-- Device time of 96 bits to the nearest second. -/
def nearestSecond (x : BitVec 96) : BitVec 32 := ((x + (1 <<< 63)).extractLsb' 64 32)

/-- A difference of 96-bit device times in ps, nearest. -/
def diffPs (a b : BitVec 96) : Int := roundEven ((a - b).toInt * 10 ^ 12) (2 ^ 64)

/-- A time in ps as a 96-bit distance. -/
def ps96 (x : Int) : BitVec 96 := BitVec.ofInt 96 (floorDiv (x * 2 ^ 64) (10 ^ 12))

/-- What TIME_SOURCE and PPS_EN of the TIME set change takes effect at a PPS edge or peer synchronisation (R88): PPS alignment that begins waits for a
first edge; one that ends, or a device that becomes a follower, has no PPS lock, and a device that is no follower no peer lock (log entry 215). -/
def adoptTime (s : State) : State :=
  let b := timeSetOf s
  let pps := bfb b 0 0
  let src := bfb b 0 3
  let t := s.time
  let t1 := if pps && !t.pps then { t with ppsFirst := true, ppsLast := t.clk, ppsGood := 0, outliers := [] } else t
  let t2 := if pps && !src then t1 else
    { t1 with ppsLocked := false, ppsGood := 0, holdover := t1.holdover && !(t1.refLocked && !refGone s) }
  { s with time := { t2 with
    pps := pps, src := src, peerLocked := t2.peerLocked && src, peerSynced := t2.peerSynced && src, peerGood := if src then t2.peerGood else 0 } }

/-- The size of a servo's move: free from 1 to a limit, 0 where the limit is. -/
def servoMove (s : State) (err : Int) (limit : Nat) : Int := clamp (min 1 limit) limit (Config.servoAdj s.free err s.time.adj)

/-- The frequency adjustment after an edge that is slewed to (R79): it moves against PPS_ERROR, by at most 100 ppm and at most by what takes the
error to 0 until the next second (log entry 111). -/
def ppsAdj (s : State) (err : Int) : Int :=
  clamp (-2147483647) 2147483647 (s.time.adj - err.sign * servoMove s err (min (10 ^ 8) err.natAbs))

/-- The frequency adjustment of a follower between steps (R91): at most 100 ppm, in the sense that takes the offset towards 0, and no more than takes
it there until the next synchronisation (log entry 111). -/
def peerAdj (s : State) (offset : Int) : Int := offset.sign * servoMove s offset (min (10 ^ 8) (1000 * offset.natAbs))

/-- Slew: the frequency adjustment changes from this instant on. -/
def slew (s : State) (adj : Int) : State := { s with free := s.free + 1, time := s.time.setAdj s.time.clk adj }

/-- Step device time at this instant and raise TIME_STEPPED (R81); the fused outputs go on from the new second, their next records marked (R239). -/
def stepTime (s : State) (v : BitVec 96) : State :=
  ({ s with
    time := s.time.setAt s.time.clk v
    therm := s.therm.map fun (t : ThermSt) => { t with second := v.extractLsb' 64 32, disc := t.disc.set 1 true } }).timeEvent 5

/-- What every accepted edge does: PPS_STAMP, PPS_LOST, holdover, the run of good edges (R75, R80). When PPS_LOCKED clears is not stated: here at a
step that the run does not outlast, in execPpsLost and in adoptTime (log entry 216). -/
def ppsAccepted (s : State) (stamp : BitVec 96) (err : Int) (stepped : Bool) : State :=
  let good := if err.natAbs ≤ 20000 then s.time.ppsGood + 1 else 0
  { s with time := { s.time with
    ppsStamp := stamp.extractLsb' 32 64, ppsLost := false, ppsFirst := false, outliers := []
    ppsGood := good, ppsLocked := (s.time.ppsLocked && !stepped) || decide (3 ≤ good)
    holdover := s.time.holdover && !(s.time.refLocked && !refGone s) } }

/-- The outliers agree with each other within 1 µs. -/
def agreeing (l : List Int) : Bool := l.all fun a => l.all fun b => (a - b).natAbs ≤ 1000000

/-- A PPS edge of the selected polarity at the present instant, with PPS alignment enabled (R79). -/
def ppsEdge (s : State) : State :=
  let blk := timeSetOf s
  let delay := bfs blk 2 0 32
  let stamp := s.time.at96 (s.time.clk / 625 * 625) - ps96 delay
  let target := (nearestSecond stamp) ++ (0 : BitVec 64)
  let err := diffPs stamp target
  let s1 := { s with time := { s.time with ppsError := err, ppsLast := s.time.clk } }
  let shift := s1.time.at96 s1.time.clk - stamp
  let toStep := ppsAccepted (stepTime s1 (target + shift)) stamp err true
  if s.time.ppsFirst then toStep
  else if err.natAbs ≤ bf blk 1 0 32 * 1000 then ppsAccepted (slew s1 (ppsAdj s1 err)) stamp err false
  else
    let s2 := s1.timeEvent 4
    let l := err :: s1.time.outliers
    if l.length = 3 && agreeing l then
      if bfb blk 0 2 && bf blk 4 0 32 * 1000 < err.natAbs then ppsAccepted (stepTime s2 (target + shift)) stamp err true
      else ppsAccepted (slew s2 (ppsAdj s2 err)) stamp err false
    else { s2 with time := { s2.time with outliers := l.take 2 } }

/-- The pending TIME_SET takes effect at this edge (R79, R102). -/
def ppsSet (s : State) (p : PendSet) : State :=
  let delay := bfs (timeSetOf s) 2 0 32
  let stamp := s.time.at96 (s.time.clk / 625 * 625) - ps96 delay
  let shift := s.time.at96 s.time.clk - stamp
  let err := diffPs stamp ((nearestSecond stamp) ++ (0 : BitVec 64))
  let s1 := { s with time := { s.time with pendSet := none, ppsLast := s.time.clk, ppsError := err } }
  let s2 := ppsAccepted (stepTime s1 (widen96 p.time + shift)) stamp err true
  match s2.findOp p.sess p.seq with
  | some o => s2.finish o stOk 0 []
  | none => s2

/-! ## TIU measurements (3.6) -/

/-- The active set of a TIU channel. -/
def tiuSet (s : State) (c : Fin 4) : List Word := s.act 0xA0 c.val

/-- MODE of a channel: 0 off, 1 single, 2 continuous, 3 frequency. -/
def tiuMode (s : State) (c : Fin 4) : Nat := bf (tiuSet s c) 0 0 2

/-- The least-squares line of stamp time against edge number, as exact sums: N, Sxx, Sxy and Syy with N-scaled centring. -/
def fitSums (l : List (Nat × Nat)) : Int × Int × Int × Int :=
  let n : Int := l.length
  let sx : Int := (l.map fun p => (p.1 : Int)).foldl (· + ·) 0
  let sy : Int := (l.map fun p => (p.2 : Int)).foldl (· + ·) 0
  let sxx : Int := (l.map fun p => (p.1 : Int) * p.1).foldl (· + ·) 0
  let sxy : Int := (l.map fun p => (p.1 : Int) * p.2).foldl (· + ·) 0
  let syy : Int := (l.map fun p => (p.2 : Int) * p.2).foldl (· + ·) 0
  (n, n * sxx - sx * sx, n * sxy - sx * sy, n * syy - sy * sy)

/-- FREQ in 2^-32 Hz and RESIDUAL_RMS in 2^-40 s, rounded down, of the fit (R99); stamps number counted edges 0, 1, ... of the fit in steps of k. -/
def freqFit (prescale k : Nat) (l : List (Nat × Nat)) : Nat × Nat :=
  let (n, a, b, c) := fitSums l
  if a ≤ 0 || b ≤ 0 || n ≤ 0 then (0, 0)
  else
    -- slope = b / a in 2^-40 s per stamp, so FREQ = (PRESCALE + 1) k a / b × 2^40 Hz
    ((roundEven ((prescale + 1) * k * a * 2 ^ 72) b.toNat).toNat, Nat.sqrt (((c * a - b * b) / (a * n * n)).toNat))

/-- Every k-th of a list, the first one included. -/
def everyKth (k : Nat) (l : List Nat) : List Nat := (List.range (ceilDiv l.length k)).map fun i => l.getD (i * k) 0

/-- The spacing k of the stamps among the counted edges (R99): free, but for at most MAX_STAMPS stamps and, where there are two edges, at least two
stamps. -/
def stampStep (seed edges maxStamps : Nat) : Nat :=
  let lo := max 1 (ceilDiv edges (max 1 maxStamps))
  max lo (min (Config.stampStep seed edges) (edges - 1))

/-- The result record of a frequency measurement (Table 3.8) over the edges counted so far. -/
def freqRecord (s : State) (c : Fin 4) : List Word :=
  let t := s.tiu[c]
  let blk := tiuSet s c
  let all := t.edges.reverse
  let k := stampStep s.free all.length (bf blk 4 0 17)
  let l := everyKth k all
  let (f, rms) := freqFit (bf blk 0 8 6) k ((List.range l.length).zip l)
  let first := l.headD 0
  [BitVec.ofNat 32 (c.val + 4 + 8 * t.refFault.toNat + 16 * t.holdover.toNat)] ++ split64 (BitVec.ofNat 64 (first / 256)) ++
    [BitVec.ofNat 32 (first % 256), BitVec.ofNat 32 l.length, satWord rms,
      BitVec.ofNat 32 f, BitVec.ofNat 32 (f / 2 ^ 32), BitVec.ofNat 32 all.length] ++ List.replicate 13 0

/-- The result record of an interval measurement (Table 3.8). -/
def intervalRecord (s : State) (c : Fin 4) : List Word :=
  let t := s.tiu[c]
  [BitVec.ofNat 32 (c.val + 8 * t.refFault.toNat + 16 * t.holdover.toNat + 32 * t.stops.length)] ++ split64 t.start ++
  [t.sub.zeroExtend 32, BitVec.ofNat 32 (t.short + 65536 * t.early), BitVec.ofNat 32 (t.missed + 65536 * t.overflow)] ++
  ((List.range 16).map fun i => BitVec.ofNat 32 (t.stops.getD i 0))

/-- The result record of a channel's measurement. -/
def tiuRecord (s : State) (c : Fin 4) : List Word := if tiuMode s c = 3 then freqRecord s c else intervalRecord s c

/-- Saturating count of Table 3.7. -/
def sat16 (n : Nat) : Nat := min 65535 n

/-- Report TIU_ARM once every named channel has ended (R98, R102). -/
def tiuReport (s : State) : State :=
  match s.opWhere fun k => match k with
    | .tiuArm m => (List.finRange 4).all fun c => !m.getLsbD c.val || (s.tiu[c].result).isSome
    | _ => false with
  | none => s
  | some o => match o.kind with
    | .tiuArm m =>
      let chans := (List.finRange 4).filter fun c => m.getLsbD c.val
      let stat := fun (c : Fin 4) => match s.tiu[c].result with | some r => r.1.toNat | none => stTimeout
      let st := if chans.any fun c => stat c = stOk then stOk else if chans.all fun c => stat c = stAborted then stAborted else stTimeout
      let ws := chans.flatMap fun c =>
        [BitVec.ofNat 32 (stat c + 256 * c.val)] ++ split64 s.tiu[c].armAt ++
          (match s.tiu[c].result with | some r => r.2 | none => List.replicate 22 0)
      let s1 := chans.foldl (fun s c => s.updTiu c fun t => { t with result := none }) s
      s1.finish o st 0 ws
    | _ => s

/-- A channel of a single or frequency measurement ends with a status; its TIU commit may then apply (R101). -/
def tiuEnd (c : Fin 4) (st : Nat) (rcd : List Word) (s : State) : State :=
  let s1 := s.updTiu c fun t => { t with ph := .idle, result := some (BitVec.ofNat 8 st, rcd) }
  tiuReport (((s1.trimPoint (tiuTrims c)).raise vecTiu).localPoint [bid 0xA0 c.val])

/-- The part of device time below 2^-32 s, in 2^-40 s, at the present instant. -/
def subNow (s : State) : Byte := (s.time.at96 s.time.clk).extractLsb' 24 8

/-- An edge of the start source within a frequency gate (R99): every (PRESCALE + 1)-th one is counted and stamped; the first of them is the record's
START, whose HOLDOVER it takes (R83). -/
def countEdge (prescale : Nat) (hold : Bool) (fine : Nat) (t : TiuCh) : TiuCh :=
  if t.pre < prescale then { t with pre := t.pre + 1 }
  else { t with pre := 0, edges := fine :: t.edges, holdover := if t.edges.isEmpty then hold else t.holdover }

/-- A start edge on the channel's start source (R97-R99): later than the arming instant, it opens the measurement, or is counted by the gate. -/
def tiuStart (c : Fin 4) (sub : Byte) (s : State) : State :=
  if s.tiu[c].ph = .gating && s.tiu[c].armClk < s.time.clk then
    s.updTiu c (countEdge (bf (tiuSet s c) 0 8 6) s.time.holdover (s.now.toNat * 256 + sub.toNat))
  else if s.tiu[c].ph = .armed && s.tiu[c].armClk < s.time.clk then
    s.updTiu c fun t => { t with
      ph := .open, start := s.now, sub := sub, startClk := s.time.clk, short := 0, early := 0, missed := 0, overflow := 0, stops := []
      refFault := refGone s, holdover := s.time.holdover }
  else s

/-- The channels whose START_SRC is a given source open at an edge of it. -/
def tiuSource (src : Nat) (s : State) : State :=
  (List.finRange 4).foldl (fun s c => if bf (tiuSet s c) 0 4 3 = src then tiuStart c (subNow s) s else s) s

/-- The TIU channels started by PPS_IN see its edges of their polarity, STA_FALLING (R101). -/
def tiuPps (falling : Bool) (s : State) : State :=
  (List.finRange 4).foldl (fun s c =>
    if bf (tiuSet s c) 0 4 3 = 5 && bfb (tiuSet s c) 0 2 = falling then tiuStart c (subNow s) s else s) s

/-- PPS_IN_EDGE (R79, R80, R88, R91, R102): what the TIME set changed of TIME_SOURCE and PPS_EN takes effect at an edge of the selected polarity;
a follower ignores the edge otherwise. -/
def execPpsInEdge (t : Nat) (falling : Bool) (s : State) : Host.Outcome State Fault Refusal :=
  let s1 := tiuPps falling (s.goTo t)
  if falling ≠ bfb (timeSetOf s1) 0 1 then ok s1
  else
  let s := adoptTime s1
  if follower s then ok s
  else match s.time.pendSet with
    | some p => ok (ppsSet s p)
    | none => if ppsEn s then ok (ppsEdge s) else ok s

/-- PPS_LOST (R80): 1.1 s without an edge. -/
def execPpsLost (s : State) : Host.Outcome State Fault Refusal :=
  if aligning s && !s.time.ppsLost then
    let s := s.goTo (s.time.ppsLast + 11 * 10 ^ 11)
    ok (({ s with time := { s.time with ppsLost := true, ppsLocked := false, ppsGood := 0 } }).timeEvent 3)
  else ok s

/-- Master time at t4 in ns (R84); where the half nanoseconds do not come out whole, its rounding is open. -/
def ptmMasterAt (seed : Nat) (t1 t4 t2 : BitVec 64) (t32 : Nat) : BitVec 64 :=
  let n : Int := ((t4 - t1).toNat * 10 ^ 9 : Int) - (t32 : Int) * 2 ^ 32
  let q := floorDiv n (2 ^ 33)
  let up : Int := if n = q * 2 ^ 33 then 0 else ((Config.freeWord seed 84).toNat % 2 : Nat)
  t2 + BitVec.ofInt 64 (t32 + q + up)

/-- PTM_DIALOGUE (R84). -/
def execPtmDialogue (tSent tRecv : Nat) (t2 : BitVec 64) (t32 : Nat) (success : Bool) (s : State) :
    Host.Outcome State Fault Refusal :=
  let s := s.goTo tRecv
  if !(bfb (timeSetOf s) 0 6 && s.pcie.ptmEn) then ok { s with time := { s.time with ptmValid := false } }
  else if success then
    let t4 := s.time.at tRecv
    ok { s with
      free := s.free + 1
      time := { s.time with
        ptmDevice := t4, ptmMaster := ptmMasterAt s.free (s.time.at tSent) t4 t2 t32, ptmCount := s.time.ptmCount + 1, ptmValid := true } }
  else ok { s with time := { s.time with ptmValid := false } }

/-! ## TIME_SET and TIME_GET (R102) -/

/-- TIME_SET. -/
def doTimeSet (r : Req) (s : State) : Res :=
  let v := word64 r.payload 0
  let w2 := wordAt r.payload 2
  if rsvdBad r 2 1 then Res.bad 2 s
  else if follower s then Res.bad 0 s
  else if wbits w2 0 1 = 1 && refGone s then Res.rep stRefMissing 0 [] s
  else
    -- an earlier one that still waits is replaced and answered ABORTED
    let s1 := match s.time.pendSet with
      | some p => (match s.findOp p.sess p.seq with
        | some o => ({ s with time := { s.time with pendSet := none } }).finish o stAborted 0 []
        | none => { s with time := { s.time with pendSet := none } })
      | none => s
    if wbits w2 0 1 = 1 then
      let s2 := s1.addOp r .timeSet true
      Res.rep stPending 0 [] { s2 with time := { s2.time with pendSet := some ⟨r.sess, r.seq, v, s2.time.clk⟩ } }
    else
      let s2 := stepTime s1 (widen96 v)
      Res.ok [] (s2.noteDone r.sess r.seq r.opcode)

/-- TIME_SET (R102). -/
def execTimeSet (r : Req) (s : State) : Host.Outcome State Fault Refusal := ok (runOp 0x0801 [] 3 3 false doTimeSet r s)

/-- TIME_SET_TIMEOUT (R102): 1.1 s without a PPS edge. -/
def execTimeSetTimeout (s : State) : Host.Outcome State Fault Refusal :=
  match s.time.pendSet with
  | none => ok s
  | some p =>
    let s := s.goTo (p.since + 11 * 10 ^ 11)
    let s1 := { s with time := { s.time with pendSet := none } }
    match s1.findOp p.sess p.seq with
    | some o => ok (s1.finish o stTimeout 0 [])
    | none => ok s1

/-- TIME_GET (R102). -/
def execTimeGet (r : Req) (s : State) : Host.Outcome State Fault Refusal :=
  ok (runOp 0x0802 [] 0 0 false (fun _ s => Res.ok (split64 s.now ++ [timeStatus s.time, errWord s.time.ppsError]) s) r s)

/-! ## TIU commands -/

/-- A CAL_TIU that names the channel is running (it cannot overlap, Table 2.8 BUSY). -/
def tiuInCal (s : State) (c : Fin 4) : Bool :=
  s.proto.ops.any fun o => match o.kind with
    | .devCal op w0 _ => op = 0x0A01 && (w0.getLsbD c.val)
    | _ => false

/-- A Taster TIU check of the channel ends with no result (R462). -/
def endTiuCheck (s : State) (m : Nat) : State := stopTaster (fun run => run.test = 4 && m.testBit run.inst) s

/-- TIU_ARM (R98, R102). -/
def doTiuArm (r : Req) (s : State) : Res :=
  let m := wbits (wordAt r.payload 0) 0 4
  let chans := (List.finRange 4).filter fun c => m.testBit c.val
  let modes := chans.map (tiuMode s)
  if rsvdBad r 0 0xF || m = 0 || modes.contains 0 || (modes.contains 2 && modes.any fun x => x ≠ 2) then Res.bad 0 s
  else if chans.any fun c => s.tiu[c].ph ≠ .idle || (s.tiu[c].result).isSome || tiuInCal s c then Res.rep stBusy 0 [] s
  else if refGone s then Res.rep stRefMissing 0 [] s
  else
    let s0 := endTiuCheck s m
    let s1 := chans.foldl (fun s c => s.updTiu c fun t => { t with
      ph := if tiuMode s0 c = 3 then .gating else .armed
      armAt := s0.now, armClk := s0.time.clk, result := none, refFault := false, holdover := s0.time.holdover
      start := 0, sub := 0, short := 0, early := 0, missed := 0, overflow := 0, stops := [], pre := 0, edges := [] }) s0
    if modes.contains 2 then Res.ok (split64 s0.now) s1
    else Res.rep stPending 0 [] (s1.addOp r (.tiuArm (BitVec.ofNat 4 m)) true)

/-- The feature of a TIU_ARM: 9 where a named channel is in frequency mode (R47). -/
def tiuFeats (r : Req) (s : State) : List Nat :=
  if (List.finRange 4).any fun c => (wordAt r.payload 0).getLsbD c.val && tiuMode s c = 3 then [9] else []

/-- TIU_ARM (R98). A channel whose ended result is not yet reported belongs to an operation that cannot overlap: BUSY. -/
def execTiuArm (r : Req) (s : State) : Host.Outcome State Fault Refusal := ok (runOp 0x0803 (tiuFeats r s) 1 1 false doTiuArm r s)

/-- TIU_STOP (R102). -/
def doTiuStop (r : Req) (s : State) : Res :=
  let m := wbits (wordAt r.payload 0) 0 4
  let chans := (List.finRange 4).filter fun c => m.testBit c.val
  if rsvdBad r 0 0xF then Res.bad 0 s
  else if !chans.isEmpty && chans.all fun c => s.tiu[c].ph = .idle && (tiuMode s c = 1 || tiuMode s c = 3) then
    Res.rep stCompleted 0 [] s
  else
    Res.ok [] (chans.foldl (fun s c =>
      if s.tiu[c].ph = .idle then s
      else if tiuMode s c = 2 then ((s.updTiu c fun t => { t with ph := .idle }).trimPoint (tiuTrims c)).localPoint [bid 0xA0 c.val]
      else tiuEnd c stAborted (tiuRecord s c) s) s)

/-- TIU_STOP (R102). -/
def execTiuStop (r : Req) (s : State) : Host.Outcome State Fault Refusal := ok (runOp 0x0804 [] 1 1 false doTiuStop r s)

/-- TIU_START_EDGE (R97-R99, R101): an edge on TIU_STA[n] of the polarity of STA_FALLING, where it is the channel's start source. -/
def execTiuStartEdge (c : Fin 4) (e : PinEdge) (sub : Byte) (s : State) : Host.Outcome State Fault Refusal :=
  let s := s.goTo e.time
  ok (if bf (tiuSet s c) 0 4 3 = 0 && bfb (tiuSet s c) 0 2 = e.falling then tiuStart c sub s else s)

/-- A measurement with a stamped stop reaches the trigger sequencers, with T = START + STOP0 (Table 10.2, kind 7). -/
def tiuEvent (c : Fin 4) (s : State) : State :=
  match s.tiu[c].stops with
  | [] => s
  | x :: _ =>
    let n := s.tiu[c].start.toNat * 256 + s.tiu[c].sub.toNat + x
    s.seqEvent ⟨7, c.val, BitVec.ofNat 64 (n / 256), BitVec.ofNat 8 n, 0, s.time.clk⟩

/-- The measurement of a channel ends at CLOSE (R98): reported, or in continuous mode recorded. -/
def tiuCloseCh (c : Fin 4) (s : State) : State :=
  if s.tiu[c].ph = .open then
    let s := tiuEvent c (s.goTo (s.tiu[c].startClk + bf (tiuSet s c) 2 0 32 * 10 ^ 12 / 2 ^ 40))
    let rcd := tiuRecord s c
    if tiuMode s c = 2 then
      let ring := ringOf (bf (tiuSet s c) 5 0 8)
      (((s.updTiu c fun t => { t with ph := .closed }).trimPoint (tiuTrims c)).ringPush ring ⟨wordsBytes rcd, 0, 5, c.val⟩).raise vecTiu
    else tiuEnd c stOk rcd s
  else s

/-- TIU_STOP_EDGE (R97, R101, Table 3.7): an edge on TIU_STO[n] of the polarity of STO_FALLING. -/
def execTiuStopEdge (c : Fin 4) (e : PinEdge) (s : State) : Host.Outcome State Fault Refusal :=
  let t := s.tiu[c]
  let blk := tiuSet s c
  let fine := e.time
  if t.ph ≠ .open || bfb blk 0 3 ≠ e.falling then ok s
  else if fine * 10 ^ 9 < 2 ^ 40 then ok (s.updTiu c fun t => { t with short := sat16 (t.short + 1) })
  else if fine < bf blk 1 0 32 then ok (s.updTiu c fun t => { t with early := sat16 (t.early + 1) })
  else if bf blk 2 0 32 < fine then ok (tiuCloseCh c s)
  else if (match t.stops.getLast? with | some l => decide ((fine - l) * 10 ^ 10 ≤ 15 * 2 ^ 40) | none => false) then
    ok (s.updTiu c fun t => { t with missed := sat16 (t.missed + 1) })
  else if 16 ≤ t.stops.length || bf blk 0 14 5 ≤ t.stops.length then
    ok (s.updTiu c fun t => { t with overflow := sat16 (t.overflow + 1) })
  else ok (s.updTiu c fun t => { t with stops := t.stops ++ [fine] })

/-- TIU_CLOSE (R98). -/
def execTiuClose (c : Fin 4) (s : State) : Host.Outcome State Fault Refusal := ok (tiuCloseCh c s)

/-- TIU_REARM (R98, R101): 50 ns after CLOSE, after the channel's commit has applied. -/
def execTiuRearm (c : Fin 4) (s : State) : Host.Outcome State Fault Refusal :=
  if s.tiu[c].ph = .closed then
    let s := (s.goTo (s.tiu[c].startClk + bf (tiuSet s c) 2 0 32 * 10 ^ 12 / 2 ^ 40 + 50000)).localPoint [bid 0xA0 c.val]
    ok (s.updTiu c fun t => { t with
      ph := if tiuMode s c = 2 then .armed else .idle, armAt := s.now, armClk := s.time.clk,
      start := 0, sub := 0, short := 0, early := 0, missed := 0, overflow := 0, stops := [] })
  else ok s

/-- TIU_ARM_TIMEOUT (R98). -/
def execTiuArmTimeout (c : Fin 4) (s : State) : Host.Outcome State Fault Refusal :=
  let ms := bf (tiuSet s c) 5 8 24
  if s.tiu[c].ph = .armed && tiuMode s c = 1 && ms ≠ 0 then
    let s := s.goTo (s.tiu[c].armClk + ms * 10 ^ 9)
    ok (tiuEnd c stTimeout (tiuRecord s c) s)
  else ok s

/-- Edges of the start source that fall into a gate, by their time after its beginning in 2^-40 s (R99). -/
def gateEdges (c : Fin 4) (times : List Nat) (s : State) : State :=
  let blk := tiuSet s c
  (times.filter fun x => x * 10 ^ 6 ≤ bf blk 3 0 32 * 2 ^ 40).foldl (fun s x =>
    s.updTiu c (countEdge (bf blk 0 8 6) s.time.holdover (s.tiu[c].armAt.toNat * 256 + x))) s

/-- TIU_GATE_END (R99): GATE after the arming instant, where the gate begins (log entry 217). The edges it brings are counted after those of
TIU_START_EDGE. -/
def execTiuGateEnd (c : Fin 4) (single : List Nat) (period count : Nat) (s : State) : Host.Outcome State Fault Refusal :=
  if s.tiu[c].ph = .gating then
    let last := single.getLast?.getD 0
    let s := gateEdges c (single ++ (List.range count).map fun i => last + (i + 1) * period) s
    let s := s.goTo (s.tiu[c].armClk + bf (tiuSet s c) 3 0 32 * 10 ^ 6)
    ok (tiuEnd c stOk (freqRecord s c) { s with free := s.free + 1 })
  else ok s

end Sys2Proof.Machine
end

