-- ==== Sys2Proof/Machine/Engine.lean ====
section
/-! DEFINITION. The fibre engines (04, 05, 06): boundaries, commits applied there, launches, strobes, shot rows and the links. -/

namespace Sys2Proof.Machine

/-! ## What a commit changes (R120, R154, R179) -/

/-- The PROBE fields whose change is a plan change (R120). -/
def planKey (p : List Word) : List Nat :=
  [bf p 0 0 1, bf p 0 1 2, bf p 0 3 2, bf p 0 5 1, bf p 1 0 18, bf p 2 16 12, bf p 3 0 16, bf p 3 16 4, bf p 4 0 17] ++
    (List.range 8).flatMap fun k => [bf p (16 + 2 * k) 0 1, bf p (16 + 2 * k) 1 3, bf p (17 + 2 * k) 0 21]

/-- The RECV fields whose change is a plan change: all but those of link B (R154). -/
def recvKey (r : List Word) : List Nat :=
  [bf r 0 0 6, bf r 0 16 2, bf r 0 20 2, bf r 0 22 2, bf r 1 0 5, bf r 2 0 12, bf r 3 0 3, bf r 3 8 8, bf r 3 24 7, bf r 4 0 21, bf r 5 0 8,
    bf r 5 8 5, bf r 6 0 32, bf r 7 0 18, bf r 8 0 10]

/-- Two reference banks hold different taps. -/
def refsDiffer (a b : List (Nat × Word)) : Bool :=
  (a ++ b).any fun k => (assocGet a k.1).getD 0 ≠ (assocGet b k.1).getD 0

/-- A change between two sets of an engine is a plan change. -/
def isPlan (op np or_ nr : List Word) (oref nref : List (Nat × Word)) : Bool :=
  planKey op ≠ planKey np || recvKey or_ ≠ recvKey nr || refsDiffer oref nref

/-- The shadow of a running engine holds a plan change that keeps it running. -/
def planShadow (s : State) (f : Fe) : Bool :=
  runOf (s.act 0x10 f.val) && runOf (s.shad 0x10 f.val) &&
    isPlan (s.act 0x10 f.val) (s.shad 0x10 f.val) (s.act 0x11 f.val) (s.shad 0x11 f.val) s.fe[f].refActive s.fe[f].refShadow

/-- The scheduled commit that an engine applies at a boundary at clock instant `b` that begins period `ppn` (R58, R106). -/
def dueCommit (s : State) (f : Fe) (b : Nat) (ppn : BitVec 48) : Option Commit :=
  s.commits.find? fun c => !c.queued && hasFe c f && !(c.feDone.any fun d => d.1 = f) &&
    (match c.target with
      | 0 => decide (c.arrivalClk + latchPs < b)
      | 1 => decide (c.value.extractLsb' 0 48 = ppn)
      | _ => s.fe[f].aligned = some (c.sess, c.seq) || decide (c.value ≤ s.time.at b))

/-- A scheduled commit is a phase-aligned start of the engine (R106). -/
def alignsFe (s : State) (f : Fe) (c : Commit) : Bool :=
  !c.queued && hasFe c f && !(c.feDone.any fun d => d.1 = f) && c.target = 2 && !runOf (s.act 0x10 f.val) && runOf (s.shad 0x10 f.val) &&
    bfb (s.shad 0x10 f.val) 0 6

/-- Where the period that began at `b` ends: PERIOD later, or at the target of a phase-aligned start (R103, R106). -/
def periodEnd (s : State) (f : Fe) (b : Nat) : Nat × Option (BitVec 8 × Word) :=
  let p := b + periodPs (s.act 0x10 f.val)
  match s.commits.find? (alignsFe s f) with
  | some c =>
    let t := s.time.clkOf c.value
    if b + 10000000 ≤ t && t < p + 10000000 then (t, some (c.sess, c.seq)) else (p, none)
  | none => (p, none)

/-- A phase-aligned start that is scheduled within its B_k's period re-phases that period (R106). A length once fixed stays, whatever moves device
time later or withdraws the commit. -/
def rephase (f : Fe) (s : State) : State :=
  let e := periodEnd s f s.fe[f].bnd
  if e.2.isSome && s.fe[f].aligned.isNone && decide (s.time.clk < e.1) then s.updFe f fun x => { x with next := e.1, aligned := e.2 } else s

/-! ## Tones in force (R122) -/

/-- A list of small numbers as bits. -/
def bitSet (l : List Nat) : Nat := (List.range 16).foldl (fun m k => if l.contains k then m + 2 ^ k else m) 0

/-! ## Strobes (4.6) -/

def pinClaimed (p : List Word) (n : Nat) : Bool := (bf p 0 12 4).testBit n
def pinFn (p : List Word) (n : Nat) : Nat := bf p 9 (4 * n) 2
def pinInv (p : List Word) (n : Nat) : Bool := bfb p 9 (4 * n + 2)

/-- TRIG_OUT pins are held low (R436, R493). -/
def pinsHeld (s : State) : Bool := s.life.thermtrip || decide (3 ≤ s.power.state.val)

/-- A pulse on every claimed pin of a function, in programmed edge times (R117, R118). -/
def strobe (p : List Word) (fn : Nat) (rise fall : Nat) (s : State) : State :=
  if pinsHeld s then s else (List.range 4).foldl (fun s n =>
    if pinClaimed p n && pinFn p n = fn then (s.emit (.trig n (!pinInv p n) rise)).emit (.trig n (pinInv p n) fall) else s) s

/-- Level of a pin outside its pulses: low where an engine does not claim it. -/
def pinIdle (p : List Word) (n : Nat) : Bool := pinClaimed p n && pinInv p n

/-- The Raman laser fires in this period (R117, R118). -/
def ramanFires (p : List Word) (ppn : BitVec 48) : Bool :=
  runOf p && ramanDiv p ≠ 0 && (ppn.toNat + 2 ^ 48 - ramanPhase p) % 2 ^ 48 % ramanDiv p = 0

/-- A pulse of the new set holds a pin at the boundary that begins period `ppn`: the group-0 gate, which rose before it, a marker, or a Raman pulse
that begins there (R117, R498). -/
def pulseAtBoundary (new : List Word) (ppn : BitVec 48) (n : Nat) : Bool :=
  pinClaimed new n && (match pinFn new n with
    | 1 => ramanFires new ppn && ramanOffset new = 0
    | 2 => true
    | _ => runOf new)

/-- Pins whose resting level a commit changes take it at the boundary, or with the end of a pulse of the new set that holds the pin there, so that no
pulse is cut (R498). -/
def restPins (old new : List Word) (b : Nat) (ppn : BitVec 48) (s : State) : State :=
  if pinsHeld s then s else (List.range 4).foldl (fun s n =>
    if pinIdle old n = pinIdle new n || pulseAtBoundary new ppn n then s else s.emit (.trig n (pinIdle new n) b)) s

/-! ## Launches (R105, R108, R109) -/

/-- The enabled streams of an engine with their sets; a stream between two engines runs on neither (R52). -/
def streamSets (s : State) (f : Fe) : List StreamSet :=
  ((feStreams s.params.active f).filter fun x => !s.stream[x.1].moving).map fun x => ⟨x.1, x.2.1, x.2.2⟩

/-- Launch the next group of the running period. -/
def launchNext (f : Fe) (s0 : State) : State :=
  let p := s0.act 0x10 f.val
  let x := s0.fe[f]
  if runOf p && x.launched < groupsOf p then
    let g := x.launched
    let t := x.bnd + g * (periodPs p / groupsOf p)
    let s := s0.goTo t
    let live := tonesLive p x.shed
    let send := live.filter fun k => toneGroup p k = g
    let lead := bf p 5 0 16 * 500
    let trail := bf p 5 16 16 * 500
    let s1 := s.emit (.launch f g t x.ppn (BitVec.ofNat 8 (bitSet send)) p)
    let s2 := strobe p 0 (t - lead) (t + pulsePs p + trail) s1
    let s3 := strobe p 3 t (t + 100000) s2
    let shot : Shot := {
      ppn := x.ppn, group := g, t := t, time := s.time.stamp t, probe := p, recv := s.act 0x11 f.val, phase := s.act 0x12 f.val
      refs := x.refActive, removed := BitVec.ofNat 8 (bitSet ((tonesOf p).filter fun k => !live.contains k))
      invalid := decide (t < x.invalidUntil), void := none, reset := x.resetNext, holdover := s.time.holdover, epoch := x.launchEpoch
      first := x.starting, streams := streamSets s f, commitNo := x.commitNo }
    s3.updFe f fun y => { y with launched := g + 1, shots := y.shots ++ [shot], starting := false, resetNext := false }
  else s0

/-- GROUP_LAUNCH (R105). -/
def execGroupLaunch (fe : Fe) (s : State) : Host.Outcome State Fault Refusal := ok (launchNext fe s)

/-- The codes an engine's transmit link carries for DAC sample `n`, counted from reset at the DAC rate of its launch; the link carries them
LAUNCH_ADVANCE samples before the sample leaves the DAC (R104). Between launches, and of a stopped engine, code 0 on I and Q (R109, R116). -/
def dacCode (out : List Out) (f : Fe) (n : Nat) : BitVec 16 × BitVec 16 :=
  match out with
  | [] => (0, 0)
  | .launch fe _ t ppn tones p :: rest =>
    let first := t * fDac p / 10 ^ 9
    if fe = f && decide (first ≤ n) && decide (n < first + pulseDac p) then launchCode p tones (ppn.getLsbD 0) (n - first) else dacCode rest f n
  | _ :: rest => dacCode rest f n

/-- What the link itself carries at DAC sample instant `n` under a PROBE set. -/
def txLink (s : State) (f : Fe) (n : Nat) : BitVec 16 × BitVec 16 := dacCode s.out f (n + bf (s.act 0x10 f.val) 2 16 12)

/-- Launch what the period in progress still holds. -/
def launchRest (f : Fe) : Nat → State → State
  | 0, s => s
  | n + 1, s => launchRest f n (launchNext f s)

/-! ## Commits at a boundary (R61, R121, R179) -/

/-- The links that a change of sets re-initialises (R116, R134). -/
def relinks (op np or_ nr : List Word) : List (Fin 3) :=
  let k := fun (fs : List (Nat × Nat × Nat)) => fs.any fun f => bf or_ f.1 f.2.1 f.2.2 ≠ bf nr f.1 f.2.1 f.2.2
  let both := k [(3, 0, 3), (3, 24, 6), (3, 30, 1)]
  (if both || k [(0, 0, 6), (1, 0, 5), (3, 8, 8)] then [0] else []) ++ (if both || k [(0, 8, 6), (1, 16, 3), (3, 16, 8)] then [1] else []) ++
    (if bf op 0 8 3 ≠ bf np 0 8 3 || bf op 2 0 5 ≠ bf np 2 0 5 then [2] else [])

/-- Lanes of a link: A, B, transmit. -/
def linkLanes (p r : List Word) (l : Fin 3) : Nat := if l = 0 then bf r 0 0 6 else if l = 1 then bf r 0 8 6 else bf p 0 8 3

/-- A link starts training, or is off without lanes. -/
def relink (p r : List Word) (x : FeSt) (l : Fin 3) : FeSt :=
  { x with
    links := x.links.set l (if linkLanes p r l = 0 then .off else .training), outage := x.outage.set l none
    lemc := x.lemc &&& ~~~((1 : BitVec 3) <<< l.val), fell := x.fell &&& ~~~((1 : BitVec 3) <<< l.val) }

/-- The rise of the budgets of an engine and of the dynamic Press streams it will own, from what they hold (R429). -/
def feRise (s : State) (f : Fe) : Nat :=
  let p := s.shad 0x10 f.val
  (engineBudget p (s.shad 0x11 f.val) (s.shad 0x30 f.val) - s.grantOf (.fe f)) +
    ((List.finRange 16).map fun n =>
      if streamFe (s.shad 0x14 n.val) = f.val then pressBudget p (s.shad 0x14 n.val) (s.shad 0x50 n.val) - s.grantOf (.press n) else 0).foldl (· + ·) 0

/-- Budgets of an engine as its active sets give them; a Press budget falls at the stream's tile origin, or here where there is none. -/
def holdBudgets (f : Fe) (origin : Bool) (s : State) : State :=
  let p := s.act 0x10 f.val
  let s1 := s.setGrant (.fe f) (engineBudget p (s.act 0x11 f.val) (s.act 0x30 f.val))
  (List.finRange 16).foldl (fun s n =>
    if streamFe (s.act 0x14 n.val) = f.val then
      let b := pressBudget p (s.act 0x14 n.val) (s.act 0x50 n.val)
      s.setGrant (.press n) (if origin then b else max b (s.grantOf (.press n)))
    else s) s1

/-- The other engine of a stream that a commit moves. -/
def otherFe (s : State) (f : Fe) (b : BlockId) : Option Nat := (enginesOf s b).find? fun e => e ≠ f.val

/-- Copy the shadow of an engine into its active set; a stream that changes engines stops at the first of the two boundaries and its blocks become
active at the second (R52, R61). -/
def copyShadow (f : Fe) (c : Commit) (s : State) : State :=
  (engineBlocks s f.val).foldl (fun s b =>
    let n : StreamId := ⟨b.inst % 16, by omega⟩
    match otherFe s f (bid 0x14 b.inst) with
    | some e =>
      if b.code = 0x14 || b.code = 0x50 then
        if c.feDone.any fun d => d.1.val = e then
          if b.code = 0x50 then (applyBlock (bid 0x14 b.inst) (applyBlock b s)).updStream n fun x => { x with moving := false } else s
        else s.updStream n fun x => { x with moving := true }
      else applyBlock b s
    | none => applyBlock b s) s

/-- RUN is kept at 0 in both sets of an isolated engine (R427). -/
def keepIsolated (f : Fe) (s : State) : State :=
  if s.power.isolated.getLsbD f.val then
    let off := fun (b : List Word) => (wordAt b 0 &&& 0xFFFFFFFE#32) :: b.drop 1
    (s.setShad (bid 0x10 f.val) (off (s.shad 0x10 f.val))).setAct (bid 0x10 f.val) (off (s.act 0x10 f.val))
  else s

/-- The streams of an engine have ended: row captures, zones and row taps end with them, and zone changes that wait for the engine apply (R121, R207,
R213, R259, R303). -/
def engineEnded (f : Fe) (s : State) : State :=
  if feEnded s f then zoneCommitPoint none none (tapsStop f (zonesStop f (harvestStop f s))) else s

/-- A shot turns INVALID; the device knew it from an instant on, or from an earlier one already (R121, R497). -/
def Shot.voidAt (sh : Shot) (known : Nat) : Shot := { sh with void := some (match sh.void with | some k => min k known | none => known) }

/-- A commit applies to an engine at a boundary that begins period `ppn` (R61, R106, R121, R179, R238). -/
def applyFe (f : Fe) (b : Nat) (ppn : BitVec 48) (c : Commit) (s : State) : State :=
  let op := s.act 0x10 f.val
  let or_ := s.act 0x11 f.val
  let oh := s.act 0x12 f.val
  let ot := s.act 0x30 f.val
  let oc := s.act 0x31 f.val
  let oref := s.fe[f].refActive
  let rise := feRise s f
  let was := streamSets s f
  let s1 := areasApply f (keepIsolated f (copyShadow f c s))
  let np := s1.act 0x10 f.val
  let nr := s1.act 0x11 f.val
  let nh := s1.act 0x12 f.val
  let plan := isPlan op np or_ nr oref s1.fe[f].refShadow
  let pOld := periodPs op
  let evs := if runOf np then streamEvs (s1.fe[f].commitNo + 1) (fadeRuns s) was (streamSets s1 f) else []
  let s2 := s1.updFe f fun x =>
    let x := { x with refActive := x.refShadow, commitNo := x.commitNo + 1, applyAt := some b, evs := x.evs ++ evs }
    let x := (relinks op np or_ nr).foldl (relink np nr) x
    let x := if bf oh 3 0 5 ≠ bf nh 3 0 5 then { x with launchEpoch := ppn } else x
    if runOf np then
      if !runOf op then
        -- a start; within P_old of the last stop it is a plan change
        let x := { x with resetNext := true, starting := true }
        match x.lastStop with
        | some bs => if b < bs + pOld then { x with invalidUntil := max x.invalidUntil (b + pOld) } else x
        | none => x
      else if plan then
        { x with
          resetNext := true, invalidUntil := max x.invalidUntil (b + pOld)
          shots := x.shots.map fun sh => if b < sh.t + pOld then sh.voidAt c.arrivalClk else sh }
      else if bf oh 1 0 17 ≠ bf nh 1 0 17 then { x with resetNext := true } else x
    else if runOf op then { x with lastStop := some b, awaiting := none } else x
  let s3 := restPins op np b ppn (thermCommit f ppn b op or_ ot oc s2)
  let s4 := holdBudgets f (!runOf np) s3
  let g : Grant := .commit c.sess c.seq
  let s5 := s4.setGrant g (s4.grantOf g - rise)
  let c' := { c with feDone := c.feDone ++ [(f, ppn)], begun := true }
  let s6 := { s5 with commits := s5.commits.map fun d => if d = c then c' else d }
  let s7 := s6.settle c'
  if runOf op && !runOf np then engineEnded f s7 else s7

/-- Every link of an engine re-initialises from an instant; shots whose launch or receive window meets the outage follow R136 (R457). -/
def reinitLinks (f : Fe) (at_ : Nat) (s : State) : State :=
  let p := s.act 0x10 f.val
  let r := s.act 0x11 f.val
  s.updFe f fun x =>
    let y := (List.finRange 3).foldl (relink p r) x
    let out := fun (l : Fin 3) => if linkLanes p r l = 0 then none else some (x.outage[l].getD at_)
    { y with
      outage := #v[out 0, out 1, none], txOut := if linkLanes p r 2 = 0 then none else some (x.txOut.getD at_)
      lemc := x.lemc, awaiting := if runOf p && linkLanes p r 0 ≠ 0 then some at_ else x.awaiting }

/-- A re-initialisation takes effect at boundary `b`: that of a plan change under the active sets, with the period active before it, and the links'
(R457). -/
def reinitFe (f : Fe) (b pOld : Nat) (s : State) : State :=
  let s1 := reinitLinks f b s
  s1.updFe f fun x => { x with
    reinit := false, reinitAt := some b, chans := [], golay := [], resetNext := true
    invalidUntil := if runOf (s1.act 0x10 f.val) then max x.invalidUntil (b + pOld) else x.invalidUntil
    shots := x.shots.map fun sh => if b < sh.t + pOld then sh.voidAt b else sh }

/-! ## BOUNDARY (R103) -/

/-- Words of Table 16.1 whose trims take effect at a boundary: the launch delay of the engine and of the pins it claims (R404). -/
def boundaryTrims (s : State) (f : Fe) : List Nat :=
  (33 + f.val) :: ((List.range 4).filter (pinClaimed (s.act 0x10 f.val))).map (37 + ·)

/-- The Raman fire of a period: its strobe, and its shot where the profiler runs (R117, R223). -/
def fireRaman (f : Fe) (b : Nat) (ppn : BitVec 48) (s : State) : State :=
  let p := s.act 0x10 f.val
  if ramanFires p ppn then
    let t := b + ramanOffset p * 500
    let s1 := strobe p 1 t (t + bf p 8 0 16 * 500) s
    let th := s.act 0x30 f.val
    if thEn th then
      s1.updTherm f fun x => { x with q := shotIndex p ppn, fires := x.fires ++ [{
        ppn := ppn, t := t, time := s.time.at t, stop := s.time.at (t + ramanDiv p * periodPs p), probe := p, recv := s.act 0x11 f.val
        phase := s.act 0x12 f.val, therm := th, cal := s.act 0x31 f.val, holdover := s.time.holdover }] }
    else s1
  else s

/-- An aux cycle that a boundary starts (R379). -/
def probeAux (f : Fe) (b : Nat) (ppn : BitVec 48) (s : State) : State :=
  let q := seqBlk s
  if sqStart q = 4 && bf q 0 4 2 = f.val && ppn.toNat % max 1 (bf q 2 0 9) = 0 then
    { s with aux := { s.aux with probeDue := s.aux.probeDue ++ [b + bf q 3 0 21 * 1000] } }
  else s

/-- BOUNDARY (R103): the period in progress is launched in full; the boundary adds 1 to the PPN, takes the shedding in force and a due commit, and the new
period begins. -/
def execBoundary (fe : Fe) (s0 : State) : Host.Outcome State Fault Refusal :=
  if 4 ≤ s0.power.state.val || s0.life.inReset then ok s0 else
  let s1 := launchRest fe 8 s0
  let b := s1.fe[fe].next
  let s2 := s1.goTo b
  let ppn := s2.fe[fe].ppn + 1
  let s3 := match dueCommit s2 fe b ppn with
    | some c => applyFe fe b ppn c s2
    | none => s2
  let s3 := if s3.fe[fe].reinit then reinitFe fe b (periodPs (s1.act 0x10 fe.val)) s3 else s3
  let shed := s3.power.shed3
  let live := fun (n : Nat) => tonesLive (s3.act 0x10 fe.val) n
  let s4 := if runOf (s3.act 0x10 fe.val) && live shed ≠ live s3.fe[fe].shed then s3.raise (vecEngine fe) else s3
  let epoch := ppn.toNat % 2 ^ bf (s4.act 0x12 fe.val) 3 0 5 = 0
  let s4 := if s4.fe[fe].launchEpoch ≠ s2.fe[fe].launchEpoch || epoch then markEpochEnd fe ppn s2 s4 else s4
  let s5 := s4.updFe fe fun x => { x with
    ppn := ppn, bnd := b, ticks := shotInstants s1 fe (b - 1), launched := 0, shed := shed, aligned := none, launchEpoch := if epoch then ppn else x.launchEpoch }
  let e := periodEnd s5 fe b
  let s6 := s5.updFe fe fun x => { x with next := e.1, aligned := e.2 }
  let s7 := strobe (s6.act 0x10 fe.val) 2 b (b + 100000) (s6.trimPoint (boundaryTrims s6 fe))
  let s8 := probeAux fe b ppn (fireRaman fe b ppn s7)
  ok (tiuSource (1 + fe.val) s8)

/-! ## SHOT_ROW_PROCESS (R158-R174) -/

/-- What the phase engine makes of one shot: elements, channel states, saturations. -/
structure RowOut where
  elems : List Elem
  chans : List ChanSt
  /-- Branch samples by branch, as every consumer takes them. -/
  vs : List (Nat × List (Int × Int))
  raw : List (Nat × List (Int × Int))
  satD : Nat
  satP : Nat

/-- Branches of a shot that contribute: launched and masked in (R161). -/
def contributes (sh : Shot) (b : Nat) : Bool := !sh.removed.getLsbD (b / 2) && (bf sh.phase 2 0 16).testBit b

/-- The Golay predecessor of a shot (R143). -/
def golayPrev (x : FeSt) (sh : Shot) : Option (List (List (Int × Int))) :=
  (x.golay.find? fun e => e.1 = sh.group && e.2.1 + 1 = sh.ppn).map (·.2.2)

/-- Branch samples of a shot before and after the Golay sum. -/
def branchSamples (seed : Nat) (x : FeSt) (sh : Shot) (smp : PairSamples) :
    List (Nat × List (Int × Int)) × List (Nat × List (Int × Int)) × Nat × Nat :=
  let bs := groupBranches sh.probe sh.group
  let runs := bs.map fun b => (b, branchRun seed sh (fromOrigin (adcLatency sh.recv) smp) b)
  let raw := runs.map fun r => (r.1, r.2.1)
  let vs := if shapeOf sh.probe = 2 then
      match golayPrev x sh with
      | some prev => (raw.zip prev).map fun (z : (Nat × List (Int × Int)) × List (Int × Int)) => (z.1.1, List.zipWith golaySum z.1.2 z.2)
      | none => raw
    else raw
  (raw, vs, (runs.map (·.2.2.1)).foldl (· + ·) 0, (runs.map (·.2.2.2)).foldl (· + ·) 0)

/-- A channel as the shot finds it: reset where asked, without a valid reference of a branch that does not contribute (R167, R168, R170). -/
def enterChan (sh : Shot) (reset : Bool) (c : ChanSt) : ChanSt :=
  let c1 := if reset then resetChan c else c
  let off := (groupBranches sh.probe sh.group).filter fun b => !contributes sh b
  { c1 with valid := off.foldl (fun (v : BitVec 16) b => v &&& ~~~((1 : BitVec 16) <<< b)) c1.valid }

/-- Every channel of a shot: `upto` of them are processed, the rest emit zeros and keep their state (R158, R497). -/
def runChannels (seed upto : Nat) (sh : Shot) (vs : List (Nat × List (Int × Int))) (reset : Nat → Bool) (cs : List ChanSt) : List (Elem × ChanSt) :=
  let n := nChOf sh.recv
  let a := edgeA sh.phase sh.recv
  let m := gaugeM sh.phase sh.recv
  let live := vs.filter fun v => contributes sh v.1
  (List.range n).map fun j =>
    let c := cs.getD j {}
    if upto ≤ j then (zeroElem, c)
    else if j < a || n ≤ j - a + m then ({ zeroElem with edge := true }, c)
    else
      let qs := live.map fun v => (v.1, diffProd (v.2.getD (j - a) (0, 0)) (v.2.getD (j - a + m) (0, 0)))
      let r := chanStep seed j sh.phase sh.group qs (enterChan sh (reset j) c)
      (r.el, r.st)

/-- The triples of channels, from the `k`-th on, of an epoch that ends; edge channels are those of the ended epoch's sets (R171, R172). -/
def epochTriples (x : FeSt) (k : Nat) : List (Int × Nat × Bool) :=
  (List.range (x.chans.length - k)).map fun i =>
    let j := k + i
    if j < x.geom.1 || x.chans.length ≤ j - x.geom.1 + x.geom.2 then (0, 0, true)
    else let c := x.chans.getD j {}; (c.drift, c.driftN, c.broken || x.invEpoch)

/-- A channel whose epoch's sums have been handed over. -/
def clearDrift (c : ChanSt) : ChanSt := { c with drift := 0, driftN := 0, broken := false }

/-- The first `upto` channels are processed in a shot of a new drift epoch: each hands over the triple of the epoch just ended first (R171). Where the
row is INVALID the channels after them hand theirs over at a later shot. `whole`: every channel is processed. -/
def endEpoch (f : Fe) (sh : Shot) (upto : Nat) (whole : Bool) (s : State) : State :=
  let x := s.fe[f]
  if sh.epoch = x.epoch then s
  else if !whole then
    s.updFe f fun y => { y with
      early := x.early ++ (epochTriples x x.early.length).take (upto - x.early.length), earlyFor := if x.early.isEmpty then sh.epoch else x.earlyFor
      chans := ((List.range y.chans.length).zip y.chans).map fun p => if x.early.length ≤ p.1 && p.1 < upto then clearDrift p.2 else p.2 }
  else
    let trip := x.early ++ epochTriples x x.early.length
    -- an epoch that began with an INVALID row and ends with no valid one has nothing but broken triples
    let lost := if x.early.isEmpty || x.earlyFor = sh.epoch then [] else [⟨x.earlyFor, trip.map fun _ => (0, 0, true), false⟩]
    let s1 := s.updFe f fun y => { y with
      epoch := sh.epoch, invEpoch := false, early := [], lostEpoch := false
      chans := ((List.range y.chans.length).zip y.chans).map fun p => if p.1 < x.early.length && x.earlyFor = sh.epoch then p.2 else clearDrift p.2 }
    if x.chans.isEmpty then s1 else s1.updTherm f fun t => { t with epochs := t.epochs ++ ⟨x.epoch, trip, x.lostEpoch⟩ :: lost }

/-- Harvest inputs of the row sources (R246-R248). -/
def harvestRow (row : Row) (vs : List (Nat × List (Int × Int))) (probe : List Word) (s : State) : State :=
  { s with harv := s.harv.map fun (u : HarvSt) =>
    let b := u.set
    let n := row.elems.length
    let inv := row.flags.getLsbD flInvalid
    let beyond := n < hvFirst b + hvCount b
    let edge := ((row.elems.drop (hvFirst b)).take (hvCount b)).any (·.edge)
    let flags := row.flags ||| flagBit flInvalid beyond ||| flagBit flEdge edge
    let chs := (List.range (hvCount b)).map (hvFirst b + ·)
    if (u.st = .armed || u.st = .post) && hvFe b = row.fe then
      if hvSrc b = 2 then
        let sel := selBranches probe (hvSel b) row.group
        if sel.isEmpty then u
        else
          let comps := chs.flatMap fun j => sel.map fun br =>
            let v := (match vs.find? fun v => v.1 = br with | some v => v.2.getD j (0, 0) | none => (0, 0))
            if inv && row.keep ≤ j then (0 : Int) else v.1 % 65536 + v.2 % 65536 * 65536
          { u with inputs := u.inputs ++ [⟨comps, row.time, flags, row.ppn, row.group⟩] }
      else if hvSrc b = 3 then
        let comps := chs.map fun j =>
          let e := row.elems.getD j zeroElem
          if hvAvg b ≠ 0 || hvFmt b = 0 then e.rate
          else ((bytesNat (elemBytes (hvFmt b) e) : Nat) : Int)
        { u with inputs := u.inputs ++ [⟨comps, row.time, flags, row.ppn, row.group⟩] }
      else u
    else u }

/-- The level detectors that watch a channel of the row's engine (R255). -/
def levelRow (row : Row) (decided : Nat → Nat) (s : State) : State :=
  (List.finRange 4).foldl (fun s u =>
    let b := s.harv[u].set
    let ch := hvLvlCh b
    if hvLvlKind b = 1 && hvLvlFe b = row.fe.val && (s.harv[u].st = .armed || s.harv[u].st = .post) then
      match row.elems[ch]? with
      | some e => levelSample u e.rate row.t (row.flags.getLsbD flInvalid && decide (row.keep ≤ ch)) (decided ch) s
      | none => s
    else s) s

/-- When the last native sample that the element of an output channel needs has been taken (R138, R146, R159). -/
def sampledAt (sh : Shot) (j : Nat) : Nat :=
  let extra := 4 + (if pcEn sh.recv then refTaps sh.probe sh.recv - 1 else 0)
  let far := min (nChOf sh.recv - 1) (j + edgeB sh.phase sh.recv)
  sh.t + (sOf sh.recv far / 64 + extra) * decD sh.recv * 10 ^ 9 / max 1 (fConv sh.recv)

/-- The earliest that the element of an output channel can reach its consumers: its last sample at the balls. The chain's stages, for which R151, R174 and
R210 give bounds, add to it. -/
def elemAt (sh : Shot) (j : Nat) : Nat := sampledAt sh j + adcLatency sh.recv * 10 ^ 9 / max 1 (fConv sh.recv)

/-- Elements that an output channel count can have delivered by an instant: those whose last native sample was taken by then (R497). -/
def deliverable (sh : Shot) (known : Nat) : Nat := ((List.range (nChOf sh.recv)).takeWhile fun j => decide (sampledAt sh j ≤ known)).length

/-- The consumers of a row (R13): zones, corner-turn, Harvest, level detectors, taps. -/
def consumeRow (f : Fe) (sh : Shot) (row : Row) (vs : List (Nat × List (Int × Int))) (s : State) : State :=
  let seed := s.free
  let s0 := { s with free := s.free + 1 }
  let decided := fun (j : Nat) => elemAt sh j + Config.stageLag seed % 7100001
  let s1 := zonesRow row decided row.elems.length
    (zoneCommitPoint (some f) (some (sh.time, elemAt sh 0 + Config.stageLag seed % 6700001)) s0)
  let s2 := cornerRow f sh row s1
  let s3 := if (match s2.fe[f].band with | some b => decide (b.rows.length = 1) | none => false) then holdBudgets f true s2 else s2
  tapsRow row (levelRow row decided (harvestRow row vs sh.probe s3))

/-- The commit of a plan change that the next boundary brings and that reaches a shot in flight (R121). -/
def planDue (s : State) (f : Fe) (sh : Shot) : Option Commit :=
  let x := s.fe[f]
  if planShadow s f && decide (x.next < sh.t + periodPs (s.act 0x10 f.val)) then dueCommit s f x.next (x.ppn + 1) else none

/-- Why a shot is INVALID though it was launched valid, as the instants at which the device knew: a plan change, tainted samples, an outage. -/
def knownInvalid (s : State) (f : Fe) (sh : Shot) (smp : PairSamples) : List Nat :=
  let x := s.fe[f]
  let w := windowPs sh.probe sh.recv
  let hits := fun (l : List (Nat × Nat)) (a b : Nat) => (l.filter fun (i : Nat × Nat) => decide (i.1 < b) && decide (a < i.2)).map (·.2)
  let runs := fun (o : Option Nat) (b : Nat) => (o.toList.filter (· < b))
  sh.void.toList ++ ((planDue s f sh).map (·.arrivalClk)).toList ++
    (if (fromOrigin (adcLatency sh.recv) smp).bad.any fun i => i < window sh.probe sh.recv * decD sh.recv then [sh.t + w] else []) ++
    hits x.taintA sh.t (sh.t + w) ++ runs x.outage[0] (sh.t + w) ++
    hits x.taintT sh.t (sh.t + pulsePs sh.probe) ++ runs x.txOut (sh.t + pulsePs sh.probe)

/-- The ECC's findings in the state of the channels that were processed (R170, R321). -/
def chanEcc (f : Fe) (probe : List Word) (l : List (Nat × EccRead)) (s : State) : State :=
  l.foldl (fun s p => vatEcc ⟨f.val, by omega⟩ (feStateAt s f probe p.1) p.2 s) s

/-- The oldest launched shot becomes a row (R158). -/
def processRow (f : Fe) (sh : Shot) (smp : PairSamples) (eccCh : List (Nat × EccRead)) (loses : Bool) (keep : Nat) (s : State) : State :=
  let n := nChOf sh.recv
  let w := windowPs sh.probe sh.recv
  let x0 := s.fe[f]
  let lost := loses && shedLast s
  let known := knownInvalid s f sh smp
  let golayGap := shapeOf sh.probe = 2 && (golayPrev x0 sh).isNone
  let zeros := sh.invalid || golayGap
  let invalid := zeros || !known.isEmpty
  let upto := if zeros then 0 else match known with
    | [] => n
    | k :: r => min keep (deliverable sh (r.foldl min k))
  -- the delivered elements of an INVALID row were formed as those of a valid one
  let due := x0.resetDue || sh.reset || x0.chans.length ≠ n
  let reset := !invalid && due
  let seed := s.free
  let s1 := { s with free := s.free + 1 }
  let shift := bf sh.phase 4 0 5
  let s2 := s1.updFe f fun x => { x with
    ampShift := shift
    chans := if x.ampShift = shift then x.chans else x.chans.map fun (c : ChanSt) => { c with ampMean := rescaleMean x.ampShift shift c.ampMean } }
  let s3 := if upto = 0 && invalid then s2 else endEpoch f sh upto (!invalid) s2
  let br := branchSamples seed x0 sh smp
  let found := eccCh.filter fun p => p.1 < upto
  let ecc := (found.filter fun p => p.2 = .uncorrectable).map (·.1)
  let cs := if s3.fe[f].chans.length = n then s3.fe[f].chans else List.replicate n {}
  let cs' := ((List.range n).zip cs).map fun p => if due && p.1 < upto then resetChan p.2 else p.2
  let out := runChannels seed upto sh br.2.1 (fun j => ecc.contains j) cs'
  let elems := out.map (·.1)
  let settle := if reset then groupsOf sh.probe * 2 ^ bf sh.phase 0 16 4 else x0.settle
  let disc := !invalid && (x0.disc || reset || !ecc.isEmpty)
  let flags := flagBit flSettling (0 < settle) ||| flagBit flDisc disc ||| flagBit flInvalid invalid ||| flagBit flOverrun lost |||
    flagBit flHoldover sh.holdover
  let row : Row := ⟨f, sh.ppn, sh.group, sh.t, sh.time, flags, elems, upto⟩
  let ends := samplesEnd sh.t (fConv sh.recv) smp.c0.length
  let clips := fun (y : Bool) => clipsFrom x0.clipTo[0] sh.t (fConv sh.recv) (polStream sh.recv smp y)
  let next := match x0.shots.drop 1 with | y :: _ => y.t | [] => sh.t + w
  let s4 := s3.updFe f fun x => { x with
    chans := if n = x.chans.length || 0 < upto then out.map (·.2) else x.chans
    geom := if 0 < upto then (edgeA sh.phase sh.recv, gaugeM sh.phase sh.recv) else x.geom
    disc := invalid || (x.disc && !disc), resetDue := invalid || (due && !reset)
    lostEpoch := x.lostEpoch || lost
    invEpoch := x.invEpoch || (invalid && sh.epoch = x.epoch)
    awaiting := x.awaiting.filter fun o => invalid || decide (sh.t < o)
    settle := settle - 1
    resets := if reset then min 65535 (x.resets + 1) else x.resets, lastReset := if reset then sh.ppn else x.lastReset
    faded := addSat x.faded (elems.filter (·.faded)).length, bridged := addSat x.bridged (elems.filter (·.bridged)).length
    eccResets := addSat x.eccResets ecc.length
    golay := if shapeOf sh.probe = 2 then
        (if sh.invalid || !known.isEmpty then x.golay.filter (fun e => e.1 ≠ sh.group)
         else (sh.group, sh.ppn, br.1.map (·.2)) :: x.golay.filter fun e => e.1 ≠ sh.group) else []
    clips := (x.clips.set 0 (min 65535 (x.clips[0] + clips false))).set 1 (min 65535 (x.clips[1] + clips true))
    clipTo := x.clipTo.set 0 (max x.clipTo[0] ends)
    satDdc := min 65535 (x.satDdc + br.2.2.1), satPc := min 65535 (x.satPc + br.2.2.2)
    shots := x.shots.drop 1
    reinitAt := if invalid then x.reinitAt else x.reinitAt.filter fun b => decide (sh.t < b)
    taintT := x.taintT.filter fun (i : Nat × Nat) => next < i.2
    taintA := x.taintA.filter fun (i : Nat × Nat) => next < i.2 }
  let s5 := chanEcc f sh.probe found s4
  let s6 := if lost then s5.raise vecFault else s5
  let s6 := if x0.reinitAt.isSome && s6.fe[f].reinitAt.isNone then reinitDone 0 f.val s6 else s6
  engineEnded f (consumeRow f sh row br.2.1 s6)

/-- SHOT_ROW_PROCESS (R158): the coherent samples of the oldest launched shot. -/
def execShotRowProcess (fe : Fe) (x : PairSamples) (eccCh : List (Nat × EccRead)) (lost : Bool) (keep : Nat) (s : State) :
    Host.Outcome State Fault Refusal :=
  match s.fe[fe].shots with
  | [] => ok s
  | sh :: _ => ok (processRow fe sh x eccCh lost keep (s.goTo (sh.t + windowPs sh.probe sh.recv)))

/-! ## Links (R131-R136) -/

/-- A blocks count after which a link's data comes too late (R132). -/
def rbdOf (r : List Word) (l : Fin 3) : Nat := if l = 0 then bf r 3 8 8 else if l = 1 then bf r 3 16 8 else 255

/-- A link reaches the data state, or stays out of it where a lane comes after its release point. -/
def linkUp (f : Fe) (l : Fin 3) (latest : Nat) (s0 : State) : State :=
  let s := if l = 2 then s0.updFe f fun x => { x with
    txOut := none, taintT := match x.txOut with | some o => x.taintT ++ [(o, s0.time.clk)] | none => x.taintT } else s0
  let bad := rbdOf (s.act 0x11 f.val) l < latest
  let s := if bad then s else rawBack f l.val s
  s.updFe f fun x =>
    let lat := if h : l.val < 2 then x.latest.set l.val latest else x.latest
    let from_ := x.outage[l]
    { x with
      links := x.links.set l (if bad then .rbdViolation else .data), latest := lat
      outage := if bad then x.outage else x.outage.set l none
      taintA := if l = 0 && !bad then (match from_ with | some o => x.taintA ++ [(o, s.time.clk)] | none => x.taintA) else x.taintA
      taintB := if l = 1 && !bad then (match from_ with | some o => x.taintB ++ [(o, s.time.clk)] | none => x.taintB) else x.taintB }

/-- A link whose outage raised LINK_DOWN is in the data state again: LINK_UP (R136). -/
def linkUpEvent (f : Fe) (l : Fin 3) (s : State) : State :=
  if s.fe[f].fell.getLsbD l.val && s.fe[f].links[l] = .data then
    (s.updFe f fun x => { x with fell := x.fell &&& ~~~((1 : BitVec 3) <<< l.val) }).raise (vecEngine f)
  else s

/-- A FUNC_REINIT of the links ends with the last of them in the data state (R457). -/
def linksReinit (f : Fe) (s : State) : State :=
  if s.fe[f].links.toList.all fun l => l = .data || l = .off then reinitDone 3 f.val s else s

/-- SYSREF_EDGE (R132): the first edge aligns links that train; a later one is checked with SYSREF_CONT. -/
def execSysrefEdge (fe : Fe) (offset : Int) (s : State) : Host.Outcome State Fault Refusal :=
  let cont := bfb (s.act 0x11 fe.val) 3 30
  let up := s.fe[fe].links.toList.contains .data
  let mis := cont && up && decide (1000 < offset.natAbs)
  let s1 := s.updFe fe fun x => { x with
    links := x.links.map fun (l : LinkSt) => if l = .training then .aligning else l, sysrefMis := x.sysrefMis || mis
    lemc := BitVec.ofNat 3 (((List.finRange 3).map fun (l : Fin 3) => if x.links[l] = .off then 0 else 2 ^ l.val).foldl (· + ·) 0) }
  ok (if mis then s1.raise (vecEngine fe) else s1)

/-- A link that trains may complete: a SYSREF edge has aligned its local clock since it was enabled (R132). -/
def linkAligned (s : State) (f : Fe) (l : Fin 3) : Bool :=
  s.fe[f].lemc.getLsbD l.val && (s.fe[f].links[l] = .aligning || s.fe[f].links[l] = .training)

/-- LINK_INIT_COMPLETE (R116, R132, R133). -/
def execLinkInitComplete (fe : Fe) (link : Fin 3) (latestArrival : Nat) (s : State) : Host.Outcome State Fault Refusal :=
  if s.life.thermtrip then ok s else
  if linkAligned s fe link then ok (linkUpEvent fe link (linksReinit fe (linkUp fe link latestArrival s))) else ok s

/-- CRC12_FAILURE (R135): one failing multiblock of a lane. -/
def execCrc12Failure (fe : Fe) (lane : Fin 6) (fromT toT : Nat) (s : State) : Host.Outcome State Fault Refusal :=
  let r := s.act 0x11 fe.val
  ok ((s.goTo toT).updFe fe fun x => { x with
    crcErr := x.crcErr.set lane (addSat x.crcErr[lane] 1)
    taintA := if (bf r 0 0 6).testBit lane.val then x.taintA ++ [(fromT, toT)] else x.taintA
    taintB := if (bf r 0 8 6).testBit lane.val then x.taintB ++ [(fromT, toT)] else x.taintB })

/-- LINK_DOWN (R136): the whole link re-initialises; an outage is counted, and raised while the engine runs. -/
def execLinkDown (fe : Fe) (link : Fin 3) (t : Nat) (s : State) : Host.Outcome State Fault Refusal :=
  if s.fe[fe].links[link] = .data then
    let s := s.goTo t
    let run := runOf (s.act 0x10 fe.val)
    let s1 := s.updFe fe fun x => { x with
      links := x.links.set link .training, outage := x.outage.set link (some s.time.clk), linkDowns := min 65535 (x.linkDowns + 1)
      fell := if run then x.fell ||| ((1 : BitVec 3) <<< link.val) else x.fell
      awaiting := if run && link = 0 then some s.time.clk else x.awaiting }
    ok (if run then s1.raise (vecEngine fe) else s1)
  else ok s

/-- LINK_RETRY (R136): every 10 ms from the outage until the link is in the data state. -/
def execLinkRetry (fe : Fe) (link : Fin 3) (success : Bool) (latestArrival : Nat) (s : State) : Host.Outcome State Fault Refusal :=
  match s.fe[fe].outage[link] with
  | none => ok s
  | some o =>
    let s := s.goTo (o + ((s.time.clk - o) / 10 ^ 10 + 1) * 10 ^ 10)
    if success && !s.life.thermtrip && linkAligned s fe link then ok (linkUpEvent fe link (linksReinit fe (linkUp fe link latestArrival s)))
    else ok s

/-- RATE_MISMATCH (R131). -/
def execRateMismatch (fe : Fe) (_link : Fin 3) (s : State) : Host.Outcome State Fault Refusal :=
  ok ((s.updFe fe fun x => { x with rateMis := true }).raise (vecEngine fe))

/-! ## Opcodes -/

/-- NB of a PROBE set: twice its enabled tones (R175). -/
def nbOf (p : List Word) : Nat := 2 * (tonesOf p).length

/-- FE_STATUS. -/
def doFeStatus (r : Req) (s : State) : Res :=
  if rsvdBad r 0 3 then Res.bad 0 s
  else
    let f := feOf r
    let x := s.fe[f]
    let p := s.act 0x10 f.val
    let interval := runOf p && decide (s.time.clk < x.invalidUntil)
    let state := if s.power.isolated.getLsbD f.val then 3 else if !runOf p then 0 else if interval || x.awaiting.isSome then 2 else 1
    let sched := s.commits.any fun c => !c.queued && hasFe c f && !c.feDone.any fun d => d.1 = f
    Res.ok ([BitVec.ofNat 32 (state + 4 * sched.toNat + 8 * (decide (x.links[2] = .data)).toNat + 256 * bitSet (tonesLive p x.shed))] ++
      split64 (x.ppn.zeroExtend 64) ++ split64 (s.time.stamp x.next) ++
      split64 (if interval then s.time.stamp x.invalidUntil else 0) ++
      (List.range 8).map fun k => if toneOn p k then BitVec.ofNat 32 (ncoStep p k) else 0) s

/-- FE_STATUS (R125). -/
def execFeStatus (r : Req) (s : State) : Host.Outcome State Fault Refusal := ok (runOp 0x0201 [] 1 1 false doFeStatus r s)

/-- Key of tap `i` of the bank a payload names. -/
def refKey (r : Req) (i : Nat) : Nat := wbits (wordAt r.payload 0) 2 3 * 1024 + wbits (wordAt r.payload 0) 5 1 * 512 + wbits (wordAt r.payload 0) 16 9 + i

/-- RECV_REF_SET. -/
def doRecvRefSet (r : Req) (s : State) : Res :=
  let f := feOf r
  let n := wbits (wordAt r.payload 1) 0 10
  if 1 ≤ n && n ≤ 512 && r.payload.length ≠ 2 + n then Res.rep stBadLength (2 + n) [] s
  else if rsvdBad r 0 0x01FF003F then Res.bad 0 s
  else if rsvdBad r 1 0x3FF || n = 0 || 512 < wbits (wordAt r.payload 0) 16 9 + n then Res.bad 1 s
  else if locked s ((1 : BitVec 6) <<< f.val) then Res.rep stBusyCommit 0 [] s
  else Res.ok [] (s.updFe f fun x => { x with
    refShadow := (List.range n).foldl (fun l i => assocSet l (refKey r i) (wordAt r.payload (2 + i))) x.refShadow })

/-- RECV_REF_SET (R144). -/
def execRecvRefSet (r : Req) (s : State) : Host.Outcome State Fault Refusal := ok (runOp 0x0202 [] 3 514 false doRecvRefSet r s)

/-- RECV_REF_GET: over SMBus at most 57 taps (Table 5.7). -/
def doRecvRefGet (r : Req) (s : State) : Res :=
  let f := feOf r
  let n := wbits (wordAt r.payload 1) 0 10
  if rsvdBad r 0 0x01FF803F then Res.bad 0 s
  else if rsvdBad r 1 0x3FF || n = 0 || 512 < wbits (wordAt r.payload 0) 16 9 + n then Res.bad 1 s
  else if r.via = .smbus && 57 < n then Res.rep stBadLength 59 [] s
  else
    let set := if (wordAt r.payload 0).getLsbD 15 then s.fe[f].refActive else s.fe[f].refShadow
    Res.ok ((List.range n).map fun i => (assocGet set (refKey r i)).getD 0) s

/-- RECV_REF_GET (R155). -/
def execRecvRefGet (r : Req) (s : State) : Host.Outcome State Fault Refusal := ok (runOp 0x0203 [] 2 2 false doRecvRefGet r s)

/-- STATE of a link (Table 5.8). -/
def LinkSt.code : LinkSt → Nat
  | .off => 0
  | .training => 1
  | .aligning => 2
  | .data => 3
  | .rbdViolation => 4

/-- RECV_STATUS: Table 5.8; its counters and sticky bits clear. -/
def doRecvStatus (r : Req) (s : State) : Res :=
  if rsvdBad r 0 3 then Res.bad 0 s
  else
    let f := feOf r
    let x := s.fe[f]
    let lat := Config.ingestLatency f.val (s.act 0x11 f.val) (s.act 0x10 f.val) % 65536
    Res.ok ([BitVec.ofNat 32 (x.links[0].code + 8 * x.links[1].code + 64 * x.sysrefMis.toNat + 128 * x.rateMis.toNat + 2 ^ 8 * (x.latest[0] % 256) +
          2 ^ 16 * (x.latest[1] % 256)), BitVec.ofNat 32 (lat + 65536 * x.linkDowns)] ++ x.crcErr.toList ++
        [BitVec.ofNat 32 (x.clips[0] + 65536 * x.clips[1]), BitVec.ofNat 32 (x.clips[2] + 65536 * x.clips[3]),
          BitVec.ofNat 32 (x.satDdc + 65536 * x.satPc)])
      (s.updFe f fun y => { y with
        sysrefMis := false, rateMis := false, linkDowns := 0, crcErr := Vector.replicate 6 0, clips := Vector.replicate 4 0, satDdc := 0, satPc := 0 })

/-- RECV_STATUS (R156). -/
def execRecvStatus (r : Req) (s : State) : Host.Outcome State Fault Refusal := ok (runOp 0x0204 [] 1 1 false doRecvStatus r s)

/-- PHASE_STATUS: Table 6.6. -/
def doPhaseStatus (r : Req) (s : State) : Res :=
  if rsvdBad r 0 3 then Res.bad 0 s
  else
    let f := feOf r
    let x := s.fe[f]
    let p := s.act 0x10 f.val
    let v := s.act 0x11 f.val
    let h := s.act 0x12 f.val
    let live := (tonesLive p x.shed).flatMap fun k => [2 * k, 2 * k + 1]
    Res.ok ([BitVec.ofNat 32 (gaugeM h v % 1024 + 1024 * (edgeA h v % 1024) + 2 ^ 20 * (edgeB h v % 1024)), BitVec.ofNat 32 (gaugeEff h v),
          BitVec.ofNat 32 (nChOf v * (16 + 2 * nbOf p)),
          BitVec.ofNat 32 ((live.filter fun b => (bf h 2 0 16).testBit b).length + 65536 * x.resets), x.faded, x.bridged, x.eccResets] ++
        split64 (x.lastReset.zeroExtend 64))
      (s.updFe f fun y => { y with resets := 0, faded := 0, bridged := 0, eccResets := 0 })

/-- PHASE_STATUS (R180). -/
def execPhaseStatus (r : Req) (s : State) : Host.Outcome State Fault Refusal := ok (runOp 0x0205 [] 1 1 false doPhaseStatus r s)

end Sys2Proof.Machine
end

