-- ==== Sys2Proof/Machine/Racking.lean ====
section
/-! DEFINITION. The host-facing Racking channels (14.3-14.8): internal addresses, descriptors, bursts, items, completions, errors. The order in
which channels are served (R359) is the order in which the burst commands come. -/

namespace Sys2Proof.Machine

/-! ## RING set fields (Table 14.10) -/

def rgEn (b : List Word) : Bool := bfb b 0 0
def rgKind (b : List Word) : Nat := bf b 0 1 3
/-- N_RING. -/
def rgSlots (b : List Word) : Nat := if bf b 0 4 4 = 0 then 65536 else 2 ^ bf b 0 4 4
def rgNoSnoop (b : List Word) : Bool := bfb b 0 10
def rgRelaxed (b : List Word) : Bool := bfb b 0 11
def rgRetry (b : List Word) : Nat := bf b 0 12 3
def rgFmt (b : List Word) : Nat := bf b 0 16 2
def rgReply (b : List Word) : RingId := ringOf (bf b 1 0 5)
def rgEvent (b : List Word) : RingId := ringOf (bf b 1 8 5)
/-- HOLDOFF in ps. -/
def rgHoldoff (b : List Word) : Nat := bf b 2 0 16 * 1000000
def rgBase (b : List Word) : BitVec 64 := word64 b 4
def rgWb (b : List Word) : BitVec 64 := word64 b 6
def rgProdAddr (b : List Word) : BitVec 64 := word64 b 8

/-- The active RING set of a ring. -/
def ringBlk (s : State) (n : RingId) : List Word := s.act 0x80 n.val

/-- The endpoint issues requests: link up, D0, not stopped by a reset, and the device in RUN or IDLE (R347, R435). -/
def busLive (s : State) : Bool :=
  s.pcie.up && !s.pcie.d3hot && !s.pcie.busStopped && !s.life.inReset && decide (s.power.state.val ≤ 1)

/-- The ring still delivers its replies: a reply is in progress or next (R435). -/
def replyNext (r : Ring) : Bool :=
  match r.cur with
  | some (i, _) => i.tag = 0
  | none => (match r.queue with | i :: _ => i.tag = 0 | [] => false)

/-- A ring's channel may take a burst; once a low state is being entered, only replies leave (R435). -/
def chanLive (s : State) (n : RingId) : Bool :=
  busLive s && rgEn (ringBlk s n) && !s.rings[n].halted && (s.power.entering.isNone || replyNext s.rings[n])

/-! ## Interrupts of a ring (R370) -/

/-- The ring's vector. -/
def vecRing (n : RingId) : Fin 64 := ⟨n.val, by omega⟩

/-- A message of the ring's vector goes out and its HOLDOFF begins. -/
def ringMessage (n : RingId) (s : State) : State :=
  let h := rgHoldoff (ringBlk s n)
  (s.message (vecRing n)).updRing n fun r => { r with holdoff := if h = 0 then none else some (s.time.clk + h), merged := false }

/-- An event of the ring's vector: its summary bit at once, its message unless HOLDOFF runs. -/
def ringEvent (n : RingId) (s : State) : State :=
  let s1 := s.setSum (vecRing n)
  match s.rings[n].holdoff with
  | some t => if s.time.clk < t then s1.updRing n fun r => { r with merged := true } else ringMessage n s1
  | none => ringMessage n s1

/-- A halt (R363): ERR and RETRIES, the ring's vector past any HOLDOFF, and vector 42. -/
def haltRing (n : RingId) (err : Nat) (s : State) : State :=
  let s1 := s.updRing n fun r => { r with halted := true, err := BitVec.ofNat 4 err, retries := BitVec.ofNat 3 r.tries }
  (ringMessage n (s1.setSum (vecRing n))).raise vecFault

/-- HOLDOFF_EXPIRY (R370). -/
def execHoldoffExpiry (ring : RingId) (s : State) : Host.Outcome State Fault Refusal :=
  match s.rings[ring].holdoff with
  | none => ok s
  | some t =>
    let s1 := s.goTo t
    if s.rings[ring].merged then ok (ringMessage ring s1) else ok (s1.updRing ring fun r => { r with holdoff := none })

/-! ## Internal addresses (Table 1.8, R27) -/

/-- What an internal address lies in. -/
inductive Place where
  | vat (mode : WriteMode) (a : Nat)
  | im (c : CoreId) (off : Nat)
  | dm (c : CoreId) (off : Nat)
  | cellar (v : Nat)
  | reserved
  deriving DecidableEq, Repr

/-- A place within a Cooper window. -/
def corePlace (x : Nat) : Place :=
  let c : CoreId := ⟨x / 0x100000 % 8, by omega⟩
  let off := x % 0x100000
  if off < 0x10000 then .im c off
  else if 0x40000 ≤ off && off < 0x80000 then .dm c (off - 0x40000) else .reserved

/-- The place of an internal address. -/
def placeOf (s : State) (x : Nat) : Place :=
  if 0x10000000 ≤ x && x < 0x13000000 then .vat .plain (x - 0x10000000)
  else if 0x20000000 ≤ x && x < 0x23000000 then .vat .set (x - 0x20000000)
  else if 0x30000000 ≤ x && x < 0x33000000 then .vat .clear (x - 0x30000000)
  else if 0x40000000 ≤ x && x < 0x40800000 then corePlace (x - 0x40000000)
  else if cellarLo ≤ x && x < cellarLo + visibleMib s * 2 ^ 20 then .cellar (x - cellarLo)
  else .reserved

/-- IM of the core may be written (R287). -/
def imOpen (s : State) (c : CoreId) : Bool := s.core[c].st = .stopped || s.core[c].st = .halted || s.core[c].st = .fault

/-- A bulk burst of `n` bytes at `x` meets an address error (ERR 5): reserved, protected, scratch, a misaligned alias write, or IM of an
active core. `aligned`: the descriptor's DEV_ADDR and LEN are multiples of 4. -/
def addrError (s : State) (write aligned : Bool) (x n : Nat) : Bool :=
  match placeOf s x, placeOf s (x + n - 1) with
  | .vat m a, .vat m' a' =>
    m ≠ m' || (write && (!vatAllowed s.life.phase 5 a || !vatAllowed s.life.phase 5 a')) || (write && m ≠ .plain && !aligned)
  | .im c _, .im c' _ => c ≠ c' || (write && !imOpen s c)
  | .dm c _, .dm c' _ => c ≠ c'
  | .cellar _, .cellar v => decide (scratchMib s * 2 ^ 20 ≤ v)
  | _, _ => true

/-- What a unit keeps in the first 4 KiB of its region (R249): its state and summary. -/
def captureWords (h : HarvSt) : List Word :=
  [BitVec.ofNat 32 h.st.code, BitVec.ofNat 32 h.seq, BitVec.ofNat 32 h.cnt, BitVec.ofNat 32 h.written, h.ignored] ++ summary h

/-- Visible Cellar bytes as the host reads them: the first 4 KiB of a capture's region hold its state and summary, in an order that the spec does not state; in the queue of a stream, with its filter state and records, and in the thermal sums they lie as the
device places them, which the spec does not state. -/
def celHost (s : State) (v n : Nat) : List Byte :=
  let kept := s.cellar.areas.filter fun a => !a.pending && (match a.kind with | .queue _ => true | .therm _ => true | _ => false)
  (List.range n).map fun i =>
    if kept.any fun a => overlaps a.baseMib a.sizeMib ((v + i) / 2 ^ 20) 1 then Config.areaByte s.free (v + i)
    else match s.harv.toList.find? fun h => 0 < h.cap && decide (h.base ≤ v + i) && decide (v + i < h.base + 4096) with
      | some h => Config.captureByte (captureWords h) (v + i - h.base)
      | none => s.cellar.mem.read (cellarKey s (v + i))

/-- Bytes read from an internal address on. -/
def devRead (s : State) (x n : Nat) : List Byte :=
  match placeOf s x with
  | .vat _ a => s.vatRead a n
  | .im c off => s.core[c].im.readN off n
  | .dm c off => s.core[c].dm.readN off n
  | .cellar v => celHost s v n
  | .reserved => List.replicate n 0

/-- Bytes written from an internal address on. -/
def devWrite (x : Nat) (data : List (Option Byte)) (m : Master) (s : State) : State :=
  match placeOf s x with
  | .vat mode a => s.vatStore mode m a data
  | .im c off => s.updCore c fun k => k.putIm off data
  | .dm c off => s.updCore c fun k => k.putDm 2 off data
  | .cellar v => s.celStore v data
  | .reserved => s

/-- A device-side byte lies in a word that holds an uncorrectable error. -/
def devBad (s : State) (x : Nat) : Bool :=
  match placeOf s x with
  | .vat _ v => vatBad s v
  | .cellar v => celBad s v
  | _ => false

/-- What the ECC finds as `n` device-side bytes from `x` are read for the host (R321, R322): in a word that the device knows as bad, or else in
one that is not stated. -/
def devEcc (x n : Nat) (found : EccRead) (s : State) : State :=
  let s1 := { s with free := s.free + 1 }
  let k := ((List.range n).find? fun j => devBad s (x + j)).getD ((Config.freeWord s.free 322).toNat % max 1 n)
  if found = .clean then s
  else match placeOf s (x + k) with
    | .vat _ a => vatEcc 5 a found s1
    | .cellar v => celEcc v found s1
    | _ => if found = .uncorrectable then s1.raise vecFault else s1

/-- What the ECC finds as an item of the CP area or the Cellar is read for the host: the word is not stated, and the area's next item writes it
anew. -/
def itemEcc (cel : Bool) (found : EccRead) (s : State) : State :=
  let s1 := { s with free := s.free + 1 }
  let a := (Config.freeWord s.free 322).toNat
  match found with
  | .clean => s
  | .corrected => if cel then celEcc (a % (visibleMib s * 2 ^ 20)) found s1 else vatEcc 5 (0x2800000 + a % 0x200000) found s1
  | .uncorrectable => if cel then celUncorr (a % (visibleMib s * 2 ^ 20)) s1 else vatUncorr 5 (0x2800000 + a % 0x200000) s1

/-! ## Descriptors (Table 14.7) -/

def dsHost (d : Vector Word 8) : BitVec 64 := d[1] ++ d[0]
def dsLen (d : Vector Word 8) : Nat := wbits d[2] 0 24
def dsFull (d : Vector Word 8) : Bool := d[2].getLsbD 24
def dsHalf (d : Vector Word 8) : Bool := d[2].getLsbD 25
def dsOut (d : Vector Word 8) : Bool := d[2].getLsbD 26
def dsDev (d : Vector Word 8) : Nat := d[4].toNat + 2 ^ 32 * wbits d[5] 0 8

/-- ERR 6: a rsvd bit set, LEN 0, word 6 not 0, DIR or DEV_ADDR set on a ring that is not bulk. -/
def dsBad (kind : Nat) (d : Vector Word 8) : Bool :=
  wbits d[2] 27 5 ≠ 0 || wbits d[5] 8 24 ≠ 0 || d[7] ≠ 0 || dsLen d = 0 || d[6] ≠ 0 || (kind ≠ 5 && (dsOut d || dsDev d ≠ 0))

/-- Host address of descriptor `i`. -/
def slotAddr (b : List Word) (i : Word) : BitVec 64 := rgBase b + BitVec.ofNat 64 (32 * (i.toNat % rgSlots b))

/-- Posted descriptors not yet fetched. -/
def unfetched (s : State) (n : RingId) : Nat := fwd s.rings[n].cons s.rings[n].prod - s.rings[n].descs.length

/-- Read requests for `k` descriptors from index `i` on, split where the ring wraps. -/
def fetchReads (b : List Word) (i : Word) (k : Nat) : List Out :=
  let k1 := min k (rgSlots b - i.toNat % rgSlots b)
  [Out.hostRead (slotAddr b i) (32 * k1)] ++ (if k1 < k then [Out.hostRead (rgBase b) (32 * (k - k1))] else [])

/-- DESCRIPTOR_FETCH (R358, R366): up to 32 descriptors between CONS and the producer index, each read once. -/
def execDescriptorFetch (ring : RingId) (descs : List (Vector Word 8)) (s : State) : Host.Outcome State Fault Refusal :=
  let k := min (min descs.length 32) (unfetched s ring)
  if !chanLive s ring || s.power.entering.isSome || k = 0 then ok s
  else
    let r := s.rings[ring]
    let i := r.cons + BitVec.ofNat 32 r.descs.length
    ok ((s.emits (fetchReads (ringBlk s ring) i k)).updRing ring fun r => { r with descs := r.descs ++ descs.take k, tries := 0 })

/-! ## Items (R356) -/

/-- Buffer bytes of fetched descriptors. -/
def roomOf (r : Ring) : Nat := (r.descs.map dsLen).foldl (· + ·) 0

/-- An item can begin: none is in progress and the fetched descriptors hold its whole length. -/
def canBegin (s : State) (n : RingId) (len : Nat) : Bool :=
  chanLive s n && s.rings[n].cur.isNone && decide (len ≤ roomOf s.rings[n])

/-- An item begins. -/
def beginItem (n : RingId) (i : Item) (s : State) : State := s.updRing n fun r => { r with cur := some (i, 0), sop := true }

/-- The record in delivery of a stream has lost its tile (R196). -/
def itemCut (s : State) (i : Item) : Bool :=
  if h : i.src < 16 then i.tag = 3 && (s.stream[i.src]).queue.any (fun r => r.begun && r.cut) else false

/-- The whole capture has been delivered (R261): it stays held, and a HARVEST_READ is answered with the records sent. -/
def readoutDone (u : Fin 4) (s : State) : State :=
  let s1 := s.updHarv u fun h => { h with st := .held, unread := false }
  match s1.opWhere fun k => k = .harvestRead u with
  | some o => s1.finish o stOk 0 [BitVec.ofNat 32 s.harv[u].sent]
  | none => s1

/-- What the end of an item's delivery does at its source. -/
def itemEnded (i : Item) (s : State) : State :=
  if h : i.tag = 3 ∧ i.src < 16 then
    s.updStream ⟨i.src, h.2⟩ fun x => { x with queue := x.queue.filter fun r => !r.begun }
  else if h : i.tag = 4 ∧ i.src < 4 then
    let u : Fin 4 := ⟨i.src, h.2⟩
    let s1 := s.updHarv u fun x => { x with sent := x.sent + 1 }
    if s1.harv[u].st = .reading && decide (1 + dataRecords s1.harv[u] ≤ s1.harv[u].sent) then readoutDone u s1 else s1
  else s

/-- An item in progress is abandoned (R364): a stream record counts as dropped unless it was counted when its tile was lost, a thermal record
likewise. -/
def abandon (i : Item) (s : State) : State :=
  if h : i.tag = 3 ∧ i.src < 16 then
    let n : StreamId := ⟨i.src, h.2⟩
    let cut := itemCut s i
    let tile := (((s.stream[n]).queue.find? fun r => r.begun).map (·.tile)).getD 0
    let s1 := itemEnded i s
    if cut then s1 else dropRec n tile s1
  else if i.tag = 3 then
    let f : Fe := ⟨i.src % 4, by omega⟩
    let k := (i.bytes.getD 2 0).toNat % 4
    s.updTherm f fun x => { x with dropped := addSat x.dropped 1, disc := if h : k < 3 then x.disc.set k true else x.disc }
  else itemEnded i s

/-! ## Completion (R367) -/

/-- Word 6 of a descriptor. -/
def word6 (len : Nat) (done half sop eop : Bool) (err : Nat) : Word :=
  BitVec.ofNat 32 (len + 2 ^ 24 * done.toNat + 2 ^ 25 * half.toNat + 2 ^ 26 * sop.toNat + 2 ^ 27 * eop.toNat + 2 ^ 28 * err)

/-- A write of words to host memory without attributes. -/
def hostWords (addr : BitVec 64) (ws : List Word) (s : State) : State := s.emit (.hostWrite addr (wordsBytes ws) false false false)

/-- The descriptor at CONS completes: word 6, the CONS write-back with the register, and the interrupt where one is due. `item`: a packet,
record or transfer ends with it. -/
def completeDesc (n : RingId) (len : Nat) (eop item : Bool) (err : Nat) (s : State) : State :=
  let b := ringBlk s n
  let r := s.rings[n]
  let half := r.half
  let cons := r.cons + 1
  let full := match r.descs with | d :: _ => dsFull d | [] => false
  let s1 := hostWords (slotAddr b r.cons + 24) [word6 len true half r.sop eop err] s
  let s2 := if rgWb b = 0 then s1 else hostWords (rgWb b) [cons] s1
  let s3 := s2.updRing n fun r => { r with
    cons := cons, descs := r.descs.drop 1, done := 0, half := false, halfSent := false, sop := false, reads := [], gathered := [], tries := 0
    items := if item then addSat r.items 1 else r.items }
  if full || (half && !r.halfSent) then ringEvent n s3 else s3

/-- The half point of a descriptor with IRQ_HALF (R370): its write and event, or only the mark where the descriptor completes within the
burst. -/
def halfPoint (n : RingId) (whole : Bool) (s : State) : State :=
  let r := s.rings[n]
  match r.descs with
  | [] => s
  | d :: _ =>
    if dsHalf d && !r.half && decide (dsLen d ≤ 2 * r.done) then
      let s1 := s.updRing n fun r => { r with half := true }
      if whole then s1
      else ringEvent n (hostWords (slotAddr (ringBlk s n) r.cons + 24) [word6 r.done false true false false 0]
        (s1.updRing n fun r => { r with halfSent := true }))
    else s

/-- A payload write of a ring (R367). -/
def payloadWrite (n : RingId) (addr : BitVec 64) (bytes : List Byte) (poison : Bool) (s : State) : State :=
  let b := ringBlk s n
  let s1 := s.emit (.hostWrite addr bytes (rgRelaxed b && s.pcie.relaxedEn) (rgNoSnoop b && s.pcie.noSnoopEn) poison)
  if poison then s1.emit .aerNonFatal else s1

/-- Bytes a burst may take from a host address: at most 4 KiB and not past a 4 KiB boundary (R358). -/
def burstOf (addr : BitVec 64) (left : Nat) : Nat := min left (4096 - addr.toNat % 4096)

/-- Bytes read so far and asked for. -/
def asked (r : Ring) : Nat := r.done + (r.reads.map (·.len)).foldl (· + ·) 0

/-- Bytes of a command buffer the packet takes, once its header is there; before that the header's own (R355). -/
def packetSpan (len : Nat) (got : List Byte) : Nat :=
  if 16 ≤ got.length then min len (16 + 4 * wbits (wordAt (bytesWords 3 got) 2) 0 16) else min len 16

/-- Read bursts outstanding at once (R359). -/
def readsOut (s : State) : Nat := (s.rings.toList.map fun r => r.reads.length).foldl (· + ·) 0

/-- Issue the next read burst of the first descriptor, up to `upTo` of its bytes. -/
def issueRead (n : RingId) (d : Vector Word 8) (upTo : Nat) (s : State) : State :=
  let r := s.rings[n]
  let a := dsHost d + BitVec.ofNat 64 (asked r)
  let k := burstOf a (upTo - asked r)
  if k = 0 || 32 ≤ readsOut s then s
  else (s.emit (.hostRead a k)).updRing n fun r => { r with reads := r.reads ++ [⟨r.readNo, a, k, none⟩], readNo := r.readNo + 1 }

/-- Bytes leave for the host: counted and with their half point. -/
def moved (n : RingId) (k : Nat) (whole : Bool) (s : State) : State :=
  halfPoint n whole (s.updRing n fun r => { r with done := r.done + k, moved := r.moved + k })

/-- One data burst of the first descriptor of a device-to-host item. -/
def itemBurst (n : RingId) (ecc : EccRead) (d : Vector Word 8) (s : State) : State :=
  match s.rings[n].cur with
  | none => s
  | some (i, m) =>
    let r := s.rings[n]
    let a := dsHost d + BitVec.ofNat 64 r.done
    let k := burstOf a (min (dsLen d - r.done) (i.bytes.length - m))
    if k = 0 || itemCut s i then s
    else
      let s2 := itemEcc (i.tag = 3 || i.tag = 4) ecc (payloadWrite n a ((i.bytes.drop m).take k) (ecc = .uncorrectable) s)
      moved n k (r.done + k = dsLen d || m + k = i.bytes.length) (s2.updRing n fun r => { r with cur := some (i, m + k) })

/-- The head of the ring's CP-area queue begins where the descriptors hold it (R356); replies and events wait while the CP restarts (R24). -/
def beginQueued (n : RingId) (s : State) : State :=
  match s.rings[n].queue with
  | [] => s
  | i :: rest => if canBegin s n i.bytes.length && !(s.life.phase = 4 && decide (i.tag ≤ 1)) then beginItem n i (s.updRing n fun r => { r with queue := rest }) else s

/-- One data burst of a channel (R357, R358). -/
def dataStep (n : RingId) (ecc : EccRead) (s : State) : State :=
  if !chanLive s n then s
  else match s.rings[n].descs with
    | [] => s
    | d :: _ =>
      let kind := rgKind (ringBlk s n)
      let r := s.rings[n]
      if r.done = 0 && r.reads.isEmpty && dsBad kind d then haltRing n 6 s
      else if kind = 0 then (if cpRuns s then issueRead n d (packetSpan (dsLen d) r.gathered) s else s)
      else if kind = 5 then
        let al := dsDev d % 4 = 0 && dsLen d % 4 = 0
        if dsOut d then
          let a := dsHost d + BitVec.ofNat 64 r.done
          let k := burstOf a (dsLen d - r.done)
          let x := dsDev d + r.done
          if k = 0 then s
          else if addrError s false al x k then haltRing n 5 s
          else
            let found := if (List.range k).any fun j => devBad s (x + j) then .uncorrectable else ecc
            moved n k (r.done + k = dsLen d) (devEcc x k found (payloadWrite n a (devRead s x k) (found = .uncorrectable) s))
        else
          let k := burstOf (dsHost d + BitVec.ofNat 64 (asked r)) (dsLen d - asked r)
          if k = 0 then s
          else if addrError s true al (dsDev d + asked r) k then haltRing n 5 s
          else issueRead n d (dsLen d) s
      else itemBurst n ecc d (beginQueued n s)

/-- DATA_BURST (R358): up to 4 KiB of the descriptor at CONS. -/
def execDataBurst (ring : RingId) (ecc : EccRead) (s : State) : Host.Outcome State Fault Refusal := ok (dataStep ring ecc s)

/-- The descriptor at CONS completes if all its data has moved (R354-R357, R367). A zone event record that is written signals vector 36 (R212). -/
def completionStep (n : RingId) (s : State) : State :=
  if !chanLive s n then s
  else match s.rings[n].descs with
    | [] => s
    | d :: _ =>
      let kind := rgKind (ringBlk s n)
      let r := s.rings[n]
      if kind = 0 then
        if !cpRuns s then s else
        let span := packetSpan (dsLen d) r.gathered
        if r.reads.isEmpty && 0 < dsLen d && !dsBad kind d && (16 ≤ r.gathered.length || r.gathered.length = dsLen d) && span ≤ r.gathered.length then
          completeDesc n span false true 0 (s.updRing n fun r => { r with moved := r.moved + span })
        else s
      else if kind = 5 then
        if r.reads.isEmpty && r.done = dsLen d && 0 < dsLen d && !dsBad kind d then completeDesc n r.done false true 0 s else s
      else match r.cur with
        | none => s
        | some (i, m) =>
          let cut := itemCut s i
          let whole := m = i.bytes.length
          if whole || cut then
            let s1 := itemEnded i (completeDesc n r.done true (!cut || whole) 0 (s.updRing n fun r => { r with cur := none }))
            if i.tag = 2 then s1.raise vecZone else s1
          else if r.done = dsLen d && 0 < r.done then completeDesc n r.done false false 0 s
          else s

/-- DESCRIPTOR_COMPLETION (R367). -/
def execDescriptorCompletion (ring : RingId) (s : State) : Host.Outcome State Fault Refusal := ok (completionStep ring s)

/-! ## Host reads (R359, R363) -/

/-- Answered bursts at the front are taken in request order: command bytes are gathered, bulk bytes written to the device. -/
def takeReads (n : RingId) : Nat → State → State
  | 0, s => s
  | k + 1, s =>
    let r := s.rings[n]
    match r.reads, r.descs with
    | ⟨_, _, len, some data⟩ :: rest, d :: _ =>
      let s1 := s.updRing n fun r => { r with reads := rest, tries := 0 }
      if data.length < len then s
      else if rgKind (ringBlk s n) = 0 then
        takeReads n k (s1.updRing n fun r => { r with gathered := r.gathered ++ data.take len, done := r.done + len })
      else
        takeReads n k (moved n len (r.done + len = dsLen d) (devWrite (dsDev d + r.done) ((data.take len).map some) 5 s1))
    | _, _ => s

/-- READ_COMPLETION (R359): completions of the outstanding bursts in any order, each channel's data in request order. -/
def execReadCompletion (ring : RingId) (burst : Nat) (data : List Byte) (s : State) : Host.Outcome State Fault Refusal :=
  let r := s.rings[ring]
  if !busLive s || r.halted then ok s
  else
    let add := fun (x : ReadBurst) => if x.no = burst then { x with got := some (x.got.getD [] ++ data) } else x
    ok (takeReads ring r.reads.length (s.updRing ring fun r => { r with reads := r.reads.map add }))

/-- Re-issue the oldest outstanding read burst, or the descriptor fetch, of a channel. -/
def reissue (n : RingId) (s : State) : State :=
  match s.rings[n].reads with
  | x :: _ => s.emit (.hostRead x.addr x.len)
  | [] => s

/-- BURST_FAILURE (R363): the oldest outstanding read burst, or a descriptor fetch, fails with ERR 1-4. -/
def execBurstFailure (ring : RingId) (err : Fin 4) (s : State) : Host.Outcome State Fault Refusal :=
  let r := s.rings[ring]
  if !chanLive s ring || (r.reads.isEmpty && unfetched s ring = 0) then ok s
  else if r.tries < rgRetry (ringBlk s ring) then
    ok (reissue ring (s.updRing ring fun r => { r with
      tries := r.tries + 1, err := BitVec.ofNat 4 (err.val + 1), retries := BitVec.ofNat 3 (r.tries + 1) }))
  else ok (haltRing ring (err.val + 1) s)

/-- RESUME (R364): the failed burst is issued again. -/
def resumeRing (n : RingId) (s : State) : State :=
  if s.rings[n].halted then reissue n (s.updRing n fun r => { r with halted := false, tries := 0 }) else s

/-- RESUME (R364). -/
def execResume (ring : RingId) (s : State) : Host.Outcome State Fault Refusal := ok (resumeRing ring s)

/-- SKIP (R364): the failed descriptor completes with its error, and an item in progress is abandoned. -/
def skipRing (n : RingId) (s : State) : State :=
  let r := s.rings[n]
  if !r.halted then s
  else
    let s1 := match r.cur with | some (i, _) => abandon i s | none => s
    completeDesc n r.done false false r.err.toNat (s1.updRing n fun r => { r with halted := false, cur := none })

/-- SKIP (R364). -/
def execSkip (ring : RingId) (s : State) : Host.Outcome State Fault Refusal := ok (skipRing ring s)

/-! ## Doorbells (R353) -/

/-- A producer index is offered. -/
def offerProd (n : RingId) (v : Word) (s : State) : State :=
  s.updRing n fun r =>
    if fwd r.cons v ≤ rgSlots (ringBlk s n) && decide (fwd r.cons r.prod ≤ fwd r.cons v) then { r with prod := v }
    else { r with badIndex := addSat r.badIndex 1 }

/-- PROD_WRITE (R353). -/
def execProdWrite (ring : RingId) (value : Word) (s : State) : Host.Outcome State Fault Refusal :=
  if s.pcie.up then ok (offerProd ring value s) else ok s

/-- One bit of DOORBELL: ignored for a ring that is disabled or has no PROD_ADDR. -/
def ringBell (n : RingId) (index : Word) (s : State) : State :=
  let b := ringBlk s n
  if rgEn b && rgProdAddr b ≠ 0 && busLive s then offerProd n index (s.emit (.hostRead (rgProdAddr b) 4)) else s

/-! ## Conversion for the host (R362) -/

/-- The low `w` bits of values packed one after another, padded to whole 32-byte units. -/
def packHost (w : Nat) (vs : List Nat) : List Byte :=
  let n := vs.foldr (fun v m => v % 2 ^ w + 2 ^ w * m) 0
  pad32 ((List.range (ceilDiv (w * vs.length) 8)).map fun i => BitVec.ofNat 8 (n / 256 ^ i))

/-- Values of a payload of `k` bytes each. -/
def valuesOf (k : Nat) : Nat → List Byte → List Nat
  | 0, _ => []
  | n + 1, l => bytesNat (l.take k) :: valuesOf k n (l.drop k)

/-- Converted values under a HOST_FMT and a source WIDTH, none where they do not match (Table 14.8). -/
def convertVals (fmt width n : Nat) (data : List Byte) : Option (List Byte) :=
  if fmt = 1 && width = 0 then some (packHost 12 ((valuesOf 2 n data).map (· / 16)))
  else if fmt = 2 && width = 1 then some (packHost 24 (valuesOf 4 n data))
  else if fmt = 3 && width = 0 then some (packHost 32 ((valuesOf 2 n data).map fun v => (signed 16 v).toNat + (if signed 16 v < 0 then (2 ^ 32 - (-(signed 16 v)).toNat) else 0)))
  else none

/-- A record as it is delivered on a ring of HOST_FMT `fmt`, and whether it passed without conversion. -/
def convertRec (fmt : Nat) (bytes : List Byte) : List Byte × Bool :=
  if fmt = 0 then (bytes, false)
  else
    let h := bytesWords 8 bytes
    let kind := wbits (wordAt h 0) 16 8
    let width := wbits (wordAt h 0) 26 2
    let body := bytes.drop 32
    let res :=
      if kind = 1 && !(wordAt h 1).getLsbD 6 then
        convertVals fmt width (wbits (wordAt h 3) 0 18 * (wbits (wordAt h 2) 21 10 + 1)) body
      else if kind = 0x20 || kind = 0x21 then
        (convertVals fmt width (2 * (wordAt (bytesWords 2 body) 1).toNat) (body.drop 32)).map fun x => body.take 32 ++ x
      else none
    match res with
    | none => (bytes, true)
    | some x =>
      let w5 := BitVec.ofNat 32 (wbits (wordAt h 5) 0 16 + 65536 * (x.length / 32))
      (wordsBytes (h.take 5 ++ [w5] ++ h.drop 6) ++ x, false)

/-- Begin a record on a ring, converted (R362), where the descriptors hold it. -/
def beginRecord (n : RingId) (tag src : Nat) (bytes : List Byte) (go : State → State) (s : State) : State :=
  let c := convertRec (rgFmt (ringBlk s n)) bytes
  if canBegin s n c.1.length then
    go ((beginItem n ⟨c.1, 0, tag, src⟩ s).updRing n fun r => { r with convSkip := if c.2 then addSat r.convSkip 1 else r.convSkip })
  else s

/-! ## Deliveries -/

/-- The bytes of a stream's record, a direct one read from its tile (R195, R196). -/
def recordBytes (s : State) (r : Rec) : List Byte :=
  wordsBytes r.hdr ++ match r.direct with
    | some (base, rows) =>
      let w := 2 * wbits (wordAt r.hdr 3) 0 18
      pad32 ((List.range rows).flatMap fun i => s.celRead (base + 1024 * i) w)
    | none => r.payload

/-- STREAM_RECORD_DELIVERY (R196, R200): the oldest record of the stream begins on its ring; bursts of the ring move it. -/
def execStreamRecordDelivery (st : StreamId) (s : State) : Host.Outcome State Fault Refusal :=
  let q := s.stream[st].queue
  if q.any fun r => r.begun then ok s
  else match q with
    | [] => ok s
    | r :: rest =>
      ok (beginRecord (stRing (s.act 0x14 st.val)) 3 st.val (recordBytes s r)
        (fun s => s.updStream st fun x => { x with queue := { r with begun := true } :: rest }) s)

/-- CAPTURE_RECORD_DELIVERY (R261): the next record of a read-out begins on its ring. -/
def execCaptureRecordDelivery (u : Fin 4) (ecc : List (Nat × EccRead)) (s : State) : Host.Outcome State Fault Refusal :=
  let h := s.harv[u]
  let busy := s.rings.toList.any fun r => match r.cur with | some (i, _) => i.tag = 4 && i.src = u.val | none => false
  if h.st ≠ .reading || busy then ok s
  else
    let here := captureEcc s u h.sent ecc
    ok (beginRecord (hvRing h.set) 4 u.val (captureRecord s u h.sent here)
      (fun s => here.foldl (fun s e => celEcc (elemAddr s u (firstKept h + e.1)) e.2 s) s) s)

/-- Steps of bursts and completions until the item in progress is delivered. -/
def drainItem (n : RingId) : Nat → State → State
  | 0, s => s
  | k + 1, s => if s.rings[n].cur.isNone || !chanLive s n then s else drainItem n k (completionStep n (dataStep n .clean s))

/-- REPLY_DELIVERY (R356): the oldest waiting reply or event is written whole, with its completions. -/
def execReplyDelivery (ring : RingId) (s : State) : Host.Outcome State Fault Refusal :=
  let s1 := beginQueued ring s
  let r := s1.rings[ring]
  let len := match r.cur with | some (i, _) => i.bytes.length | none => 0
  ok (drainItem ring (2 * r.descs.length + len / 4096 + 2) s1)

/-- Header of a posted result (R306). -/
def postHeader (n : CoreId) (rseq : BitVec 16) (invalid : Bool) (d : List Word) : List Word :=
  let w2 := wordAt d 2
  let fl := BitVec.ofNat 16 (wbits w2 0 16) &&& ~~~((1 : BitVec 16) <<< 6) ||| flagBit flInvalid invalid
  [BitVec.ofNat 32 (0xA7 + 256 + 4096 * n.val + 65536 * (0x30 + wbits w2 16 4) + 2 ^ 24 * wbits w2 20 2 + 2 ^ 26 * wbits w2 22 2),
    BitVec.ofNat 32 (fl.toNat + 65536 * rseq.toNat),
    BitVec.ofNat 32 (wbits (wordAt d 3) 0 18 + 2 ^ 18 * wbits (wordAt d 3) 28 3 + 2 ^ 21 * wbits (wordAt d 3) 18 10),
    wordAt d 4, wordAt d 5, BitVec.ofNat 32 (wbits (wordAt d 6) 0 16 + 65536 * ceilDiv (wordAt d 1).toNat 32), wordAt d 7, wordAt d 8]

/-- POST_DATA_READ (R305, R306, R286): the oldest post's buffer is read into its record, and the post stops counting as outstanding. -/
def execPostDataRead (core : CoreId) (ecc : EccRead) (s : State) : Host.Outcome State Fault Refusal :=
  let c := s.core[core]
  match c.posts with
  | [] => ok s
  | p :: rest =>
    let off := (wordAt p.desc 0).toNat
    let len := (wordAt p.desc 1).toNat
    let bad := ecc = .uncorrectable || (wordsMet off len).any fun w => c.dmBad.contains w
    let bytes := wordsBytes (postHeader core c.rseq bad p.desc) ++ pad32 (c.dm.readN off len)
    ok (beginRecord (p.ring.getD (ringOf (bf (s.act 0x60 core.val) 0 0 5))) 6 core.val bytes
      (fun s =>
        let s1 := s.updCore core fun c => setIpend 3 { c.claim 1 off len with
          posts := rest, rseq := c.rseq + 1, eccCorr := addSat c.eccCorr (if ecc = .corrected then 1 else 0) }
        if bad then s1.raise vecFault else s1) s)

/-! ## Stopping channels (R346, R347, R372) -/

/-- Packets of a ring that have not been executed go with it (R372). -/
def dropWaiting (n : RingId) (s : State) : State :=
  { s with proto := { s.proto with
    waiting := s.proto.waiting.filter fun r => r.via ≠ .ring n
    heldIn := s.proto.heldIn.filter fun b => b.1 ≠ .ring n } }

/-- A disabled ring stops (R372): the descriptor in progress completes with ERR 7, its item ends with EOP and is abandoned, unread packets are
not executed, and the sessions opened on the ring close. -/
def stopRing (n : RingId) (s : State) : State :=
  let r := s.rings[n]
  let begun := !r.descs.isEmpty && (decide (0 < r.done) || !r.reads.isEmpty || r.cur.isSome)
  let s1 := match r.cur with | some (i, _) => abandon i s | none => s
  let s2 := if begun && busLive s then completeDesc n r.done r.cur.isSome false 7 s1 else s1
  let s3 := s2.updRing n fun r => { r with
    cur := none, descs := [], done := 0, half := false, halfSent := false, sop := false, reads := [], gathered := [], halted := false, tries := 0
    queue := [] }
  dropWaiting n (s3.closeVia (.ring n))

/-- A ring that is enabled starts with PROD and CONS at 0 (R354). -/
def startRing (n : RingId) (s : State) : State :=
  s.updRing n fun r => { r with prod := 0, cons := 0, descs := [], done := 0, halted := false }

/-- The latency tolerance in µs: 50 while a stream or capture ring is enabled, else 3 ms (R347). -/
def ltrUs (s : State) : Nat :=
  if ringIds.any fun n => rgEn (ringBlk s n) && (rgKind (ringBlk s n) = 3 || rgKind (ringBlk s n) = 4) then 50 else 3000

/-- Report the latency tolerance where it has changed. -/
def noteLtr (old : Nat) (s : State) : State := if s.pcie.up && ltrUs s ≠ old then s.emit (.ltr (ltrUs s)) else s

/-- RING_COMMIT_APPLY (R372): the ring's commit applies between two bursts. -/
def execRingCommitApply (ring : RingId) (s : State) : Host.Outcome State Fault Refusal :=
  let b := bid 0x80 ring.val
  if s.commits.any fun c => localDue c s.now && c.left.contains b then
    let old := rgEn (ringBlk s ring)
    let new := rgEn (s.shad 0x80 ring.val)
    let s1 := if old && !new then stopRing ring s else s
    let s2 := if !old && new then startRing ring s1 else s1
    ok (noteLtr (ltrUs s) (s2.localPoint [b]))
  else ok s

/-- A channel stops for good at a burst boundary (R346): nothing is written, bytes already moved stand. -/
def dropRing (n : RingId) (s : State) : State :=
  let r := s.rings[n]
  let s1 := match r.cur with | some (i, _) => if i.tag = 4 then s else abandon i s | none => s
  s1.updRing n fun _ => {}

end Sys2Proof.Machine
end

