-- ==== Sys2Proof/Machine/Checks.lean ====
section
/-! DEFINITION. The checks of a COMMIT (R59): each chapter's table over the shadows of the included domains, other blocks taken from the set
that will be in force (R495). -/

namespace Sys2Proof.Machine

/-- The set of a block that will be in force when a commit of some domains applies (R495). -/
def futBlk (s : State) (doms : BitVec 6) (code inst : Nat) : List Word :=
  if domBits s (bid code inst) &&& doms ≠ 0 then s.shad code inst else s.act code inst

/-- Engines of a domain mask. -/
def fesOf (doms : BitVec 6) : List Fe := (List.finRange 4).filter fun f => doms.getLsbD f.val

/-- A ring of a kind in the set that will be in force; where a table asks for an enabled ring it says so. -/
def ringWill (s : State) (doms : BitVec 6) (n : RingId) (kind : Nat) : Bool := rgKind (futBlk s doms 0x80 n.val) = kind

/-! ## PROBE (Table 4.6) -/

/-- Pulse bandwidth as a fraction of kHz (Table 4.2). -/
def pulseBw (p : List Word) : Nat × Nat := if shapeOf p = 1 then (bf p 4 0 17, 1) else (2 * fDac p, max 1 (pulseLen p))

/-- The channel limits of R14. -/
def channelsOk (p r : List Word) : Bool := nChOf r ≤ 200000 && decide (nChOf r * groupsOf p * 125 ≤ 2048 * periodOf p)

/-- Every group holds an enabled tone and no tone names a further group (R110). -/
def groupsOk (p : List Word) : Bool :=
  (List.range (groupsOf p)).all (fun g => (tonesOf p).any fun k => toneGroup p k = g) &&
    (tonesOf p).all fun k => decide (toneGroup p k < groupsOf p)

/-- Bands, bandwidth and spacing (R107). -/
def bandsOk (p r : List Word) : Bool :=
  let (bn, bd) := pulseBw p
  let top := min (fConv r) (fDac p)
  bn ≤ 100000 * bd && decide (10 * bn * decD r ≤ 8 * fConv r * bd) &&
    (tonesOf p).all fun k =>
      decide (100000 * bd + bn ≤ 2 * toneFreq p k * bd) && decide ((2 * toneFreq p k * bd + bn) * 1000 ≤ 950 * top * bd) &&
        (tonesOf p).all fun j => j = k || decide (110000 ≤ (toneFreq p j - toneFreq p k) + (toneFreq p k - toneFreq p j))

/-- Sum of amplitudes of each group (R109). -/
def amplOk (p : List Word) : Bool :=
  (List.range (groupsOf p)).all fun g => (((tonesOf p).filter fun k => toneGroup p k = g).map (toneAmpl p)).foldl (· + ·) 0 ≤ 32767

/-- Duration limits, compression where required, GOLAY_LOG2 (Table 4.2). -/
def pulseOk (p r : List Word) : Bool :=
  let ns := pulseLen p * 1000000
  let f := fDac p
  let fits := decide (pulseDac p * fConv r ≤ 512 * decD r * f)
  match shapeOf p with
  | 0 => 20 * f ≤ ns && ns ≤ 2000 * f && golayLog p = 0
  | 1 => 100 * f ≤ ns && ns ≤ 4096 * f && fits && pcEn r && golayLog p = 0
  | _ => 20 * f ≤ ns && ns ≤ 2000 * f && fits && pcEn r && 1 ≤ golayLog p && golayLog p ≤ 9

/-- Lanes set in a mask. -/
def lanesIn (m : Nat) : Nat := popc 6 m

/-- Transmit lanes (R115), and the link changes of R116. -/
def txOk (old p : List Word) : Bool :=
  let l := lanesIn (bf p 0 8 3)
  (!runOf p || decide (2 ≤ l)) && (l < 2 || (5818000 * l ≤ 32 * fDac p && 32 * fDac p ≤ 24000000 * l)) &&
    ((bf old 0 8 3 = bf p 0 8 3 && bf old 2 0 5 = bf p 2 0 5) || (!runOf old && !runOf p))

/-- Strobes fit (R119), and the Raman phase. -/
def strobesOk (p : List Word) : Bool :=
  decide ((((bf p 5 0 16 + bf p 5 16 16) * 500) * fDac p + pulseDac p * 1000000000) * groupsOf p ≤ periodPs p * fDac p) &&
    decide ((bf p 7 0 24 + bf p 8 0 16) * 500 ≤ periodPs p) && (bf p 6 0 9 = 0 || decide (bf p 6 16 8 < bf p 6 0 9))

/-- Pin ownership (R117): no pin claimed by another engine's active set, its scheduled shadow, or its shadow in the same COMMIT. -/
def pinsOk (s : State) (doms : BitVec 6) (f : Fe) : Bool :=
  (List.range 4).all fun n => !pinClaimed (s.shad 0x10 f.val) n || (List.finRange 4).all fun e =>
    e = f || (!pinClaimed (s.act 0x10 e.val) n && (!(feLocked s e || doms.getLsbD e.val) || !pinClaimed (s.shad 0x10 e.val) n))

/-- Table 4.6. -/
def probeOk (s : State) (doms : BitVec 6) (f : Fe) : Bool :=
  let p := s.shad 0x10 f.val
  let r := s.shad 0x11 f.val
  channelsOk p r && periodOf p % groupsOf p = 0 && groupsOk p && bandsOk p r && amplOk p && pulseOk p r && txOk (s.act 0x10 f.val) p &&
    strobesOk p && pinsOk s doms f

/-! ## RECV (Table 5.6) -/

/-- Payload per lane of a link at a rate in kHz (R128). -/
def lanePayload (khz l : Nat) : Bool := 5818000 * l ≤ 32 * khz && 32 * khz ≤ 24000000 * l

/-- Table 5.6. -/
def recvOk (s : State) (f : Fe) : Bool :=
  let p := s.shad 0x10 f.val
  let r := s.shad 0x11 f.val
  let o := s.act 0x11 f.val
  let a := bf r 0 0 6
  let b := bf r 0 8 6
  let key := fun (x : List Word) => [bf x 0 0 6, bf x 0 8 6, bf x 3 24 6, bf x 1 0 5, bf x 1 16 3, bf x 3 0 3, bf x 3 8 8, bf x 3 16 8, bf x 3 30 1]
  a &&& b = 0 && 1 ≤ lanesIn a && lanesIn a ≤ 4 && lanesIn b ≤ 2 && lanePayload (fConv r) (lanesIn a) &&
    (b = 0 || lanePayload (125000 * bf r 1 16 3) (lanesIn b)) &&
    (key r = key o || (!runOf p && !runOf (s.act 0x10 f.val))) &&
    (!pcEn r || bfb r 0 22 || decide (autoTaps p r ≤ 512)) &&
    (if bfb r 0 22 then decide (1 ≤ bf r 8 0 10) else bf r 8 0 10 = 0) &&
    decide (window p r * decD r * 1000000 ≤ 8 * periodOf p * fConv r) &&
    decide (bf r 3 8 8 ≤ 32 * (bf r 3 0 3 + 1) - 1) && decide (bf r 3 16 8 ≤ 32 * (bf r 3 0 3 + 1) - 1)

/-! ## PHASE (Table 6.5) and the Vat footprint (R319) -/

/-- Table 6.5, the footprint aside. -/
def phaseOk (s : State) (f : Fe) : Bool :=
  let p := s.shad 0x10 f.val
  let r := s.shad 0x11 f.val
  let h := s.shad 0x12 f.val
  1 ≤ gaugeM h r && gaugeM h r ≤ 512 && decide (gaugeM h r + 1 ≤ nChOf r) &&
    (List.range (groupsOf p)).all (fun g => (tonesOf p).any fun k => toneGroup p k = g && bf h 2 (2 * k) 2 ≠ 0) &&
    decide (groupsOf p * 2 ^ bf h 3 0 5 ≤ 65536) && decide (nChOf r * nbOf p * 125 ≤ 8192 * periodOf p)

/-- Granules of 64 KiB of an engine's sets (R319). -/
def granules (p r t : List Word) : Nat :=
  ceilDiv (nChOf r * (16 + 2 * nbOf p)) 65536 + (if shapeOf p = 2 then ceilDiv (nChOf r * nbOf p * 4) 65536 else 0) +
    (if thEn t then ceilDiv (thNBin t * 16) 65536 else 0)

/-- The footprints of the four engines fit the 640 granules. -/
def footprintOk (s : State) (doms : BitVec 6) : Bool :=
  ((List.finRange 4).map fun f =>
    let of := fun (set : List (BlockId × List Word)) => granules (getBlk set (bid 0x10 f.val)) (getBlk set (bid 0x11 f.val)) (getBlk set (bid 0x30 f.val))
    if doms.getLsbD f.val || feLocked s f then max (of s.params.active) (of s.params.shadow) else of s.params.active).foldl (· + ·) 0 ≤ 640

/-! ## FINING, STREAM, PRESS (Table 7.8, R199, R281, R282) -/

/-- Table 7.8 for one enabled stream of an engine. -/
def streamOk (s : State) (doms : BitVec 6) (f : Fe) (set press : List Word) : Bool :=
  decide (stFirst set + stCount set ≤ nChOf (s.shad 0x11 f.val)) && (stFmt set = 0 || decide (1 ≤ stD set)) &&
    decide (stCount set * stateBytes set press + 4 * 2 ^ 20 ≤ stQueueMib set * 2 ^ 20) && ringWill s doms (stRing set) 3

/-- The FINING and STREAM checks of an engine. -/
def finingOk (s : State) (doms : BitVec 6) (f : Fe) : Bool :=
  let p := s.shad 0x10 f.val
  let fi := s.shad 0x13 f.val
  let o := s.act 0x13 f.val
  let sts := feStreams s.params.shadow f
  sts.all (fun x => streamOk s doms f x.2.1 x.2.2) &&
    ((bf fi 0 0 4 = bf o 0 0 4 && bf fi 1 0 40 = bf o 1 0 40) || (!runOf p && !runOf (s.act 0x10 f.val))) &&
    (sts.isEmpty || bf fi 0 0 4 ≠ 2 || decide (11000000 * groupsOf p ≤ 8192 * periodOf p))

/-- A stream that changes engines is committed in both (R52). -/
def moveOk (s : State) (doms : BitVec 6) : Bool :=
  (List.finRange 16).all fun n =>
    let es := enginesOf s (bid 0x14 n.val)
    es.all (fun e => doms.getLsbD e) || es.all fun e => !doms.getLsbD e

/-- Guaranteed reservations after the commit, within the cap (R198, R333). -/
def capOk (s : State) (doms : BitVec 6) : Bool :=
  ((List.finRange 4).map fun f => if doms.getLsbD f.val then feRes s.params.shadow f else feHeld s f).foldl (· + ·) 0 + harvRes s ≤
    capOf s s.cellar.fsp.val

/-- OUT_FMT 0 under Press (R282), and the 8.5 × 10^9 samples per second of R281. -/
def pressOk (s : State) (doms : BitVec 6) : Bool :=
  let all := (List.finRange 16).map fun n => (futBlk s doms 0x14 n.val, futBlk s doms 0x50 n.val)
  let load := fun (x : List Word × List Word) =>
    let p := futBlk s doms 0x10 (streamFe x.1)
    if stEn x.1 && prEn x.2 then
      ((stCount x.1 * groupsOf p * 125000000 * (if prDyn x.2 then 2 else 1) : Nat) : Rat) / ((max 1 (periodOf p) * 2 ^ stD x.1 : Nat) : Rat)
    else 0
  all.all (fun x => !prEn x.2 || stFmt x.1 = 0) && decide ((all.map load).foldl (· + ·) 0 ≤ 8500000000)

/-! ## Zones (Table 8.7) -/

/-- The zone entries of the shadow that differ from their defaults' blocks. -/
def listedZones (s : State) : List (List Word) :=
  ((s.params.shadow.filter fun b => BlockId.code b.1 = 0x21).map fun b => (List.range 8).map fun i => (b.2.drop (8 * i)).take 8).flatten

/-- A ring that an enabled command ring names (R217). -/
def namedByCmd (s : State) (doms : BitVec 6) (n : RingId) : Bool :=
  ringIds.any fun m => let b := futBlk s doms 0x80 m.val; rgEn b && rgKind b = 0 && (rgReply b = n || rgEvent b = n)

/-- Table 8.7. -/
def zonesOk (s : State) (doms : BitVec 6) : Bool :=
  let zs := listedZones s
  let ctl := s.shad 0x20 0
  let on := zs.filter zEn
  on.all (fun e => decide (zFirst e ≤ zLast e)) && zs.all (fun e => decide (zOffTh e ≤ zOnTh e)) &&
    on.all (fun e => (on.filter fun d => zFe d = zFe e && decide (zLast e ≤ zLast d) && decide (zLast d < zLast e + 64)).length ≤ 64) &&
    (!bfb ctl 2 5 || (ringWill s doms (ringOf (bf ctl 2 0 5)) 2 && !namedByCmd s doms (ringOf (bf ctl 2 0 5))))

/-! ## THERM (Table 9.5) -/

/-- An aux input is enabled with a temperature curve. -/
def tempInput (b : List Word) : Bool := axEn b && (axCurve b ≠ 0 || axMux b = 3)

/-- Bins of a section. -/
def sectBins (cal : List Word) (k : Nat) : Nat × Nat := (bf cal (24 + 6 * k) 0 17, bf cal (25 + 6 * k) 0 17)

/-- Inputs that an enabled profiler names. -/
def thermInputs (t cal : List Word) : List Nat :=
  (if bfb t 0 4 then [bf t 12 16 4] else []) ++
    (List.range 4).filterMap fun r => if bfb cal (9 + 4 * r) 20 then none else some (bf cal (9 + 4 * r) 16 4)

/-- Table 9.5. -/
def thermOk (s : State) (doms : BitVec 6) (f : Fe) : Bool :=
  let p := s.shad 0x10 f.val
  let r := s.shad 0x11 f.val
  let h := s.shad 0x12 f.val
  let t := s.shad 0x30 f.val
  let cal := s.shad 0x31 f.val
  let n := thNBin t
  let sects := (List.range (calSects cal)).map (sectBins cal)
  !thEn t ||
    (0 < ramanDiv p && bf r 0 8 6 ≠ 0 && decide (binZero r t + n ≤ ramanDiv p * periodOf p) &&
      decide (10 ^ 12 ≤ tInt p t) && decide (tInt p t ≤ 3600 * 10 ^ 12) && decide (4 * 10 ^ 9 ≤ thSub t * ramanDiv p * periodPs p) &&
      decide (bf t 5 0 17 + bf t 6 0 13 ≤ n) &&
      sects.all (fun x => decide (x.1 ≤ x.2) && decide (x.2 < n)) &&
      (List.range sects.length).all (fun i => (List.range i).all fun j =>
        let a := sects.getD i (0, 0)
        let b := sects.getD j (0, 0)
        decide (a.2 < b.1) || decide (b.2 < a.1)) &&
      (List.range 4).all (fun k => decide (bf cal (8 + 4 * k) 0 17 + bf cal (9 + 4 * k) 0 13 ≤ n)) &&
      (!bfb t 0 3 || bfb t 0 1) && decide (tInt p t ≤ bf t 7 0 12 * 10 ^ 12) && decide (2 ^ bf h 3 0 5 * periodPs p ≤ 10 ^ 12) &&
      decide (fuseFirst t + bf t 9 0 18 ≤ nChOf r) && decide (bf t 11 0 18 + bf t 12 0 11 ≤ nChOf r) &&
      (thermInputs t cal).all (fun i => tempInput (futBlk s doms 0x90 i)) && ringWill s doms (thRing t) 3)

/-! ## HARVEST (Table 10.9) -/

/-- States the sequencer can reach from state 0. -/
def seqReach (b : List Word) : Nat → List Nat → List Nat
  | 0, l => l
  | k + 1, l => seqReach b k (l.flatMap fun n =>
      [n] ++ (if hvKind b n ≠ 0 && hvHit b n < 8 then [hvHit b n] else []) ++
        (if hvUnit b n ≠ 0 && hvTmo b n < 8 then [hvTmo b n] else [])).eraseDups

/-- Table 10.9 for one unit; its ring only while the unit is in use (R499). -/
def harvestOk (s : State) (doms : BitVec 6) (u : Fin 4) : Bool :=
  let b := s.shad 0x40 u.val
  (hvAvg b = 0 || hvSrc b ≤ 1 || (hvSrc b = 3 && hvFmt b = 0)) &&
    (!(hvSrc b = 2 || hvSrc b = 3) || decide (hvFirst b + hvCount b ≤ 200000)) && decide (hvPre b + hvPost b ≤ 2 ^ 32 - 1) &&
    (seqReach b 8 [0]).all (fun n => hvKind b n ≠ 0 || hvUnit b n ≠ 0) && (List.range 8).all (fun n => !(9 ≤ hvKind b n) || hvLvlKind b ≠ 0) &&
    (s.harv[u].st = .idle || ringWill s doms (hvRing b) 4)

/-! ## COOPER (Table 12.16) -/

/-- A core is in use (R499). -/
def coreUsed (c : Core) : Bool := c.st = .queued || c.st = .running || c.st = .waiting || c.st = .paused || !c.posts.isEmpty

/-- Bytes per second of one tap under the active PROBE sets. -/
def tapRate (s : State) (b : List Word) : Rat :=
  let p := s.act 0x10 (tpFe b)
  let per := max 1 (periodOf p)
  match tpKind b with
  | 0 => 0
  | 1 => ((tpStride b * groupsOf p * 125000000 : Nat) : Rat) / (per : Rat)
  | 2 => ((8 * tpCount b * groupsOf p * 125000000 : Nat) : Rat) / ((per * max 1 (tpShots b) : Nat) : Rat)
  | _ => 1000000

/-- One tap's buffers, window and channels. -/
def tapOk (b : List Word) : Bool :=
  tpKind b = 0 || (decide (tpBuf b + 2 * tpHalf b ≤ 262144) &&
    (match tpKind b with
      | 1 => decide (32 + tpShots b * tpStride b ≤ tpHalf b) && decide (tpFirst b + tpCount b ≤ 200000)
      | 2 => decide (32 + 8 * tpCount b ≤ tpHalf b) && decide (tpFirst b + tpCount b ≤ 2048) && decide (tpCount b ≤ 256)
      | _ => true))

/-- Table 12.16 over all cores. -/
def coopersOk (s : State) (doms : BitVec 6) : Bool :=
  let sets := (List.finRange 8).map fun n => (n, s.shad 0x60 n.val)
  let rate := fun (b : List Word) => tapRate s (tapFlds b 0) + tapRate s (tapFlds b 1)
  sets.all (fun x =>
    let a := tapFlds x.2 0
    let b := tapFlds x.2 1
    tapOk a && tapOk b && (tpKind a = 0 || tpKind b = 0 || !overlaps (tpBuf a) (2 * tpHalf a) (tpBuf b) (2 * tpHalf b)) &&
      decide (rate x.2 ≤ 2000000000) && (!coreUsed s.core[x.1] || ringWill s doms (ringOf (bf x.2 0 0 5)) 3)) &&
    decide ((sets.map fun x => rate x.2).foldl (· + ·) 0 ≤ 8000000000)

/-! ## CELLAR, RING, AUX, TIU, POWER -/

/-- R341. -/
def cellarOk (s : State) : Bool :=
  let b := fun (c : Fin 4) => s.shad 0x70 c.val
  let o := fun (c : Fin 4) => s.act 0x70 c.val
  let cs := List.finRange 4
  let rate := fun (x : List Word) (k : Nat) => bf x (1 + k) 0 14
  (List.range 3).all (fun k => cs.all fun c => rate (b c) k = rate (b 0) k) &&
    cs.all (fun c => rate (b c) s.cellar.fsp.val = rate (o c) s.cellar.fsp.val && decide (bf (b c) 0 16 6 + 8 ≤ bf (b c) 0 8 6)) &&
    (cs.all (fun c => bf (b c) 0 0 2 = bf (o c) 0 0 2) || (!cellarMoving s && s.cellar.areas.isEmpty))

/-- A set in use names the ring and its kind (R499), in the sets that will be in force. -/
def ringUses (s : State) (doms : BitVec 6) : List (RingId × Nat) :=
  ((List.finRange 16).filterMap fun n => let b := futBlk s doms 0x14 n.val; if stEn b then some (stRing b, 3) else none) ++
  ((List.finRange 4).filterMap fun f => let b := futBlk s doms 0x30 f.val; if thEn b then some (thRing b, 3) else none) ++
  (let b := futBlk s doms 0x20 0; if bfb b 2 5 then [(ringOf (bf b 2 0 5), 2)] else []) ++
  ((List.finRange 4).filterMap fun c => let b := futBlk s doms 0xA0 c.val; if bf b 0 0 2 = 2 then some (ringOf (bf b 5 0 8), 5) else none) ++
  ((List.finRange 4).filterMap fun u => if s.harv[u].st = .idle then none else some (hvRing s.harv[u].set, 4)) ++
  ((List.finRange 8).filterMap fun n => if coreUsed s.core[n] then some (ringOf (bf (futBlk s doms 0x60 n.val) 0 0 5), 3) else none) ++
  (List.finRange 8).flatMap fun n => s.core[n].posts.map fun p => (p.ring.getD (ringOf (bf (s.act 0x60 n.val) 0 0 5)), 3)

/-- Every command ring has an enabled reply ring of its own and an enabled event ring (Table 14.11, Pairing). -/
def pairingOk (s : State) (doms : BitVec 6) : Bool :=
  let b := fun (n : RingId) => futBlk s doms 0x80 n.val
  let cmds := ringIds.filter fun n => rgEn (b n) && rgKind (b n) = 0
  cmds.all fun n => rgEn (b (rgReply (b n))) && ringWill s doms (rgReply (b n)) 1 && rgEn (b (rgEvent (b n))) && ringWill s doms (rgEvent (b n)) 2 && cmds.all fun m => m = n || rgReply (b m) ≠ rgReply (b n)

/-- Table 14.11. A ring in use before the commit is neither disabled nor changes its kind. -/
def ringsOk (s : State) (doms : BitVec 6) (via : Transport) : Bool :=
  let b := fun (n : RingId) => s.shad 0x80 n.val
  let o := fun (n : RingId) => s.act 0x80 n.val
  let key := fun (x : List Word) => [rgKind x, bf x 0 4 4, (rgBase x).toNat, rgFmt x, bf x 1 0 5, bf x 1 8 5]
  ringIds.all (fun n =>
    (!rgEn (b n) || rgBase (b n) ≠ 0) && (!(rgEn (b n) && rgEn (o n)) || key (b n) = key (o n)) &&
      (rgFmt (b n) = 0 || rgKind (b n) = 3 || rgKind (b n) = 4)) &&
    pairingOk s doms &&
    (ringUses s doms).all (fun x => if rgEn (o x.1) then rgEn (b x.1) && rgKind (b x.1) = rgKind (o x.1)
      else rgKind (b x.1) = rgKind (o x.1) || rgKind (b x.1) = x.2 || x.2 = 5) &&
    (let z := s.act 0x20 0; !bfb z 2 5 || !namedByCmd s doms (ringOf (bf z 2 0 5))) &&
    (match via with
      | .ring n => rgEn (b n) && rgEn (b (rgReply (o n)))
      | .smbus => true)

/-- The MUX values Table 15.4 allows a curve. -/
def curveOk (b : List Word) : Bool :=
  match axCurve b with
  | 0x00 => true
  | 0x01 | 0x02 | 0x20 => axMux b = 2
  | _ => axMux b ≤ 1

/-- Table 15.8. -/
def auxOk (s : State) : Bool :=
  let b := fun (i : AuxId) => s.shad 0x90 i.val
  let q := s.shad 0x91 0
  let is := List.finRange 16
  is.all (fun i =>
    let x := b i
    curveOk x && (axMux x ≠ 2 || sqExc q (axExc x) ≠ 0) &&
      (!axRatio x || (axMux x = 2 && (let j : AuxId := ⟨axRatioIn x % 16, by omega⟩; j ≠ i && axEn (b j) && axMux (b j) ≤ 1 && axCurve (b j) = 0))) &&
      (axCurve x ≠ 0x20 || bf x 7 0 32 ≠ 0) &&
      (!axIntlk x || (!axAuto x && (if bfb x 3 3 then decide (bfs x 4 0 32 ≤ bfs x 5 0 32) else decide (bfs x 5 0 32 ≤ bfs x 4 0 32))))) &&
    (sqInputs q).all (fun i => axEn (b i)) &&
    (sqStart q ≠ 2 || decide (((sqInputs q).map fun i => 2 ^ axOver (b i)).foldl (· + ·) 0 + sqSlots q ≤ bf q 1 0 24)) &&
    (List.finRange 4).all fun f => !thEn (s.act 0x30 f.val) ||
      (thermInputs (s.act 0x30 f.val) (s.act 0x31 f.val)).all fun i => tempInput (s.shad 0x90 i)

/-- R101, and the ring of continuous mode. -/
def tiuOk (s : State) (c : Fin 4) : Bool :=
  let b := s.shad 0xA0 c.val
  bf b 1 0 32 ≤ bf b 2 0 32 && (!(bf b 0 0 2 = 1 || bf b 0 0 2 = 2) || bf b 0 8 6 = 0)

/-- Table 17.6. Neighbours in the order FE, DSP, VAT, SYS. -/
def powerOk (s : State) : Bool :=
  let b := s.shad 0xC0 0
  let o := s.act 0xC0 0
  let v := fun (k : Nat) => if k = 0 then bf b 2 0 10 else if k = 1 then bf b 2 16 10 else if k = 2 then bf b 3 0 10 else bf b 3 16 10
  let regs := fun (x : List Word) => [wordAt x 4, wordAt x 5, wordAt x 6, wordAt x 7]
  (List.range 3).all (fun k => decide ((v k - v (k + 1)) + (v (k + 1) - v k) ≤ 120)) &&
    (regs b = regs o || s.power.state = 1) &&
    (List.range 4).all (fun i => (List.range i).all fun j => bf b 4 (8 * i) 7 ≠ bf b 4 (8 * j) 7 || bf b 5 (8 * i) 5 ≠ bf b 5 (8 * j) 5)

/-- Table 3.6: TIME_PATH on at most one lane. -/
def peerOk (s : State) : Bool := ((List.range 4).filter fun l => bfb (s.shad 0xE0 l) 0 1).length ≤ 1

/-! ## All of them -/

/-- NO_FIELD_RECORD (R415). -/
def dtNoField : Nat := 0xFFA2

/-- VINTAGE takes the field sets where there are none. -/
def noField (s : State) : Bool := bfb (s.shad 0xB0 0) 0 0 && !s.vint.present && !s.vint.written

/-- Every table over the included domains. -/
def tablesOk (s : State) (doms : BitVec 6) (via : Transport) : Bool :=
  let fs := fesOf doms
  moveOk s doms && fs.all (fun f => probeOk s doms f && recvOk s f && phaseOk s f && finingOk s doms f && thermOk s doms f) &&
    (fs.isEmpty || (footprintOk s doms && capOk s doms && pressOk s doms)) &&
    (!doms.getLsbD 4 || zonesOk s doms) &&
    (!doms.getLsbD 5 || ((List.finRange 4).all (harvestOk s doms) && coopersOk s doms && cellarOk s && ringsOk s doms via && auxOk s &&
      (List.finRange 4).all (tiuOk s) && powerOk s && peerOk s)) &&
    (planAreas s doms).isSome

/-- The first failure of the shadows of a COMMIT, as a DETAIL of BAD_PARAM (R59). -/
def shadowFault (s : State) (doms : BitVec 6) (via : Transport) : Option Nat :=
  if !tablesOk s doms via then some dtCross else if doms.getLsbD 5 && noField s then some dtNoField else none

/-- A COMMIT starts a stopped engine. -/
def startsFe (s : State) (f : Fe) : Bool := !runOf (s.act 0x10 f.val) && runOf (s.shad 0x10 f.val)

/-- The links a start needs are in the data state (R116, R134). -/
def linksReady (s : State) (f : Fe) : Bool :=
  s.fe[f].links[2] = .data && s.fe[f].links[0] = .data && (bf (s.shad 0x11 f.val) 0 8 6 = 0 || s.fe[f].links[1] = .data)

end Sys2Proof.Machine
end

