-- ==== Sys2Proof/Machine/CommitOps.lean ====
section
/-! DEFINITION. COMMIT (2.6, 2.7): its checks in order, admission, scheduling, what applies at once, and the arrival of a time target. -/

namespace Sys2Proof.Machine

/-! ## Application at once -/

/-- LOCAL classes that apply when the commit logic processes them. -/
def atOnce (code : Nat) : Bool := [0x01, 0x02, 0x60, 0x70, 0xC0, 0xD0, 0xE0].contains code

/-- A LOCAL block stands at its application point now: its class applies at once, it changes nothing, or its unit is idle
(R88, R101, R263, R311, R397, R440, R466). -/
def blockReady (s : State) (b : BlockId) : Bool :=
  let i : Fin 4 := ⟨b.inst % 4, by omega⟩
  getBlk s.params.active b = getBlk s.params.shadow b || atOnce b.code ||
    (match b.code with
      | 0x40 => s.harv[i].st = .idle
      | 0x90 => (match s.aux.cur with | some c => c.input.val ≠ b.inst | none => true)
      | 0x91 => !s.aux.cycle
      | 0xA0 => s.tiu[i].ph = .idle || s.tiu[i].ph = .closed
      | _ => false)

/-- What a queued request left behind for its denial or withdrawal: nothing of the command takes effect (R66, R431). -/
def undoQueued (q : QReq) (s : State) : State :=
  match q.req.opcode.toNat with
  | 0x0103 | 0x0D02 | 0x0D03 =>
    { s with
      commits := s.commits.filter fun c => !(c.queued && c.sess = q.req.sess && c.seq = q.req.seq)
      peer := { s.peer with
        armed := s.peer.armed.filter fun a => !(a.sess = q.req.sess && a.seq = q.req.seq)
        shared := s.peer.shared.filter fun a => !(a.sess = q.req.sess && a.seq = q.req.seq) } }
  | 0x0602 => s.updCore ⟨wbits (wordAt q.req.payload 0) 0 3, Nat.mod_lt _ (by decide)⟩ fun c =>
      if c.st = .queued then { c with st := .stopped, stoppedAt := s.time.clk } else c
  | 0x0501 => unqueueUnit (unitOf q.req) s
  | _ => s

/-- Deny a queued request (R431): a completion event with POWER_DENIED, and vector 41. -/
def denyQueued (q : QReq) (s : State) : State := ((undoQueued q (s.unqueue q)).answerQ q stDenied 0).raise vecPower

/-- A shortened QUEUE_TIMEOUT denies the requests that have already waited longer, in queue order (R440). -/
def denyOverdue (s : State) : State :=
  (s.power.queue.filter fun q => decide (q.since + queueTimeout s < s.time.clk)).foldl (fun s q => denyQueued q s) s

/-- The LOCAL blocks of a commit that stand at their application points apply. -/
def localNow (s : State) : State :=
  let ready := localBlocks.filter (blockReady s)
  let power := !(s.act 0xC0 0 == s.shad 0xC0 0)
  let s1 := s.localPoint ready
  refreshIntlk (if power && s1.act 0xC0 0 == s.shad 0xC0 0 then denyOverdue s1 else s1)

/-- ZONE and LOCAL blocks at their application points (R58, R213). -/
def applyDue (s : State) : State := zoneCommitPoint none none (localNow s)

/-! ## Scheduling -/

/-- A rail's target is set over AVSBus (R418). -/
def setRail (k : Fin 4) (mv : Nat) (s : State) : State :=
  if s.power.rails[k].mv = mv then s else (s.updRail k fun r => { r with mv := mv }).emit (.avs k mv)

/-- VMAX of a rail (Table 17.5). -/
def vmaxOf (s : State) (k : Fin 4) : Nat := bf (s.act 0xC0 0) (2 + k.val / 2) (16 * (k.val % 2)) 10

/-- Neighbouring rails: FE with VAT and SYS, DSP with VAT and SYS, VAT with SYS (Table 17.1). -/
def neighbours (k : Fin 4) : List (Fin 4) := if k = 0 then [2, 3] else if k = 1 then [2, 3] else if k = 2 then [0, 1, 3] else [0, 1, 2]

/-- Raise a rail towards a level at most its VMAX, its neighbours first so that no two neighbours stand more than 120 mV apart (R425). -/
def raiseRail : Nat → Fin 4 → Nat → State → State
  | 0, _, _, s => s
  | n + 1, k, want, s =>
    let v := max s.power.rails[k].mv (min want (vmaxOf s k))
    let s1 := if s.power.rails[k].faulted then s else
      (neighbours k).foldl (fun s j => if s.power.rails[j].mv + 120 < v then raiseRail n j (v - 120) s else s) s
    let top := (neighbours k).foldl (fun m j => min m (s1.power.rails[j].mv + 120)) v
    if s.power.rails[k].faulted || top ≤ s1.power.rails[k].mv then s1 else setRail k top s1

/-- VDD_FE goes to the level predicted for a 25 % margin when a start is scheduled (R422). -/
def raiseForStart (s : State) : State := raiseRail 4 0 (Config.predictedVolt s.free) { s with free := s.free + 1 }

/-- The blocks of ZONE and LOCAL that a commit has to apply. -/
def blocksOf (doms : BitVec 6) : List BlockId := (if doms.getLsbD 4 then zoneBlocks else []) ++ (if doms.getLsbD 5 then localBlocks else [])

/-- The commit logic takes a validated commit: its areas are reserved, its arrival instant is now (R58, R334). -/
def schedule (c : Commit) (s : State) : State :=
  let s0 := sweepAreas s
  let s1 := match planAreas s0 c.doms with
    | some l => { s0 with cellar := { s0.cellar with areas := l } }
    | none => s0
  let c' := { c with
    queued := false, left := blocksOf c.doms
    arrival := if c.kind = 2 then c.arrival else s1.now, arrivalClk := if c.kind = 2 then c.arrivalClk else s1.time.clk }
  let s2 := { s1 with commits := s1.commits ++ [c'] }
  let s3 := if (fesOf c.doms).any (startsFe s2) then raiseForStart s2 else s2
  (fesOf c.doms).foldl (fun s f => rephase f s) (applyDue s3)

/-- A new commit record of a command. -/
def newCommit (r : Req) (doms : BitVec 6) (target : Fin 3) (value : BitVec 64) (budget : Nat) (kind : Fin 3) : Commit :=
  { sess := r.sess, seq := r.seq, doms := doms, target := target, value := value, queued := false, arrival := 0, arrivalClk := 0,
    feDone := [], begun := false, left := [], applied := 0, budget := budget, kind := kind }

/-! ## Checks of COMMIT (R57-R59) -/

/-- The included domains of payload word 0. -/
def commitDoms (w0 : Word) : BitVec 6 := w0.extractLsb' 0 6

/-- Features that a COMMIT's options belong to (R47). -/
def commitFeats (r : Req) : List Nat :=
  (if wbits (wordAt r.payload 0) 8 2 = 2 then [6] else []) ++ (if 1 < popc 4 (wordAt r.payload 0).toNat then [7] else [])

/-- The first offending word of the payload (R57, R58). -/
def commitBad (r : Req) : Option Nat :=
  let w0 := wordAt r.payload 0
  let d := commitDoms w0
  let t := wbits w0 8 2
  if rsvdBad r 0 0x33F || t = 3 || d = 0 then some 0
  else if t = 1 && (popc 4 w0.toNat ≠ 1 || wbits w0 4 2 ≠ 0) then some 0
  else if t = 0 && wordAt r.payload 1 ≠ 0 then some 1
  else if t = 0 && wordAt r.payload 2 ≠ 0 then some 2
  else if t = 1 && wbits (wordAt r.payload 2) 16 16 ≠ 0 then some 2
  else none

/-- The target lies too near (R58). -/
def tooSoon (s : State) (doms : BitVec 6) (target : Nat) (value : BitVec 64) : Bool :=
  if target = 1 then
    (fesOf doms).any fun f =>
      let ppn := value.extractLsb' 0 48
      !(isAhead s.fe[f].ppn ppn && decide (2 ≤ ppnAhead s.fe[f].ppn ppn))
  else if target = 2 then decide (value.toNat < s.now.toNat + latch64)
  else false

/-- The checks over shadows and the state of the device, in the order of R59. -/
def commitRefusal (s : State) (doms : BitVec 6) (via : Transport) : Option (Nat × Nat) :=
  let starts := (fesOf doms).filter (startsFe s)
  match shadowFault s doms via with
  | some d => some (stBadParam, d)
  | none =>
    if locked s doms then some (stBusyCommit, 0)
    else if !starts.isEmpty && refGone s then some (stRefMissing, 0)
    else if starts.any fun f => !linksReady s f || s.power.isolated.getLsbD f.val then some (stBusy, 0)
    else none

/-- The rises of the included engines as one request (R429). -/
def commitRise (s : State) (doms : BitVec 6) : Nat := ((fesOf doms).map (feRise s)).foldl (· + ·) 0

/-- COMMIT (R57-R61). At a grant the record that held the domains while it waited is replaced, and everything is checked again. -/
def doCommit (granted : Bool) (r : Req) (s0 : State) : Res :=
  let s := if granted then { s0 with commits := s0.commits.filter fun c => !(c.queued && c.sess = r.sess && c.seq = r.seq) } else s0
  let w0 := wordAt r.payload 0
  let doms := commitDoms w0
  let t := wbits w0 8 2
  let v := word64 r.payload 1
  match commitBad r with
  | some i => Res.bad i s
  | none =>
    if tooSoon s doms t v then Res.bad dtTooSoon s
    else match commitRefusal (sweepAreas s) doms r.via with
      | some (st, d) => Res.rep st d [] s
      | none =>
        let mw := commitRise s doms
        let c := newCommit r doms ⟨t % 3, Nat.mod_lt _ (by decide)⟩ v mw 0
        heavy granted r (.commit r.sess r.seq) mw (fun s => { s with commits := s.commits ++ [{ c with queued := true }] })
          (fun s => Res.later (schedule c (s.addOp r .commit granted))) s

/-- COMMIT (R59). -/
def execCommit (r : Req) (s : State) : Host.Outcome State Fault Refusal := ok (runOp 0x0103 (commitFeats r) 3 3 false (doCommit false) r s)

/-- COMMIT_TIME_TARGET_REACHED (R58): device time reaches the earliest TARGET_VALUE that still holds ZONE or LOCAL blocks. -/
def execCommitTimeTargetReached (s : State) : Host.Outcome State Fault Refusal :=
  let waits := s.commits.filter fun c => !c.queued && c.target = 2 && !c.left.isEmpty && !decide (c.value ≤ s.now)
  match waits with
  | [] => ok (applyDue s)
  | c :: l =>
    let v := l.foldl (fun v d => if d.value < v then d.value else v) c.value
    ok (applyDue (s.goTo (s.time.clkOf v)))

end Sys2Proof.Machine
end

