-- ==== Sys2Proof/Machine/Verify.lean ====
section
/-! DEFINITION. Firmware images (18.1): SHA-256, ECDSA over P-256, the header of Table 18.2 and validity (R445). -/

namespace Sys2Proof.Machine

/-! ## SHA-256 (FIPS 180-4): R445 names the function -/

/-- The integer part of the `k`-th root of `x`, found bit by bit from bit `b - 1` down, above the bits already found. -/
def rootFrom (k x : Nat) : Nat → Nat → Nat
  | 0, found => found
  | b + 1, found => rootFrom k x b (if (found + 2 ^ b) ^ k ≤ x then found + 2 ^ b else found)

/-- The primes up to `n`, in order. -/
def primesTo (n : Nat) : List Nat := (List.range (n + 1)).filter fun p => 1 < p && (List.range p).all fun d => d < 2 || p % d ≠ 0

/-- The first 32 bits of the fraction of the `k`-th root of a prime: the standard's constants are such words, of cube roots for the 64 rounds and
of square roots for the initial value. -/
def rootFraction (k p : Nat) : Word := BitVec.ofNat 32 (rootFrom k (p * 2 ^ (32 * k)) 36 0)

/-- The round constants and the initial value. -/
def roundWords : List Word := (primesTo 311).map (rootFraction 3)
def startWords : List Word := (primesTo 19).map (rootFraction 2)

/-- Exclusive or of a word turned right by each of some amounts. -/
def turned (amounts : List Nat) (x : Word) : Word := amounts.foldl (fun y n => y ^^^ x.rotateRight n) 0

/-- The schedule grows by the word that its last sixteen determine; `w` is newest first. -/
def nextScheduled (w : List Word) : Word :=
  let back := fun i => wordAt w (i - 1)
  back 16 + back 7 + (turned [7, 18] (back 15) ^^^ back 15 >>> 3) + (turned [17, 19] (back 2) ^^^ back 2 >>> 10)

/-- The 64 scheduled words of a block. -/
def scheduled (block : List Word) : List Word := (Nat.repeat (fun w => nextScheduled w :: w) 48 block.reverse).reverse

/-- What a round adds: to the fifth word the first sum, to the new first word both. Choice takes the sixth or seventh word's bits by the fifth;
majority is of the first three. -/
def roundStep (v : List Word) (added : Word) : List Word :=
  let at_ := wordAt v
  let choice := at_ 6 ^^^ (at_ 4 &&& (at_ 5 ^^^ at_ 6))
  let majority := (at_ 0 &&& at_ 1) ||| (at_ 2 &&& (at_ 0 ||| at_ 1))
  let low := added + choice + at_ 7 + turned [25, 11, 6] (at_ 4)
  let high := low + majority + turned [22, 13, 2] (at_ 0)
  (high :: v.take 3) ++ (at_ 3 + low) :: (v.drop 4).take 3

/-- A block of 16 words changes the hash value. -/
def hashBlock (v block : List Word) : List Word :=
  let after := ((scheduled block).zip roundWords).foldl (fun u x => roundStep u (x.1 + x.2)) v
  (v.zip after).map fun x => x.1 + x.2

/-- The big-endian number of bytes. -/
def beNat (l : List Byte) : Nat := l.foldl (fun n b => 256 * n + b.toNat) 0

/-- Big-endian words of a byte list, `n` of them. -/
def beWords : Nat → List Byte → List Word
  | 0, _ => []
  | n + 1, l => BitVec.ofNat 32 (beNat (l.take 4)) :: beWords n (l.drop 4)

/-- A message filled up to whole 64-byte blocks: a one bit, zeros, and its length in bits in the last eight bytes. -/
def filledUp (l : List Byte) : List Byte :=
  let zeros := 63 - (l.length + 8) % 64
  l ++ 0x80#8 :: (List.replicate zeros 0 ++ (List.range 8).reverse.map fun i => BitVec.ofNat 8 (8 * l.length / 256 ^ i))

/-- SHA-256 of bytes, as the 256-bit number whose most significant byte is the digest's first. -/
def sha256 (l : List Byte) : Nat :=
  let m := filledUp l
  let v := (List.range (m.length / 64)).foldl (fun v i => hashBlock v (beWords 16 ((m.drop (64 * i)).take 64))) startWords
  v.foldl (fun n w => n * 2 ^ 32 + w.toNat) 0

/-! ## P-256 (FIPS 186) -/

def p256P : Nat := 2 ^ 256 - 2 ^ 224 + 2 ^ 192 + 2 ^ 96 - 1
def p256N : Nat := 0xffffffff00000000ffffffffffffffffbce6faada7179e84f3b9cac2fc632551
def p256G : Nat × Nat :=
  (0x6b17d1f2e12c4247f8bce6e563a440f277037d812deb33a0f4a13945d898c296, 0x4fe342e2fe1a7f9b8ee7eb4a7c0f9e162bce33576b315ececbb6406837bf51f5)

/-- Power modulo `m`, by the lowest `k` bits of the exponent. -/
def powMod (m : Nat) : Nat → Nat → Nat → Nat
  | 0, _, _ => 1
  | k + 1, b, e => (if e % 2 = 1 then b else 1) * powMod m k (b * b % m) (e / 2) % m

/-- The inverse modulo a prime. -/
def invMod (m a : Nat) : Nat := powMod m 256 (a % m) (m - 2)

/-- A point in Jacobian coordinates: x = X / Z^2 and y = Y / Z^3; the point at infinity has Z = 0. -/
structure EcPoint where
  x : Nat
  y : Nat
  z : Nat
  deriving DecidableEq, Repr

/-- A difference modulo the field prime. -/
def subP (a b : Nat) : Nat := (a + (p256P - b % p256P)) % p256P

/-- Twice a point, on the curve with a = -3. -/
def ecDouble (q : EcPoint) : EcPoint :=
  let y2 := q.y * q.y % p256P
  let s := 4 * q.x * y2 % p256P
  let z2 := q.z * q.z % p256P
  let m := 3 * subP (q.x * q.x) (z2 * z2) % p256P
  let x := subP (m * m) (2 * s)
  ⟨x, subP (m * subP s x) (8 * y2 * y2), 2 * q.y * q.z % p256P⟩

/-- Addition of points. -/
def ecAdd (a b : EcPoint) : EcPoint :=
  if a.z = 0 then b
  else if b.z = 0 then a
  else
    let za := a.z * a.z % p256P
    let zb := b.z * b.z % p256P
    let u := a.x * zb % p256P
    let v := b.x * za % p256P
    let s := a.y * zb * b.z % p256P
    let t := b.y * za * a.z % p256P
    if u = v then if s = t then ecDouble a else ⟨1, 1, 0⟩
    else
      let h := subP v u
      let r := subP t s
      let h2 := h * h % p256P
      let h3 := h * h2 % p256P
      let x := subP (r * r) (h3 + 2 * u * h2)
      ⟨x, subP (r * subP (u * h2) x) (s * h3), a.z * b.z * h % p256P⟩

/-- A multiple of a point, by the lowest `k` bits of the scalar. -/
def ecMul : Nat → Nat → EcPoint → EcPoint
  | 0, _, _ => ⟨1, 1, 0⟩
  | k + 1, n, q =>
    let r := ecMul k (n / 2) (ecDouble q)
    if n % 2 = 1 then ecAdd q r else r

/-- ECDSA verification of a hash under a public key. -/
def ecdsaOk (key : Nat × Nat) (e r s : Nat) : Bool :=
  if r = 0 || p256N ≤ r || s = 0 || p256N ≤ s then false
  else
    let w := invMod p256N s
    let q := ecAdd (ecMul 256 (e * w % p256N) ⟨p256G.1, p256G.2, 1⟩) (ecMul 256 (r * w % p256N) ⟨key.1, key.2, 1⟩)
    q.z ≠ 0 && q.x * invMod p256P (q.z * q.z) % p256P % p256N = r

/-! ## Images (Table 18.2, R445) -/

/-- Eight words as a number, low word first (R2). -/
def num256 (l : List Word) : Nat := (l.take 8).foldr (fun w n => w.toNat + 2 ^ 32 * n) 0

/-- Bytes of an image: its header and body. -/
def imageLen (h : List Word) : Nat := 256 + (wordAt h 4).toNat

/-- The header's fields as the device keeps them. -/
def imageOf (h : List Word) : Image :=
  ⟨wordAt h 2, BitVec.ofNat 6 (wbits (wordAt h 3) 0 6), BitVec.ofNat 2 (wbits (wordAt h 1) 8 2), (wordAt h 1).getLsbD 10,
    BitVec.ofNat 16 (wbits (wordAt h 5) 0 16), BitVec.ofNat 16 (wbits (wordAt h 5) 16 16)⟩

/-- MAGIC, HDR_VER, rsvd fields and BODY_LEN. -/
def headerOk (h : List Word) (room : Nat) : Bool :=
  wordAt h 0 = 0x71801A6E#32 && wbits (wordAt h 1) 0 8 = 1 && wbits (wordAt h 1) 11 21 = 0 && wbits (wordAt h 3) 6 26 = 0 &&
    wordAt h 6 = 0 && wordAt h 7 = 0 && (h.drop 32).all (· = 0) && 1 ≤ (wordAt h 4).toNat && decide ((wordAt h 4).toNat ≤ 6291456) &&
    decide (imageLen h ≤ room)

/-- The image in `room` bytes of a memory from offset 0, where it is valid but for its rollback index (R445). -/
def imageAt (l : Life) (mfgBoot : Bool) (m : Mem) (room : Nat) : Option Image :=
  let h := bytesWords 64 (m.readN 0 256)
  let i := imageOf h
  if headerOk h room && !l.revoked.getLsbD i.keyIndex.toNat && (i.mfg = (i.keyIndex = 3)) && i.mfg = mfgBoot &&
      sha256 (m.readN 256 (wordAt h 4).toNat) = num256 (h.drop 8) &&
      ecdsaOk l.keys[i.keyIndex.toFin] (sha256 (m.readN 0 64)) (num256 (h.drop 16)) (num256 (h.drop 24)) then some i
  else none

/-- The valid image of a memory (R445). -/
def validImage (l : Life) (mfgBoot : Bool) (m : Mem) (room : Nat) : Option Image :=
  (imageAt l mfgBoot m room).filter fun i => decide (l.fuseRollback.toNat ≤ i.rollback.toNat)

end Sys2Proof.Machine
end

