-- ==== Sys2Proof/Machine/HostIf.lean ====
section
/-! DEFINITION. The host interface (14.1, 14.2, 1.6, 1.7): registers as read and written, host boot, BAR2, MSI-X, FLR, D3hot and L1; the SMBus target (2.9);
and the arrival of command packets (2.3). -/

namespace Sys2Proof.Machine

/-! ## Registers as they read (Tables 14.2-14.5, 13.2, 13.3, 3.1) -/

/-- An item waits for posted descriptor space on a ring (Table 14.5 WAITING, R356). -/
def ringWaits (s : State) (n : RingId) : Bool :=
  let r := s.rings[n]
  let room := fwd r.cons r.prod = r.descs.length
  let need := fun (len : Nat) => room && r.cur.isNone && decide (roomOf r < len)
  rgEn (ringBlk s n) &&
    ((match r.queue with | i :: _ => need i.bytes.length | [] => false) ||
     (List.finRange 16).any (fun st => stEn (s.act 0x14 st.val) && stRing (s.act 0x14 st.val) = n &&
        (match s.stream[st].queue with | x :: _ => need (recordBytes s x).length | [] => false)) ||
     (List.finRange 8).any (fun c => match s.core[c].posts with
        | p :: _ => (p.ring.getD (ringOf (bf (s.act 0x60 c.val) 0 0 5))) = n && need (32 + (wordAt p.desc 1).toNat)
        | [] => false) ||
     (List.finRange 4).any (fun u => s.harv[u].st = .reading && hvRing s.harv[u].set = n && need 1))

/-- RING_STATUS (Table 14.5). -/
def ringStatus (s : State) (n : RingId) : Word :=
  let r := s.rings[n]
  let b := ringBlk s n
  BitVec.ofNat 32 ((rgEn b).toNat + 2 * rgKind b + 16 * r.halted.toNat + 32 * r.err.toNat + 512 * r.retries.toNat + 4096 * (ringWaits s n).toNat)

/-- DEV_STATUS (Table 14.3). -/
def devStatus (s : State) : Word :=
  let run := (List.range 4).foldl (fun m f => if runOf (s.act 0x10 f) then m + 2 ^ f else m) 0
  let smb := s.proto.sessions.any fun x => x.via = .smbus
  BitVec.ofNat 32 (s.life.phase.val + 8 * s.life.hostWait.toNat + 16 * s.power.state.val + 256 * run + 4096 * smb.toNat)

/-- FW_VERSION: 0 until firmware runs. -/
def fwVersion (s : State) : Word := match s.life.running with | some (i, _) => i.version | none => 0

/-- A spare as VAT_MAP shows it: while a rotation tests a vat, its spare serves that vat (R323). -/
def spareNow (v : Vat) (k : Fin 2) : Spare :=
  match v.rotating with
  | some ⟨x, j, .test⟩ => if j = k then { v.spares[k] with forVat := x, used := true } else v.spares[k]
  | _ => v.spares[k]

/-- VAT_MAP (Table 13.3). -/
def vatMap (s : State) : Word :=
  let one := fun (x : Spare) => x.forVat.toNat + 64 * x.used.toNat + 128 * x.perm.toNat
  BitVec.ofNat 32 (one (spareNow s.vat 0) + 256 * one (spareNow s.vat 1) + 65536 * s.vat.rotating.isSome.toNat +
    2 ^ 17 * (match s.vat.rotating with | some r => r.vat.toNat | none => 0))

/-- Low and high word. -/
def lo32 (x : BitVec 64) : Word := x.extractLsb' 0 32
def hi32 (x : BitVec 64) : Word := x.extractLsb' 32 32

/-- A warm reset is in progress: only ID and DEV_STATUS answer, writes are discarded (R454). -/
def inWarmReset (s : State) : Bool := s.pcie.busStopped && decide (s.life.phase.val < 2) && !s.life.hostWait

/-- A word of the SYS block. -/
def sysRead (s : State) (o : Nat) : Word :=
  match o with
  | 0x000 => 0x71801F70
  | 0x004 => 0x000001B0
  | 0x008 => fwVersion s
  | 0x00C => devStatus s
  | 0x018 => s.pcie.scratch
  | 0x020 => lo32 s.pcie.irqSum
  | 0x024 => hi32 s.pcie.irqSum
  | 0x028 => BitVec.ofNat 32 ((ringIds.map fun n => if s.rings[n].halted then 2 ^ n.val else 0).foldl (· + ·) 0)
  | _ => 0

/-- A word of the TIME block, and the latches a 32-bit read takes (R86). -/
def timeRead (wide : Bool) (s : State) (o : Nat) : Word × TimeBase :=
  let t := s.time
  let latchNow := if wide then t else { t with latNow := s.now }
  let latchPps := if wide then t else { t with latPps := t.ppsStamp }
  let latchPtm := if wide then t else { t with latPtmD := t.ptmDevice, latPtmM := t.ptmMaster, latPair := true }
  -- the pair latched with PTM_DEVICE belongs to one dialogue, and the read of PTM_MASTER that follows takes it from there
  let latchM := if wide then t else if t.latPair then { t with latPair := false } else { t with latPtmM := t.ptmMaster }
  match o with
  | 0x000 => (timeStatus t, t)
  | 0x004 => (t.events.zeroExtend 32, t)
  | 0x008 => (lo32 s.now, latchNow)
  | 0x00C => (hi32 (if wide then s.now else t.latNow), t)
  | 0x010 => (lo32 t.ppsStamp, latchPps)
  | 0x014 => (hi32 (if wide then t.ppsStamp else t.latPps), t)
  | 0x018 => (errWord t.ppsError, t)
  | 0x01C => (BitVec.ofInt 32 t.adj, t)
  | 0x020 => (lo32 t.ptmDevice, latchPtm)
  | 0x024 => (hi32 (if wide then t.ptmDevice else t.latPtmD), t)
  | 0x028 => (lo32 (if wide then t.ptmMaster else latchM.latPtmM), latchM)
  | 0x02C => (hi32 (if wide then t.ptmMaster else t.latPtmM), t)
  | 0x030 => (t.ptmCount, t)
  | 0x034 => (t.peerOffset, t)
  | _ => (0, t)

/-- A word of a ring's set, and the ring after it: RC counters are left at what arrived meanwhile (R6). -/
def ringRead (during : Nat) (s : State) (n : RingId) (o : Nat) : Word × Ring :=
  let r := s.rings[n]
  match o with
  | 0x00 => (r.prod, r)
  | 0x04 => (r.cons, r)
  | 0x08 => (ringStatus s n, r)
  | 0x10 => (r.items, { r with items := satWord during })
  | 0x14 => (satWord (r.moved / 32), { r with moved := 32 * during })
  | 0x18 => (r.badIndex, { r with badIndex := satWord during })
  | 0x1C => (r.convSkip, { r with convSkip := satWord during })
  | _ => (0, r)

/-- A word of the VAT block. -/
def vatRegRead (during : Nat) (s : State) (o : Nat) : Word × Vat :=
  let v := s.vat
  if o < 68 then ((v.confl.toList.getD (o / 4) 0), v)
  else match o with
    | 0x100 => (v.eccCorr, { v with eccCorr := satWord during })
    | 0x104 => (v.eccUncorr, { v with eccUncorr := satWord during })
    | 0x108 => (v.eccAddr, v)
    | 0x10C => (vatMap s, v)
    | 0x110 => (v.wrDenied, { v with wrDenied := satWord during })
    | _ => (0, v)

/-- A word of the MSI-X table. -/
def msixRead (s : State) (o : Nat) : Word :=
  let e := s.pcie.table.toList.getD (o / 16) {}
  match o % 16 / 4 with
  | 0 => lo32 e.addr
  | 1 => hi32 e.addr
  | 2 => e.data
  | _ => if e.masked then 1 else 0

/-- A 32-bit word of BAR0 and the state its read leaves (Table 1.6); reserved addresses read 0 (R25). -/
def read32 (wide : Bool) (during : Nat) (s : State) (off : Nat) : Word × State :=
  if inWarmReset s then (if off = 0x000 || off = 0x00C then sysRead s off else 0, s)
  else if off < 0x1000 then (sysRead s off, s)
  else if off < 0x2000 then
    let x := timeRead wide s (off - 0x1000)
    (x.1, { s with time := x.2 })
  else if off < 0x2100 then (alarmBits s ((off - 0x2000) / 4), s)
  else if 0x10000 ≤ off && off < 0x10800 then
    let n := ringOf ((off - 0x10000) / 64)
    let x := ringRead during s n ((off - 0x10000) % 64)
    (x.1, s.updRing n fun _ => x.2)
  else if 0x20000 ≤ off && off < 0x20400 then (msixRead s (off - 0x20000), s)
  else if off = 0x30000 then (lo32 s.pcie.pba, s)
  else if off = 0x30004 then (hi32 s.pcie.pba, s)
  else if 0x40000 ≤ off && off < 0x41000 then
    let x := vatRegRead during s (off - 0x40000)
    (x.1, { s with vat := x.2 })
  else (0, s)

/-- The endpoint takes memory requests: link up, D0, in RUN or IDLE (R347, R439). -/
def hostLive (s : State) : Bool := s.pcie.up && !s.pcie.d3hot && decide (s.power.state.val ≤ 1) && s.power.entering.isNone

/-- A read of BAR0, 32 or 64 bits, aligned (R25); an access that is not aligned reads 0. -/
def barRead (off : Nat) (wide : Bool) (during : Nat) (s : State) : State :=
  if !hostLive s then s
  else if off % (if wide then 8 else 4) ≠ 0 then s.emit (.readData 0)
  else
    let a := read32 wide during s off
    if wide then
      let b := read32 wide during a.2 (off + 4)
      b.2.emit (.readData (b.1 ++ a.1))
    else a.2.emit (.readData (a.1.zeroExtend 64))

/-- A byte of BAR2 as it reads (Table 1.7, R27): both aliases show the plain data (R320); reserved addresses, and the cores' windows while their
region is isolated, read 0. While the boot ROM waits for the host only the linear vats are mapped (R449). -/
def bar2Byte (s : State) (a : Nat) : Byte :=
  if a < vatBytes then s.vatByte a
  else if s.life.phase.val < 2 then 0
  else if 0x4000000 ≤ a && a < 0x4000000 + vatBytes then s.vatByte (a - 0x4000000)
  else if 0x8000000 ≤ a && a < 0x8000000 + vatBytes then s.vatByte (a - 0x8000000)
  else if 0xC000000 ≤ a && a < 0xC800000 && !s.power.isolated.getLsbD 4 then
    let c := s.core[(⟨(a - 0xC000000) / 0x100000 % 8, by omega⟩ : CoreId)]
    let o := a % 0x100000
    if o < 0x10000 then c.im.read o else if 0x40000 ≤ o && o < 0x80000 then c.dm.read (o - 0x40000) else 0
  else 0

/-- Offset in the vats of a BAR2 address that lies in them or in one of their aliases. -/
def bar2Vat (s : State) (a : Nat) : Option Nat :=
  if a % 0x4000000 < vatBytes && a < 0xC000000 && (a < vatBytes || 2 ≤ s.life.phase.val) then some (a % 0x4000000) else none

/-- A read of BAR2. What the ECC finds in the vat words read is counted for the host window, and uncorrectable data goes out poisoned (R322,
Table 13.5). -/
def bar2Read (a len : Nat) (found : EccRead) (s : State) : State :=
  if !hostLive s || inWarmReset s then s
  else
    let l := (List.range len).map fun i => bar2Byte s (a + i)
    match bar2Vat s a with
    | none => s.emit (.readBytes l false)
    | some v =>
      let found := if (List.range len).any fun i => vatBad s (v + i) then .uncorrectable else found
      let s1 := vatEcc 15 v found s
      if found = .uncorrectable then (s1.emit (.readBytes l true)).emit .aerNonFatal else s1.emit (.readBytes l false)

/-- RC_REGISTER_READ (R6); a read of BAR2 comes the same way (R26). -/
def execRcRegisterRead (addr : BarAddr) (wide : Bool) (during : Nat) (s : State) : Host.Outcome State Fault Refusal :=
  match addr with
  | .bar0 off => ok (barRead off.toNat wide during s)
  | .bar2 a len found => ok (bar2Read a.toNat len found s)

/-- TIME_LATCH_READ (R86). -/
def execTimeLatchRead (off : BitVec 12) (wide : Bool) (s : State) : Host.Outcome State Fault Refusal :=
  ok (barRead (0x1000 + off.toNat) wide 0 s)

/-! ## Registers as they are written -/

/-- Update one MSI-X entry. -/
def updMsix (v : Fin 64) (f : Msix → Msix) (s : State) : State :=
  { s with pcie := { s.pcie with table := s.pcie.table.set v (f s.pcie.table[v]) } }

/-- Unmask a vector: one message for the events held meanwhile (R31). -/
def unmask (v : Fin 64) (s : State) : State :=
  let s1 := updMsix v (fun e => { e with masked := false }) s
  if s.pcie.pba.getLsbD v.val && s.pcie.msixEn then
    ({ s1 with pcie := { s1.pcie with pba := s1.pcie.pba &&& ~~~((1 : BitVec 64) <<< v.val) } }).emit (.msix v)
  else s1

/-- MSIX_UNMASK (R31). -/
def execMsixUnmask (vec : Fin 64) (s : State) : Host.Outcome State Fault Refusal := if hostLive s then ok (unmask vec s) else ok s

/-- A write of HEARTBEAT (R459): after READY, with HB_TIMEOUT set, it arms or restarts the interval. -/
def heartbeatWrite (s : State) : State :=
  if s.life.phase = 3 && bf (s.act 0x01 0) 0 0 16 ≠ 0 then { s with life := { s.life with heartbeat := some s.time.clk } } else s

/-- HEARTBEAT (R459). -/
def execHeartbeat (s : State) : Host.Outcome State Fault Refusal :=
  if hostLive s && !inWarmReset s then ok (heartbeatWrite s) else ok s

/-- A word of an MSI-X entry. -/
def msixWrite (o : Nat) (w : Word) (s : State) : State :=
  let v : Fin 64 := ⟨o / 16 % 64, by omega⟩
  match o % 16 / 4 with
  | 0 => updMsix v (fun e => { e with addr := hi32 e.addr ++ (w &&& 0xFFFFFFFC#32) }) s
  | 1 => updMsix v (fun e => { e with addr := w ++ lo32 e.addr }) s
  | 2 => updMsix v (fun e => { e with data := w }) s
  | _ => if w.getLsbD 0 then updMsix v (fun e => { e with masked := true }) s else unmask v s

/-- RING_CMD (R364): both bits act as SKIP. -/
def ringCmd (n : RingId) (w : Word) (s : State) : State :=
  if w.getLsbD 1 then skipRing n s else if w.getLsbD 0 then resumeRing n s else s

/-- The boot ROM verifies the host's image in the Vats, whose length SCRATCH gives, and runs it (R449). -/
def hostVerify (s : State) : State :=
  match validImage s.life (s.life.straps.bootSel = 3) s.vat.mem s.pcie.scratch.toNat with
  | some i => { s with life := { s.life with running := some (i, 2), hostWait := false } }
  | none => { s with pcie := { s.pcie with scratch := 0xFFFFFFFF } }

/-- A write of DOORBELL: bit 0 belongs to the boot ROM while it waits for the host (R449); once firmware runs, bit n has ring n's producer index
read from host memory (R353). -/
def bellWrite (bits : Word) (indices : Vector Word 32) (s : State) : State :=
  if s.life.phase.val < 2 then (if s.life.hostWait && bits.getLsbD 0 then hostVerify s else s)
  else ringIds.foldl (fun s n => if bits.getLsbD n.val then ringBell n indices[n] s else s) s

/-- DOORBELL (R353). -/
def execDoorbell (bits : Word) (indices : Vector Word 32) (s : State) : Host.Outcome State Fault Refusal :=
  if hostLive s && !inWarmReset s then ok (bellWrite bits indices s) else ok s

/-- HOST_IMAGE_VERIFY (R449): DOORBELL written with bit 0 set while the boot ROM waits for the host. -/
def execHostImageVerify (s : State) : Host.Outcome State Fault Refusal :=
  if s.life.hostWait && hostLive s then ok (hostVerify s) else ok s

/-- A W1C field after a write: the bits written 1 clear, but for those the hardware sets in the same slot (R6). -/
def w1c {n : Nat} (old mask same : BitVec n) : BitVec n := (old &&& ~~~mask) ||| same

/-- Vectors 32-52 of a word of IRQ_SUMMARY_HI. -/
def irqHigh (w : Word) : BitVec 64 := (w &&& 0x1FFFFF#32) ++ (0 : Word)

/-- A whole 32-bit word written at an aligned offset of BAR0, by its access code (Table 0.1). -/
def write32 (off : Nat) (w : Word) (met : WriteMet) (s : State) : State :=
  if off = 0x010 then bellWrite w met.indices s
  else if off = 0x014 then heartbeatWrite s
  else if off = 0x018 then { s with pcie := { s.pcie with scratch := w } }
  else if off = 0x020 then { s with pcie := { s.pcie with irqSum := w1c s.pcie.irqSum (w.zeroExtend 64) ((lo32 met.sameSlot).zeroExtend 64) } }
  else if off = 0x024 then { s with pcie := { s.pcie with irqSum := w1c s.pcie.irqSum (irqHigh w) (irqHigh (lo32 met.sameSlot)) } }
  else if off = 0x1004 then { s with time := { s.time with events := w1c s.time.events (w.extractLsb' 0 7) (met.sameSlot.extractLsb' 0 7) } }
  else if 0x10000 ≤ off && off < 0x10800 then
    let n := ringOf ((off - 0x10000) / 64)
    match (off - 0x10000) % 64 with
    | 0x00 => offerProd n w s
    | 0x0C => ringCmd n w s
    | _ => s
  else if 0x20000 ≤ off && off < 0x20400 then msixWrite (off - 0x20000) w s
  else if off = 0x40080 then conflClear w (met.sameSlot.extractLsb' 0 17) s
  else s

/-- Byte enables of a 32-bit word: all, some or none. -/
def beOf (be : BitVec 8) (word : Nat) : Nat := bitsOf be.toNat (4 * word) 4

/-- REGISTER_WRITE (R5, R25, R345): a bad TLP, an unaligned access, or byte enables that leave a word in part or cover none, are discarded and
reported. -/
def execRegisterWrite (off : BitVec 20) (be : BitVec 8) (data : BitVec 64) (wide : Bool) (met : WriteMet) (s : State) :
    Host.Outcome State Fault Refusal :=
  let o := off.toNat
  let l := beOf be 0
  let h := if wide then beOf be 1 else 0
  if !hostLive s then ok s
  else if met.badTlp then ok (s.emit .aerNonFatal)
  else if inWarmReset s then ok s
  else if o % (if wide then 8 else 4) ≠ 0 || (l ≠ 0 && l ≠ 15) || (h ≠ 0 && h ≠ 15) || (l = 0 && h = 0) then ok (s.emit .aerAdvisory)
  else
    let s1 := if l = 15 then write32 o (lo32 data) met s else s
    ok (if h = 15 then write32 (o + 4) (hi32 data) { met with sameSlot := met.sameSlot >>> 32 } s1 else s1)

/-! ## BAR2 (R26, R27, R287, R318, R320) -/

/-- A write of bytes at a BAR2 offset: to the vats or an alias, within the region; to DM of a core, or IM while the core may be loaded. -/
def bar2Store (a : Nat) (data : List (Option Byte)) (s : State) : State :=
  let vat := fun (mode : WriteMode) (base : Nat) => s.vatStore mode 15 (a - base) (data.take (vatBytes - (a - base)))
  if a < vatBytes then vat .plain 0
  else if s.life.phase.val < 2 then s
  else if 0x4000000 ≤ a && a < 0x4000000 + vatBytes then vat .set 0x4000000
  else if 0x8000000 ≤ a && a < 0x8000000 + vatBytes then vat .clear 0x8000000
  else if 0xC000000 ≤ a && a < 0xC800000 && !s.power.isolated.getLsbD 4 then
    let n : CoreId := ⟨(a - 0xC000000) / 0x100000 % 8, by omega⟩
    let o := a % 0x100000
    let s1 := endCoreTest n.val s
    if o < 0x10000 then (if imOpen s1 n then s1.updCore n fun c => c.putIm o (data.take (0x10000 - o)) else s1)
    else if 0x40000 ≤ o && o < 0x80000 then s1.updCore n fun c => c.putDm 2 (o - 0x40000) (data.take (0x80000 - o))
    else s1
  else s

/-- BAR2_WRITE (R26, R345). -/
def execBar2Write (addr : BitVec 28) (data : List (Option Byte)) (badTlp : Bool) (s : State) : Host.Outcome State Fault Refusal :=
  if !hostLive s then ok s
  else if badTlp then ok (s.emit .aerNonFatal)
  else if inWarmReset s then ok s
  else ok (bar2Store addr.toNat data s)

/-! ## FLR, D3hot, L1, PERST_N (R346, R347, R478) -/

/-- A set without its RING blocks: they stand at their defaults. -/
def noRings (l : List (BlockId × List Word)) : List (BlockId × List Word) := l.filter fun b => BlockId.code b.1 ≠ 0x80

/-- A Function Level Reset (R346); PTM is then disabled, and PTM_VALID clears with it (R84). -/
def flr (s : State) : State :=
  let s := { s with time := { s.time with ptmValid := false } }
  let s1 := ringIds.foldl (fun s n => dropWaiting n ((dropRing n s).closeVia (.ring n))) s
  let s2 := { s1 with
    pcie := { ({} : Pcie) with up := s.pcie.up, perst := s.pcie.perst, wakeN := s.pcie.wakeN, busStopped := s.pcie.busStopped }
    params := { shadow := noRings s1.params.shadow, active := noRings s1.params.active } }
  noteLtr (ltrUs s) (localNow s2)

/-- D3HOT_ENTRY (R347): host-facing channels stop; every register and set stays. -/
def execD3hotEntry (s : State) : Host.Outcome State Fault Refusal :=
  if s.pcie.up then ok { s with pcie := { s.pcie with d3hot := true } } else ok s

/-- D0_RESUME (R347). -/
def execD0Resume (s : State) : Host.Outcome State Fault Refusal := ok { s with pcie := { s.pcie with d3hot := false } }

/-- A host-facing channel has work: an item or burst in progress, posted host-to-device work, or something waiting that its descriptors hold. -/
def ringWork (s : State) (n : RingId) : Bool :=
  let r := s.rings[n]
  let b := ringBlk s n
  rgEn b && !r.halted &&
    (r.cur.isSome || !r.reads.isEmpty || ((rgKind b = 0 || rgKind b = 5) && r.cons ≠ r.prod) ||
      (r.cons ≠ r.prod && (!r.queue.isEmpty ||
        (List.finRange 16).any (fun st => stEn (s.act 0x14 st.val) && stRing (s.act 0x14 st.val) = n && !(s.stream[st].queue).isEmpty) ||
        (List.finRange 4).any fun u => s.harv[u].st = .reading && hvRing s.harv[u].set = n)))

/-- ASPM_L1_REQUEST (R347): no channel has work and no message is pending. -/
def execAspmL1Request (s : State) : Host.Outcome State Fault Refusal :=
  if s.pcie.up && !s.pcie.d3hot && s.pcie.pba = 0 && !ringIds.any (ringWork s) then ok (s.emit .l1Request) else ok s

/-- The link comes up: PCIE_WAKE_N is released (R478). -/
def pcieUp (s : State) : State :=
  let s1 := { s with pcie := { s.pcie with up := true, wakeN := false } }
  if s.pcie.wakeN then s1.pin .pcieWakeN true else s1

/-- PERST_N_ASSERT (R478): the effects of an FLR, and the link goes down. -/
def execPerstNAssert (s : State) : Host.Outcome State Fault Refusal :=
  let s1 := if s.pcie.up then flr s else s
  ok { s1 with pcie := { s1.pcie with up := false, perst := true } }

/-- PERST_N_RELEASE (R478): the link trains unless RESET_N is low, the device is unpowered or in WAKE-ONLY, in test mode or tripped. -/
def execPerstNRelease (s : State) : Host.Outcome State Fault Refusal :=
  let s1 := { s with pcie := { s.pcie with perst := false } }
  if s.life.powered && !s.life.inReset && !s.life.straps.testMode && !s.life.thermtrip && s.power.state ≠ 5 then ok (pcieUp s1) else ok s1

/-! ## SMBus (2.9) -/

/-- The target answers: supplied, out of reset, not in production test. -/
def smbusLive (s : State) : Bool := s.life.powered && !s.life.inReset && !s.life.straps.testMode

/-- PACKET_IN (R70, R71, R439). -/
def execPacketIn (bytes : List Byte) (pecOk : Bool) (s : State) : Host.Outcome State Fault Refusal :=
  if !smbusLive s || decide (s.life.phase.val < 3) || s.life.running.isNone then ok (s.emit .smbusNak)
  else if !pecOk then ok (({ s with proto := { s.proto with smbDiscard := true } }).emit .smbusNak)
  else if 8 ≤ ((s.proto.smb.take 8).filter fun i => !i.isEvent).length || 255 < bytes.length then ok (s.emit .smbusNak)
  else if cpRuns s then ok (arrive .smbus bytes s)
  else ok { s with proto := { s.proto with heldIn := s.proto.heldIn ++ [(.smbus, bytes)] } }

/-- The ring is an enabled command ring. -/
def cmdRing (s : State) (n : RingId) : Bool := rgEn (ringBlk s n) && rgKind (ringBlk s n) = 0

/-- A packet is read from its transport: SMBus, or an enabled command ring. -/
def readPacket (via : Transport) (buf : List Byte) (s : State) : State :=
  match via with
  | .ring n => if cmdRing s n then arrive via buf s else s
  | .smbus => arrive via buf s

/-- The CP runs again: SMBus sends what waited, and the packets that waited in their rings or on SMBus are read in order (R24, R439). -/
def drainHeld (s : State) : State :=
  s.proto.heldIn.foldl (fun s b => readPacket b.1 b.2 s) (releaseSmb { s with proto := { s.proto with heldIn := [] } })

/-- PACKET_OUT (R71): the oldest waiting item leaves; the alert is released with the last. -/
def execPacketOut (s : State) : Host.Outcome State Fault Refusal :=
  if !smbusLive s then ok (s.emit .smbusNak)
  else match s.proto.smb with
    | [] => ok (s.emit (.smbusBlock []))
    | i :: r =>
      let s1 := ({ s with proto := { s.proto with smb := r } }).emit (.smbusBlock i.bytes)
      ok (if r.isEmpty then s1.pin .smbAlertN true else s1)

/-- A command of the SMBus session is executing or waits. -/
def smbusBusy (s : State) : Bool :=
  let mine := fun (id : BitVec 8) => match s.session id with | some x => x.via = .smbus | none => false
  s.proto.waiting.any (fun r => r.via = .smbus) || s.proto.ops.any fun o => mine o.sess

/-- LINK_STATUS (R70). -/
def execLinkStatus (s : State) : Host.Outcome State Fault Refusal :=
  if !smbusLive s then ok (s.emit .smbusNak)
  else
    ok (({ s with proto := { s.proto with smbDiscard := false } }).emit
      (.smbusByte (BitVec.ofNat 8 ((!s.proto.smb.isEmpty).toNat + 2 * (smbusBusy s).toNat + 4 * s.proto.smbDiscard.toNat))))

/-- SMBUS_ALERT_RESPONSE (R476): the 7-bit device address while SMB_ALERT_N is driven. -/
def execSmbusAlertResponse (s : State) : Host.Outcome State Fault Refusal :=
  if smbusLive s && !s.proto.smb.isEmpty then ok (s.emit (.smbusByte (BitVec.ofNat 8 (0x58 + s.life.straps.smbAddr.toNat))))
  else ok (s.emit .smbusNak)

/-! ## Command packets (R41) -/

/-- COMMAND_PACKET_ARRIVAL (R41): a buffer is read from an enabled command ring, or from SMBus, while the CP runs; a packet posted on such a ring
while it does not stays there until it does (R24). -/
def execCommandPacketArrival (via : Transport) (buf : List Byte) (s : State) : Host.Outcome State Fault Refusal :=
  if cpRuns s then
    match via with
    | .ring _ => ok (readPacket via buf s)
    | .smbus => ok (readPacket via buf { s with proto := { s.proto with heldIn := s.proto.heldIn.erase (.smbus, buf) } })
  else match via with
    | .ring n => if cmdRing s n then ok { s with proto := { s.proto with heldIn := s.proto.heldIn ++ [(via, buf)] } } else ok s
    | .smbus => ok s

/-! ## Session and parameter opcodes (Table 2.4) -/

/-- HELLO (R46): its reply goes under the new session, so it takes the runner's steps itself. -/
def execHello (r0 : Req) (s : State) : Host.Outcome State Fault Refusal :=
  let r := { r0 with opcode := 1 }
  let s0 := settleUnknown s
  let s1 := if s0.proto.waiting.contains r || !cpRuns s0 then s0 else acceptReq r s0
  if s1.proto.waiting.contains r && cpRuns s1 && sessionFree s1 r && isHead s1 r && isTurn s1 r then ok (doHello r (s1.take r)) else ok s1

/-- INFO (R69). -/
def execInfo (r : Req) (s : State) : Host.Outcome State Fault Refusal := ok (runOp 0x0002 [] 0 0 false doInfo r s)

/-- ECHO (R49). -/
def execEcho (r : Req) (s : State) : Host.Outcome State Fault Refusal := ok (runOp 0x0003 [] 0 (payloadLimit r.via) false doEcho r s)

/-- BYE (R50): the session closes after its reply. -/
def execBye (r : Req) (s : State) : Host.Outcome State Fault Refusal :=
  let s1 := runOp 0x0004 [] 0 0 false (fun _ s => Res.ok [] s) r s
  let ran := (s.session r.sess).isSome && (match s1.session r.sess with
    | some x => x.cache.any fun e => e.seq = r.seq && e.opcode = 4 && e.reply.isSome &&
        (match e.reply with | some p => wbits (wordAt p 0) 0 8 = stOk | none => false)
    | none => false)
  ok (if ran then s1.closeSession r.sess else s1)

/-- SET_PARAM (R54). -/
def execSetParam (r : Req) (s : State) : Host.Outcome State Fault Refusal := ok (runOp 0x0101 [] 3 16384 false doSetParam r s)

/-- GET_PARAM (R53). -/
def execGetParam (r : Req) (s : State) : Host.Outcome State Fault Refusal := ok (runOp 0x0102 [] 2 2 false doGetParam r s)

/-- DEFAULTS (R56). -/
def execDefaults (r : Req) (s : State) : Host.Outcome State Fault Refusal := ok (runOp 0x0105 [] 1 1 false doDefaults r s)

end Sys2Proof.Machine
end

