-- ==== Sys2Proof/Machine/Peer.lean ====
section
/-! DEFINITION. Peer links (3.5) and shared commits: lanes, frames as received, time sharing, COMMIT_ARM, COMMIT_SHARED and COMMIT_ABORT. -/

namespace Sys2Proof.Machine

/-! ## Shared commits (R93) -/

/-- Drop an armed commit that is not prepared: it is answered ABORTED and its budget is released. -/
def disarmCommit (a : Armed) (s : State) : State :=
  let s1 := { s with peer := { s.peer with armed := s.peer.armed.erase a } }.release (.commit a.sess a.seq)
  match s1.findOp a.sess a.seq with
  | some o => s1.finish o stAborted 0 []
  | none => s1

/-- The originator schedules its own commit at T once every peer has accepted (R93). -/
def scheduleShared (x : Shared) (s : State) : State :=
  match sharedCommit s x.sess x.seq 2 with
  | none => s
  | some c =>
    let s1 := { s with
      commits := s.commits.erase c
      peer := { s.peer with shared := s.peer.shared.map fun y => if y = x then { y with scheduled := true } else y } }
    schedule c s1

/-- Every named peer has accepted. -/
def allAccepted (x : Shared) : Bool := (List.finRange 4).all fun d => !x.peers.getLsbD d.val || x.answers.contains (d, 0)

/-! ## Lanes (R89) -/

/-- An enabled lane reaches UP or INCOMPATIBLE with what the far end reports; version 1.0 and 1.1 are supported. -/
def negotiate (l : Fin 4) (major minor : Byte) (num : Fin 4) (up : Bool) (s : State) : State :=
  let good := major = 1 && num.val ≠ deviceNum s
  s.updLane l fun x => { x with
    st := if !good then .incompatible else if up then .up else x.st
    ver := if good then verByte 1 (min minor.toNat 1) else x.ver, farNum := num }

/-- PEER_LANE_UP (R89). -/
def execPeerLaneUp (lane : Fin 4) (farMajor farMinor : Byte) (farNum : Fin 4) (s : State) : Host.Outcome State Fault Refusal :=
  let st := s.peer.lanes[lane].st
  if lnEn (peerSet s lane) && !s.life.thermtrip && (st = .down || st = .training || st = .negotiating) then
    let s1 := if st = .negotiating then s else s.sendFrame lane 1 1 [BitVec.ofNat 32 (1 + 256 + deviceNum s * 65536), 1]
    ok ((negotiate lane farMajor farMinor farNum true s1).raise vecPeer)
  else ok s

/-- A lane that is enabled goes DOWN and retrains, an INCOMPATIBLE one too (R89). -/
def laneDown (lane : Fin 4) (s : State) : State :=
  match s.peer.lanes[lane].st with
  | .down | .training => s
  | _ => laneTurns .training lane s

/-- PEER_LANE_SILENCE (R89). -/
def execPeerLaneSilence (lane : Fin 4) (s : State) : Host.Outcome State Fault Refusal := ok (laneDown lane s)

/-- PEER_LANE_LOCK_LOSS (R89). -/
def execPeerLaneLockLoss (lane : Fin 4) (s : State) : Host.Outcome State Fault Refusal := ok (laneDown lane s)

/-- PEER_FRAME_CRC_ERROR (R90): the frame is discarded and counted. -/
def execPeerFrameCrcError (lane : Fin 4) (s : State) : Host.Outcome State Fault Refusal :=
  ok (if s.peer.lanes[lane].st = .down then s else s.updLane lane fun x => { x with crcErr := min (2 ^ 19 - 1) (x.crcErr + 1) })

/-! ## Frames received (R90) -/

/-- FSEQ values a lane remembers: copies come 50 ns apart, so a copy lies among the last 64 frames, and a value returns after 65536 (log entry 18). -/
def seqDepth : Nat := 64

/-- A good frame on a lane that carries frames: the first copy of its FSEQ acts. -/
def rxFrame (f : Frame) (carries : LaneState → Bool) (act : State → State) (s0 : State) : State :=
  let s := s0.goTo f.t
  let l := s.peer.lanes[f.lane]
  if !carries l.st || l.rxSeqs.contains f.fseq then s
  else act (s.updLane f.lane fun x => { x with rxSeqs := (f.fseq :: x.rxSeqs).take seqDepth })

/-- Frames other than LINK_HELLO are carried by a lane that is UP. -/
def isUp (x : LaneState) : Bool := x = .up

/-- Words 1-6 of a frame. -/
def fw (f : Frame) (i : Nat) : Word := f.w.toList.getD (i - 1) 0

/-- IDLE (R90): it only shows that the lane lives. -/
def execIdle (f : Frame) (s : State) : Host.Outcome State Fault Refusal := ok (rxFrame f isUp (fun s => s) s)

/-- LINK_HELLO (R89): the far end's version and DEVICE_NUM; the lane negotiates and answers with its own. -/
def execLinkHello (f : Frame) (s : State) : Host.Outcome State Fault Refusal :=
  ok (rxFrame f (fun x => x = .training || x = .negotiating) (fun s =>
    let first := s.peer.lanes[f.lane].st = .training
    let s1 := if first then (s.updLane f.lane fun x => { x with st := .negotiating }).sendFrame f.lane 1 1
        [BitVec.ofNat 32 (1 + 256 + deviceNum s * 65536), 1] else s
    negotiate f.lane (BitVec.ofNat 8 (wbits (fw f 1) 8 8)) (BitVec.ofNat 8 (wbits (fw f 1) 0 8))
      ⟨wbits (fw f 1) 16 2, Nat.mod_lt _ (by decide)⟩ false s1) s)

/-- SYNC_REQ (R91): the master answers with the times of arrival and of the answer. -/
def execSyncReq (f : Frame) (s : State) : Host.Outcome State Fault Refusal :=
  ok (rxFrame f isUp (fun s =>
    if follower s then s else s.sendFrame f.lane 3 1 ([fw f 1, fw f 2] ++ split64 s.now ++ split64 s.now)) s)

/-- The offset of R91 in 2^-64 s: the halved sum of the two differences, and SKEW. -/
def peerOffset96 (t1 t2 t3 t4 : BitVec 64) (skewPs : Int) : BitVec 96 :=
  BitVec.ofInt 96 (((t2 - t1).toInt + (t3 - t4).toInt) * 2 ^ 31) + ps96 skewPs

/-- A follower's synchronisation: a step at the first and beyond 1 µs, else a slew; locked after 100 within 1 ns. -/
def peerSync (off : BitVec 96) (s : State) : State :=
  let ps := roundEven (off.toInt * 10 ^ 12) (2 ^ 64)
  let s1 := { s with time := { s.time with peerOffset := errWord ps } }
  if !s.time.peerSynced || decide (1000000 < ps.natAbs) then
    let s2 := stepTime s1 (s1.time.at96 s1.time.clk + off)
    { s2 with time := { s2.time with peerSynced := true, peerGood := 0, peerLocked := false } }
  else
    let s2 := slew s1 (peerAdj s1 ps)
    let good := if ps.natAbs ≤ 1000 then s2.time.peerGood + 1 else 0
    { s2 with time := { s2.time with peerGood := good, peerLocked := decide (100 ≤ good) } }

/-- The device synchronises with a master: a follower in force, or one that its set makes so from the next synchronisation (R88). -/
def syncs (s : State) : Bool := follower s || bfb (timeSetOf s) 0 3

/-- SYNC_RESP (R91): what the TIME set changed of TIME_SOURCE and PPS_EN takes effect first (R88). -/
def execSyncResp (f : Frame) (s : State) : Host.Outcome State Fault Refusal :=
  ok (rxFrame f isUp (fun s =>
    if syncs s && lnTimePath (peerSet s f.lane) then
      let s := adoptTime s
      if !follower s then s else peerSync (peerOffset96 (fw f 2 ++ fw f 1) (fw f 4 ++ fw f 3) (fw f 6 ++ fw f 5) s.now (bfs (peerSet s f.lane) 1 0 32)) s
    else s) s)

/-- SYNC_REQ_TIMER (R91). -/
def execSyncReqTimer (s : State) : Host.Outcome State Fault Refusal :=
  if syncs s then
    ok ((List.finRange 4).foldl (fun s l =>
      if lnTimePath (peerSet s l) && s.peer.lanes[l].st = .up then s.sendFrame l 2 1 (split64 s.now) else s) s)
  else ok s

/-- ZONE_EVENT (R92, R212): to the Harvest sequencers and the event ring, never to the pins. -/
def execZoneEvent (f : Frame) (s : State) : Host.Outcome State Fault Refusal :=
  ok (rxFrame f isUp (fun s =>
    if lnRxZones (peerSet s f.lane) then
      let z := wbits (fw f 1) 0 11
      let on := wbits (fw f 1) 11 1 = 1
      let t : BitVec 64 := fw f 5 ++ fw f 4
      let s1 := if on then s.seqEvent ⟨4, z + f.src.val * 2048, t, 0, 0, s.time.clk⟩ else s
      if bfb (s1.act 0x20 0) 2 5 then
        { s1 with zones := { s1.zones with events := s1.zones.events ++
          [⟨true, on, false, false, 0, z, wbits (fw f 1) 12 2, f.src.val, BitVec.ofNat 48 ((fw f 3 ++ fw f 2).toNat), 0, t, 0⟩] } }
      else s1
    else s) s)

/-- What a peer finds at a PREPARE: the armed commit it schedules, or the status it refuses with (R93). -/
def judgePrepare (s : State) (lane : Fin 4) (tag : BitVec 16) (t : BitVec 64) : Armed ⊕ Nat :=
  match s.peer.armed.find? fun a => a.tag = tag && a.prep.isNone with
  | none => .inr stBadParam
  | some a =>
    if s.peer.lanes[lane].ver ≠ verByte 1 1 then .inr stVersion
    else if tooSoon s a.doms 2 t || sharedPast s t false then .inr stBadParam
    else match commitRefusal (sweepAreas s) a.doms .smbus with
      | some (st, _) => .inr st
      | none => if a.budget < commitRise s a.doms then .inr stDenied else .inl a

/-- PREPARE (R93). -/
def execPrepare (f : Frame) (s : State) : Host.Outcome State Fault Refusal :=
  ok (rxFrame f isUp (fun s =>
    let tag : BitVec 16 := (fw f 1).extractLsb' 0 16
    let t : BitVec 64 := fw f 3 ++ fw f 2
    match judgePrepare s f.lane tag t with
    | .inr st => sendCtl 7 [tagWord tag st] f.lane s
    | .inl a =>
      let s1 := { s with peer := { s.peer with armed := s.peer.armed.map fun b => if b = a then { b with prep := some (f.lane, t) } else b } }
      let r : Req := ⟨.smbus, a.sess, a.seq, 0x0D02, 0, []⟩
      sendCtl 6 [tagWord tag 0] f.lane (schedule (newCommit r a.doms 2 t a.budget 1) s1)) s)

/-- An answer of a peer is recorded; once every peer has accepted, the originator schedules (R93). An ACCEPT later than 100 µs after the PREPARE is
ignored, and no WITHDRAW answers it: the model's choice (log entry 19). -/
def peerAnswer (f : Frame) (st : Byte) (s : State) : State :=
  let tag : BitVec 16 := (fw f 1).extractLsb' 0 16
  match s.peer.shared.find? fun x => x.tag = tag && !x.scheduled && x.peers.getLsbD f.src.val && !x.answers.any fun a => a.1 = f.src with
  | none => s
  | some x =>
    let y := { x with answers := x.answers ++ [(f.src, st)] }
    let s1 := { s with peer := { s.peer with shared := s.peer.shared.map fun z => if z = x then y else z } }
    if allAccepted y && decide (s.time.clk ≤ y.prepareAt + 100000000) then scheduleShared y s1 else s1

/-- ACCEPT (R93). -/
def execAccept (f : Frame) (s : State) : Host.Outcome State Fault Refusal := ok (rxFrame f isUp (peerAnswer f 0) s)

/-- REFUSE (R93). -/
def execRefuse (f : Frame) (s : State) : Host.Outcome State Fault Refusal :=
  ok (rxFrame f isUp (peerAnswer f (BitVec.ofNat 8 (wbits (fw f 1) 16 8))) s)

/-- WITHDRAW (R94): before the completion point the prepared commit with its TAG is withdrawn. -/
def execWithdraw (f : Frame) (s : State) : Host.Outcome State Fault Refusal :=
  ok (rxFrame f isUp (fun s =>
    let tag : BitVec 16 := (fw f 1).extractLsb' 0 16
    (s.peer.armed.filter fun a => a.tag = tag && (match a.prep with | some (l, t) => l = f.lane && !sharedPast s t a.stands | none => false)).foldl
      (fun s a => withdrawArmed a s) s) s)

/-! ## Events of a shared commit -/

/-- SHARED_ACCEPT_TIMEOUT (R93): 100 µs after PREPARE, without every ACCEPT, the originator withdraws. -/
def execSharedAcceptTimeout (s : State) : Host.Outcome State Fault Refusal :=
  match s.peer.shared.find? fun x => !x.scheduled with
  | none => ok s
  | some x => ok (withdrawShared (acceptedBy x) x (s.goTo (x.prepareAt + 100000000)))

/-- SHARED_COMPLETION_POINT (R94): at the earliest T - 20 µs a shared commit that is scheduled here becomes irrevocable. -/
def execSharedCompletionPoint (s : State) : Host.Outcome State Fault Refusal :=
  let ts := (s.peer.shared.filterMap fun x => if x.scheduled && !x.stands then some x.target else none) ++
    s.peer.armed.filterMap fun a => match a.prep with | some (_, t) => if a.stands then none else some t | none => none
  match ts with
  | [] => ok s
  | t :: l =>
    let v := l.foldl (fun v d => if d < v then d else v) t
    let s1 := s.goTo (s.time.clkOf (v - BitVec.ofNat 64 (20 * 2 ^ 32 / 10 ^ 6)))
    ok { s1 with peer := { s1.peer with
      shared := s1.peer.shared.map fun x => if x.scheduled && x.target = v then { x with stands := true } else x
      armed := s1.peer.armed.map fun a => match a.prep with | some (_, t) => if t = v then { a with stands := true } else a | none => a } }

/-! ## Opcodes (Table 3.10) -/

/-- Code of a lane's state. -/
def LaneState.code : LaneState → Nat
  | .down => 0
  | .training => 1
  | .negotiating => 2
  | .up => 3
  | .incompatible => 4

/-- PEER_STATUS. -/
def doPeerStatus (_ : Req) (s : State) : Res :=
  Res.ok ((List.finRange 4).map fun l =>
    let x := s.peer.lanes[l]
    BitVec.ofNat 32 (x.st.code + 8 * x.ver.toNat + 2048 * x.farNum.val + 8192 * x.crcErr)) s

/-- PEER_STATUS (R102). -/
def execPeerStatus (r : Req) (s : State) : Host.Outcome State Fault Refusal := ok (runOp 0x0D01 [1] 0 0 false doPeerStatus r s)

/-- Features of a shared commit (R102). -/
def sharedFeats (r : Req) : List Nat := [1, 6] ++ (if 1 < popc 4 (wordAt r.payload 0).toNat then [7] else [])

/-- COMMIT_ARM (R93, R429). -/
def doCommitArm (granted : Bool) (r : Req) (s : State) : Res :=
  let w0 := wordAt r.payload 0
  let doms := commitDoms w0
  let old := s.peer.armed.find? fun a => a.prep.isNone
  let drop := fun (s : State) => match old with | some a => disarmCommit a s | none => s
  if rsvdBad r 0 0xFFFF003F then Res.bad 0 s
  else if doms = 0 then Res.ok [] (drop s)
  else match commitRefusal (sweepAreas s) doms r.via with
    | some (st, d) => Res.rep st d [] s
    | none =>
      let mw := commitRise s doms
      heavy granted r (.commit r.sess r.seq) mw (fun s => s) (fun s =>
        let s1 := (drop s).addOp r .commitArm true
        Res.ok [] { s1 with peer := { s1.peer with
          armed := s1.peer.armed ++ [⟨r.sess, r.seq, w0.extractLsb' 16 16, doms, mw, none, false⟩] } }) s

/-- COMMIT_ARM (R93). -/
def execCommitArm (r : Req) (s : State) : Host.Outcome State Fault Refusal := ok (runOp 0x0D02 (sharedFeats r) 1 1 false (doCommitArm false) r s)

/-- COMMIT_SHARED (R93): step 1; the domains are locked from the arrival instant, and the own commit waits for the peers' answers. -/
def doCommitShared (granted : Bool) (r : Req) (s0 : State) : Res :=
  let s := if granted then { s0 with commits := s0.commits.filter fun c => !(c.queued && c.sess = r.sess && c.seq = r.seq) } else s0
  let w0 := wordAt r.payload 0
  let doms := commitDoms w0
  let lead := (wordAt r.payload 2).toNat
  if rsvdBad r 0 0xFFFF003F || doms = 0 then Res.bad 0 s
  else if rsvdBad r 1 0xF then Res.bad 1 s
  else if lead < 500 || 10000000 < lead then Res.bad 2 s
  else match commitRefusal (sweepAreas s) doms r.via with
    | some (st, d) => Res.rep st d [] s
    | none =>
      let mw := commitRise s doms
      let tag : BitVec 16 := w0.extractLsb' 16 16
      heavy granted r (.commit r.sess r.seq) mw
        (fun s => { s with commits := s.commits ++ [{ newCommit r doms 2 0 mw 2 with queued := true }] })
        (fun s =>
          let t := s.now + BitVec.ofNat 64 (lead * 2 ^ 32 / 10 ^ 6)
          let c := { newCommit r doms 2 t mw 2 with queued := true, arrival := s.now, arrivalClk := s.time.clk }
          let x : Shared := ⟨r.sess, r.seq, tag, doms, (wordAt r.payload 1).extractLsb' 0 4, t, s.now, s.time.clk, [], false, false, mw⟩
          let s1 := s.addOp r .commitShared granted
          let s2 := { s1 with commits := s1.commits ++ [c], peer := { s1.peer with shared := s1.peer.shared ++ [x] } }
          let s3 := ((List.finRange 4).filter fun d => x.peers.getLsbD d.val).foldl (fun s d => match laneTo s d with
            | some l => sendCtl 5 ([tagWord tag 0] ++ split64 t) l s
            | none => s) s2
          Res.later (if x.peers = 0 then scheduleShared x s3 else s3)) s

/-- COMMIT_SHARED (R93). -/
def execCommitShared (r : Req) (s : State) : Host.Outcome State Fault Refusal :=
  ok (runOp 0x0D03 (sharedFeats r) 3 3 false (doCommitShared false) r s)

/-! ## COMMIT_ABORT (R63, R94, R102, R432) -/

/-- What COMMIT_ABORT may name. -/
def abortCodes : List (BitVec 16) := [0x0103, 0x0801, 0x0D02, 0x0D03]

/-- COMMIT_ABORT: a commit or TIME_SET that still waits for execution, a queued, armed, scheduled or shared commit, or a TIME_SET that waits for its
edge. A peer that withdraws its prepared COMMIT_ARM sends nothing to the originator: the model's choice (log entry 214). -/
def doCommitAbort (r : Req) (s : State) : Res :=
  let q := wordAt r.payload 0
  match s.proto.waiting.find? fun w => w.sess = r.sess && w.seq = q && abortCodes.contains w.opcode with
  | some w => Res.ok [] (({ s with proto := { s.proto with waiting := s.proto.waiting.erase w } }).answer w.via w.sess w.opcode w.seq false [statusWord stAborted 0])
  | none =>
  let done := if s.wasCompleted r.sess q abortCodes then Res.rep stCompleted 0 [] s else Res.bad dtUnknown s
  match queuedReq s r.sess q with
  | some x =>
    if abortCodes.contains x.req.opcode then
      Res.ok [] (undoQueued x ((s.unqueue x).answerQ x stAborted 0))
    else done
  | none => match s.peer.shared.find? fun x => x.sess = r.sess && x.seq = q with
    | some x => if sharedPast s x.target x.stands then Res.rep stCompleted 0 [] s else Res.ok [] (withdrawShared (mayHold x) x s)
    | none => match s.peer.armed.find? fun a => a.sess = r.sess && a.seq = q with
      | some a => (match a.prep with
        | none => Res.ok [] (disarmCommit a s)
        | some (_, t) => if sharedPast s t a.stands then Res.rep stCompleted 0 [] s else Res.ok [] (withdrawArmed a s))
      | none => match s.commits.find? fun c => c.sess = r.sess && c.seq = q with
        | some c => if c.begun then Res.rep stCompleted 0 [] s else Res.ok [] (s.withdraw c)
        | none => match s.time.pendSet.filter (fun p => p.sess = r.sess && p.seq = q), s.findOp r.sess q with
          | some _, some o => Res.ok [] ({ s with time := { s.time with pendSet := none } }.finish o stAborted 0 [])
          | _, _ => done

/-- COMMIT_ABORT (R63), executed ahead of waiting commands of its session. -/
def execCommitAbort (r : Req) (s : State) : Host.Outcome State Fault Refusal := ok (runOp 0x0104 [] 1 1 true doCommitAbort r s)

end Sys2Proof.Machine
end

