-- ==== Sys2Proof/Machine/Reinit.lean ====
section
/-! DEFINITION. Re-initialisation of one function (18.5, R457): engines, Cooper cores, rings and JESD links. -/

namespace Sys2Proof.Machine

/-- A level-2 re-initialisation is counted (L2_COUNT of Table 18.5). -/
def countL2 (s : State) : State :=
  { s with life := { s.life with l2Count := BitVec.ofNat 16 (min 65535 (s.life.l2Count.toNat + 1)) } }

/-- An engine re-initialises at its next boundary (R457). -/
def reinitEngine (f : Fe) (s : State) : State := countL2 (s.updFe f fun x => { x with reinit := true })

/-- A core re-initialises (R457): stopped at a bundle where it can stop, or at once where it does not issue. -/
def reinitCore (n : CoreId) (s : State) : State :=
  match s.core[n].st with
  | .running | .waiting => coreEnded n (s.updCore n fun c => stopPoint s.time.clk { c with stopReq := true })
  | _ =>
    let s1 := stopCore n s
    reinitDone 1 n.val (s1.updCore n fun c => { startCore 0 s.time.clk c with st := .stopped, stoppedAt := c.stoppedAt })

/-- A ring is disabled and, where its active set enables it, enabled again (R457). -/
def reinitRing (n : RingId) (s : State) : State := if rgEn (ringBlk s n) then startRing n (stopRing n s) else s

/-- Instances of a function (R468). -/
def reinitCount (func : Nat) : Nat := if func = 1 then 8 else if func = 2 then 32 else 4

/-- The region that a function lies in is isolated. -/
def reinitIsolated (s : State) (func inst : Nat) : Bool :=
  if func = 1 then s.power.isolated.getLsbD 4 else if func = 2 then false else s.power.isolated.getLsbD inst

/-- FUNC_REINIT (Table 18.11). -/
def doFuncReinit (r : Req) (s : State) : Res :=
  let w := wordAt r.payload 0
  let func := wbits w 0 2
  let inst := wbits w 2 5
  if rsvdBad r 0 0x7F || reinitCount func ≤ inst then Res.bad 0 s
  else if reinitIsolated s func inst then Res.rep stBusy 0 [] s
  else
    let s1 := s.addOp r (.funcReinit (BitVec.ofNat 2 func) (BitVec.ofNat 5 inst)) false
    let f : Fe := ⟨inst % 4, by omega⟩
    if func = 0 then Res.later (reinitEngine f s1)
    else if func = 1 then Res.later (reinitCore ⟨inst % 8, by omega⟩ (countL2 s1))
    else if func = 2 then Res.ok [] (reinitRing (ringOf inst) (countL2 s))
    else Res.later (linksReinit f (reinitLinks f s1.time.clk (countL2 s1)))

/-- FUNC_REINIT (R457). -/
def execFuncReinit (r : Req) (s : State) : Host.Outcome State Fault Refusal := ok (runOp 0x0C02 [] 1 1 false doFuncReinit r s)

/-- A core that has not stopped within 1 ms is stopped by force (R457). -/
def forceCore (n : CoreId) (s : State) : State :=
  coreEnded n (s.updCore n fun c => { landAll c with st := .stopped, stopReq := false, pauseReq := false, stoppedAt := s.time.clk })

end Sys2Proof.Machine
end

