-- ==== Sys2Proof/Machine/Taster.lean ====
section
/-! DEFINITION. The Taster (18.6): its runs, their end, and its opcodes. -/

namespace Sys2Proof.Machine

/-! ## TASTER set (Table 18.10) -/

def tsBlk (s : State) : List Word := s.act 0xD0 0
def tsEn (b : List Word) : Bool := bfb b 0 0
def tsGolden (b : List Word) : Bool := bfb b 0 1
/-- INTERVAL of a test in s. -/
def tsInterval (b : List Word) (t : Nat) : Nat := bf b (1 + t) 0 17

/-- Budget of a Taster run in mW (Table 17.2). -/
def tasterMw : Nat := 400

/-- The margin of some region is below a figure in 0.1 %. -/
def marginBelow (s : State) (x : Int) : Bool := s.power.margins.toList.any fun m => decide (m < x)

/-! ## Instances (Table 18.8) -/

/-- Instances of a test. -/
def testCount (t : Nat) : Nat := [66, 8, 48, 4, 4, 4].getD t 0

/-- A spare vat that serves no vat. -/
def freeSpare (s : State) : Option (Fin 2) := 
  let free := fun (x : Spare) => !x.used && !x.perm
  if free s.vat.spares[0] then some 0 else if free s.vat.spares[1] then some 1 else none

/-- A lane is in the data state or L0; lanes 0-23 are the JESD receive lanes, 24-35 the transmit lanes, 36-43 PCIe, 44-47 the peer lanes. -/
def laneUp (s : State) (lane : Nat) : Bool :=
  if lane < 24 then
    let f : Fe := ⟨lane / 6 % 4, by omega⟩
    let r := s.act 0x11 f.val
    ((bf r 0 0 6).testBit (lane % 6) && s.fe[f].links[0] = .data) || ((bf r 0 8 6).testBit (lane % 6) && s.fe[f].links[1] = .data)
  else if lane < 36 then
    let f : Fe := ⟨(lane - 24) / 3 % 4, by omega⟩
    (bf (s.act 0x10 f.val) 0 8 3).testBit ((lane - 24) % 3) && s.fe[f].links[2] = .data
  else if lane < 44 then s.pcie.up
  else s.peer.lanes[(⟨lane % 4, by omega⟩ : Fin 4)].st = .up

/-- An instance may be tested now (Table 18.8, R323, R324). -/
def testable (s : State) (t inst : Nat) : Bool :=
  match t with
  | 0 =>
    if inst < 64 then (freeSpare s).isSome && !s.vat.spares.toList.any fun x => x.used && x.forVat.toNat = inst
    else
      let x := s.vat.spares[(⟨inst % 2, by omega⟩ : Fin 2)]
      !x.used && !x.perm
  | 1 =>
    let c := s.core[(⟨inst % 8, by omega⟩ : CoreId)]
    c.st = .stopped && decide (c.stoppedAt + 10 ^ 12 ≤ s.time.clk) && !s.power.isolated.getLsbD 4
  | 2 => laneUp s inst
  | 3 => runOf (s.act 0x10 inst)
  | 4 => s.tiu[(⟨inst % 4, by omega⟩ : Fin 4)].ph = .idle && !tiuInCal s ⟨inst % 4, by omega⟩
  | _ => !calRuns s

/-- No run starts: one is in progress, a margin is below 25 %, or the instance cannot be tested (R461, Table 18.8). -/
def tasterHeld (s : State) (t inst : Nat) : Bool := s.taster.run.isSome || marginBelow s 250 || !testable s t inst

/-! ## Runs -/

/-- A run starts (R460, R323). -/
def startTaster (t : Fin 6) (inst : Nat) (cmd : Option (BitVec 8 × Word)) (s : State) : State :=
  { s with
    taster := { s.taster with run := some ⟨t, inst, cmd⟩, last := s.taster.last.set t s.time.clk }
    vat := if t = 0 && inst < 64 then { s.vat with rotating := (freeSpare s).map fun k => ⟨BitVec.ofNat 6 inst, k, .mirror⟩ } else s.vat }

/-- TASTER_SCHEDULED_RUN (R460, R461): a test's interval expires. A run that may not start, for want of margin or admission, is counted in
SKIPPED and never queued. -/
def execTasterScheduledRun (test : Fin 6) (inst : Nat) (s : State) : Host.Outcome State Fault Refusal :=
  let b := tsBlk s
  if !(s.life.phase = 3) || !tsEn b || tsInterval b test.val = 0 || s.taster.run.isSome || testCount test.val ≤ inst || 2 ≤ s.power.state.val then ok s
  else
    let s0 := s.goTo (s.taster.last[test] + tsInterval b test.val * 10 ^ 12)
    let s1 := { s0 with taster := { s0.taster with last := s0.taster.last.set test s0.time.clk } }
    let skip := { s1 with taster := { s1.taster with
      skipped := s1.taster.skipped.set test (addSat s1.taster.skipped[test] 1), paused := s1.taster.paused || marginBelow s 250 } }
    if !testable s0 test.val inst then ok s1
    else if marginBelow s 250 || !(s.power.queue.isEmpty && fits s tasterMw) then ok skip
    else ok ((startTaster test inst none (s1.setGrant .taster tasterMw)).raise vecPower)

/-- A vat that fails its march stays mapped to a spare for good (R324); a failing spare is not used again. With no spare left, exhaustion is
reported. -/
def spareVat (inst : Nat) (s : State) : State :=
  let gone := fun (s : State) => if s.vat.spares.toList.all fun x => x.perm then s.raise vecTaster else s
  if 64 ≤ inst then
    gone { s with vat := { s.vat with spares := s.vat.spares.set (inst % 2) { s.vat.spares[(⟨inst % 2, by omega⟩ : Fin 2)] with perm := true } } }
  else match freeSpare s with
    | none => s
    | some k =>
      let v : BitVec 6 := BitVec.ofNat 6 inst
      gone { s with
        vat := { s.vat with spares := s.vat.spares.set k ⟨v, true, true⟩ }
        life := { s.life with spareRec := s.life.spareRec.set k (some v) } }

/-- TASTER_RUN_END (R463): the result is recorded, a failure reported, and a host's run answered. -/
def execTasterRunEnd (pass : Bool) (measure : BitVec 16) (s : State) : Host.Outcome State Fault Refusal :=
  match s.taster.run with
  | none => ok s
  | some run =>
    let t := run.test
    let s1 := ({ s with
      taster := { s.taster with run := none, runs := s.taster.runs.set t (addSat s.taster.runs[t] 1) }
      vat := if t = 0 then { s.vat with rotating := none } else s.vat }).release .taster
    let s2 := if pass then s1 else
      let s3 := ({ s1 with taster := { s1.taster with
        fails := s1.taster.fails.set t (addSat s1.taster.fails[t] 1), failTime := s1.now, failTest := BitVec.ofNat 3 t.val
        failInst := BitVec.ofNat 7 run.inst, failMeasure := measure } }).raise vecTaster
      if t = 0 then spareVat run.inst s3
      else if t = 3 && tsGolden (tsBlk s3) then reinitEngine ⟨run.inst % 4, by omega⟩ s3 else s3
    match s2.opWhere fun k => match k with | .tasterRun _ _ => true | _ => false with
    | some o => if run.cmd.isSome then ok (s2.finish o stOk 0 [if pass then 1 else 0, measure.zeroExtend 32]) else ok s2
    | none => ok s2

/-! ## Opcodes (Table 18.11) -/

/-- TASTER_RUN as a new request or at its grant. -/
def doTasterRun (granted : Bool) (r : Req) (s : State) : Res :=
  let w := wordAt r.payload 0
  let t := wbits w 0 3
  let inst := wbits w 8 8
  if rsvdBad r 0 0xFF07 then Res.bad 0 s
  else if h : t < 6 then
    if testCount t ≤ inst then Res.bad 0 s
    else if tasterHeld s t inst then Res.rep stBusy 0 [] s
    else heavy granted r .taster tasterMw id (fun s =>
      Res.rep stPending 0 [] (startTaster ⟨t, h⟩ inst (some (r.sess, r.seq)) (s.addOp r (.tasterRun ⟨t, by omega⟩ inst) true))) s
  else Res.bad 0 s

/-- TASTER_RUN (R469). -/
def execTasterRun (r : Req) (s : State) : Host.Outcome State Fault Refusal := ok (runOp 0x0C08 [] 1 1 false (doTasterRun false) r s)

/-- TASTER_STATUS (Table 18.13). -/
def doTasterStatus (_ : Req) (s : State) : Res :=
  let b := tsBlk s
  let x := s.taster
  let en := ((List.range 6).map fun t => if tsEn b && tsInterval b t ≠ 0 then 2 ^ t else 0).foldl (· + ·) 0
  Res.ok ([BitVec.ofNat 32 (en + 64 * x.paused.toNat)] ++
      ((List.finRange 6).flatMap fun t => [x.runs[t], x.fails[t], x.skipped[t]]) ++ split64 x.failTime ++
      [BitVec.ofNat 32 (x.failTest.toNat + 8 * x.failInst.toNat + 65536 * x.failMeasure.toNat)])
    { s with taster := { x with runs := Vector.replicate 6 0, fails := Vector.replicate 6 0, skipped := Vector.replicate 6 0 } }

/-- TASTER_STATUS (R468). -/
def execTasterStatus (r : Req) (s : State) : Host.Outcome State Fault Refusal := ok (runOp 0x0C09 [] 0 0 false doTasterStatus r s)

/-- TASTER_ABORT: a queued run leaves the queue, a running one ends with no result. -/
def doTasterAbort (r : Req) (s : State) : Res :=
  let q := wordAt r.payload 0
  let unknown := if s.wasCompleted r.sess q [0x0C08] then Res.rep stCompleted 0 [] s else Res.bad dtUnknown s
  match queuedReq s r.sess q with
  | some x => if x.req.opcode = 0x0C08 then Res.ok [] ((s.unqueue x).answerQ x stAborted 0) else Res.bad dtUnknown s
  | none => match s.findOp r.sess q with
    | some o => (match o.kind with
      | .tasterRun _ _ => Res.ok [] (stopTaster (fun _ => true) s)
      | _ => Res.bad dtUnknown s)
    | none => unknown

/-- TASTER_ABORT (R469). -/
def execTasterAbort (r : Req) (s : State) : Host.Outcome State Fault Refusal := ok (runOp 0x0C0A [] 1 1 false doTasterAbort r s)

end Sys2Proof.Machine
end

