-- ==== Sys2Proof/Machine/Vintage.lean ====
section
/-! DEFINITION. Vintages and device calibration (16): interpolation of trims, boot checks, calibration commands and their opcodes. -/

namespace Sys2Proof.Machine

/-! ## Fields of a trim set (Table 16.1) -/

/-- One trim: word, lowest bit, width. -/
structure Trim where
  w : Nat
  lo : Nat
  width : Nat
  deriving DecidableEq, Repr

/-- Every trim of Table 16.1. -/
def trims : List Trim :=
  (((List.range 41).drop 1).filter fun w => w < 9 || 12 < w).map (fun w => ⟨w, 0, 32⟩) ++
    [9, 10, 11, 12].flatMap fun w => [⟨w, 0, 16⟩, ⟨w, 16, 16⟩]

/-- Read and write a trim of a set's words. -/
def Trim.get (t : Trim) (l : List Word) : Int := bfs l t.w t.lo t.width
def Trim.put (t : Trim) (v : Int) (l : List Word) : List Word :=
  let old := (wordAt l t.w).toNat
  let x := (BitVec.ofInt t.width v).toNat
  l.set t.w (BitVec.ofNat 32 (old - bitsOf old t.lo t.width * 2 ^ t.lo + x * 2 ^ t.lo))

/-- Plausibility limits (Table 16.3); 1.6 and 2.6 ps in 2^-56 s, 200 ps in 2^-40 s. -/
def Trim.plausible (t : Trim) (v : Int) : Bool :=
  if t.w < 5 then decide (16 * 2 ^ 56 ≤ v * 10 ^ 13) && decide (v * 10 ^ 13 ≤ 26 * 2 ^ 56)
  else if t.w < 9 then decide (v.natAbs * 10 ^ 12 ≤ 200 * 2 ^ 40)
  else if t.w < 13 then (if t.lo = 0 then decide (v.natAbs ≤ 512) else decide (v.natAbs * 50 ≤ 2 ^ 20))
  else if t.w < 17 then decide (v.natAbs * 20 ≤ 2 ^ 24)
  else if t.w < 33 then decide (v.natAbs ≤ 10000)
  else decide (v.natAbs ≤ 2000)

/-- The sensor a trim is interpolated at (Table 16.2). -/
def Trim.sensor (t : Trim) : Nat :=
  if t.w < 5 then 7 + t.w else if t.w < 9 then 3 + t.w else if t.w < 13 then 12 else if t.w < 17 then 13
  else if t.w < 33 then t.w - 17 else if t.w < 37 then t.w - 33 else 4

/-! ## Interpolation (R402, R410) -/

/-- The value at θ of a trim given at rising temperatures. -/
def interpAt : List (Int × Int) → Int → Int
  | [], _ => 0
  | [(_, v)], _ => v
  | (t1, v1) :: (t2, v2) :: r, x =>
    if x ≤ t1 then v1
    else if x ≤ t2 then v1 + roundEven ((v2 - v1) * (x - t1)) (t2 - t1).toNat
    else interpAt ((t2, v2) :: r) x

/-- The valid sets of a record, with their temperatures. -/
def validSets (l : List TrimSet) : List (Int × List Word) := (setPoints.zip l).filterMap fun p => if p.2.valid then some (p.1, p.2.w) else none

/-- The factory sets, or the nominal ones where R408 holds. -/
def factorySets (v : Vint) : List (Int × List Word) :=
  if v.defaults then setPoints.map fun t => (t, (nominalSet t).w) else validSets v.factory.sets

/-- The sets in use under a VINTAGE set (R410). -/
def setsInUse (v : Vint) (blk : List Word) : List (Int × List Word) :=
  if bfb blk 0 0 && !(validSets v.work).isEmpty then validSets v.work else factorySets v

/-- A trim from sets at θ; with INTERP_EN = 0 from FIX_SET alone. -/
def trimAt (sets : List (Int × List Word)) (blk : List Word) (t : Trim) (x : Int) : Int :=
  let x1 := if bfb blk 0 1 then x else setPoints.getD (bf blk 0 2 3) 0
  interpAt (sets.map fun p => (p.1, t.get p.2)) x1

/-- The median of an odd number of readings. -/
def median (l : List Int) : Int := ((l.mergeSort fun a b => decide (a ≤ b))[l.length / 2]?).getD 0

/-- The corrected readings, what the blocks use, and which sensors are faulty (R401, R403). -/
def readSensors (sets : List (Int × List Word)) (blk : List Word) (raw : Vector Int 16) : Vector Int 16 × Vector Int 16 × BitVec 16 :=
  let cor : Vector Int 16 := Vector.ofFn fun (i : Fin 16) => raw[i] + trimAt sets blk ⟨17 + i.val, 0, 32⟩ raw[i]
  let med := fun (i : Fin 16) => median (((List.finRange 16).filter fun j => j ≠ i).map fun j => cor[j])
  let bad := fun (i : Fin 16) => decide (cor[i] < -55000) || decide (150000 < cor[i]) || decide (20000 < (cor[i] - med i).natAbs)
  (cor, Vector.ofFn fun i => if bad i then med i else cor[i],
    BitVec.ofNat 16 (((List.finRange 16).map fun i => if bad i then 2 ^ i.val else 0).foldl (· + ·) 0))

/-- Pins of TRIG_OUT that no engine claims (R117). -/
def freePins (s : State) : List Nat := (List.range 4).filter fun n => (List.range 4).all fun f => !(bf (s.act 0x10 f) 0 12 4).testBit n

/-- VINTAGE_RECOMPUTE (R403, R404, R415): the VINTAGE set applies, the sensors are read, every trim is recomputed, and those whose block is at its
application point take effect. -/
def execVintageRecompute (raw : Vector Int 16) (s : State) : Host.Outcome State Fault Refusal :=
  let due := s.vint.last + bf (s.act 0xB0 0) 1 0 10 * 10 ^ 9
  let s0 := (s.goTo due).localPoint [bid 0xB0 0]
  let blk := s0.act 0xB0 0
  let sets := setsInUse s0.vint blk
  let (temp, used, bad) := readSensors sets blk raw
  let new := trims.foldl (fun l t =>
    t.put (trimAt sets blk t (if 17 ≤ t.w && t.w < 33 then raw.toList.getD t.sensor 0 else used.toList.getD t.sensor 0)) l) (List.replicate 48 0)
  let s1 := { s0 with vint := { s0.vint with raw := raw, temp := temp, used := used, faulty := bad, trims := new, last := s0.time.clk } }
  let s2 := s1.trimPoint ((List.range 16).map (17 + ·) ++ (freePins s1).map (37 + ·) ++ (if s1.aux.cur.isNone then auxTrims else []) ++
    (((List.finRange 4).filter fun c => s1.tiu[c].ph = .idle || s1.tiu[c].ph = .closed).flatMap tiuTrims))
  ok (if bad &&& ~~~s0.vint.faulty ≠ 0 then s2.raise vecFault else s2)

/-! ## Boot (R406-R409) -/

/-- A set passes when its valid bit is set and every trim is plausible (R407). -/
def checkSet (x : TrimSet) : TrimSet := { x with valid := x.valid && trims.all fun t => t.plausible (t.get x.w) }

/-- The field record that is loaded: the matching copy of the higher store count (R407). -/
def bestField (v : Vint) : Option VintRec :=
  match (v.fld.toList.filterMap id).filter (·.crcOk) with
  | [] => none
  | a :: r => some (r.foldl (fun m x => if m.count < x.count then x else m) a)

/-- What a reset makes of the Vintages and the aux factors; `restore`: SYSCAL_RESTORE of the set in force at the reset (R407-R409). -/
def bootVint (restore : Bool) (v : Vint) : Vint × AuxFact × Vector (Option (Nat × Nat)) 4 :=
  let fac := { v.factory with sets := v.factory.sets.map checkSet }
  let dflt := !fac.crcOk || (validSets fac.sets).isEmpty
  let v1 : Vint := { v with factory := fac, defaults := dflt, written := false, faulty := 0 }
  let unity : AuxFact × Vector (Option (Nat × Nat)) 4 := ({}, Vector.replicate 4 none)
  match bestField v with
  | some f => ({ v1 with work := f.sets.map checkSet, present := true }, if restore then f.syscal.getD unity else unity)
  | none => ({ v1 with work := if dflt then setPoints.map nominalSet else fac.sets, present := false }, unity)

/-! ## Calibration commands (16.4) -/

/-- θ of a trim: the reading its block uses. -/
def thetaOf (s : State) (t : Trim) : Int := if 17 ≤ t.w && t.w < 33 then s.vint.raw.toList.getD t.sensor 0 else s.vint.used.toList.getD t.sensor 0

/-- The set point within 5 °C of θ (MODE 1). -/
def pointAt (x : Int) : Option Nat := setPoints.findIdx? fun t => decide ((x - t).natAbs ≤ 5000)

/-- Write a measured value into the working field sets: a shift of all five, or set k alone (16.4). -/
def writeTrim (mode : Bool) (t : Trim) (x v : Int) (work : List TrimSet) : List TrimSet :=
  if mode then match pointAt x with
    | some k => (List.range work.length).zipWith (fun i y => if i = k then { y with w := t.put v y.w } else y) work
    | none => work
  else
    let d := v - interpAt ((validSets work).map fun p => (p.1, t.get p.2)) x
    work.map fun y => { y with w := t.put (t.get y.w + d) y.w }

/-- Write several measured values, or none where one is implausible (R412). -/
def writeTrims (mode : Bool) (s : State) (l : List (Trim × Int × Int)) : Option State :=
  if l.all fun p => p.1.plausible p.2.2 then
    some { s with vint := { s.vint with work := l.foldl (fun w p => writeTrim mode p.1 p.2.1 p.2.2 w) s.vint.work, written := true } }
  else none

/-- Which set a command writes: 7 for a shift (Table 16.6). -/
def setNo (mode : Bool) (x : Int) : Nat := if mode then (pointAt x).getD 7 else 7

/-- Channels of CAL_TIU. -/
def calChans (w0 : Word) : List (Fin 4) := (List.finRange 4).filter fun c => w0.getLsbD c.val

/-- CAL_TIU (R411, R412). -/
def doCalTiu (r : Req) (s : State) : Res :=
  let w0 := wordAt r.payload 0
  let cs := calChans w0
  if rsvdBad r 0 0x1F || cs.isEmpty then Res.bad 0 s
  else if w0.getLsbD 4 && cs.any fun c => (pointAt (s.vint.used.toList.getD (8 + c.val) 0)).isNone then Res.bad 0xFFA0 s
  else if calRuns s || cs.any fun c => s.tiu[c].ph ≠ .idle then Res.rep stBusy 0 [] s
  else if refGone s then Res.rep stRefMissing 0 [] s
  else Res.rep stPending 0 [] ((endTiuCheck s (w0.toNat % 16)).addOp r (.devCal 0x0A01 w0 0) true)

/-- CAL_TIU (R411). -/
def execCalTiu (r : Req) (s : State) : Host.Outcome State Fault Refusal := ok (runOp 0x0A01 [] 1 1 false doCalTiu r s)

/-- The sensor whose temperature a CAL_AUX step is made at. -/
def calAuxTheta (s : State) (w0 : Word) : Int := if wbits w0 0 2 = 2 then s.vint.used[13] else s.vint.used[12]

/-- CAL_AUX (R411): the windows and conditions of AUX_SYSCAL. -/
def doCalAux (r : Req) (s : State) : Res :=
  let w0 := wordAt r.payload 0
  match syscalBad r with
  | some d => Res.bad d s
  | none =>
    if w0.getLsbD 8 && (pointAt (calAuxTheta s w0)).isNone then Res.bad 0xFFA0 s
    else if auxBusy s then Res.rep stBusy 0 [] s
    else startAuxCal r (.devCal 0x0A02 w0 (wordAt r.payload 1)) s

/-- CAL_AUX (R411). -/
def execCalAux (r : Req) (s : State) : Host.Outcome State Fault Refusal := ok (runOp 0x0A02 [] 2 2 false doCalAux r s)

/-- CAL_DIE (R411, R412). -/
def doCalDie (r : Req) (s : State) : Res :=
  let t := (wordAt r.payload 0).toInt
  if t < -40000 || 125000 < t then Res.bad 0 s
  else if rsvdBad r 1 1 then Res.bad 1 s
  else if (wordAt r.payload 1).getLsbD 0 && (pointAt t).isNone then Res.bad 0xFFA0 s
  else if calRuns s || (List.finRange 4).any (fun f => runOf (s.act 0x10 f.val)) ||
      s.core.toList.any (fun c => c.st = .running || c.st = .waiting) then Res.rep stBusy 0 [] s
  else Res.rep stPending 0 [] (s.addOp r (.devCal 0x0A03 (wordAt r.payload 0) (wordAt r.payload 1)) true)

/-- CAL_DIE (R411). -/
def execCalDie (r : Req) (s : State) : Host.Outcome State Fault Refusal := ok (runOp 0x0A03 [] 2 2 false doCalDie r s)

/-- The relative current correction of a measured current, 2^-24; where the source is off the spec states none (a free value). -/
def excCorr (s : State) (m nom : Nat) : Int :=
  if nom = 0 then (Config.freeWord s.free 411).toInt else roundEven (((m : Int) - nom) * 2 ^ 24) nom

/-- What a calibration measured, as trims with θ and value. -/
def calTrims (s : State) (op : BitVec 16) (w0 : Word) (m : CalMeasure) : List (Trim × Int × Int) :=
  if op = 0x0A01 then (calChans w0).flatMap fun c =>
    let x := s.vint.used.toList.getD (8 + c.val) 0
    [(⟨1 + c.val, 0, 32⟩, x, m.tiuLsb[c]), (⟨5 + c.val, 0, 32⟩, x, m.tiuOfs[c])]
  else if op = 0x0A02 then
    let x := calAuxTheta s w0
    match wbits w0 0 2 with
    | 0 => (gainsOf (wbits w0 2 4)).map fun g => (⟨9 + g.val, 0, 16⟩, x, m.aux.ofs[g])
    | 1 => (gainsOf (wbits w0 2 4)).map fun g => (⟨9 + g.val, 16, 16⟩, x, m.aux.gain[g])
    | _ => [(⟨13 + wbits w0 6 2, 0, 32⟩, x, excCorr s m.aux.currentNa (sqExc (seqBlk s) (wbits w0 6 2) * 1000))]
  else (List.finRange 16).map fun i => (⟨17 + i.val, 0, 32⟩, m.die[i], w0.toInt - m.die[i])

/-- MODE of a calibration command. -/
def calMode (op : BitVec 16) (w0 w1 : Word) : Bool := if op = 0x0A01 then w0.getLsbD 4 else if op = 0x0A02 then w0.getLsbD 8 else w1.getLsbD 0

/-- Result words of a calibration (Table 16.6). -/
def calWords (s : State) (op : BitVec 16) (w0 : Word) (mode : Bool) (m : CalMeasure) : List Word :=
  if op = 0x0A01 then (calChans w0).flatMap fun c =>
    let x := s.vint.used.toList.getD (8 + c.val) 0
    [Word.ofInt m.tiuLsb[c], Word.ofInt m.tiuOfs[c], Word.ofInt x, BitVec.ofNat 32 (setNo mode x)]
  else if op = 0x0A02 then stepWords m.aux w0 ++ [Word.ofInt (calAuxTheta s w0)]
  else (List.finRange 16).map fun i => Word.ofInt (w0.toInt - m.die[i])

/-- CAL_COMPLETE (R411-R413): the measured values go into the working field sets, which is the completion point. In MODE 1 a CAL_DIE writes set k of T_REF. -/
def execCalComplete (m : CalMeasure) (s : State) : Host.Outcome State Fault Refusal :=
  match s.opWhere fun k => match k with | .devCal _ _ _ => true | _ => false with
  | none => ok s
  | some o => match o.kind with
    | .devCal op w0 w1 =>
      let mode := calMode op w0 w1
      let l := (calTrims s op w0 m).map fun p => if op = 0x0A03 && mode then (p.1, w0.toInt, p.2.2) else p
      match writeTrims mode { s with free := s.free + 1 } l with
      | none => ok (refreshIntlk ((s.finish o stHwFault 0 []).raise vecFault))
      | some s1 =>
        let s2 := if op = 0x0A02 then s1.updAux fun a => { a with self := {}, selfValid := false, sys := {}, sysCur := Vector.replicate 4 none } else s1
        ok (refreshIntlk (s2.finish o stOk 0 (calWords s op w0 mode m)))
    | _ => ok s

/-- CAL_DIE_TIMEOUT (R412): the sensors have not settled within 10 s. -/
def execCalDieTimeout (s : State) : Host.Outcome State Fault Refusal :=
  match s.opWhere fun k => match k with | .devCal op _ _ => op = 0x0A03 | _ => false with
  | none => ok s
  | some o => ok ((s.goTo (o.start + 10 ^ 13)).finish o stBadParam 0xFFA1 [])

/-! ## Store, status, read (R414, R416) -/

/-- VINTAGE_STORE (R414). -/
def doVintageStore (r : Req) (s : State) : Res :=
  if rsvdBad r 0 1 then Res.bad 0 s
  else if calRuns s then Res.rep stBusy 0 [] s
  else Res.rep stPending 0 [] (s.addOp r (.vintageStore ((wordAt r.payload 0).getLsbD 0)) true)

/-- VINTAGE_STORE (R414). -/
def execVintageStore (r : Req) (s : State) : Host.Outcome State Fault Refusal := ok (runOp 0x0A04 [] 1 1 false doVintageStore r s)

/-- The copy that VINTAGE_STORE writes: the older one. -/
def olderCopy (v : Vint) : Fin 2 :=
  match v.fld[0], v.fld[1] with
  | none, _ => 0
  | _, none => 1
  | some a, some b => if !a.crcOk then 0 else if !b.crcOk then 1 else if b.count < a.count then 1 else 0

/-- Store count of the newest copy, 0 without one. -/
def storeCount (v : Vint) : Nat := match bestField v with | some f => f.count | none => 0

/-- VINTAGE_STORE_COMPLETE (R414): the verified write of the store count, or a flash fault that leaves the previous copy. -/
def execVintageStoreComplete (verified : Bool) (s : State) : Host.Outcome State Fault Refusal :=
  match s.opWhere fun k => match k with | .vintageStore _ => true | _ => false with
  | none => ok s
  | some o => match o.kind with
    | .vintageStore sys =>
      if verified then
        let n := storeCount s.vint + 1
        let f : VintRec := ⟨s.vint.work, n, s.now, if sys then some (s.aux.sys, s.aux.sysCur) else none, true⟩
        let s1 := { s with vint := { s.vint with fld := s.vint.fld.set (olderCopy s.vint) (some f), present := true } }
        ok (s1.finish o stOk 0 [BitVec.ofNat 32 n])
      else ok ((s.finish o stHwFault 0xFFA3 []).raise vecFault)
    | _ => ok s

/-- Valid bits of five sets. -/
def validBits (l : List TrimSet) : Nat := ((List.range 5).map fun i => if (l.getD i ⟨[], false⟩).valid then 2 ^ i else 0).foldl (· + ·) 0

/-- VINTAGE_STATUS (Table 16.6). -/
def doVintageStatus (_ : Req) (s : State) : Res :=
  let v := s.vint
  let f := bestField v
  Res.ok ([BitVec.ofNat 32 ((if v.defaults then 0 else validBits v.factory.sets) + 32 * validBits v.work + 1024 * v.present.toNat +
      2048 * v.defaults.toNat + 4096 * (match f with | some x => x.syscal.isSome | none => false).toNat), v.faulty.zeroExtend 32] ++
    v.temp.toList.map Word.ofInt ++ [BitVec.ofNat 32 (storeCount v)] ++ split64 (match f with | some x => x.time | none => 0)) s

/-- VINTAGE_STATUS (R416). -/
def execVintageStatus (r : Req) (s : State) : Host.Outcome State Fault Refusal := ok (runOp 0x0A05 [] 0 0 false doVintageStatus r s)

/-- VINTAGE_READ (R416). -/
def doVintageRead (r : Req) (s : State) : Res :=
  let w0 := wordAt r.payload 0
  let k := wbits w0 2 3
  let sel := wbits w0 0 2
  if rsvdBad r 0 0x1F || sel = 3 || (sel ≠ 2 && 4 < k) then Res.bad 0 s
  else if sel = 2 then Res.ok (0 :: s.vint.force.drop 1) s
  else if sel = 1 then Res.ok (s.vint.work.getD k ⟨[], false⟩).w s
  else Res.ok (s.vint.factory.sets.getD k ⟨[], false⟩).w s

/-- VINTAGE_READ (R416). -/
def execVintageRead (r : Req) (s : State) : Host.Outcome State Fault Refusal := ok (runOp 0x0A06 [] 1 1 false doVintageRead r s)

/-- CAL_ABORT (R416). -/
def execCalAbort (r : Req) (s : State) : Host.Outcome State Fault Refusal :=
  ok (runOp 0x0A07 [] 1 1 false
    (abortOp [0x0A01, 0x0A02, 0x0A03] (fun k => match k with | .devCal _ _ _ => true | _ => false) fun _ s => refreshIntlk s) r s)

end Sys2Proof.Machine
end

