-- ==== Sys2Proof/Machine/Lifecycle.lean ====
section
/-! DEFINITION. Start-up, resets, the recovery ladder and firmware change (18), the reset pins and power (19.3, 19.4, R493). -/

namespace Sys2Proof.Machine

/-! ## What a reset leaves (R453) -/

/-- Every output the device drives goes to its reset level: ALARM, INTLK and TRIG_OUT low, the alert and wake pins released (R453, R476). -/
def pinsLow (s : State) : State :=
  let s1 := s.emits (((List.finRange 16).filter fun p => s.zones.pins.getLsbD p.val).map fun p => .pin (.alarm p) false)
  let s2 := s1.emits (((List.finRange 4).filter fun p => s.aux.pins.getLsbD p.val).map fun p => .pin (.intlk p) false)
  let high := fun (n : Nat) => !pinsHeld s && (List.range 4).any fun f => pinIdle (s.act 0x10 f) n
  let s3 := s2.emits (((List.range 4).filter high).map fun n => .trig n false s.time.clk)
  let s4 := if s.proto.smb.isEmpty then s3 else s3.pin .smbAlertN true
  if s.pcie.wakeN then s4.pin .pcieWakeN true else s4

/-- What no reset but a loss of power touches: flash and fuses. -/
def flashLife (l : Life) : Life :=
  { ({} : Life) with slots := l.slots, fuseRollback := l.fuseRollback, keys := l.keys, revoked := l.revoked, spareRec := l.spareRec }

/-- What survives every reset of a supplied device. -/
def keptLife (s : State) : Life :=
  let l := s.life
  { flashLife l with
    powered := l.powered, inReset := l.inReset, straps := l.straps, before := l.before + s.time.clk, l3Times := l.l3Times
    pwrCycle := l.pwrCycle, thermtrip := l.thermtrip, cause := l.cause, restore := l.restore }

/-- Everything at its reset value but flash, fuses, the strap samples and the level of PERST_N; device time restarts from 0 (R77, R453). The JESD
lanes of a tripped device stay stopped (R493). -/
def coldState (s : State) : State :=
  { ({} : State) with
    life := keptLife s
    vint := { ({} : Vint) with factory := s.vint.factory, fld := s.vint.fld }
    pcie := { ({} : Pcie) with perst := s.pcie.perst }
    fe := if s.life.thermtrip then Vector.replicate 4 { ({} : FeSt) with links := Vector.replicate 3 .off } else Vector.replicate 4 {}
    free := s.free, out := s.out, pending := s.pending }

/-! ## Boot (R446-R449) -/

/-- Bytes of a firmware slot (Table 18.1). -/
def slotBytes : Nat := 0x800000

/-- A slot as boot ROM step 1 leaves it (R446). -/
def triedFails (x : FlashSlot) : FlashSlot := if x.st = .trialTried then { x with st := .failed } else x

/-- Slots in VALID or TRIAL, the higher sequence number first. -/
def bootOrder (slots : Vector FlashSlot 2) : List (Fin 2) :=
  let ok1 := fun (k : Fin 2) => slots[k].st = .valid || slots[k].st = .trial
  (if slots[(0 : Fin 2)].seqNo < slots[(1 : Fin 2)].seqNo then [1, 0] else [0, 1]).filter ok1

/-- Steps 2-4 of R446 over the slots still to try. -/
def tryBoot (mfg : Bool) : List (Fin 2) → Bool → Life → Life
  | [], _, l => l
  | k :: r, first, l =>
    let x := l.slots[k]
    match validImage l mfg x.data slotBytes with
    | some i =>
      { l with
        slots := l.slots.set k (if x.st = .trial then { x with st := .trialTried } else x)
        running := some (i, ⟨k.val, by omega⟩), fallback := !first }
    | none => tryBoot mfg r false { l with slots := l.slots.set k { x with st := .failed } }

/-- Boot from flash (R446). -/
def flashBoot (mfg : Bool) (l : Life) : Life :=
  let slots := l.slots.map triedFails
  tryBoot mfg (bootOrder slots) true { l with slots := slots }

/-- The boot ROM (R324, R407, R446, R448): the sparing map and Vintage records are taken over, then an image is chosen, or the host waited for, or
the device stops in PHASE 5. -/
def bootRom (s : State) : State :=
  if s.life.straps.testMode then s
  else if s.life.pwrCycle then { s with life := { s.life with phase := 5 } }
  else
    let sel := s.life.straps.bootSel
    let mfg := sel = 3
    let rec_ : Vector (Option (BitVec 6)) 2 := if mfg then Vector.replicate 2 none else s.life.spareRec
    let v := bootVint s.life.restore s.vint
    let l1 := { s.life with spareRec := rec_, vintDefaults := v.1.defaults, sparesGone := rec_.toList.all Option.isSome, restore := false }
    let l2 := if sel = 1 then l1 else flashBoot mfg l1
    let wait := l2.running.isNone && sel ≠ 0
    { s with
      life := { l2 with phase := if l2.running.isNone && sel = 0 then 5 else 1, hostWait := wait }
      vint := v.1, aux := { s.aux with sys := v.2.1, sysCur := v.2.2 }
      vat := { s.vat with spares := rec_.map fun (x : Option (BitVec 6)) => match x with | some n => ⟨n, true, true⟩ | none => {} } }

/-- The PCIe link trains after a reset where PERST_N is released (R478, R493). -/
def linkAfterReset (s : State) : State :=
  if s.pcie.perst || s.life.straps.testMode || s.life.thermtrip then s else pcieUp s

/-- SYSCAL_RESTORE of the active VINTAGE set. -/
def syscalRestore (s : State) : Bool := bfb (s.act 0xB0 0) 0 5

/-- POWER_ON (R481): the supplies have risen and RESET_N is low; the straps are sampled. -/
def execPowerOn (st : Straps) (s : State) : Host.Outcome State Fault Refusal :=
  if s.life.powered then ok s
  else
    let s1 := coldState { s with life := { s.life with 
      powered := true, inReset := true, straps := st, cause := 0, restore := false, before := 0, l3Times := []
      pwrCycle := false, thermtrip := false } }
    ok { s1 with life := { s1.life with before := 0 } }

/-- RESET_N_ASSERT (R453, R437). -/
def execResetNAssert (s : State) : Host.Outcome State Fault Refusal :=
  if s.life.powered && !s.life.inReset then
    let s1 := coldState (pinsLow s)
    ok { s1 with life := { s1.life with inReset := true, cause := 1, restore := syscalRestore s } }
  else ok s

/-- RESET_N_RELEASE (R448, R450). TEST_MODE counts as sampled at power-up (R477). -/
def execResetNRelease (st : Straps) (s : State) : Host.Outcome State Fault Refusal :=
  if s.life.powered && s.life.inReset then
    let s1 := coldState s
    let s2 := { s1 with life := { s1.life with
      inReset := false, straps := { st with testMode := s.life.straps.testMode } } }
    ok (linkAfterReset (bootRom s2))
  else ok s

/-! ## Start-up (R450, R451) -/

/-- Densities that the device accepts: equal, and 2, 4, 8 or 16 GiB (R325). -/
def densityOk (d : Vector Nat 4) : Bool := [2048, 4096, 8192, 16384].contains d[0] && d.toList.all fun x => x = d[0]

/-- The image's POWER set where it is a block whose every field is in range, else the defaults. -/
def powerSetOf (l : List Word) : List Word :=
  if l.length = 16 && (firstBad fldPower l 0 16).isNone then l else dfltBlock (bid 0xC0 0)

/-- FIRMWARE_START (R450, R419, R325, R451): firmware runs, PHASE 2, or PHASE 5 on a Cellar fault. -/
def execFirmwareStart (e : StartEnv) (s : State) : Host.Outcome State Fault Refusal :=
  if s.life.phase = 1 && !s.life.hostWait && s.life.running.isSome then
    let bad := !densityOk e.densityMib || e.trainFailed
    let p := powerSetOf e.powerSet
    let s1 := (s.setShad (bid 0xC0 0) p).setAct (bid 0xC0 0) p
    ok { s1 with
      life := { s1.life with phase := if bad then 5 else 2, cellarFault := bad }
      pcie := { s1.pcie with busStopped := false }
      cellar := { s1.cellar with ch := (s1.cellar.ch.zip e.densityMib).map fun (x : CelCh × Nat) => { x.1 with densityMib := x.2 } } }
  else ok s

/-- The Cellar as training leaves it (R339): every set point from power-up; after a reset that kept it, FSP0 where its values are gone. -/
def trainStart (s : State) : State :=
  let s1 := { s with cellar := { s.cellar with fsp := 0, selfRefresh := false } }
  (List.finRange 4).foldl (fun s c =>
    if s.life.kept then (if s.cellar.ch[c].trained.getLsbD 0 then s else trainPoint c 0 s)
    else (List.finRange 3).foldl (fun s f => trainPoint c f s) s) s1

/-- The factors of the start-up self-calibration: measured, so free, within ±512 of 1/16 LSB and ±2^14 of 2^-20. -/
def freeFact (seed : Nat) : AuxFact :=
  ⟨Vector.ofFn fun (g : Fin 4) => ((Config.freeWord seed (450 + g.val)).extractLsb' 0 10).toInt,
    Vector.ofFn fun (g : Fin 4) => ((Config.freeWord seed (454 + g.val)).extractLsb' 0 15).toInt⟩

/-- READY_REACHED (R450-R452). -/
def execReadyReached (selfcalFailed : Bool) (s : State) : Host.Outcome State Fault Refusal :=
  if s.life.phase = 2 then
    let s1 := trainStart s
    let fault := s.life.vintDefaults || s.life.sparesGone || selfcalFailed
    let s2 := { s1 with
      free := s1.free + 1
      life := { s1.life with
        phase := 3, hwFault := fault, selfcalFailed := selfcalFailed, readyUs := satWord (s1.time.clk / 10 ^ 6), readyTime := s1.now
        l3Since := none, kept := false }
      power := { s1.power with idleSince := some s1.time.clk }
      aux := if selfcalFailed then s1.aux else { s1.aux with self := freeFact s1.free, selfValid := true, selfTime := s1.now } }
    ok (if fault then s2.raise vecFault else s2)
  else ok s

/-- L3_RECENT: level-3 resets in the last 10 min (Table 18.5). -/
def l3Recent (s : State) : Nat :=
  (s.life.l3Times.filter fun t => decide (s.life.before + s.time.clk ≤ t + 6 * 10 ^ 14)).length

/-- LC_STATUS (Table 18.5). -/
def doLcStatus (_ : Req) (s : State) : Res :=
  let l := s.life
  let (i, src) := l.running.getD (⟨0, 0, 0, false, 0, 0⟩, 3)
  let bad := fun (k : Fin 2) => src.val ≠ k.val && (l.slots[k].st = .failed || l.slots[k].st = .empty)
  let trial := 
    match src.val with
    | 0 => decide (l.slots[(0 : Fin 2)].st = SlotState.trialTried)
    | 1 => decide (l.slots[(1 : Fin 2)].st = SlotState.trialTried)
    | _ => false
  Res.ok ([BitVec.ofNat 32 (src.val + 4 * l.cause.toNat + 64 * l.fallback.toNat + 128 * trial.toNat + 256 * l.hwFault.toNat +
        512 * (decide (l.straps.bootSel = 3)).toNat), i.version,
      BitVec.ofNat 32 (l.fuseRollback.toNat + 64 * i.rollback.toNat + 4096 * i.keyIndex.toNat),
      BitVec.ofNat 32 (l.cellarFault.toNat + 2 * l.vintDefaults.toNat + 4 * l.sparesGone.toNat + 8 * l.selfcalFailed.toNat +
        16 * (bad 0 || bad 1).toNat), l.readyUs, BitVec.ofNat 32 (min 65535 (l3Recent s) + 65536 * l.l2Count.toNat)] ++ split64 l.readyTime) s

/-- LC_STATUS (R452). -/
def execLcStatus (r : Req) (s : State) : Host.Outcome State Fault Refusal := ok (runOp 0x0C01 [] 0 0 false doLcStatus r s)

/-! ## Level 3 and level 4 (R454-R456, R458, R459) -/

/-- The SYS set: HB_TIMEOUT ms, HB_ACTION, KEEP_CELLAR, AUTO_L4, L3_LIMIT. -/
def syBlk (s : State) : List Word := s.act 0x01 0
def syTimeout (b : List Word) : Nat := bf b 0 0 16
def syAction (b : List Word) : Nat := bf b 0 16 2
def syKeep (b : List Word) : Bool := bfb b 0 18
def syAuto (b : List Word) : Bool := bfb b 0 19
def syLimit (b : List Word) : Nat := bf b 0 20 4

/-- A level-3 reset is announced: it begins 1 ms later, and merges with one already pending (R454, R458). -/
def requestL3 (cause : Nat) (keep : Bool) (s : State) : State :=
  if s.life.pendReset.isSome then s
  else { s with life := { s.life with pendReset := some ⟨s.time.clk + 10 ^ 9, keep, BitVec.ofNat 4 cause⟩ } }

/-- PWR_CYCLE_REQ_N is driven low and the device stays in PHASE 5 (R456). -/
def requestL4 (s : State) : State :=
  let s1 := { s with life := { s.life with pwrCycle := true, phase := 5, pendCycle := none } }
  if s.life.pwrCycle then s1 else s1.pin .pwrCycleReqN false

/-- Escalation beyond level 3 (R456). -/
def escalate (auto : Bool) (s : State) : State :=
  if auto then requestL4 s else { s with life := { s.life with phase := 5, l3Since := none } }

/-- A completed capture as a reset that keeps the Cellar leaves it (R260). -/
def keptCapture (h : HarvSt) : HarvSt :=
  if captureHeld h then { h with st := .held, inputs := [], inbox := [], sent := 0, avg := none } else {}

/-- Trained values of a channel at rates that the default CELLAR set has too (R339, R340). -/
def keptChannel (s : State) (c : Fin 4) : CelCh :=
  let a := s.act 0x70 c.val
  let d := dfltBlock (bid 0x70 c.val)
  let m := (List.range 3).foldl (fun m i => if bf a (1 + i) 0 14 = bf d (1 + i) 0 14 then m + 2 ^ i else m) 0
  { s.cellar.ch[c] with trained := s.cellar.ch[c].trained &&& BitVec.ofNat 3 m, wq := [], refreshed := 0 }

/-- What a warm reset leaves (Table 18.6). -/
def warmState (keep : Bool) (s : State) : State :=
  let c := coldState s
  { c with
    pcie := { s.pcie with busStopped := true, irqSum := 0, scratch := 0, wakeN := false }
    harv := if keep then s.harv.map keptCapture else c.harv
    cellar := if keep then
      { c.cellar with
        mem := s.cellar.mem, bad := s.cellar.bad, ch := Vector.ofFn (keptChannel s), selfRefresh := true
        areas := s.cellar.areas.filter fun a => match a.kind with
          | .harvest u => !a.pending && captureHeld s.harv[u] && s.harv[u].base = a.baseMib * 2 ^ 20
          | _ => false }
      else c.cellar }

/-- WARM_RESET (R454, R456): the announced reset begins; a level-3 reset beyond L3_LIMIT within 10 min escalates instead. -/
def execWarmReset (s0 : State) : Host.Outcome State Fault Refusal :=
  match s0.life.pendReset with
  | none => ok s0
  | some p =>
    let s := s0.goTo p.due
    let b := syBlk s
    let n := s.life.before + s.time.clk
    let s1 := { s with life := { s.life with pendReset := none, l3Times := (n :: s.life.l3Times).take 256 } }
    if syLimit b < l3Recent s1 then ok (escalate (syAuto b) s1)
    else
      let s2 := warmState p.keep (pinsLow s1)
      ok (bootRom { s2 with life := { s2.life with
        cause := p.cause, kept := p.keep, l3Since := some 0, autoL4 := syAuto b, restore := syscalRestore s } })

/-- L3_NOT_READY (R456): a level-3 reset has not reached READY within 2 s. -/
def execL3NotReady (s : State) : Host.Outcome State Fault Refusal :=
  match s.life.l3Since with
  | some t => if s.life.phase.val < 3 then ok (escalate s.life.autoL4 (s.goTo (t + 2 * 10 ^ 12))) else ok s
  | none => ok s

/-- DEV_RESET (R454). -/
def doDevReset (r : Req) (s : State) : Res :=
  if rsvdBad r 0 1 then Res.bad 0 s else Res.ok [] (requestL3 2 ((wordAt r.payload 0).getLsbD 0) s)

/-- DEV_RESET (R454). -/
def execDevReset (r : Req) (s : State) : Host.Outcome State Fault Refusal := ok (runOp 0x0C03 [] 1 1 false doDevReset r s)

/-- POWER_CYCLE_REQ (R468): the pin falls 1 ms after the reply. -/
def doPowerCycleReq (_ : Req) (s : State) : Res :=
  Res.ok [] { s with life := { s.life with pendCycle := some (s.life.pendCycle.getD (s.time.clk + 10 ^ 9)) } }

/-- POWER_CYCLE_REQ (R468). -/
def execPowerCycleReq (r : Req) (s : State) : Host.Outcome State Fault Refusal := ok (runOp 0x0C04 [] 0 0 false doPowerCycleReq r s)

/-- A power-cycle request whose millisecond is over. -/
def cycleDue (s : State) : State :=
  match s.life.pendCycle with
  | some t => if t ≤ s.time.clk then requestL4 s else s
  | none => s

/-- HEARTBEAT_TIMEOUT (R459). -/
def execHeartbeatTimeout (s0 : State) : Host.Outcome State Fault Refusal :=
  match s0.life.heartbeat with
  | none => ok s0
  | some t =>
    let b := syBlk s0
    if syTimeout b = 0 || s0.life.pendReset.isSome then ok s0
    else
      let s1 := s0.goTo (t + syTimeout b * 10 ^ 9)
      let s2 := { s1 with life := { s1.life with heartbeat := none } }
      ok (if syAction b = 1 then requestL3 4 (syKeep b) s2 else if syAction b = 2 then requestL4 s2 else s2.raise vecFault)

/-! ## CP restart (R456, R464) -/

/-- The CP restarts: PHASE 4. -/
def restartCp (s : State) : State :=
  countL2 { s with life := { s.life with phase := 4, cpRestart := some s.time.clk, backTo5 := s.life.phase = 5 || (s.life.phase = 4 && s.life.backTo5) } }

/-- The FW_ACTIVATE that restarts the CP. -/
def liveOp (s : State) : Option Op := s.opWhere fun k => match k with | .fwActivate l => l | _ => false

/-- Set the state of the slot of an image source. -/
def setSlot (src : Fin 3) (st : SlotState) (l : Life) : Life :=
  if h : src.val < 2 then { l with slots := l.slots.set src.val { l.slots[src.val] with st := st } } else l

/-- A live activation has failed (R464): the trial slot is FAILED, the CP restarts into the previous image, a pending FW_ACTIVATE reports it. -/
def trialFailed (s : State) : State :=
  match s.life.activating, s.life.running, s.life.previous with
  | some a, run, _ =>
    let s1 := restartCp { s with life := { setSlot a.2 .failed s.life with activating := run, previous := none } }
    (match liveOp s1 with | some o => s1.finish o stHwFault 0xFFD3 [] | none => s1)
  | none, some run, some p => restartCp { s with life := { setSlot run.2 .failed s.life with activating := some p, previous := none } }
  | none, _, _ => s

/-- FW_TRIAL_FAIL (R464): the new firmware is not running within 500 ms, or its watchdog bites before FW_CONFIRM. -/
def execFwTrialFail (s : State) : Host.Outcome State Fault Refusal :=
  match liveOp s with
  | some o => if s.life.activating.isSome then ok (trialFailed (s.goTo (o.start + 5 * 10 ^ 11))) else ok s
  | none => if s.life.activating.isNone then ok (trialFailed s) else ok s

/-- WATCHDOG_BITE (R456, R458, R464). -/
def execWatchdogBite (t : Nat) (s0 : State) : Host.Outcome State Fault Refusal :=
  if s0.life.phase.val < 3 || s0.life.running.isNone || s0.life.pwrCycle || s0.life.pendReset.isSome || 2 ≤ s0.power.state.val then ok s0
  else
    let s1 := (s0.goTo t).raise vecFault
    let second := match s1.life.lastBite with | some b => decide (s1.time.clk < b + 10 ^ 13) | none => false
    let s2 := { s1 with life := { s1.life with lastBite := some s1.time.clk } }
    if s1.life.previous.isSome || (liveOp s1).isSome then ok (trialFailed s2)
    else if second then
      let s3 := requestL3 3 (syKeep (syBlk s2)) s2
      ok { s3 with life := { s3.life with phase := 4, cpRestart := none } }
    else ok (restartCp s2)

/-- CP_RESTART_COMPLETE (R24, R44, R464): the CP runs again; what waited in the rings and on SMBus is read, an activation completes. -/
def execCpRestartComplete (s : State) : Host.Outcome State Fault Refusal :=
  if s.life.phase = 4 && s.life.cpRestart.isSome && s.power.state.val ≤ 1 then
    let l := s.life
    let live := liveOp s
    let s1 := { s with life := { l with
      phase := if l.backTo5 then 5 else 3, cpRestart := none, backTo5 := false
      running := l.activating.or l.running, activating := none, previous := if live.isSome then l.running else l.previous } }
    let s2 := match live, l.activating with
      | some o, some a => s1.finish o stOk 0 [a.1.version]
      | _, _ => s1
    ok (drainHeld s2)
  else ok s

/-- CP_RESTART_TIMEOUT (R456): the CP is not running again within 200 ms. A live activation has the 500 ms of R464. -/
def execCpRestartTimeout (s : State) : Host.Outcome State Fault Refusal :=
  match s.life.cpRestart with
  | some t =>
    if s.life.phase = 4 && (liveOp s).isNone then
      let s1 := requestL3 3 (syKeep (syBlk s)) (s.goTo (t + 2 * 10 ^ 11))
      ok { s1 with life := { s1.life with cpRestart := none } }
    else ok s
  | none => ok s

/-! ## Firmware change (R464, R465, R447) -/

/-- The slot that is not running; slot A under a host image. -/
def otherSlot (s : State) : Fin 2 := match s.life.running with | some (_, 0) => 1 | _ => 0

/-- The running image is in trial. -/
def inTrial (s : State) : Bool :=
  match s.life.running with
  | some (_, src) => if h : src.val < 2 then decide (s.life.slots[src.val].st = SlotState.trialTried) else false
  | none => false

/-- VINTAGE_STORE runs. -/
def storeRuns (s : State) : Bool := s.proto.ops.any fun o => match o.kind with | .vintageStore _ => true | _ => false

/-- Replace a slot. -/
def updSlot (k : Fin 2) (f : FlashSlot → FlashSlot) (s : State) : State :=
  { s with life := { s.life with slots := s.life.slots.set k (f s.life.slots[k]) } }

/-- FW_WRITE. -/
def doFwWrite (r : Req) (s : State) : Res :=
  let off := wbits (wordAt r.payload 0) 0 23
  let dat := r.payload.drop 1
  if rsvdBad r 0 0x7FFFFC || slotBytes < off + 4 * dat.length then Res.bad 0 s
  else if (liveOp s).isSome || inTrial s || storeRuns s then Res.rep stBusy 0 [] s
  else
    let s1 := if off = 0 then updSlot (otherSlot s) (fun x => { x with st := .empty }) s else s
    Res.rep stPending 0 [] (s1.addOp r (.fwWrite off dat) true)

/-- FW_WRITE (R465). -/
def execFwWrite (r : Req) (s : State) : Host.Outcome State Fault Refusal := ok (runOp 0x0C05 [] 2 16384 false doFwWrite r s)

/-- FW_WRITE_COMPLETE (R465): the oldest write has been verified; after a failed one the bytes of its range are free. -/
def execFwWriteComplete (verified : Bool) (s : State) : Host.Outcome State Fault Refusal :=
  match s.opWhere fun k => match k with | .fwWrite _ _ => true | _ => false with
  | none => ok s
  | some o => match o.kind with
    | .fwWrite off dat =>
      let k := otherSlot s
      if verified then ok ((updSlot k (fun x => { x with data := x.data.writeN off (wordsBytes dat) }) s).finish o stOk 0 [])
      else
        let bad := (List.range dat.length).map fun i => Config.freeWord s.free (500 + i)
        let s1 := updSlot k (fun x => { x with data := x.data.writeN off (wordsBytes bad) }) { s with free := s.free + 1 }
        ok ((s1.finish o stHwFault 0xFFA3 []).raise vecFault)
    | _ => ok s

/-- The higher sequence number. -/
def nextSeqNo (l : Life) : Nat := max l.slots[(0 : Fin 2)].seqNo l.slots[(1 : Fin 2)].seqNo + 1

/-- FW_ACTIVATE. -/
def doFwActivate (r : Req) (s : State) : Res :=
  let k := otherSlot s
  let src : Fin 3 := ⟨k.val, by omega⟩
  let m := s.life.slots[k].data
  if rsvdBad r 0 1 then Res.bad 0 s
  else if trainingRuns s || calRuns s then Res.rep stBusy 0 [] s
  else if (wordAt r.payload 0).getLsbD 0 then
    let s1 := updSlot k (fun x => { x with st := .trial, seqNo := nextSeqNo s.life }) s
    Res.ok [fwVersion s] s1
  else
    let mfg := s.life.straps.bootSel = 3
    match imageAt s.life mfg m slotBytes, s.life.running with
    | none, _ => Res.bad 0xFFD0 s
    | some i, run =>
      if i.rollback.toNat < s.life.fuseRollback.toNat then Res.bad 0xFFD1 s
      else
        let now := match run with | some (x, _) => x.stateVer.toNat | none => 0
        if now < i.minStateVer.toNat || i.stateVer.toNat < now then Res.bad 0xFFD2 s
        else
          let s1 := updSlot k (fun x => { x with st := .trialTried }) s
          Res.rep stPending 0 [] (restartCp ({ s1 with life := { s1.life with activating := some (i, src) } }.addOp r (.fwActivate true) true))

/-- FW_ACTIVATE (R464). -/
def execFwActivate (r : Req) (s : State) : Host.Outcome State Fault Refusal := ok (runOp 0x0C06 [] 1 1 false doFwActivate r s)

/-- FW_CONFIRM. -/
def doFwConfirm (_ : Req) (s : State) : Res :=
  match s.life.running with
  | none => Res.ok [0] s
  | some (i, src) =>
    let was := if h : src.val < 2 then decide (s.life.slots[src.val].st = SlotState.valid) else false
    let fuse := if s.life.fuseRollback.toNat < i.rollback.toNat then i.rollback else s.life.fuseRollback
    let l := if h : src.val < 2 then
      { s.life with slots := s.life.slots.set src.val { s.life.slots[src.val] with st := .valid, seqNo := nextSeqNo s.life } } else s.life
    Res.ok [if was then 1 else 0] { s with life := { l with fuseRollback := fuse, previous := none } }

/-- FW_CONFIRM (R447). -/
def execFwConfirm (r : Req) (s : State) : Host.Outcome State Fault Refusal := ok (runOp 0x0C07 [] 0 0 false doFwConfirm r s)

/-! ## Thermal trip and loss of power (R493, R482) -/

/-- THERMTRIP (R493): driven by hardware; ALARM, TRIG_OUT and INTLK fall and every lane stops, until power is removed. -/
def execThermtrip (s : State) : Host.Outcome State Fault Refusal :=
  if !s.life.powered || s.life.thermtrip then ok s
  else
    let high := fun (n : Nat) => !pinsHeld s && (List.range 4).any fun f => pinIdle (s.act 0x10 f) n
    let s := lanesDown s
    let s1 := { s with
      life := { s.life with thermtrip := true }
      pcie := { s.pcie with up := false }
      fe := s.fe.map fun (x : FeSt) => { x with
        links := Vector.replicate 3 .off, lemc := 0, fell := 0, outage := x.outage.set 0 (some (x.outage[0].getD s.time.clk)) } }
    ok (refreshIntlk (refreshPins ((s1.pin .thermtripN false).emits (((List.range 4).filter high).map fun n => .trig n false s.time.clk))))

/-- POWER_DOWN (R482): flash and fuses alone remain. -/
def execPowerDown (s : State) : Host.Outcome State Fault Refusal :=
  let s1 := pinsLow s
  ok { ({} : State) with
    life := flashLife s.life
    vint := { ({} : Vint) with factory := s.vint.factory, fld := s.vint.fld }
    pcie := { ({} : Pcie) with perst := s.pcie.perst }
    free := s1.free, out := s1.out, pending := s1.pending }

end Sys2Proof.Machine
end

