-- ==== Sys2Proof/Machine/Power.lean ====
section
/-! DEFINITION. The power manager (17, 1.3): adaptive voltage, shedding, guarded and isolated regions, admission grants, power states and
wake-up; the time limit of operations (R67). -/

namespace Sys2Proof.Machine

/-! ## Regions and rails (17.1, 17.2) -/

/-- Rail of a region FE0-FE3, DSP, VAT, SYS. -/
def railOf (k : Fin 7) : Fin 4 := if k.val < 4 then 0 else if k = 4 then 1 else if k = 5 then 2 else 3

/-- The regions that a rail supplies. -/
def regionsOf (r : Fin 4) : List (Fin 7) := (List.finRange 7).filter fun k => railOf k = r

/-- The rails of a crossing (Table 17.1). -/
def crossRails (c : Nat) : Fin 4 × Fin 4 :=
  if c < 8 then (0, if c % 2 = 0 then 2 else 3) else if c = 8 then (1, 2) else if c = 9 then (1, 3) else (2, 3)

/-- The crossings of a region. -/
def crossings (k : Nat) : List Nat := if k < 4 then [2 * k, 2 * k + 1] else if k = 4 then [8, 9] else [10]

/-- The voltages on the two sides of a crossing, as last measured, lie further apart than a figure. -/
def crossApart (s : State) (c mv : Nat) : Bool :=
  let r := crossRails c
  decide (s.power.volts[r.1] + mv < s.power.volts[r.2]) || decide (s.power.volts[r.2] + mv < s.power.volts[r.1])

/-- An engine's sub-region is gated: the engine has stopped and no start of it has arrived (R420, R422). -/
def gatedFe (s : State) (f : Fe) : Bool := feEnded s f && !s.commits.any fun c => !c.queued && hasFe c f && startsFe s f

/-- SLEW in mV/µs. -/
def slewOf (s : State) : Nat := bf (s.act 0xC0 0) 7 0 6

/-- VDD_DSP is held at VMAX_DSP (R423). -/
def dspHeld (s : State) : Bool :=
  bfb (s.act 0xC0 0) 0 9 && s.core.toList.any fun c => c.st = .running || c.st = .waiting

/-- A rail goes down by 5 mV, at least 0.62 V and within 120 mV of its neighbours (R421, R425). -/
def lowerRail (k : Fin 4) (s : State) : State :=
  let v := s.power.rails[k].mv - 5
  if 620 ≤ v && (neighbours k).all fun j => s.power.rails[j].mv ≤ v + 120 then setRail k v s else s

/-- One rail at one sample (R421, R423, R424, R440). -/
def sampleRail (k : Fin 4) (s : State) : State :=
  let m := (regionsOf k).map fun j => s.power.margins[j]
  let good := m.all fun x => decide (300 ≤ x)
  let since := s.power.rails[k].ample.getD s.time.clk
  let s1 := s.updRail k fun r => { r with ample := if good then some since else none }
  if s1.power.rails[k].faulted then s1
  else if k = 1 && dspHeld s then raiseRail 4 k (vmaxOf s k) s1
  else if vmaxOf s k < s1.power.rails[k].mv then lowerRail k s1
  else if m.any fun x => decide (x < 150) then raiseRail 4 k (s1.power.rails[k].mv + min 25 (8 * slewOf s)) s1
  else if good && since + 10 ^ 9 ≤ s1.time.clk then lowerRail k s1
  else s1

/-- MARGIN_SAMPLE (R421): the next instant of the 10 µs grid. -/
def execMarginSample (m : MarginSample) (s0 : State) : Host.Outcome State Fault Refusal :=
  if !cpRuns s0 then ok s0
  else
    let s := s0.goTo ((s0.time.clk / 10 ^ 7 + 1) * 10 ^ 7)
    let mg : Vector Int 7 := Vector.ofFn fun (k : Fin 7) =>
      if h : k.val < 4 then (if gatedFe s ⟨k.val, h⟩ then 32767 else m.margin[k]) else m.margin[k]
    let easy := mg.toList.all fun x => decide (250 ≤ x)
    let s1 := { s with
      power := { s.power with
        margins := mg, sensors := m.sensors, volts := m.volts
        short := Vector.ofFn fun (k : Fin 7) => if mg[k] < 150 then s.power.short[k] + 1 else 0
        easySince := if easy then some (s.power.easySince.getD s.time.clk) else none }
      taster := { s.taster with paused := !easy } }
    let s2 := if easy then s1 else stopTaster (fun _ => true) s1
    ok ((List.finRange 4).foldl (fun s k => sampleRail k s) s2)

/-! ## Shedding (R19-R21) -/

/-- A rail cannot be raised further in the sense of R19 (R421). -/
def cannotRaise (s : State) (k : Fin 4) : Bool :=
  let mv := s.power.rails[k].mv
  s.power.rails[k].faulted || decide (vmaxOf s k ≤ mv) ||
    (neighbours k).any fun j => decide (vmaxOf s j ≤ s.power.rails[j].mv) && decide (s.power.rails[j].mv + 120 ≤ mv)

/-- A region has been short for two samples and its rail cannot be raised. -/
def mustShed (s : State) : Bool := (List.finRange 7).any fun k => decide (2 ≤ s.power.short[k]) && cannotRaise s (railOf k)

/-- A RUNNING or WAITING core is asked to pause (R310). -/
def pauseCore (n : CoreId) (s : State) : State :=
  s.updCore n fun c =>
    if c.st = .running || c.st = .waiting then pauseTaps c.st (stopPoint s.time.clk { c with pauseReq := true }) else c

/-- A paused core resumes at the bundle at which it was paused (R21, R310). -/
def resumeCore (n : CoreId) (s : State) : State :=
  s.updCore n fun c =>
    let c := { c with pauseReq := false }
    if c.st = .paused then { c with st := if c.wasWaiting && c.ipend &&& c.ien = 0 then .waiting else .running, wasWaiting := false } else c

/-- A step or a restoration at an instant: counted where a step, event on vector 41 (R20). The event has no field for the step it names: the model raises
the bare vector, and POWER_STATUS shows the highest step in force, which is the model's choice (log entry 224). -/
def shedMark (step : Bool) (s : State) : State :=
  ({ s with power := { s.power with
    shedAt := some s.time.clk, shedCount := if step then addSat s.power.shedCount 1 else s.power.shedCount } }).raise vecPower

/-- SHEDDING_STEP (R19). -/
def execSheddingStep (s0 : State) : Host.Outcome State Fault Refusal :=
  if !cpRuns s0 || !mustShed s0 then ok s0
  else
    let s := match s0.power.shedAt with | some t => s0.goTo (t + 10 ^ 8) | none => s0
    if !s.power.shed1 then ok (shedMark true { s with power := { s.power with shed1 := true } })
    else if !s.power.shed2 then
      ok (shedMark true ((List.finRange 8).foldl (fun s n => pauseCore n s) { s with power := { s.power with shed2 := true } }))
    else if canShedTone s then ok (shedMark true { s with power := { s.power with shed3 := s.power.shed3 + 1 } })
    else ok s0

/-- SHEDDING_RESTORE (R20). -/
def execSheddingRestore (s0 : State) : Host.Outcome State Fault Refusal :=
  match s0.power.easySince with
  | none => ok s0
  | some e =>
    if !cpRuns s0 || !shedding s0 then ok s0
    else
      let s := s0.goTo (max e (s0.power.shedAt.getD e) + 10 ^ 11)
      let s1 := if 0 < s.power.shed3 then { s with power := { s.power with shed3 := s.power.shed3 - 1 } }
        else if s.power.shed2 then (List.finRange 8).foldl (fun s n => resumeCore n s) { s with power := { s.power with shed2 := false } }
        else { s with power := { s.power with shed1 := false } }
      ok (shedMark false s1)

/-! ## Guarded mode, isolation, regulators (R424-R428) -/

/-- The core rails are up. -/
def railsUp (s : State) : Bool := s.life.powered && !s.life.inReset && decide (s.power.state.val < 3)

/-- GUARDED_MODE_CHANGE (R426). -/
def execGuardedModeChange (crossing : Fin 11) (enter : Bool) (s : State) : Host.Outcome State Fault Refusal :=
  if !railsUp s || s.power.guarded.getLsbD crossing.val = enter then ok s
  else
    let bit : BitVec 11 := (1 : BitVec 11) <<< crossing.val
    ok (({ s with power := { s.power with
      guarded := if enter then s.power.guarded ||| bit else s.power.guarded &&& ~~~bit
      guardCount := if enter then addSat s.power.guardCount 1 else s.power.guardCount } }).raise vecFault)

/-- An engine is cut off (R427): what has not reached every consumer is lost and the records it was for carry OVERRUN; RUN becomes 0 in both sets
and its budgets are released. -/
def isolateFe (f : Fe) (s : State) : State :=
  let op := s.act 0x10 f.val
  let or_ := s.act 0x11 f.val
  let ot := s.act 0x30 f.val
  let oc := s.act 0x31 f.val
  let lost := !s.fe[f].shots.isEmpty
  let ran := !feEnded s f
  let s1 := keepIsolated f s
  let overrun := fun (b : Band) => { b with rows := b.rows.map fun (r : RowMeta) => { r with flags := r.flags ||| flagBit flOverrun true } }
  let s2 := s1.updFe f fun x => { x with
    shots := [], band := if lost then x.band.map overrun else x.band, awaiting := none
    lastStop := if runOf op then some s.time.clk else x.lastStop }
  let s3 := restPins op (s2.act 0x10 f.val) s.time.clk s.fe[f].ppn (thermCommit f s.fe[f].ppn s.time.clk op or_ ot oc s2)
  let s4 := holdBudgets f true s3
  let s5 := if ran then engineEnded f s4 else s4
  let s6 := s5.raise (vecEngine f)
  if lost then s6.raise vecFault else s6

/-- A core is cut off (R427): STOPPED, its memories and unread posts lost. -/
def isolateCore (n : CoreId) (s : State) : State :=
  let s1 := stopCore n (endCoreTest n.val s)
  let s2 := s1.updCore n fun c =>
    if c.st = .stopped then c else { landAll c with st := .stopped, stopReq := false, pauseReq := false, stoppedAt := s.time.clk }
  coreEnded n ((s2.updCore n fun c => { c with im := [], dm := [], imBad := [], dmBad := [], ext := [], posts := [], asm := {} }).raise (vecCore n))

/-- REGION_ISOLATION (R427). -/
def execRegionIsolation (region : Fin 7) (s : State) : Host.Outcome State Fault Refusal :=
  if !railsUp s || s.power.isolated.getLsbD region.val then ok s
  else
    let s1 := { s with power := { s.power with isolated := s.power.isolated ||| ((1 : BitVec 7) <<< region.val) } }
    if h : region.val < 4 then ok ((isolateFe ⟨region.val, h⟩ s1).raise vecFault)
    else if region = 4 then ok (((List.finRange 8).foldl (fun s n => isolateCore n s) s1).raise vecFault)
    else ok (requestL3 5 true s1)

/-- REGION_RESTORE (Table 17.7). -/
def doRegionRestore (r : Req) (s : State) : Res :=
  let k := wbits (wordAt r.payload 0) 0 3
  if rsvdBad r 0 7 || 4 < k then Res.bad 0 s
  else if (crossings k).any fun c => crossApart s c 120 then Res.rep stBusy 0xFFC3 [] s
  else Res.ok [] { s with power := { s.power with isolated := s.power.isolated &&& ~~~((1 : BitVec 7) <<< k) } }

/-- REGION_RESTORE (R428). -/
def execRegionRestore (r : Req) (s : State) : Host.Outcome State Fault Refusal := ok (runOp 0x0B04 [] 1 1 false doRegionRestore r s)

/-- REGULATOR_POLL (R418, R424): a fault is counted and raised as it begins, and ends once the regulator answers without one. -/
def execRegulatorPoll (rail : Fin 4) (p : RegPoll) (s : State) : Host.Outcome State Fault Refusal :=
  if !cpRuns s then ok s
  else
    let r := s.power.rails[rail]
    let naks := if p.noAck then min 3 (r.naks + 1) else 0
    let off := p.settled && (decide (r.mv + 20 < p.readVout) || decide (p.readVout + 20 < r.mv))
    let faulted := if p.noAck then r.faulted || 3 ≤ naks else p.outputFault || off
    let s1 := s.updRail rail fun r => { r with
      naks := naks, faulted := faulted, vout := if p.noAck then r.vout else p.readVout, iout := if p.noAck then r.iout else p.readIoutMa }
    if faulted && !r.faulted then
      ok (({ s1 with power := { s1.power with pmbFaults := addSat s1.power.pmbFaults 1 } }).raise vecFault)
    else ok s1

/-! ## Admission (R430-R432) -/

/-- The handler that a granted request goes on with. -/
def grantRes (r : Req) (s : State) : Res :=
  match r.opcode.toNat with
  | 0x0103 => doCommit true r s
  | 0x0D02 => doCommitArm true r s
  | 0x0D03 => doCommitShared true r s
  | 0x0602 => doCooperStart true r s
  | 0x0501 => doHarvestArm true r s
  | 0x0701 => doCellarTrain true r s
  | 0x0702 => doCellarTrainStep true r s
  | 0x0C08 => doTasterRun true r s
  | _ => Res.later s

/-- A granted request executes; a final outcome goes as its completion event, and a refusal leaves nothing of it (R66, R430). -/
def grantReq (q : QReq) (s : State) : State :=
  let res := grantRes q.req ((s.unqueue q).raise vecPower)
  match res.ans with
  | none => res.st
  | some (st, det, ws) =>
    if st = stPending then res.st
    else
      let s1 := if st = stOk then res.st.noteDone q.req.sess q.req.seq q.req.opcode else undoQueued q res.st
      if q.req.sess = 0 then s1 else s1.answer q.req.via q.req.sess q.req.opcode q.req.seq true (statusWord st det :: ws)

/-- ADMISSION_GRANT (R430): the head of the queue, where it fits. -/
def execAdmissionGrant (s : State) : Host.Outcome State Fault Refusal :=
  match s.power.queue with
  | q :: _ => if s.life.phase = 3 && cpRuns s && fits s q.budget then ok (grantReq q s) else ok s
  | [] => ok s

/-- ADMISSION_TIMEOUT (R431, R432): a grant due in the same instant wins. -/
def execAdmissionTimeout (s0 : State) : Host.Outcome State Fault Refusal :=
  match s0.power.queue with
  | q :: _ =>
    if s0.life.phase = 3 && cpRuns s0 then
      let s := s0.goTo (q.since + queueTimeout s0)
      ok (if fits s q.budget then grantReq q s else denyQueued q s)
    else ok s0
  | [] => ok s0

/-! ## Power states (17.5) -/

/-- AUTO_IDLE (R434). -/
def execAutoIdle (s0 : State) : Host.Outcome State Fault Refusal :=
  match s0.power.idleSince with
  | some t =>
    if cpRuns s0 && s0.power.state = 0 && isIdle s0 then
      let s := s0.goTo (t + 10 ^ 9)
      ok { s with power := { s.power with state := 1 } }
    else ok s0
  | none => ok s0

/-- What keeps the device from leaving IDLE for a low state (R435). -/
def notIdle (s : State) : Bool :=
  s.power.state ≠ 1 || !s.commits.isEmpty || !s.power.queue.isEmpty || s.core.toList.any (fun c => c.st = .paused || c.st = .queued) || storeRuns s

/-- POWER_STATE_SET (R435): its reply carries the device time at which entry begins. -/
def doPowerStateSet (r : Req) (s : State) : Res :=
  let n := wbits (wordAt r.payload 0) 0 3
  let at_ := word64 r.payload 1
  if h : n < 6 then
    if rsvdBad r 0 7 || n < 2 then Res.bad 0 s
    else if at_ ≠ 0 && at_ ≤ s.now then Res.bad 1 s
    else if notIdle s then Res.rep stBusy 0xFFC0 [] s
    else Res.ok (split64 s.now) { s with power := { s.power with
      entering := some ⟨n, h⟩, wakeSeen := 0, wakeAt := if at_ = 0 then none else some at_ } }
  else Res.bad 0 s

/-- POWER_STATE_SET (R442). -/
def execPowerStateSet (r : Req) (s : State) : Host.Outcome State Fault Refusal := ok (runOp 0x0B02 [] 3 3 false doPowerStateSet r s)

/-- A wake source is enabled for a state (Table 17.4, R439): bits as LAST_WAKE. -/
def wakeEnabled (s : State) (st : Fin 6) (src : Fin 6) : Bool :=
  let b := s.act 0xC0 0
  match src with
  | 0 => st.val < 5 && s.pcie.up && bfb b 8 21
  | 1 => bfb b 8 20
  | 2 => bf b 8 0 16 ≠ 0
  | 3 => st.val < 4 && bf b 8 16 4 ≠ 0
  | 4 => s.power.wakeAt.isSome
  | 5 => st.val < 5 && s.pcie.up

/-- A boundary timer moves on to the present instant (R438). -/
def catchUp (s : State) (f : Fe) : FeSt :=
  let x := s.fe[f]
  let p := max 1 (periodPs (s.act 0x10 f.val))
  if s.time.clk < x.next then x
  else
    let k := (s.time.clk - x.next) / p + 1
    { x with ppn := x.ppn + BitVec.ofNat 48 k, bnd := x.next + (k - 1) * p, next := x.next + k * p, launched := 0, aligned := none }

/-- TRIG_OUT pins that rest high. -/
def restHigh (s : State) : List Nat := (List.range 4).filter fun n => (List.range 4).any fun f => pinIdle (s.act 0x10 f) n

/-- The low state is reached (Table 17.3, R435, R436, R438). -/
def enterLow (st : Fin 6) (s : State) : State :=
  let deep := decide (3 ≤ st.val)
  let s := lanesDown s
  let s1 := { s with
    power := { s.power with state := st, entering := none, lowSince := s.time.clk, idleSince := none }
    cellar := { s.cellar with selfRefresh := true }
    pcie := { s.pcie with up := s.pcie.up && st ≠ 5 }
    fe := s.fe.map fun (x : FeSt) => { x with
      links := Vector.replicate 3 .off, outage := Vector.replicate 3 none, lemc := 0, fell := 0
      chans := if deep then [] else x.chans, golay := if deep then [] else x.golay }
    vat := if deep then { s.vat with mem := s.vat.mem.clear 0 0x2800000 } else s.vat }
  let s2 := if deep then
      (enterHoldover s1).emits ((if pinsHeld s then [] else restHigh s).map fun n => .trig n false s.time.clk)
    else ([1, 2, 3] : List (Fin 4)).foldl (fun s k => if s.power.rails[k].mv = 620 then s else s.emit (.avs k 620)) s1
  refreshIntlk (refreshPins s2)

/-- The device returns to IDLE (R437, R438, R478): the reverse of the entry, with every source seen recorded and an event on vector 41. -/
def leaveLow (sources : BitVec 6) (measured : Nat) (s0 : State) : State :=
  let low := s0.power.state
  let deep := decide (3 ≤ low.val)
  let s1 := if low.val < 4 then s0 else
    let s := s0.goTo (s0.power.lowSince + measured)
    { s with fe := Vector.ofFn (catchUp s), time := { s.time with ppsFirst := true } }
  let s2 := { s1 with
    power := { s1.power with
      state := 1, entering := none, wakeSeen := 0, wakeAt := none, lastWake := sources, idleSince := some s1.time.clk }
    cellar := { s1.cellar with selfRefresh := false }
    peer := { s1.peer with lanes := Vector.ofFn fun (l : Fin 4) =>
      { s1.peer.lanes[l] with st := if lnEn (peerSet s1 l) && !s1.life.thermtrip then .training else .down } }
    fe := Vector.ofFn fun (f : Fin 4) =>
      if s1.life.thermtrip then s1.fe[f] else (List.finRange 3).foldl (relink (s1.act 0x10 f.val) (s1.act 0x11 f.val)) s1.fe[f]
    time := if deep then { s1.time with goodSince := if refGone s1 then none else some s1.time.clk } else s1.time }
  let s3 := if deep then s2.emits ((if pinsHeld s2 then [] else restHigh s2).map fun n => .trig n true s2.time.clk)
    else ([1, 2, 3] : List (Fin 4)).foldl (fun s k => if s.power.rails[k].mv = 620 then s else s.emit (.avs k s.power.rails[k].mv)) s2
  let s4 := (refreshIntlk (refreshPins s3)).raise vecPower
  let s5 := if 4 ≤ low.val then ({ s4 with pcie := { s4.pcie with wakeN := true } }).pin .pcieWakeN false else s4
  let link := s5.life.powered && !s5.life.straps.testMode && !s5.life.thermtrip && !s5.pcie.perst
  drainHeld (if link && 4 ≤ low.val then pcieUp s5 else s5)

/-- A wake source: recorded while entry runs, else it wakes the device (R437, R439). -/
def wakeBy (src : Fin 6) (measured : Nat) (s : State) : State :=
  let bit : BitVec 6 := (1 : BitVec 6) <<< src.val
  match s.power.entering with
  | some st => if wakeEnabled s st src then { s with power := { s.power with wakeSeen := s.power.wakeSeen ||| bit } } else s
  | none => if 2 ≤ s.power.state.val && wakeEnabled s s.power.state src then leaveLow bit measured s else s

/-- The elapsed time the wake counter measures at an event that names none. -/
def freeMeasured (s : State) : Nat := (Config.freeWord s.free 1400).toNat + 2 ^ 32 * (Config.freeWord s.free 1401).toNat

/-- WAKE_AT (R437): device time reaches it. -/
def wakeAtReached (measured : Nat) (s : State) : State :=
  match s.power.wakeAt with
  | none => s
  | some v =>
    let s1 := if s.power.state.val < 4 then s.goTo (s.time.clkOf v) else s
    if s.power.entering.isSome || 2 ≤ s.power.state.val then wakeBy 4 measured s1 else s

/-- WAKE_AT (R437). -/
def execWakeAt (measured : Nat) (s : State) : Host.Outcome State Fault Refusal := ok (wakeAtReached measured s)

/-- WAKE_EVENT (R437, R439): the sources of Table 17.4; an FLR follows its wake. -/
def execWakeEvent (source : Fin 6) (measured : Nat) (s : State) : Host.Outcome State Fault Refusal :=
  if source = 4 then ok (wakeAtReached measured s)
  else
    let low := decide (2 ≤ s.power.state.val)
    let s1 := wakeBy source measured s
    ok (if source = 5 && low && s1.power.state.val < 2 then flr s1 else s1)

/-- FUNCTION_LEVEL_RESET (R346, R439). -/
def execFunctionLevelReset (s : State) : Host.Outcome State Fault Refusal :=
  if !s.pcie.up then ok s
  else if s.power.entering.isSome then ok (wakeBy 5 0 s)
  else if 2 ≤ s.power.state.val then ok (flr (wakeBy 5 (freeMeasured s) { s with free := s.free + 1 }))
  else ok (flr s)

/-- POWER_STATE_ENTRY_COMPLETE (R435, R439). -/
def execPowerStateEntryComplete (s : State) : Host.Outcome State Fault Refusal :=
  match s.power.entering with
  | none => ok s
  | some st =>
    let seen := s.power.wakeSeen
    let s1 := enterLow st s
    if seen = 0 then ok s1
    else
      let s2 := leaveLow seen 0 s1
      ok (if seen.getLsbD 5 then flr s2 else s2)

/-- TRIG_IN_EDGE (R252, R437). -/
def execTrigInEdge (pin : Fin 4) (falling : Bool) (t : Nat) (s : State) : Host.Outcome State Fault Refusal :=
  if 4 ≤ s.power.state.val then ok s
  else
    let s1 := trigInEvent pin falling (s.goTo t)
    ok (if !falling && (bf (s.act 0xC0 0) 8 16 4).testBit pin.val then wakeBy 3 0 s1 else s1)

/-- GPIO_EDGE (R437). -/
def execGpioEdge (pin : Fin 16) (s : State) : Host.Outcome State Fault Refusal :=
  ok (if (bf (s.act 0xC0 0) 8 0 16).testBit pin.val then wakeBy 2 (freeMeasured s) { s with free := s.free + 1 } else s)

/-! ## Opcodes (Table 17.7) -/

/-- A margin as int16. -/
def margin16 (m : Int) : Nat := (BitVec.ofInt 16 (satInt 16 m)).toNat

/-- POWER_STATUS (R442). -/
def doPowerStatus (_ : Req) (s : State) : Res :=
  let p := s.power
  let step := if 0 < p.shed3 then 3 else if p.shed2 then 2 else if p.shed1 then 1 else 0
  let v := fun (k : Fin 4) => p.rails[k].vout
  let pair := fun (a b : Nat) => BitVec.ofNat 32 (a + 65536 * b)
  let m := fun (k : Fin 7) => margin16 p.margins[k]
  let mw := (p.rails.toList.map fun (r : Rail) => r.vout * r.iout / 1000).foldl (· + ·) 0
  Res.ok ([BitVec.ofNat 32 (p.state.val + 8 * step + 32 * (thermalHold s).toNat), pair p.guarded.toNat p.isolated.toNat,
      pair (v 0 % 1024) (v 1 % 1024), pair (v 2 % 1024) (v 3 % 1024), pair (m 0) (m 1), pair (m 2) (m 3), pair (m 4) (m 5), pair (m 6) 0,
      satWord (admitted s), BitVec.ofNat 32 (boardLimit s), BitVec.ofNat 32 p.queue.length, satWord mw, p.lastWake.zeroExtend 32, p.shedCount,
      p.guardCount, p.pmbFaults])
    { s with power := { p with shedCount := 0, guardCount := 0, pmbFaults := 0 } }

/-- POWER_STATUS (R442). -/
def execPowerStatus (r : Req) (s : State) : Host.Outcome State Fault Refusal := ok (runOp 0x0B01 [] 0 0 false doPowerStatus r s)

/-- POWER_QUEUE_GET (R442). -/
def doPowerQueueGet (r : Req) (s : State) : Res :=
  if r.via = .smbus && 59 < 4 * s.power.queue.length + 1 then Res.rep stBadLength 59 [] s
  else Res.ok (s.power.queue.flatMap fun q =>
    [BitVec.ofNat 32 (q.req.sess.toNat + 65536 * q.req.opcode.toNat), q.req.seq, BitVec.ofNat 32 q.budget,
      satWord ((s.time.clk - q.since) / 10 ^ 9)]) s

/-- POWER_QUEUE_GET (R442). -/
def execPowerQueueGet (r : Req) (s : State) : Host.Outcome State Fault Refusal := ok (runOp 0x0B03 [] 0 0 false doPowerQueueGet r s)

/-! ## OPERATION_TIME_LIMIT (R67) -/

/-- An operation bounded by the 1 s of R67; the others state a limit or an end of their own. -/
def hasLimit : OpKind → Bool
  | .commit | .commitArm | .commitShared | .timeSet | .tiuArm _ | .zoneAck _ _ | .thermCal _ _ _ | .harvestArm _ | .harvestRead _ => false
  | .devCal op _ _ => op ≠ 0x0A03
  | .fwActivate _ | .tasterRun _ _ | .powerState | .devReset => false
  | .pressFlush _ _ _ | .cooperStart _ | .cooperStop _ | .cellarTrain _ _ | .cellarStep _ _ _ | .auxRead _ _ | .auxCal _ _ _ | .vintageStore _ => true
  | .funcReinit _ _ | .fwWrite _ _ => true

/-- Nothing of a timed-out operation stands (R67). -/
def undoTimed (o : Op) (s : State) : State :=
  match o.kind with
  | .pressFlush left _ _ => (List.finRange 16).foldl (fun s n =>
      if left.getLsbD n.val then s.updStream n fun x => { x with flushReq := false } else s) s
  | .cooperStop m => (List.finRange 8).foldl (fun s n => if m.getLsbD n.val then s.updCore n fun c => { c with stopReq := false } else s) s
  | .cellarTrain _ _ => trainAborted o s
  | .cellarStep _ _ _ => (s.gather false).release .training
  | .auxRead _ left => s.updAux fun a => { a with ins := a.ins.filter fun i => !left.getLsbD i.val }
  | .auxCal _ _ _ | .devCal _ _ _ => refreshIntlk s
  | .funcReinit func inst =>
    if func = 0 then s.updFe ⟨inst.toNat % 4, by omega⟩ fun x => { x with reinit := false, reinitAt := none } else s
  | _ => s

/-- OPERATION_TIME_LIMIT (R67, R457): TIMEOUT; a core that FUNC_REINIT has not stopped within 1 ms is forced. -/
def execOperationTimeLimit (sess : BitVec 8) (seq : Word) (s0 : State) : Host.Outcome State Fault Refusal :=
  match s0.findOp sess seq with
  | none => ok s0
  | some o =>
    if !hasLimit o.kind || !cpRuns s0 then ok s0
    else match o.kind with
      | .pressFlush _ _ limit => ok (undoTimed o ((s0.goTo (o.start + limit)).finish o stTimeout 0 []))
      | .funcReinit 1 inst => ok (forceCore ⟨inst.toNat % 8, by omega⟩ (s0.goTo (o.start + 10 ^ 9)))
      | _ => ok (undoTimed o ((s0.goTo (o.start + 10 ^ 12)).finish o stTimeout 0 []))

end Sys2Proof.Machine
end

