-- ==== Sys2Proof/Machine/Dispatch.lean ====
section
/-! DEFINITION. The dispatcher: one arm per command of the table, each one direct call of its meaning. -/

namespace Sys2Proof.Machine

def exec (i : Instr) (s : State) : Host.Outcome State Fault Refusal :=
  match i with
  | .powerOn st => Sys2Proof.Machine.execPowerOn st s
  | .resetNAssert => Sys2Proof.Machine.execResetNAssert s
  | .resetNRelease st => Sys2Proof.Machine.execResetNRelease st s
  | .hostImageVerify => Sys2Proof.Machine.execHostImageVerify s
  | .firmwareStart e => Sys2Proof.Machine.execFirmwareStart e s
  | .readyReached selfcalFailed => Sys2Proof.Machine.execReadyReached selfcalFailed s
  | .perstNAssert => Sys2Proof.Machine.execPerstNAssert s
  | .functionLevelReset => Sys2Proof.Machine.execFunctionLevelReset s
  | .d3hotEntry => Sys2Proof.Machine.execD3hotEntry s
  | .d0Resume => Sys2Proof.Machine.execD0Resume s
  | .aspmL1Request => Sys2Proof.Machine.execAspmL1Request s
  | .registerWrite off be data wide met => Sys2Proof.Machine.execRegisterWrite off be data wide met s
  | .rcRegisterRead addr wide during => Sys2Proof.Machine.execRcRegisterRead addr wide during s
  | .timeLatchRead off wide => Sys2Proof.Machine.execTimeLatchRead off wide s
  | .conflClear mask sameSlot => Sys2Proof.Machine.execConflClear mask sameSlot s
  | .doorbell bits indices => Sys2Proof.Machine.execDoorbell bits indices s
  | .prodWrite ring value => Sys2Proof.Machine.execProdWrite ring value s
  | .heartbeat => Sys2Proof.Machine.execHeartbeat s
  | .resume ring => Sys2Proof.Machine.execResume ring s
  | .skip ring => Sys2Proof.Machine.execSkip ring s
  | .msixUnmask vec => Sys2Proof.Machine.execMsixUnmask vec s
  | .bar2Write addr data badTlp => Sys2Proof.Machine.execBar2Write addr data badTlp s
  | .vatBitSetWrite m addr data => Sys2Proof.Machine.execVatBitSetWrite m addr data s
  | .vatBitClearWrite m addr data => Sys2Proof.Machine.execVatBitClearWrite m addr data s
  | .packetIn bytes pecOk => Sys2Proof.Machine.execPacketIn bytes pecOk s
  | .packetOut => Sys2Proof.Machine.execPacketOut s
  | .linkStatus => Sys2Proof.Machine.execLinkStatus s
  | .smbusAlertResponse => Sys2Proof.Machine.execSmbusAlertResponse s
  | .commandPacketArrival via buf => Sys2Proof.Machine.execCommandPacketArrival via buf s
  | .replyDelivery ring => Sys2Proof.Machine.execReplyDelivery ring s
  | .hello r => Sys2Proof.Machine.execHello r s
  | .info r => Sys2Proof.Machine.execInfo r s
  | .echo r => Sys2Proof.Machine.execEcho r s
  | .bye r => Sys2Proof.Machine.execBye r s
  | .setParam r => Sys2Proof.Machine.execSetParam r s
  | .getParam r => Sys2Proof.Machine.execGetParam r s
  | .commit r => Sys2Proof.Machine.execCommit r s
  | .commitAbort r => Sys2Proof.Machine.execCommitAbort r s
  | .defaults r => Sys2Proof.Machine.execDefaults r s
  | .feStatus r => Sys2Proof.Machine.execFeStatus r s
  | .recvRefSet r => Sys2Proof.Machine.execRecvRefSet r s
  | .recvRefGet r => Sys2Proof.Machine.execRecvRefGet r s
  | .recvStatus r => Sys2Proof.Machine.execRecvStatus r s
  | .phaseStatus r => Sys2Proof.Machine.execPhaseStatus r s
  | .streamStatus r => Sys2Proof.Machine.execStreamStatus r s
  | .finingRomGet r => Sys2Proof.Machine.execFiningRomGet r s
  | .pressFlush r => Sys2Proof.Machine.execPressFlush r s
  | .pressStatus r => Sys2Proof.Machine.execPressStatus r s
  | .zoneAck r => Sys2Proof.Machine.execZoneAck r s
  | .zoneStatus r => Sys2Proof.Machine.execZoneStatus r s
  | .zoneSummary r => Sys2Proof.Machine.execZoneSummary r s
  | .zoneAckTimeout => Sys2Proof.Machine.execZoneAckTimeout s
  | .thermStatus r => Sys2Proof.Machine.execThermStatus r s
  | .thermCalibrate r => Sys2Proof.Machine.execThermCalibrate r s
  | .thermCalTimeout fe => Sys2Proof.Machine.execThermCalTimeout fe s
  | .thermAbort r => Sys2Proof.Machine.execThermAbort r s
  | .thermReseed r => Sys2Proof.Machine.execThermReseed r s
  | .harvestArm r => Sys2Proof.Machine.execHarvestArm r s
  | .harvestDisarm r => Sys2Proof.Machine.execHarvestDisarm r s
  | .harvestForce r => Sys2Proof.Machine.execHarvestForce r s
  | .harvestRead r => Sys2Proof.Machine.execHarvestRead r s
  | .harvestRelease r => Sys2Proof.Machine.execHarvestRelease r s
  | .harvestStatus r => Sys2Proof.Machine.execHarvestStatus r s
  | .cooperLoad r => Sys2Proof.Machine.execCooperLoad r s
  | .cooperStart r => Sys2Proof.Machine.execCooperStart r s
  | .cooperStop r => Sys2Proof.Machine.execCooperStop r s
  | .cooperSignal r => Sys2Proof.Machine.execCooperSignal r s
  | .cooperStatus r => Sys2Proof.Machine.execCooperStatus r s
  | .cellarTrain r => Sys2Proof.Machine.execCellarTrain r s
  | .cellarTrainComplete results => Sys2Proof.Machine.execCellarTrainComplete results s
  | .cellarTrainStep r => Sys2Proof.Machine.execCellarTrainStep r s
  | .cellarPattern r => Sys2Proof.Machine.execCellarPattern r s
  | .cellarCompare r errs => Sys2Proof.Machine.execCellarCompare r errs s
  | .freqSet r refreshEnd switchPs => Sys2Proof.Machine.execFreqSet r refreshEnd switchPs s
  | .cellarStatus r => Sys2Proof.Machine.execCellarStatus r s
  | .cellarTrainAbort r => Sys2Proof.Machine.execCellarTrainAbort r s
  | .timeSet r => Sys2Proof.Machine.execTimeSet r s
  | .timeSetTimeout => Sys2Proof.Machine.execTimeSetTimeout s
  | .timeGet r => Sys2Proof.Machine.execTimeGet r s
  | .tiuArm r => Sys2Proof.Machine.execTiuArm r s
  | .tiuStop r => Sys2Proof.Machine.execTiuStop r s
  | .peerStatus r => Sys2Proof.Machine.execPeerStatus r s
  | .commitArm r => Sys2Proof.Machine.execCommitArm r s
  | .commitShared r => Sys2Proof.Machine.execCommitShared r s
  | .sharedAcceptTimeout => Sys2Proof.Machine.execSharedAcceptTimeout s
  | .sharedCompletionPoint => Sys2Proof.Machine.execSharedCompletionPoint s
  | .auxRead r => Sys2Proof.Machine.execAuxRead r s
  | .auxSelfcal r => Sys2Proof.Machine.execAuxSelfcal r s
  | .auxSyscal r => Sys2Proof.Machine.execAuxSyscal r s
  | .auxTest r => Sys2Proof.Machine.execAuxTest r s
  | .auxCalComplete m => Sys2Proof.Machine.execAuxCalComplete m s
  | .auxIntlkReset r => Sys2Proof.Machine.execAuxIntlkReset r s
  | .auxStatus r => Sys2Proof.Machine.execAuxStatus r s
  | .auxCalAbort r => Sys2Proof.Machine.execAuxCalAbort r s
  | .calTiu r => Sys2Proof.Machine.execCalTiu r s
  | .calAux r => Sys2Proof.Machine.execCalAux r s
  | .calDie r => Sys2Proof.Machine.execCalDie r s
  | .calComplete m => Sys2Proof.Machine.execCalComplete m s
  | .calDieTimeout => Sys2Proof.Machine.execCalDieTimeout s
  | .vintageStore r => Sys2Proof.Machine.execVintageStore r s
  | .vintageStoreComplete verified => Sys2Proof.Machine.execVintageStoreComplete verified s
  | .vintageStatus r => Sys2Proof.Machine.execVintageStatus r s
  | .vintageRead r => Sys2Proof.Machine.execVintageRead r s
  | .calAbort r => Sys2Proof.Machine.execCalAbort r s
  | .powerStatus r => Sys2Proof.Machine.execPowerStatus r s
  | .powerStateSet r => Sys2Proof.Machine.execPowerStateSet r s
  | .powerQueueGet r => Sys2Proof.Machine.execPowerQueueGet r s
  | .regionRestore r => Sys2Proof.Machine.execRegionRestore r s
  | .lcStatus r => Sys2Proof.Machine.execLcStatus r s
  | .funcReinit r => Sys2Proof.Machine.execFuncReinit r s
  | .devReset r => Sys2Proof.Machine.execDevReset r s
  | .warmReset => Sys2Proof.Machine.execWarmReset s
  | .powerCycleReq r => Sys2Proof.Machine.execPowerCycleReq r s
  | .fwWrite r => Sys2Proof.Machine.execFwWrite r s
  | .fwWriteComplete verified => Sys2Proof.Machine.execFwWriteComplete verified s
  | .fwActivate r => Sys2Proof.Machine.execFwActivate r s
  | .fwTrialFail => Sys2Proof.Machine.execFwTrialFail s
  | .fwConfirm r => Sys2Proof.Machine.execFwConfirm r s
  | .tasterRun r => Sys2Proof.Machine.execTasterRun r s
  | .tasterStatus r => Sys2Proof.Machine.execTasterStatus r s
  | .tasterAbort r => Sys2Proof.Machine.execTasterAbort r s
  | .tasterScheduledRun test inst => Sys2Proof.Machine.execTasterScheduledRun test inst s
  | .tasterRunEnd pass measure => Sys2Proof.Machine.execTasterRunEnd pass measure s
  | .vatScrub cellar addr found => Sys2Proof.Machine.execVatScrub cellar addr found s
  | .eccWriteBack => Sys2Proof.Machine.execEccWriteBack s
  | .boundary fe => Sys2Proof.Machine.execBoundary fe s
  | .groupLaunch fe => Sys2Proof.Machine.execGroupLaunch fe s
  | .shotRowProcess fe x eccCh lost keep => Sys2Proof.Machine.execShotRowProcess fe x eccCh lost keep s
  | .zoneEventRecord => Sys2Proof.Machine.execZoneEventRecord s
  | .bandClose fe => Sys2Proof.Machine.execBandClose fe s
  | .finingTile fe eccElems eccState => Sys2Proof.Machine.execFiningTile fe eccElems eccState s
  | .pressRecord st eccOpen => Sys2Proof.Machine.execPressRecord st eccOpen s
  | .streamRecordDelivery st => Sys2Proof.Machine.execStreamRecordDelivery st s
  | .ramanShotAccumulate fe x => Sys2Proof.Machine.execRamanShotAccumulate fe x s
  | .subintervalFold fe ecc => Sys2Proof.Machine.execSubintervalFold fe ecc s
  | .intervalComplete fe => Sys2Proof.Machine.execIntervalComplete fe s
  | .ramanRecord fe => Sys2Proof.Machine.execRamanRecord fe s
  | .fusionEpoch fe => Sys2Proof.Machine.execFusionEpoch fe s
  | .fusedRecord fe => Sys2Proof.Machine.execFusedRecord fe s
  | .harvestElementWrite u raw => Sys2Proof.Machine.execHarvestElementWrite u raw s
  | .harvestSeqEvent u => Sys2Proof.Machine.execHarvestSeqEvent u s
  | .harvestSeqTimer u => Sys2Proof.Machine.execHarvestSeqTimer u s
  | .harvestArmTimeout u => Sys2Proof.Machine.execHarvestArmTimeout u s
  | .captureRecordDelivery u ecc => Sys2Proof.Machine.execCaptureRecordDelivery u ecc s
  | .tapWindowFill core tap => Sys2Proof.Machine.execTapWindowFill core tap s
  | .postDataRead core ecc => Sys2Proof.Machine.execPostDataRead core ecc s
  | .cooperTimer core => Sys2Proof.Machine.execCooperTimer core s
  | .interruptTake core => Sys2Proof.Machine.execInterruptTake core s
  | .nop core slot after => Sys2Proof.Machine.execNop core slot after s
  | .add a => Sys2Proof.Machine.execAdd a s
  | .sub a => Sys2Proof.Machine.execSub a s
  | .adds a => Sys2Proof.Machine.execAdds a s
  | .subs a => Sys2Proof.Machine.execSubs a s
  | .and a => Sys2Proof.Machine.execAnd a s
  | .or a => Sys2Proof.Machine.execOr a s
  | .xor a => Sys2Proof.Machine.execXor a s
  | .shl a => Sys2Proof.Machine.execShl a s
  | .shli a => Sys2Proof.Machine.execShli a s
  | .sra a => Sys2Proof.Machine.execSra a s
  | .srai a => Sys2Proof.Machine.execSrai a s
  | .srl a => Sys2Proof.Machine.execSrl a s
  | .srli a => Sys2Proof.Machine.execSrli a s
  | .mov a => Sys2Proof.Machine.execMov a s
  | .addi a => Sys2Proof.Machine.execAddi a s
  | .min a => Sys2Proof.Machine.execMin a s
  | .max a => Sys2Proof.Machine.execMax a s
  | .abs a => Sys2Proof.Machine.execAbs a s
  | .cmpeq a => Sys2Proof.Machine.execCmpeq a s
  | .cmplt a => Sys2Proof.Machine.execCmplt a s
  | .add2 a => Sys2Proof.Machine.execAdd2 a s
  | .sub2 a => Sys2Proof.Machine.execSub2 a s
  | .pack a => Sys2Proof.Machine.execPack a s
  | .mul a => Sys2Proof.Machine.execMul a s
  | .norm a => Sys2Proof.Machine.execNorm a s
  | .exp a => Sys2Proof.Machine.execExp a s
  | .mac a => Sys2Proof.Machine.execMac a s
  | .msu a => Sys2Proof.Machine.execMsu a s
  | .mpy a => Sys2Proof.Machine.execMpy a s
  | .mac2 a => Sys2Proof.Machine.execMac2 a s
  | .msu2 a => Sys2Proof.Machine.execMsu2 a s
  | .mpy2 a => Sys2Proof.Machine.execMpy2 a s
  | .rnd a => Sys2Proof.Machine.execRnd a s
  | .rndh a => Sys2Proof.Machine.execRndh a s
  | .expa a => Sys2Proof.Machine.execExpa a s
  | .ash a => Sys2Proof.Machine.execAsh a s
  | .clra a => Sys2Proof.Machine.execClra a s
  | .moval a => Sys2Proof.Machine.execMoval a s
  | .movah a => Sys2Proof.Machine.execMovah a s
  | .movag a => Sys2Proof.Machine.execMovag a s
  | .ldw a ecc => Sys2Proof.Machine.execLdw a ecc s
  | .ldh a ecc => Sys2Proof.Machine.execLdh a ecc s
  | .ldhu a ecc => Sys2Proof.Machine.execLdhu a ecc s
  | .ldd a ecc => Sys2Proof.Machine.execLdd a ecc s
  | .stw a => Sys2Proof.Machine.execStw a s
  | .sth a => Sys2Proof.Machine.execSth a s
  | .std a => Sys2Proof.Machine.execStd a s
  | .movp a => Sys2Proof.Machine.execMovp a s
  | .movg a => Sys2Proof.Machine.execMovg a s
  | .movm a => Sys2Proof.Machine.execMovm a s
  | .modp a => Sys2Proof.Machine.execModp a s
  | .br a => Sys2Proof.Machine.execBr a s
  | .brl a => Sys2Proof.Machine.execBrl a s
  | .jr a => Sys2Proof.Machine.execJr a s
  | .reti a => Sys2Proof.Machine.execReti a s
  | .loop a => Sys2Proof.Machine.execLoop a s
  | .repeat_ a => Sys2Proof.Machine.execRepeat a s
  | .mvc a => Sys2Proof.Machine.execMvc a s
  | .movi a => Sys2Proof.Machine.execMovi a s
  | .movhi a => Sys2Proof.Machine.execMovhi a s
  | .halt a => Sys2Proof.Machine.execHalt a s
  | .wait a => Sys2Proof.Machine.execWait a s
  | .post a => Sys2Proof.Machine.execPost a s
  | .taprel a => Sys2Proof.Machine.execTaprel a s
  | .descriptorFetch ring descs => Sys2Proof.Machine.execDescriptorFetch ring descs s
  | .dataBurst ring ecc => Sys2Proof.Machine.execDataBurst ring ecc s
  | .descriptorCompletion ring => Sys2Proof.Machine.execDescriptorCompletion ring s
  | .readCompletion ring burst data => Sys2Proof.Machine.execReadCompletion ring burst data s
  | .burstFailure ring err => Sys2Proof.Machine.execBurstFailure ring err s
  | .holdoffExpiry ring => Sys2Proof.Machine.execHoldoffExpiry ring s
  | .ringCommitApply ring => Sys2Proof.Machine.execRingCommitApply ring s
  | .refLost t => Sys2Proof.Machine.execRefLost t s
  | .refInEdgeReturn t => Sys2Proof.Machine.execRefInEdgeReturn t s
  | .refGateEnd t edges => Sys2Proof.Machine.execRefGateEnd t edges s
  | .relocked t => Sys2Proof.Machine.execRelocked t s
  | .ppsInEdge t falling => Sys2Proof.Machine.execPpsInEdge t falling s
  | .ppsLost => Sys2Proof.Machine.execPpsLost s
  | .ptmDialogue tSent tRecv t2 t32 ok0 => Sys2Proof.Machine.execPtmDialogue tSent tRecv t2 t32 ok0 s
  | .tiuStartEdge ch e sub => Sys2Proof.Machine.execTiuStartEdge ch e sub s
  | .tiuStopEdge ch e => Sys2Proof.Machine.execTiuStopEdge ch e s
  | .tiuClose ch => Sys2Proof.Machine.execTiuClose ch s
  | .tiuRearm ch => Sys2Proof.Machine.execTiuRearm ch s
  | .tiuArmTimeout ch => Sys2Proof.Machine.execTiuArmTimeout ch s
  | .tiuGateEnd ch single period count => Sys2Proof.Machine.execTiuGateEnd ch single period count s
  | .trigInEdge pin falling t => Sys2Proof.Machine.execTrigInEdge pin falling t s
  | .gpioEdge pin => Sys2Proof.Machine.execGpioEdge pin s
  | .sysrefEdge fe offset => Sys2Proof.Machine.execSysrefEdge fe offset s
  | .linkInitComplete fe link latestArrival => Sys2Proof.Machine.execLinkInitComplete fe link latestArrival s
  | .crc12Failure fe lane fromT toT => Sys2Proof.Machine.execCrc12Failure fe lane fromT toT s
  | .linkDown fe link t => Sys2Proof.Machine.execLinkDown fe link t s
  | .linkRetry fe link ok0 latestArrival => Sys2Proof.Machine.execLinkRetry fe link ok0 latestArrival s
  | .rateMismatch fe link => Sys2Proof.Machine.execRateMismatch fe link s
  | .peerLaneUp lane farMajor farMinor farNum => Sys2Proof.Machine.execPeerLaneUp lane farMajor farMinor farNum s
  | .peerLaneSilence lane => Sys2Proof.Machine.execPeerLaneSilence lane s
  | .idle f => Sys2Proof.Machine.execIdle f s
  | .linkHello f => Sys2Proof.Machine.execLinkHello f s
  | .syncReq f => Sys2Proof.Machine.execSyncReq f s
  | .syncResp f => Sys2Proof.Machine.execSyncResp f s
  | .syncReqTimer => Sys2Proof.Machine.execSyncReqTimer s
  | .zoneEvent f => Sys2Proof.Machine.execZoneEvent f s
  | .prepare f => Sys2Proof.Machine.execPrepare f s
  | .accept f => Sys2Proof.Machine.execAccept f s
  | .refuse f => Sys2Proof.Machine.execRefuse f s
  | .withdraw f => Sys2Proof.Machine.execWithdraw f s
  | .marginSample m => Sys2Proof.Machine.execMarginSample m s
  | .sheddingStep => Sys2Proof.Machine.execSheddingStep s
  | .sheddingRestore => Sys2Proof.Machine.execSheddingRestore s
  | .guardedModeChange crossing enter => Sys2Proof.Machine.execGuardedModeChange crossing enter s
  | .regionIsolation region => Sys2Proof.Machine.execRegionIsolation region s
  | .regulatorPoll rail p => Sys2Proof.Machine.execRegulatorPoll rail p s
  | .admissionGrant => Sys2Proof.Machine.execAdmissionGrant s
  | .admissionTimeout => Sys2Proof.Machine.execAdmissionTimeout s
  | .autoIdle => Sys2Proof.Machine.execAutoIdle s
  | .wakeEvent source measured => Sys2Proof.Machine.execWakeEvent source measured s
  | .wakeAt measured => Sys2Proof.Machine.execWakeAt measured s
  | .watchdogBite t => Sys2Proof.Machine.execWatchdogBite t s
  | .cpRestartComplete => Sys2Proof.Machine.execCpRestartComplete s
  | .cpRestartTimeout => Sys2Proof.Machine.execCpRestartTimeout s
  | .l3NotReady => Sys2Proof.Machine.execL3NotReady s
  | .heartbeatTimeout => Sys2Proof.Machine.execHeartbeatTimeout s
  | .thermtrip => Sys2Proof.Machine.execThermtrip s
  | .vintageRecompute raw => Sys2Proof.Machine.execVintageRecompute raw s
  | .cellarRefresh ch => Sys2Proof.Machine.execCellarRefresh ch s
  | .cellarTempRead ch hot => Sys2Proof.Machine.execCellarTempRead ch hot s
  | .writeDrain ch => Sys2Proof.Machine.execWriteDrain ch s
  | .auxCycleStart => Sys2Proof.Machine.execAuxCycleStart s
  | .auxConvstEdge falling => Sys2Proof.Machine.execAuxConvstEdge falling s
  | .auxConversionEnd volts => Sys2Proof.Machine.execAuxConversionEnd volts s
  | .auxResultRelease input => Sys2Proof.Machine.execAuxResultRelease input s
  | .excitationBreak src => Sys2Proof.Machine.execExcitationBreak src s
  | .excitationBreakClear src => Sys2Proof.Machine.execExcitationBreakClear src s
  | .powerDown => Sys2Proof.Machine.execPowerDown s
  | .perstNRelease => Sys2Proof.Machine.execPerstNRelease s
  | .commitTimeTargetReached => Sys2Proof.Machine.execCommitTimeTargetReached s
  | .operationTimeLimit sess seq => Sys2Proof.Machine.execOperationTimeLimit sess seq s
  | .cellarTrainStepComplete res => Sys2Proof.Machine.execCellarTrainStepComplete res s
  | .powerStateEntryComplete => Sys2Proof.Machine.execPowerStateEntryComplete s
  | .peerLaneLockLoss lane => Sys2Proof.Machine.execPeerLaneLockLoss lane s
  | .peerFrameCrcError lane => Sys2Proof.Machine.execPeerFrameCrcError lane s
  | .rawStreamLevelCrossing u x t invalid => Sys2Proof.Machine.execRawStreamLevelCrossing u x t invalid s

end Sys2Proof.Machine
end

