-- ==== Sys2Proof/Machine/Tick.lean ====
section
/-! DEFINITION. What the block does by itself while no command waits. -/

namespace Sys2Proof.Machine

/-- The vat masters that have work in progress, by their index in Table 13.1: running engines, Harvest, Racking, running cores, the Taster. -/
def vatMasters (s : State) : List Master :=
  ((List.finRange 4).filterMap fun (f : Fin 4) => if runOf (s.act 0x10 f.val) then some ⟨f.val, by omega⟩ else none) ++
  (if (List.finRange 4).any fun u => s.harv[u].st ≠ .idle then [4] else []) ++
  (if ringIds.any fun n => s.rings[n].cur.isSome then [5] else []) ++
  ((List.finRange 8).filterMap fun (c : Fin 8) => if s.core[c].st = .running then some ⟨6 + c.val, by omega⟩ else none) ++
  (if s.taster.run.isSome then [16] else [])

/-- The slots that masters waited for one another (R316, R317): which accesses meet in one slot is a matter of timing finer than commands, so
each count is a free value; where fewer than two masters work none waits (log entry 218). -/
def contend (s : State) : State :=
  let l := vatMasters s
  if l.length < 2 then s
  else { s with
    free := s.free + 1
    vat := { s.vat with
      confl := Vector.ofFn fun (i : Fin 17) => if l.contains i then addSat s.vat.confl[i] (Config.slotsWaited s.free i.val) else s.vat.confl[i] } }

/-- A lane in use on which nothing was sent for 1 µs transmits IDLE (R90). -/
def sendIdles (s : State) : State :=
  (List.finRange 4).foldl (fun s (l : Fin 4) =>
    if s.peer.lanes[l].st = .up && decide (s.peer.lanes[l].lastTx + 1000000 ≤ s.time.clk) then s.sendFrame l 0 1 [] else s) s

/-- A rotation comes on (R323): the spare holds the whole vat and serves it, then the vat is filled again from the spare. How long the copies
and the march tests take is not stated: each bundle time may end a stage, a free value says which. -/
def rotate (s : State) : State :=
  match s.vat.rotating with
  | none => s
  | some r =>
    let s1 := { s with free := s.free + 1 }
    if (Config.freeWord s.free 323).getLsbD 0 then
      { s1 with vat := { s1.vat with rotating := some { r with stage := match r.stage with | .mirror => .test | .test => .back | .back => .back } } }
    else s1

/-- One bundle time without a command: the clock moves 8 ns, every running core issues its next bundle or takes an interrupt, masters of the vats
wait for one another, a rotation comes on, silent lanes send IDLE, a power-cycle request that is due drives its
pin, and a waiting packet of unknown opcode whose turn has come is answered. -/
def idleTick (s : State) : State :=
  let s1 := s.goTo (s.time.clk + 8000)
  settleUnknown (cycleDue (sendIdles (rotate (contend ((List.finRange 8).foldl (fun s n => coreTick n s) s1)))))

end Sys2Proof.Machine
end

