-- ==== Sys2Proof/Safety.lean ====
section
/-! DEFINITION. What a safe run is, what holds of every state a run from reset reaches, and the words that statements about commands use:
whose turn it is, what an answer is, and what stays as it was. -/

namespace Sys2Proof.Machine

/-- The block goes on: its next step is neither a fault nor a refusal. -/
def Goes (s : State) : Prop := ∃ t, step s = .next t

/-- Every memory of the state is in canonical form. -/
def memsWf (s : State) : Bool :=
  s.vat.mem.wf && s.cellar.mem.wf && s.core.toList.all (fun c => c.im.wf && c.dm.wf) && s.life.slots.toList.all fun x => x.data.wf

/-- There are at most four sessions, none with id 0, no two with one id or on one transport (R33, R34). -/
def sessionsOk (s : State) : Bool :=
  s.proto.sessions.length ≤ 4 && s.proto.sessions.all (fun x => x.id ≠ 0) && decide (s.proto.sessions.map (·.id)).Nodup &&
    decide (s.proto.sessions.map (·.via)).Nodup

/-! ## Parts of the state -/

/-- The parts a frame names. `activity` is the power manager's record of activity (R434): RUN or IDLE, and since when the device is idle;
`power` is the rest of the power manager. -/
inductive Part where
  | time | peer | tiu | pcie | rings | proto | params | commits | vat | cellar | power | activity | life | core | fe | stream | zones | therm
  | harv | aux | vint | taster | free | out | pending
  deriving DecidableEq, Repr

/-- A part is the same in two states. -/
def Part.same (s t : State) : Part → Prop
  | .time => t.time = s.time
  | .peer => t.peer = s.peer
  | .tiu => t.tiu = s.tiu
  | .pcie => t.pcie = s.pcie
  | .rings => t.rings = s.rings
  | .proto => t.proto = s.proto
  | .params => t.params = s.params
  | .commits => t.commits = s.commits
  | .vat => t.vat = s.vat
  | .cellar => t.cellar = s.cellar
  | .power => { t.power with state := s.power.state, idleSince := s.power.idleSince } = s.power
  | .activity => t.power.state = s.power.state ∧ t.power.idleSince = s.power.idleSince
  | .life => t.life = s.life
  | .core => t.core = s.core
  | .fe => t.fe = s.fe
  | .stream => t.stream = s.stream
  | .zones => t.zones = s.zones
  | .therm => t.therm = s.therm
  | .harv => t.harv = s.harv
  | .aux => t.aux = s.aux
  | .vint => t.vint = s.vint
  | .taster => t.taster = s.taster
  | .free => t.free = s.free
  | .out => t.out = s.out
  | .pending => t.pending = s.pending

/-- Every part but the listed ones is the same; the record of activity follows R434 and may always change. -/
def Frame (changed : List Part) (s t : State) : Prop := ∀ p, p ≠ .activity → p ∉ changed → p.same s t

/-! ## Commands of the protocol -/

/-- The command's packet has arrived, its turn has come, no packet of unknown opcode waits before it, the CP runs in PHASE READY, and it passes steps
6-8 of Table 2.3. -/
structure Ready (code : Nat) (feats : List Nat) (lo hi : Nat) (r : Req) (s : State) : Prop where
  opcode : r.opcode = BitVec.ofNat 16 code
  waits : s.proto.waiting.contains r = true
  head : isHead s r = true
  turn : isTurn s r = true
  known : s.proto.waiting.all (fun q => knownOps.contains q.opcode.toNat) = true
  runs : cpRuns s = true
  ready : s.life.phase = 3
  free : sessionFree s r = true
  valid : sessionValid s r = true
  features : feats.all (hasFeature s r.sess) = true
  long : lo ≤ r.payload.length
  short : r.payload.length ≤ hi

/-- The command has left those that wait, and its session's turn is over. -/
def taken (r : Req) (s : State) : State := s.take r

/-- The reply to a command, with a status, a DETAIL and result words (R32, R43, R64). -/
def answered (r : Req) (st det : Nat) (ws : List Word) (s : State) : State :=
  s.answer r.via r.sess r.opcode r.seq false (statusWord st det :: ws)

/-- A command is answered now, from the state it leaves otherwise. -/
def Answers (c : Instr) (r : Req) (st det : Nat) (ws : List Word) (u s : State) : Prop :=
  exec c s = .next (answered r st det ws u).noteIdle

/-! ## Peer links -/

/-- A frame that no copy of came before, on a lane that is UP (R90). -/
abbrev Fresh (f : Sys2Proof.Frame) (s : State) : Prop := s.peer.lanes[f.lane].st = .up ∧ s.peer.lanes[f.lane].rxSeqs.contains f.fseq = false

/-- The state in which a frame acts: at its instant, its FSEQ remembered (R90). -/
def heard (f : Sys2Proof.Frame) (s : State) : State :=
  (s.goTo f.t).updLane f.lane fun x => { x with rxSeqs := (f.fseq :: x.rxSeqs).take 64 }

/-! ## Cooper cores -/

/-- A core whose next bundle has nothing else about it: it runs, with no loop, repetition, jump, stop or result under way, no slot given, no word of
its memories in error and no access from outside waiting. -/
structure Plain (c : Core) : Prop where
  runs : c.st = .running
  jump : c.jump = none
  rep : c.rep = none
  loop : ∀ l : Fin 2, c.loops[l].on = false
  stop : c.stopReq = false
  pause : c.pauseReq = false
  flight : c.flight = []
  asm : c.asm = {}
  good : c.imBad = [] ∧ c.dmBad = []
  alone : c.ext = []

/-- A plain core after a bundle without any effect of its own. -/
def afterBundle (c : Core) : Core := { c with pc := c.pc + 1, bundles := c.bundles + 1, aOld := c.a, asOld := c.as_ }

/-- A command issues a bundle that leaves its core as given; nothing else changes but the count of free values. -/
def Issues (c : Instr) (n : CoreId) (k : Core) (s : State) : Prop := exec c s = ok { s with core := s.core.set n k, free := s.free + 1 }

/-- The value `v` is visible in general register `d` of the next bundle. -/
def withG (c : Core) (d : BitVec 5) (v : Word) : Core := writePhys c c.inHandler (physG c d) v

/-- The value `v` comes to general register `d` in the bundle `k` bundles on. -/
def comesG (c : Core) (k : Nat) (d : BitVec 5) (v : Word) : Core :=
  { c with flight := [⟨k, .g c.inHandler (physG c d), v⟩] }

/-- A load/store slot's addressing is one that Table 12.5 gives, with its unused fields at 0 and no reserved modifier (R290, R295). -/
abbrev lsForm (c : Core) (b : BitVec 3) (md : BitVec 2) (off : BitVec 6) : Prop :=
  md = 0 ∧ off = 0 ∨ md = 1 ∧ off = 0 ∧ wbits c.m[b.toFin] 16 2 ≠ 3 ∨ md = 2

/-- Pointer `b` of the bank in use holds `v`. -/
def withP (c : Core) (b : BitVec 3) (v : BitVec 18) : Core :=
  if c.inHandler then { c with ps := c.ps.set b.toFin v } else { c with p := c.p.set b.toFin v }

/-- MODE 1 leaves its pointer post-modified, the other modes leave it as it was (R295). -/
def stepsP (c : Core) (b : BitVec 3) (md : BitVec 2) (seed : Nat) (k : Core) : Core :=
  if md = 1 then withP k b (postMod seed c.m[b.toFin] c.base[b.toFin] (preg c b)) else k

/-- A command stops its core in FAULT with a cause, with vector 45 + n and no effect of its bundle (R309): `k` is the core without the stop. -/
def Faults (c : Instr) (n : CoreId) (cause : BitVec 3) (k : Core) (s : State) : Prop :=
  ∃ t, exec c s = ok t ∧ t.core[n] = { k with st := .fault, cause := cause } ∧ (∀ m : CoreId, m ≠ n → t.core[m] = s.core[m]) ∧
    t.pcie.irqSum.getLsbD (45 + n.val) = true ∧ Frame [.core, .free, .power, .proto, .rings, .pcie, .out] s t

/-- A core that is plain but for its loops, its repetition and its delay slots. -/
def Flows (c : Core) : Prop := Plain { c with loops := Vector.replicate 2 {}, rep := none, jump := none }

/-- Corrected errors of a read are counted in the core's ECC_CORR (R286). -/
def metEcc (e : EccRead) (c : Core) : Core := { c with eccCorr := addSat c.eccCorr (if e = .corrected then 1 else 0) }

end Sys2Proof.Machine
end

