-- ==== Sys2Proof/Certificates/Slice0/Obligations.lean ====
section
/-! DEFINITION. The statements about the model that the provers take up. -/

open Sys2Proof Sys2Proof.Machine

/-! ## The block as a whole -/

/-- A step with a command at the front of the queue runs that command on the state with the rest of the queue. -/
def Obligations.StepRunsFront : Prop :=
  ∀ (c : Instr) (rest : List Instr) (s : State), step { s with pending := c :: rest } = exec c { s with pending := rest }

/-- No command touches the queue of waiting commands. -/
def Obligations.QueueUntouched : Prop :=
  ∀ (c : Instr) (s t : State), exec c s = .next t → t.pending = s.pending

/-- Every step keeps the sessions as R33 and R34 want them: at most four at once, each with an id of its own that is not 0, and at most one on a
transport, SMBus among them. -/
def Obligations.SessionsStay : Prop :=
  ∀ s t : State, sessionsOk s = true → step s = .next t → sessionsOk t = true

/-- Every step keeps every memory of the block (vats, Cellar, IM and DM of the cores, flash slots) in canonical form. -/
def Obligations.MemsStay : Prop :=
  ∀ s t : State, memsWf s = true → step s = .next t → memsWf t = true

/-- The reset state: no supplies; no session, no commit and no command; default parameter sets; canonical memories; device time 0 in holdover; every
core stopped, every capture unit idle, every ring at index 0, the Vat counters 0; RUN, with the core rails at 800 mV. -/
def Obligations.ResetState : Prop :=
  sessionsOk State.reset = true ∧ memsWf State.reset = true ∧ State.reset.proto.sessions = [] ∧
    (∀ c n : Nat, State.reset.act c n = dfltBlock (bid c n) ∧ State.reset.shad c n = dfltBlock (bid c n)) ∧
    State.reset.now = 0 ∧ State.reset.time.holdover = true ∧ State.reset.time.refLocked = false ∧
    (∀ c : CoreId, State.reset.core[c].st = .stopped) ∧ (∀ u : Fin 4, State.reset.harv[u].st = .idle) ∧
    (∀ n : RingId, State.reset.rings[n].prod = 0 ∧ State.reset.rings[n].cons = 0) ∧ State.reset.commits = [] ∧
    State.reset.power.state = 0 ∧ (∀ k : Fin 4, State.reset.power.rails[k].mv = 800) ∧ State.reset.pending = [] ∧
    (∀ i : Fin 17, State.reset.vat.confl[i] = 0) ∧ State.reset.life.powered = false

/-! ## Registers (R5, R6, R25, R31, R86, R317, R345, R349, R353, R364, R459) -/

/-- RC_REGISTER_READ of a ring's ITEMS counter answers it and leaves only what arrived during the read; nothing else changes. TIME_LATCH_READ of NOW's
low word answers device time and latches all of it, and a read of the high word answers the latch. A read of a reserved BAR2 address answers zeros
and changes nothing; a read of a vat's byte answers it (R6, R26, R86). -/
def Obligations.RegisterReads : Prop :=
  (∀ (n : RingId) (off : BitVec 20) (d : Nat) (s : State), hostLive s = true → inWarmReset s = false → off.toNat = 0x10010 + 64 * n.val →
    ∃ t, exec (.rcRegisterRead (.bar0 off) false d) s = ok t ∧ t.out = .readData (s.rings[n].items.zeroExtend 64) :: s.out ∧
      t.rings = s.rings.set n { s.rings[n] with items := satWord d } ∧ Frame [.rings, .out] s t) ∧
  (∀ s : State, hostLive s = true → inWarmReset s = false →
    ∃ t, exec (.timeLatchRead 0x008 false) s = ok t ∧ t.out = .readData ((s.now.extractLsb' 0 32).zeroExtend 64) :: s.out ∧
      t.time = { s.time with latNow := s.now } ∧ Frame [.time, .out] s t) ∧
  (∀ s : State, hostLive s = true → inWarmReset s = false →
    ∃ t, exec (.timeLatchRead 0x00C false) s = ok t ∧ t.out = .readData ((s.time.latNow.extractLsb' 32 32).zeroExtend 64) :: s.out ∧
      Frame [.out] s t) ∧
  (∀ (a : BitVec 28) (n : Nat) (e : EccRead) (s : State), hostLive s = true → inWarmReset s = false → 0xC800000 ≤ a.toNat →
    exec (.rcRegisterRead (.bar2 a n e) false 0) s = ok { s with out := .readBytes (List.replicate n 0) false :: s.out }) ∧
  (∀ (a : BitVec 28) (s : State), hostLive s = true → inWarmReset s = false → a.toNat < vatBytes → vatBad s a.toNat = false →
    exec (.rcRegisterRead (.bar2 a 1 .clean) false 0) s = ok { s with out := .readBytes [s.vatByte a.toNat] false :: s.out })

/-- REGISTER_WRITE: a whole aligned word of SCRATCH is stored; a one written to IRQ_SUM0 clears its bit, unless an event sets it in the same slot; a
word written to DOORBELL, HEARTBEAT or a ring's PROD does what the DOORBELL, HEARTBEAT or PROD_WRITE command does; a poisoned TLP, and a word written
in part, change nothing and are reported through AER; while no host is connected a write has no effect. -/
def Obligations.RegisterWrites : Prop :=
  (∀ (w : Word) (met : WriteMet) (s : State), hostLive s = true → inWarmReset s = false → met.badTlp = false →
    (exec (.registerWrite 0x018 0x0F (w.zeroExtend 64) false met) s = ok { s with pcie := { s.pcie with scratch := w } } ∧
    exec (.registerWrite 0x020 0x0F (w.zeroExtend 64) false met) s =
      ok { s with pcie := { s.pcie with
        irqSum := (s.pcie.irqSum &&& ~~~(w.zeroExtend 64)) ||| ((met.sameSlot.extractLsb' 0 32).zeroExtend 64) } } ∧
    exec (.registerWrite 0x010 0x0F (w.zeroExtend 64) false met) s = exec (.doorbell w met.indices) s ∧
    exec (.registerWrite 0x014 0x0F (w.zeroExtend 64) false met) s = exec .heartbeat s) ∧
    (∀ (n : RingId) (off : BitVec 20), off.toNat = 0x10000 + 64 * n.val → s.pcie.up = true →
      exec (.registerWrite off 0x0F (w.zeroExtend 64) false met) s = exec (.prodWrite n w) s)) ∧
  (∀ (off : BitVec 20) (be : BitVec 8) (d : BitVec 64) (wide : Bool) (met : WriteMet) (s : State), hostLive s = true → met.badTlp = true →
    exec (.registerWrite off be d wide met) s = ok { s with out := .aerNonFatal :: s.out }) ∧
  (∀ (off : BitVec 20) (d : BitVec 64) (met : WriteMet) (s : State), hostLive s = true → inWarmReset s = false → met.badTlp = false →
    exec (.registerWrite off 0x03 d false met) s = ok { s with out := .aerAdvisory :: s.out }) ∧
  (∀ (off : BitVec 20) (be : BitVec 8) (d : BitVec 64) (wide : Bool) (met : WriteMet) (s : State), hostLive s = false →
    exec (.registerWrite off be d wide met) s = ok s)

/-- CONFL_CLEAR clears the written counters but for an increment of the same slot; VAT_BIT_SET_WRITE and VAT_BIT_CLEAR_WRITE of one byte, by a master
that may write it in a word without error, OR it in or clear its set bits, and leave every other byte. -/
def Obligations.VatRegisters : Prop :=
  (∀ (m : Word) (inc : BitVec 17) (s : State) (i : Fin 17), ∃ t, exec (.conflClear m inc) s = ok t ∧ Frame [.vat] s t ∧
    (m.getLsbD i.val = true → t.vat.confl[i] = if inc.getLsbD i.val then 1 else 0)) ∧
  (∀ (m : Master) (a : BitVec 26) (b : Byte) (s : State), vatAllowed s.life.phase m a.toNat = true → vatBad s a.toNat = false →
    s.vat.mem.wf = true → a.toNat < vatBytes →
    (∃ t, exec (.vatBitSetWrite m a [some b]) s = ok t ∧ t.vat.mem.read a.toNat = s.vat.mem.read a.toNat ||| b ∧
      (∀ x, x ≠ a.toNat → t.vat.mem.read x = s.vat.mem.read x) ∧ Frame [.vat] s t) ∧
    (∃ t, exec (.vatBitClearWrite m a [some b]) s = ok t ∧ t.vat.mem.read a.toNat = s.vat.mem.read a.toNat &&& ~~~b ∧
      (∀ x, x ≠ a.toNat → t.vat.mem.read x = s.vat.mem.read x) ∧ Frame [.vat] s t))

/-- The producer index of a ring (R353): PROD_WRITE, or a DOORBELL bit of an enabled ring with a PROD_ADDR, whose 4 bytes it reads, offers one; it is accepted if its forward
distance from CONS is at most the ring's slots and at least that of the present index, and else only counted in BAD_INDEX; a DOORBELL bit of another
ring is ignored; a fetch goes by the latest accepted index. -/
def Obligations.ProducerIndices : Prop :=
  (∀ (n : RingId) (v : Word) (s : State), s.pcie.up = true → fwd s.rings[n].cons v ≤ rgSlots (ringBlk s n) →
    fwd s.rings[n].cons s.rings[n].prod ≤ fwd s.rings[n].cons v →
    exec (.prodWrite n v) s = ok { s with rings := s.rings.set n { s.rings[n] with prod := v } }) ∧
  (∀ (n : RingId) (v : Word) (s : State), s.pcie.up = true →
    (rgSlots (ringBlk s n) < fwd s.rings[n].cons v ∨ fwd s.rings[n].cons v < fwd s.rings[n].cons s.rings[n].prod) →
    exec (.prodWrite n v) s = ok { s with rings := s.rings.set n { s.rings[n] with badIndex := addSat s.rings[n].badIndex 1 } }) ∧
  (∀ (bits : Word) (idx : Vector Word 32) (s : State), hostLive s = true → inWarmReset s = false → 2 ≤ s.life.phase.val → busLive s = true →
    ∃ t, exec (.doorbell bits idx) s = ok t ∧ Frame [.rings, .out] s t ∧
    ∀ n : RingId, (t.rings[n] =
      if bits.getLsbD n.val = true ∧ rgEn (ringBlk s n) = true ∧ rgProdAddr (ringBlk s n) ≠ 0 then
        if fwd s.rings[n].cons idx[n] ≤ rgSlots (ringBlk s n) ∧ fwd s.rings[n].cons s.rings[n].prod ≤ fwd s.rings[n].cons idx[n] then
          { s.rings[n] with prod := idx[n] }
        else { s.rings[n] with badIndex := addSat s.rings[n].badIndex 1 }
      else s.rings[n]) ∧
      (bits.getLsbD n.val = true → rgEn (ringBlk s n) = true → rgProdAddr (ringBlk s n) ≠ 0 →
        Out.hostRead (rgProdAddr (ringBlk s n)) 4 ∈ t.out)) ∧
  (∀ (n : RingId) (d : Vector Word 8) (s : State), chanLive s n = true → s.power.entering = none →
    (fwd s.rings[n].cons s.rings[n].prod ≤ s.rings[n].descs.length → exec (.descriptorFetch n [d]) s = ok s) ∧
    (s.rings[n].descs.length < fwd s.rings[n].cons s.rings[n].prod →
      ∃ t, exec (.descriptorFetch n [d]) s = ok t ∧ t.rings[n].descs = s.rings[n].descs ++ [d] ∧ (∀ m : RingId, m ≠ n → t.rings[m] = s.rings[m]) ∧
        Frame [.rings, .out] s t))

/-- RESUME issues the failed burst again; SKIP completes the descriptor at CONS with DONE, its error and the bytes moved: CONS moves on by one, the
channel runs and no other ring changes; on a channel that is not halted neither does anything (R364). MSIX_UNMASK sends one message for events held
meanwhile (R31); a BAR2 write of one byte lands in DM of its core (R26). -/
def Obligations.RingControl : Prop :=
  ((∀ (n : RingId) (s : State), s.rings[n].halted = true → s.rings[n].reads = [] →
    exec (.resume n) s = ok { s with rings := s.rings.set n { s.rings[n] with halted := false, tries := 0 } }) ∧
  (∀ (n : RingId) (x : ReadBurst) (l : List ReadBurst) (s : State), s.rings[n].halted = true → s.rings[n].reads = x :: l →
    exec (.resume n) s = ok { s with
      rings := s.rings.set n { s.rings[n] with halted := false, tries := 0 }, out := .hostRead x.addr x.len :: s.out }) ∧
  (∀ (n : RingId) (d : Vector Word 8) (l : List (Vector Word 8)) (s : State), s.rings[n].halted = true → s.rings[n].cur = none →
    s.rings[n].descs = d :: l →
    ∃ t, exec (.skip n) s = ok t ∧ t.rings[n].cons = s.rings[n].cons + 1 ∧ t.rings[n].halted = false ∧ t.rings[n].descs = l ∧
      t.rings[n].items = s.rings[n].items ∧ (∀ m : RingId, m ≠ n → t.rings[m] = s.rings[m]) ∧
      Out.hostWrite (slotAddr (ringBlk s n) s.rings[n].cons + 24)
        (wordsBytes [word6 s.rings[n].done true s.rings[n].half s.rings[n].sop false s.rings[n].err.toNat]) false false false ∈ t.out ∧
      Frame [.rings, .out, .pcie] s t) ∧
  (∀ (n : RingId) (s : State), s.rings[n].halted = false → exec (.resume n) s = ok s ∧ exec (.skip n) s = ok s)) ∧
  ((∀ (v : Fin 64) (s : State), hostLive s = true → s.pcie.msixEn = true → s.pcie.pba.getLsbD v.val = true →
    ∃ t, exec (.msixUnmask v) s = ok t ∧ t.out = .msix v :: s.out ∧ t.pcie.pba.getLsbD v.val = false ∧ t.pcie.table[v].masked = false ∧
      Frame [.pcie, .out] s t) ∧
  (∀ (v : Fin 64) (s : State), hostLive s = true → s.pcie.pba.getLsbD v.val = false →
    ∃ t, exec (.msixUnmask v) s = ok t ∧ t.pcie.table[v].masked = false ∧ t.pcie.pba = s.pcie.pba ∧ Frame [.pcie] s t) ∧
  (∀ (n : CoreId) (o : Nat) (a : BitVec 28) (b : Byte) (s : State), hostLive s = true → inWarmReset s = false → 2 ≤ s.life.phase.val →
    s.taster.run = none → s.power.isolated.getLsbD 4 = false → o < 0x40000 → a.toNat = 0xC040000 + 0x100000 * n.val + o →
    ∃ t, exec (.bar2Write a [some b] false) s = ok t ∧
      t.core = s.core.set n { s.core[n] with dm := s.core[n].dm.write o b, ext := t.core[n].ext } ∧
      (s.core[n].st ≠ .running → t.core[n].ext = s.core[n].ext) ∧ Frame [.core] s t))

/-! ## Racking (R354-R372) -/

/-- DESCRIPTOR_FETCH: a live channel whose ring holds exactly one posted descriptor more than it has fetched reads that one, at the address of its
slot, and appends it (R358, R366). DATA_BURST of a command ring asks for the first bytes of the buffer at CONS; DESCRIPTOR_COMPLETION of a bulk
transfer that has moved whole writes word 6 with DONE and moves CONS; READ_COMPLETION gathers a command's bytes; a failed burst is retried while
retries are left, and halts the channel with its error and an event on vector 42 when none is left (R354, R358, R359, R363, R367). -/
def Obligations.DescriptorsAndBursts : Prop :=
  (∀ (n : RingId) (d : Vector Word 8) (s : State), chanLive s n = true → s.power.entering = none → unfetched s n = 1 → 0 < rgSlots (ringBlk s n) →
    ∃ t, exec (.descriptorFetch n [d]) s = ok t ∧ t.rings = s.rings.set n { s.rings[n] with descs := s.rings[n].descs ++ [d], tries := 0 } ∧
      t.out = .hostRead (slotAddr (ringBlk s n) (s.rings[n].cons + BitVec.ofNat 32 s.rings[n].descs.length)) 32 :: s.out ∧
      Frame [.rings, .out] s t) ∧
  ((∀ (n : RingId) (d : Vector Word 8) (l : List (Vector Word 8)) (s : State), chanLive s n = true → rgKind (ringBlk s n) = 0 →
    s.rings[n].descs = d :: l → s.rings[n].reads = [] → s.rings[n].done = 0 → s.rings[n].gathered = [] → dsBad 0 d = false →
    16 ≤ burstOf (dsHost d) (dsLen d) → readsOut s < 32 →
    ∃ t, exec (.dataBurst n .clean) s = ok t ∧ t.out = .hostRead (dsHost d) 16 :: s.out ∧
      t.rings[n].reads = [⟨s.rings[n].readNo, dsHost d, 16, none⟩] ∧ (∀ m : RingId, m ≠ n → t.rings[m] = s.rings[m]) ∧ Frame [.rings, .out] s t) ∧
  (∀ (n : RingId) (d : Vector Word 8) (l : List (Vector Word 8)) (s : State), chanLive s n = true → rgKind (ringBlk s n) = 5 →
    s.rings[n].descs = d :: l → s.rings[n].reads = [] → s.rings[n].done = dsLen d → 0 < dsLen d → dsBad 5 d = false →
    ∃ t, exec (.descriptorCompletion n) s = ok t ∧ t.rings[n].cons = s.rings[n].cons + 1 ∧ t.rings[n].descs = l ∧ t.rings[n].done = 0 ∧
      t.rings[n].items = addSat s.rings[n].items 1 ∧ (∀ m : RingId, m ≠ n → t.rings[m] = s.rings[m]) ∧
      Out.hostWrite (slotAddr (ringBlk s n) s.rings[n].cons + 24)
        (wordsBytes [word6 s.rings[n].done true s.rings[n].half s.rings[n].sop false 0]) false false false ∈ t.out ∧
      Frame [.rings, .out, .pcie] s t) ∧
  (∀ (n : RingId) (d : Vector Word 8) (l : List (Vector Word 8)) (no : Nat) (a : BitVec 64) (data : List Byte) (s : State), busLive s = true →
    s.rings[n].halted = false → rgKind (ringBlk s n) = 0 → s.rings[n].descs = d :: l → s.rings[n].reads = [⟨no, a, data.length, none⟩] →
    exec (.readCompletion n no data) s = ok { s with rings := s.rings.set n { s.rings[n] with
      reads := [], tries := 0, gathered := s.rings[n].gathered ++ data, done := s.rings[n].done + data.length } }) ∧
  (∀ (n : RingId) (e : Fin 4) (x : ReadBurst) (l : List ReadBurst) (s : State), chanLive s n = true → s.rings[n].reads = x :: l →
    s.rings[n].tries < rgRetry (ringBlk s n) →
    ∃ t, exec (.burstFailure n e) s = ok t ∧ t.out = .hostRead x.addr x.len :: s.out ∧ t.rings[n].tries = s.rings[n].tries + 1 ∧
      t.rings[n].err = BitVec.ofNat 4 (e.val + 1) ∧ t.rings[n].halted = false ∧ Frame [.rings, .out] s t) ∧
  (∀ (n : RingId) (e : Fin 4) (x : ReadBurst) (l : List ReadBurst) (s : State), chanLive s n = true → s.rings[n].reads = x :: l →
    rgRetry (ringBlk s n) ≤ s.rings[n].tries →
    ∃ t, exec (.burstFailure n e) s = ok t ∧ t.rings[n].halted = true ∧ t.rings[n].err = BitVec.ofNat 4 (e.val + 1) ∧
      t.pcie.irqSum.getLsbD 42 = true ∧ (∀ m : RingId, m ≠ n → t.rings[m] = s.rings[m]) ∧ Frame [.rings, .out, .pcie] s t))

/-- HOLDOFF_EXPIRY sends one message for the events merged meanwhile (R370); RING_COMMIT_APPLY makes a changed RING set active between two bursts
(R372). -/
def Obligations.RingTimers : Prop :=
  (∀ (n : RingId) (e : Nat) (s : State), s.rings[n].holdoff = some e → s.rings[n].merged = true → s.pcie.msixEn = true →
    s.pcie.table[vecRing n].masked = false →
    ∃ t, exec (.holdoffExpiry n) s = ok t ∧ t.out = .msix (vecRing n) :: s.out ∧ t.rings[n].merged = false ∧ t.time.clk = max s.time.clk e ∧
      Frame [.time, .rings, .out] s t) ∧
  (∀ (n : RingId) (e : Nat) (s : State), s.rings[n].holdoff = some e → s.rings[n].merged = false →
    ∃ t, exec (.holdoffExpiry n) s = ok t ∧ t.rings[n].holdoff = none ∧ Frame [.time, .rings] s t) ∧
  (∀ (n : RingId) (s : State), (∃ c ∈ s.commits, localDue c s.now = true ∧ bid 0x80 n.val ∈ c.left) → rgEn (ringBlk s n) = true →
    rgEn (s.shad 0x80 n.val) = true → ∃ t, exec (.ringCommitApply n) s = ok t ∧ t.act 0x80 n.val = s.shad 0x80 n.val)

/-- Deliveries to the host: REPLY_DELIVERY of a reply that the first descriptor holds whole writes its bytes at the buffer's address and leaves the
queue without it; STREAM_RECORD_DELIVERY, CAPTURE_RECORD_DELIVERY and POST_DATA_READ begin their oldest record on its ring where the descriptors hold
it (R195, R196, R261, R305, R356). -/
def Obligations.Deliveries : Prop :=
  (∀ (n : RingId) (d : Vector Word 8) (i : Item) (s : State), chanLive s n = true → rgKind (ringBlk s n) = 1 → dsBad 1 d = false →
    s.rings[n].descs = [d] → s.rings[n].cur = none → s.rings[n].queue = [i] → i.tag = 0 → s.rings[n].done = 0 → s.rings[n].reads = [] →
    0 < i.bytes.length → i.bytes.length ≤ burstOf (dsHost d) (dsLen d) → s.life.phase = 3 → s.power.entering = none →
    ∃ t, exec (.replyDelivery n) s = ok t ∧ t.rings[n].queue = [] ∧ t.rings[n].cur = none ∧ t.rings[n].cons = s.rings[n].cons + 1 ∧
      (∃ ro ns, Out.hostWrite (dsHost d) i.bytes ro ns false ∈ t.out) ∧ Frame [.rings, .out, .pcie] s t) ∧
  (∀ (st : StreamId) (x : Rec) (l : List Rec) (s : State), s.stream[st].queue = x :: l → (∀ y ∈ x :: l, y.begun = false) →
    canBegin s (stRing (s.act 0x14 st.val)) (convertRec (rgFmt (ringBlk s (stRing (s.act 0x14 st.val)))) (recordBytes s x)).1.length = true →
    ∃ t, exec (.streamRecordDelivery st) s = ok t ∧ t.stream[st].queue = { x with begun := true } :: l ∧
      t.rings[stRing (s.act 0x14 st.val)].cur =
        some (⟨(convertRec (rgFmt (ringBlk s (stRing (s.act 0x14 st.val)))) (recordBytes s x)).1, 0, 3, st.val⟩, 0) ∧
      Frame [.rings, .stream] s t) ∧
  (∀ (u : Fin 4) (s : State), s.harv[u].st = .reading → (∀ n : RingId, s.rings[n].cur = none) →
    canBegin s (hvRing s.harv[u].set) (convertRec (rgFmt (ringBlk s (hvRing s.harv[u].set))) (captureRecord s u s.harv[u].sent [])).1.length = true →
    ∃ t, exec (.captureRecordDelivery u []) s = ok t ∧
      t.rings[hvRing s.harv[u].set].cur =
        some (⟨(convertRec (rgFmt (ringBlk s (hvRing s.harv[u].set))) (captureRecord s u s.harv[u].sent [])).1, 0, 4, u.val⟩, 0) ∧
      Frame [.rings] s t) ∧
  (∀ (n : CoreId) (p : Post) (l : List Post) (k : RingId) (s : State), s.core[n].posts = p :: l → p.ring = some k → rgFmt (ringBlk s k) = 0 →
    s.core[n].dmBad = [] →
    canBegin s k (32 + (pad32 (s.core[n].dm.readN (wordAt p.desc 0).toNat (wordAt p.desc 1).toNat)).length) = true →
    ∃ t, exec (.postDataRead n .clean) s = ok t ∧ t.core[n].posts = l ∧ t.core[n].rseq = s.core[n].rseq + 1 ∧ t.core[n].ipend.getLsbD 3 = true ∧
      t.rings[k].cur.isSome = true ∧ (∀ m : CoreId, m ≠ n → t.core[m] = s.core[m]) ∧ Frame [.rings, .core] s t)

/-! ## Endpoint and SMBus (R24, R70, R71, R346, R347, R476, R478) -/

/-- FUNCTION_LEVEL_RESET with the link up and the device awake: every RING set is at its defaults and every ring at reset, and acquisition, zones,
captures, cores and thermal profiling are untouched where no item was in progress and no commit waits; D3HOT_ENTRY and D0_RESUME keep every register
and set; ASPM_L1_REQUEST goes out while no channel has work; PERST_N takes the link down and up. -/
def Obligations.EndpointResets : Prop :=
  (∀ s : State, s.pcie.up = true → s.power.entering = none → s.power.state.val ≤ 1 → (∀ n : RingId, s.rings[n].cur = none) → s.commits = [] →
    ∃ t, exec .functionLevelReset s = ok t ∧ (∀ n : RingId, t.act 0x80 n.val = dfltBlock (bid 0x80 n.val)) ∧
      (∀ n : RingId, t.shad 0x80 n.val = dfltBlock (bid 0x80 n.val)) ∧ (∀ n : RingId, t.rings[n] = {}) ∧ t.pcie.irqSum = 0 ∧ t.pcie.scratch = 0 ∧
      t.pcie.up = true ∧ Frame [.rings, .pcie, .params, .proto, .out, .peer, .power, .aux] s t) ∧
  (∀ s : State, s.pcie.up = true → exec .d3hotEntry s = ok { s with pcie := { s.pcie with d3hot := true } }) ∧
  (∀ s : State, exec .d0Resume s = ok { s with pcie := { s.pcie with d3hot := false } }) ∧
  (∀ s : State, s.pcie.up = true → s.pcie.d3hot = false → s.pcie.pba = 0 → (∀ n : RingId, ringWork s n = false) →
    exec .aspmL1Request s = ok { s with out := .l1Request :: s.out }) ∧
  (∀ s : State, ∃ t, exec .perstNAssert s = ok t ∧ t.pcie.up = false ∧ t.pcie.perst = true) ∧
  (∀ s : State, s.life.powered = true → s.life.inReset = false → s.life.straps.testMode = false → s.life.thermtrip = false →
    s.power.state ≠ 5 → s.pcie.wakeN = false →
    exec .perstNRelease s = ok { s with pcie := { s.pcie with perst := false, up := true } })

/-- PACKET_OUT gives the oldest item and releases the alert with the last; LINK_STATUS answers whether something waits, is busy, or was discarded, and
clears the discard bit; SMBUS_ALERT_RESPONSE answers the device address while the alert is driven; PACKET_IN with a good PEC while the CP does not run
is kept for it, with a bad one is not acknowledged (R70, R71, R476). COMMAND_PACKET_ARRIVAL on an enabled command ring while the CP runs: a packet
with a bad CRC is refused BAD_PARAM, CRC, and a well-formed new command of a valid session joins those that wait and marks its sequence number used,
or is answered BAD_OPCODE where no table gives its opcode; while the CP does not run the packet stays in its ring (R24, R38, R41, R42). -/
def Obligations.PacketsIn : Prop :=
  ((∀ (i j : SmbItem) (l : List SmbItem) (s : State), smbusLive s = true → s.proto.smb = i :: j :: l →
    exec .packetOut s = ok { s with proto := { s.proto with smb := j :: l }, out := .smbusBlock i.bytes :: s.out }) ∧
  (∀ (i : SmbItem) (s : State), smbusLive s = true → s.proto.smb = [i] →
    exec .packetOut s = ok { s with
      proto := { s.proto with smb := [] }, out := .pin .smbAlertN true :: .smbusBlock i.bytes :: s.out }) ∧
  (∀ s : State, smbusLive s = true →
    exec .linkStatus s = ok { s with
      proto := { s.proto with smbDiscard := false }
      out := .smbusByte (BitVec.ofNat 8 ((!s.proto.smb.isEmpty).toNat + 2 * (smbusBusy s).toNat + 4 * s.proto.smbDiscard.toNat)) :: s.out }) ∧
  (∀ (i : SmbItem) (l : List SmbItem) (s : State), smbusLive s = true → s.proto.smb = i :: l →
    exec .smbusAlertResponse s = ok { s with out := .smbusByte (BitVec.ofNat 8 (0x58 + s.life.straps.smbAddr.toNat)) :: s.out }) ∧
  (∀ (b : List Byte) (s : State), smbusLive s = true → 3 ≤ s.life.phase.val → s.life.running ≠ none → s.proto.smb = [] → b.length ≤ 255 →
    cpRuns s = false → exec (.packetIn b true) s = ok { s with proto := { s.proto with heldIn := s.proto.heldIn ++ [(.smbus, b)] } }) ∧
  (∀ (b : List Byte) (s : State), smbusLive s = true → 3 ≤ s.life.phase.val → s.life.running ≠ none →
    exec (.packetIn b false) s = ok { s with proto := { s.proto with smbDiscard := true }, out := .smbusNak :: s.out })) ∧
  ((∀ (n : RingId) (buf : List Byte) (r : Req) (len ver : Nat) (w2 : Word) (s : State), cpRuns s = true → rgEn (ringBlk s n) = true →
    rgKind (ringBlk s n) = 0 → parseReq (.ring n) buf = (r, len, ver, w2) → len ≤ 16384 → 16 + 4 * len ≤ buf.length →
    crc32c (wordsBytes r.payload) ≠ r.crc → s.proto.waiting.all (fun q => knownOps.contains q.opcode.toNat) = true →
    exec (.commandPacketArrival (.ring n) buf) s = ok (s.refuse r stBadParam dtCrc)) ∧
  (∀ (n : RingId) (buf : List Byte) (r : Req) (len ver : Nat) (w2 : Word) (x : Session) (s : State), cpRuns s = true →
    rgEn (ringBlk s n) = true → rgKind (ringBlk s n) = 0 → parseReq (.ring n) buf = (r, len, ver, w2) → len ≤ 16384 → 16 + 4 * len ≤ buf.length →
    crc32c (wordsBytes r.payload) = r.crc → r.sess ≠ 0 → s.session r.sess = some x → x.via = r.via → wbits w2 16 2 = 0 → wbits w2 19 5 = 0 →
    ver = x.minor + x.major * 256 → judgeSeq x r = .new → s.proto.waiting.all (fun q => knownOps.contains q.opcode.toNat) = true →
    knownOps.contains r.opcode.toNat = true →
    ∃ t, exec (.commandPacketArrival (.ring n) buf) s = ok t ∧ t.proto.waiting = s.proto.waiting ++ [r] ∧
      t.session r.sess = some (useSeq x r) ∧ Frame [.proto] s t) ∧
  (∀ (n : RingId) (buf : List Byte) (r : Req) (len ver : Nat) (w2 : Word) (x : Session) (s : State), cpRuns s = true →
    rgEn (ringBlk s n) = true → rgKind (ringBlk s n) = 0 → parseReq (.ring n) buf = (r, len, ver, w2) → len ≤ 16384 → 16 + 4 * len ≤ buf.length →
    crc32c (wordsBytes r.payload) = r.crc → r.sess ≠ 0 → s.session r.sess = some x → x.via = r.via → wbits w2 16 2 = 0 → wbits w2 19 5 = 0 →
    ver = x.minor + x.major * 256 → judgeSeq x r = .new → s.proto.waiting = [] → knownOps.contains r.opcode.toNat = false →
    heldItems s x < 64 → s.life.phase = 3 →
    ∃ t y, exec (.commandPacketArrival (.ring n) buf) s = ok t ∧ t.proto.waiting = [] ∧ t.session r.sess = some y ∧
      y.cache.find? (fun e => e.seq = r.seq) = some ⟨r.seq, r.opcode, r.crc, some [statusWord stBadOpcode 0]⟩ ∧ Frame [.proto, .rings, .out] s t) ∧
  (∀ (n : RingId) (buf : List Byte) (s : State), cpRuns s = false → rgEn (ringBlk s n) = true → rgKind (ringBlk s n) = 0 →
    exec (.commandPacketArrival (.ring n) buf) s = ok { s with proto := { s.proto with heldIn := s.proto.heldIn ++ [(.ring n, buf)] } }))


/-! ## Life cycle (R435-R459, R464, R465, R477, R481, R482, R493) -/

/-- Power and RESET_N. POWER_ON samples the straps and waits with RESET_N low; RESET_N_ASSERT puts time, parameters, sessions, rings, Vats, Cellar,
cores, captures, zones and commits at their reset values and keeps flash and fuses (R453); RESET_N_RELEASE samples the straps and boots: with BOOT_SEL
0 and no VALID or TRIAL slot the device stops in PHASE 5, a VALID slot alone with a valid image is started (R446), and with BOOT_SEL 1 the host is
waited for (R448); POWER_DOWN keeps flash and fuses. THERMTRIP drives THERMTRIP_N low, stops every JESD and peer lane and the PCIe link, and touches
no parameter, memory, core or capture (R493). -/
def Obligations.PowerAndResetPins : Prop :=
  ((∀ (st : Straps) (s : State), s.life.powered = false → ∃ t, exec (.powerOn st) s = ok t ∧ t.life.powered = true ∧ t.life.inReset = true ∧
    t.life.straps = st ∧ t.life.slots = s.life.slots ∧ t.life.fuseRollback = s.life.fuseRollback ∧ t.params = State.reset.params ∧
    t.proto = State.reset.proto ∧ t.commits = [] ∧ t.pending = s.pending) ∧
  (∀ s : State, s.life.powered = true → s.life.inReset = false → ∃ t, exec .resetNAssert s = ok t ∧ t.life.inReset = true ∧ t.life.cause = 1 ∧
    t.life.slots = s.life.slots ∧ t.life.fuseRollback = s.life.fuseRollback ∧ t.vint.factory = s.vint.factory ∧ t.vint.fld = s.vint.fld ∧
    t.time = State.reset.time ∧ t.params = State.reset.params ∧ t.proto = State.reset.proto ∧ t.rings = State.reset.rings ∧
    t.vat = State.reset.vat ∧ t.cellar = State.reset.cellar ∧ t.core = State.reset.core ∧ t.harv = State.reset.harv ∧
    t.zones = State.reset.zones ∧ t.commits = [] ∧ t.pending = s.pending) ∧
  (∀ (st : Straps) (s : State), s.life.powered = true → s.life.inReset = true → s.life.straps.testMode = false → s.life.pwrCycle = false →
    st.bootSel = 0 → (∀ k : Fin 2, s.life.slots[k].st = .empty) →
    ∃ t, exec (.resetNRelease st) s = ok t ∧ t.life.inReset = false ∧ t.life.phase = 5 ∧ t.life.running = none) ∧
  (∀ (st : Straps) (i : Image) (s : State), s.life.powered = true → s.life.inReset = true → s.life.straps.testMode = false →
    s.life.pwrCycle = false → st.bootSel = 0 → s.life.slots[0].st = .valid → s.life.slots[1].st = .empty →
    validImage s.life false s.life.slots[0].data slotBytes = some i →
    ∃ t, exec (.resetNRelease st) s = ok t ∧ t.life.inReset = false ∧ t.life.phase = 1 ∧ t.life.running = some (i, 0) ∧
      t.life.slots = s.life.slots ∧ t.life.fallback = false) ∧
  (∀ (st : Straps) (s : State), s.life.powered = true → s.life.inReset = true → s.life.straps.testMode = false → s.life.pwrCycle = false →
    st.bootSel = 1 → ∃ t, exec (.resetNRelease st) s = ok t ∧ t.life.inReset = false ∧ t.life.phase = 1 ∧ t.life.hostWait = true ∧
      t.life.running = none ∧ t.life.straps.smbAddr = st.smbAddr ∧ t.life.slots = s.life.slots) ∧
  (∀ s : State, ∃ t, exec .powerDown s = ok t ∧ t.life.powered = false ∧ t.life.slots = s.life.slots ∧
    t.life.fuseRollback = s.life.fuseRollback ∧ t.vint.fld = s.vint.fld ∧ t.vint.factory = s.vint.factory ∧ t.params = State.reset.params ∧
    t.proto = State.reset.proto ∧ t.vat = State.reset.vat ∧ t.cellar = State.reset.cellar ∧ t.pending = s.pending)) ∧
  (∀ s : State, s.life.powered = true → s.life.thermtrip = false → ∃ t, exec .thermtrip s = ok t ∧ t.life.thermtrip = true ∧ t.pcie.up = false ∧
    (∀ l : Fin 4, t.peer.lanes[l].st = .down) ∧ (∀ (f : Fe) (k : Fin 3), t.fe[f].links[k] = .off) ∧ Out.pin .thermtripN false ∈ t.out ∧
    Frame [.life, .pcie, .peer, .fe, .zones, .aux, .out] s t)

/-- Start-up: HOST_IMAGE_VERIFY takes a valid host image and answers an invalid one with SCRATCH all ones (R449); FIRMWARE_START enters PHASE 2, or 5
where a Cellar training step failed (R450, R451); READY_REACHED enters PHASE 3 and records when (R450, R452). -/
def Obligations.StartUp : Prop :=
  (∀ (i : Image) (s : State), s.life.hostWait = true → hostLive s = true →
    validImage s.life (s.life.straps.bootSel = 3) s.vat.mem s.pcie.scratch.toNat = some i →
    exec .hostImageVerify s = ok { s with life := { s.life with running := some (i, 2), hostWait := false } }) ∧
  (∀ s : State, s.life.hostWait = true → hostLive s = true →
    validImage s.life (s.life.straps.bootSel = 3) s.vat.mem s.pcie.scratch.toNat = none →
    exec .hostImageVerify s = ok { s with pcie := { s.pcie with scratch := 0xFFFFFFFF } }) ∧
  (∀ (e : StartEnv) (s : State), s.life.phase = 1 → s.life.hostWait = false → s.life.running.isSome = true → densityOk e.densityMib = true →
    ∃ t, exec (.firmwareStart e) s = ok t ∧ t.life.phase = (if e.trainFailed then 5 else 2) ∧ t.life.cellarFault = e.trainFailed ∧
      t.pcie.busStopped = false ∧ t.act 0xC0 0 = powerSetOf e.powerSet ∧ (∀ c : Fin 4, t.cellar.ch[c].densityMib = e.densityMib[c]) ∧
      Frame [.life, .pcie, .params, .cellar] s t) ∧
  (∀ (failed : Bool) (s : State), s.life.phase = 2 → ∃ t, exec (.readyReached failed) s = ok t ∧ t.life.phase = 3 ∧
    t.life.selfcalFailed = failed ∧ t.life.readyTime = s.now ∧ t.aux.selfValid = (!failed || s.aux.selfValid) ∧
    t.params = s.params ∧ t.proto = s.proto ∧ t.rings = s.rings ∧ t.vat = s.vat ∧ t.core = s.core ∧ t.harv = s.harv)

/-- The recovery ladder: a first watchdog bite restarts the CP (PHASE 4, vector 42); a second within 10 s announces a level-3 reset 1 ms later; the CP
back within its time returns to PHASE 3, and not back it announces one too; a level-3 reset not READY within 2 s asks for a power cycle where AUTO_L4
was set and stops in PHASE 5 (R456). The heartbeat: with HB_TIMEOUT set, a write of HEARTBEAT in PHASE 3 arms it; a missed one disarms it and raises
vector 42, announces a level-3 reset with cause 4, or drives PWR_CYCLE_REQ_N low, as HB_ACTION selects (R459). The 1 ms is that of 18.5's example. -/
def Obligations.RecoveryLadder : Prop :=
  (∀ (w : Nat) (s : State), 3 ≤ s.life.phase.val → s.life.running.isSome = true → s.life.pwrCycle = false → s.life.pendReset = none →
    s.power.state.val ≤ 1 → s.life.previous = none → liveOp s = none → s.life.lastBite = none →
    ∃ t, exec (.watchdogBite w) s = ok t ∧ t.life.phase = 4 ∧ t.life.cpRestart = some (max s.time.clk w) ∧ t.life.pendReset = none ∧
      t.pcie.irqSum.getLsbD 42 = true ∧ Frame [.time, .life, .pcie, .out] s t) ∧
  (∀ (w b : Nat) (s : State), 3 ≤ s.life.phase.val → s.life.running.isSome = true → s.life.pwrCycle = false → s.life.pendReset = none →
    s.power.state.val ≤ 1 → s.life.previous = none → liveOp s = none → s.life.lastBite = some b → max s.time.clk w < b + 10 ^ 13 →
    ∃ t, exec (.watchdogBite w) s = ok t ∧
      t.life.pendReset = some ⟨max s.time.clk w + 10 ^ 9, syKeep (syBlk s), 3⟩ ∧ Frame [.time, .life, .pcie, .out] s t) ∧
  (∀ (w : Nat) (s : State), s.life.phase = 4 → s.life.cpRestart = some w → s.life.backTo5 = false → s.power.state.val ≤ 1 → liveOp s = none →
    s.life.activating = none → s.proto.heldIn = [] → s.proto.smbLater = [] →
    exec .cpRestartComplete s = ok { s with life := { s.life with phase := 3, cpRestart := none } }) ∧
  (∀ (w : Nat) (s : State), s.life.phase = 4 → s.life.cpRestart = some w → liveOp s = none → s.life.pendReset = none →
    ∃ t, exec .cpRestartTimeout s = ok t ∧ t.time.clk = max s.time.clk (w + 2 * 10 ^ 11) ∧
      t.life.pendReset = some ⟨t.time.clk + 10 ^ 9, syKeep (syBlk s), 3⟩ ∧ t.life.cpRestart = none ∧ Frame [.time, .life] s t) ∧
  (∀ (w : Nat) (s : State), s.life.l3Since = some w → s.life.phase.val < 3 → s.life.autoL4 = true → s.life.pwrCycle = false →
    ∃ t, exec .l3NotReady s = ok t ∧ t.life.pwrCycle = true ∧ t.life.phase = 5 ∧ t.out = .pin .pwrCycleReqN false :: s.out ∧
      Frame [.time, .life, .out] s t) ∧
  (∀ (w : Nat) (s : State), s.life.l3Since = some w → s.life.phase.val < 3 → s.life.autoL4 = false →
    ∃ t, exec .l3NotReady s = ok t ∧ t.life.phase = 5 ∧ t.life.pwrCycle = s.life.pwrCycle ∧ Frame [.time, .life] s t) ∧
  (∀ (w : Nat) (s : State), s.life.heartbeat = some w → syTimeout (syBlk s) ≠ 0 → s.life.pendReset = none → syAction (syBlk s) = 0 →
    ∃ t, exec .heartbeatTimeout s = ok t ∧ t.time.clk = max s.time.clk (w + syTimeout (syBlk s) * 10 ^ 9) ∧ t.life.heartbeat = none ∧
      t.life.pendReset = none ∧ t.pcie.irqSum.getLsbD 42 = true ∧ Frame [.time, .life, .pcie, .out] s t) ∧
  (∀ (w : Nat) (s : State), s.life.heartbeat = some w → syTimeout (syBlk s) ≠ 0 → s.life.pendReset = none → syAction (syBlk s) = 1 →
    ∃ t, exec .heartbeatTimeout s = ok t ∧ t.time.clk = max s.time.clk (w + syTimeout (syBlk s) * 10 ^ 9) ∧ t.life.heartbeat = none ∧
      t.life.pendReset = some ⟨t.time.clk + 10 ^ 9, syKeep (syBlk s), 4⟩ ∧ Frame [.time, .life] s t) ∧
  (∀ s : State, hostLive s = true → inWarmReset s = false → s.life.phase = 3 → syTimeout (syBlk s) ≠ 0 →
    exec .heartbeat s = ok { s with life := { s.life with heartbeat := some s.time.clk } }) ∧
  (∀ (w : Nat) (s : State), s.life.heartbeat = some w → syTimeout (syBlk s) ≠ 0 → s.life.pendReset = none → syAction (syBlk s) = 2 →
    s.life.pwrCycle = false →
    ∃ t, exec .heartbeatTimeout s = ok t ∧ t.time.clk = max s.time.clk (w + syTimeout (syBlk s) * 10 ^ 9) ∧ t.life.heartbeat = none ∧
      t.life.pwrCycle = true ∧ t.out = .pin .pwrCycleReqN false :: s.out ∧ Frame [.time, .life, .out] s t)

/-- DEV_RESET answers OK and announces a reset 1 ms later with KEEP of its payload; POWER_CYCLE_REQ answers OK and sets its pin's instant; WARM_RESET
of an announced reset within the limit puts every parameter set, ring, core and zone at its reset value, keeps the PCIe link, and keeps the Cellar and
completed captures where it was announced so; beyond the limit the device stays in PHASE 5 instead (R454, R456, R468). FUNC_REINIT: of a ring answers
OK, halts no other ring and disables and enables the named one; of an engine waits for its next boundary; a core 8 is BAD_PARAM naming payload word 0.
LC_STATUS changes nothing (R452, R457, R468). -/
def Obligations.CommandedResets : Prop :=
  ((∀ (r : Req) (s : State), Ready 0x0C03 [] 1 1 r s → (wordAt r.payload 0).toNat ≤ 1 → s.life.pendReset = none →
    Answers (.devReset r) r stOk 0 [] { taken r s with life := { s.life with
      pendReset := some ⟨s.time.clk + 10 ^ 9, (wordAt r.payload 0).getLsbD 0, 2⟩ } } s) ∧
  (∀ (r : Req) (s : State), Ready 0x0C04 [] 0 0 r s → s.life.pendCycle = none →
    Answers (.powerCycleReq r) r stOk 0 [] { taken r s with life := { s.life with pendCycle := some (s.time.clk + 10 ^ 9) } } s) ∧
  (∀ (p : PendReset) (s : State), s.life.pendReset = some p → s.life.l3Times.length < syLimit (syBlk s) → s.life.pwrCycle = false →
    s.life.straps.testMode = false →
    ∃ t, exec .warmReset s = ok t ∧ t.life.cause = p.cause ∧ t.life.kept = p.keep ∧ t.life.pendReset = none ∧
      (t.life.phase = 1 ∨ t.life.phase = 5) ∧ t.params = State.reset.params ∧ t.proto = State.reset.proto ∧ t.rings = State.reset.rings ∧
      t.core = State.reset.core ∧ t.zones = State.reset.zones ∧ t.commits = [] ∧ t.pcie.up = s.pcie.up ∧ t.pcie.busStopped = true ∧
      t.cellar.mem = (if p.keep then s.cellar.mem else []) ∧
      (∀ u : Fin 4, t.harv[u] = if p.keep then keptCapture s.harv[u] else State.reset.harv[u]) ∧ t.pending = s.pending) ∧
  (∀ (p : PendReset) (s : State), s.life.pendReset = some p → (∀ x ∈ s.life.l3Times, s.life.before + max s.time.clk p.due ≤ x + 6 * 10 ^ 14) →
    s.life.l3Times.length < 256 → syLimit (syBlk s) ≤ s.life.l3Times.length → syAuto (syBlk s) = false →
    ∃ t, exec .warmReset s = ok t ∧ t.life.phase = 5 ∧ t.life.pendReset = none ∧ Frame [.time, .life] s t)) ∧
  ((∀ (r : Req) (n : RingId) (s : State), Ready 0x0C02 [] 1 1 r s → (wordAt r.payload 0).toNat = 2 + 4 * n.val → rgEn (ringBlk s n) = true →
    ∃ u, Answers (.funcReinit r) r stOk 0 [] u s ∧ u.rings[n] = (startRing n (stopRing n (taken r s))).rings[n] ∧
      (∀ m : RingId, m ≠ n → u.rings[m] = s.rings[m])) ∧
  (∀ (r : Req) (f : Fe) (s : State), Ready 0x0C02 [] 1 1 r s → (wordAt r.payload 0).toNat = 4 * f.val → s.power.isolated.getLsbD f.val = false →
    ∃ u, exec (.funcReinit r) s = ok u ∧ u.fe[f] = { s.fe[f] with reinit := true } ∧ (∀ g : Fe, g ≠ f → u.fe[g] = s.fe[g]) ∧
      u.proto.ops = s.proto.ops ++ [⟨r.sess, r.seq, r.opcode, .funcReinit 0 (BitVec.ofNat 5 f.val), false, s.time.clk⟩] ∧
      Frame [.fe, .proto, .life] s u) ∧
  (∀ (r : Req) (s : State), Ready 0x0C02 [] 1 1 r s → (wordAt r.payload 0).toNat = 1 + 4 * 8 →
    Answers (.funcReinit r) r stBadParam 0 [] (taken r s) s) ∧
  (∀ (r : Req) (s : State), Ready 0x0C01 [] 0 0 r s → ∃ ws, ws.length = 8 ∧ Answers (.lcStatus r) r stOk 0 ws (taken r s) s))

/-- FW_WRITE past the start of the slot is accepted; FW_WRITE_COMPLETE of a verified write stores the bytes in the slot that is not running, that of
an unverified one raises vector 42, and both complete the command; FW_ACTIVATE with MODE 1 makes that slot TRIAL with the next sequence number;
FW_CONFIRM makes the running slot VALID and raises the fuse counter to the image's rollback index (R447, R464, R465). FW_TRIAL_FAIL of a live
activation that has not come up marks the trial slot FAILED and restarts the CP into the previous image; of a running trial image it does the same
(R464). -/
def Obligations.FirmwareChange : Prop :=
  ((∀ (r : Req) (s : State), Ready 0x0C05 [] 2 16384 r s → rsvdBad r 0 0x7FFFFC = false →
    wbits (wordAt r.payload 0) 0 23 + 4 * (r.payload.length - 1) ≤ slotBytes → liveOp s = none → inTrial s = false → storeRuns s = false →
    wbits (wordAt r.payload 0) 0 23 ≠ 0 →
    Answers (.fwWrite r) r stPending 0 [] ((taken r s).addOp r (.fwWrite (wbits (wordAt r.payload 0) 0 23) (r.payload.drop 1)) true) s) ∧
  (∀ (o : Op) (off : Nat) (dat : List Word) (i : Image) (s : State), s.opWhere (fun k => match k with | .fwWrite _ _ => true | _ => false) = some o →
    o.kind = .fwWrite off dat → s.life.running = some (i, 0) →
    ∃ t, exec (.fwWriteComplete true) s = ok t ∧ t.life.slots[0] = s.life.slots[0] ∧
      t.life.slots[1] = { s.life.slots[1] with data := s.life.slots[1].data.writeN off (wordsBytes dat) } ∧
      t.proto.ops = s.proto.ops.erase o ∧ Frame [.life, .proto, .rings, .out] s t) ∧
  (∀ (o : Op) (off : Nat) (dat : List Word) (s : State), s.opWhere (fun k => match k with | .fwWrite _ _ => true | _ => false) = some o →
    o.kind = .fwWrite off dat →
    ∃ t, exec (.fwWriteComplete false) s = ok t ∧ t.pcie.irqSum.getLsbD 42 = true ∧ t.proto.ops = s.proto.ops.erase o ∧
      Frame [.life, .proto, .rings, .out, .pcie, .free] s t) ∧
  (∀ (r : Req) (i : Image) (s : State), Ready 0x0C06 [] 1 1 r s → wordAt r.payload 0 = 1 → trainingRuns s = false → calRuns s = false →
    s.life.running = some (i, 0) →
    Answers (.fwActivate r) r stOk 0 [i.version] { taken r s with life := { s.life with
      slots := s.life.slots.set 1 { s.life.slots[1] with st := .trial, seqNo := nextSeqNo s.life } } } s) ∧
  (∀ (r : Req) (i : Image) (s : State), Ready 0x0C07 [] 0 0 r s → s.life.running = some (i, 1) → s.life.slots[1].st = .trialTried →
    s.life.fuseRollback.toNat < i.rollback.toNat →
    Answers (.fwConfirm r) r stOk 0 [0] { taken r s with life := { s.life with
      slots := s.life.slots.set 1 { s.life.slots[1] with st := .valid, seqNo := nextSeqNo s.life }
      fuseRollback := i.rollback, previous := none } } s)) ∧
  ((∀ (i j : Image) (s : State), liveOp s = none → s.life.activating = none → s.life.running = some (i, 1) → s.life.previous = some (j, 0) →
    ∃ t, exec .fwTrialFail s = ok t ∧ t.life.slots[1].st = .failed ∧ t.life.slots[0] = s.life.slots[0] ∧ t.life.phase = 4 ∧
      t.life.activating = some (j, 0) ∧ t.life.previous = none ∧ Frame [.life] s t) ∧
  (∀ (o : Op) (i j : Image) (s : State), liveOp s = some o → s.life.activating = some (i, 1) → s.life.running = some (j, 0) →
    ∃ t, exec .fwTrialFail s = ok t ∧ t.life.slots[1].st = .failed ∧ t.life.slots[0] = s.life.slots[0] ∧ t.life.phase = 4 ∧
      t.life.activating = some (j, 0) ∧ t.proto.ops = s.proto.ops.erase o ∧ Frame [.time, .life, .proto, .rings, .out] s t))


/-! ## Power (R19, R20, R418-R442) -/

/-- The opcodes of group 0x0B: POWER_STATUS answers 16 words and clears its three RC counters; POWER_STATE_SET of STANDBY to OFF by an idle device
answers the device time and begins entry, and of an active device is BUSY, NOT_IDLE; POWER_QUEUE_GET answers four words for each queued request;
REGION_RESTORE of FE0-FE3 or DSP with its crossings' rails within 120 mV ends the isolation, and with rails further apart is BUSY, STILL_FAULTED
(R428, R435, R442). -/
def Obligations.PowerOpcodes : Prop :=
  (∀ (r : Req) (s : State), Ready 0x0B01 [] 0 0 r s → ∃ ws, ws.length = 16 ∧ wordAt ws 10 = BitVec.ofNat 32 s.power.queue.length ∧
    wordAt ws 13 = s.power.shedCount ∧ wordAt ws 14 = s.power.guardCount ∧ wordAt ws 15 = s.power.pmbFaults ∧
    Answers (.powerStatus r) r stOk 0 ws
      { taken r s with power := { s.power with shedCount := 0, guardCount := 0, pmbFaults := 0 } } s) ∧
  (∀ (r : Req) (n : Fin 6) (s : State), Ready 0x0B02 [] 3 3 r s → 2 ≤ n.val → (wordAt r.payload 0).toNat = n.val →
    (word64 r.payload 1 = 0 ∨ s.now < word64 r.payload 1) → notIdle s = false →
    Answers (.powerStateSet r) r stOk 0 (split64 s.now) { taken r s with power := { s.power with
      entering := some n, wakeSeen := 0, wakeAt := if word64 r.payload 1 = 0 then none else some (word64 r.payload 1) } } s) ∧
  (∀ (r : Req) (n : Fin 6) (s : State), Ready 0x0B02 [] 3 3 r s → 2 ≤ n.val → (wordAt r.payload 0).toNat = n.val →
    (word64 r.payload 1 = 0 ∨ s.now < word64 r.payload 1) → notIdle s = true →
    Answers (.powerStateSet r) r stBusy 0xFFC0 [] (taken r s) s) ∧
  (∀ (r : Req) (s : State), Ready 0x0B03 [] 0 0 r s → r.via ≠ .smbus →
    ∃ ws, ws.length = 4 * s.power.queue.length ∧ Answers (.powerQueueGet r) r stOk 0 ws (taken r s) s) ∧
  (∀ (r : Req) (k : Nat) (s : State), Ready 0x0B04 [] 1 1 r s → (wordAt r.payload 0).toNat = k → k ≤ 4 →
    (∀ c ∈ crossings k, crossApart s c 120 = false) →
    Answers (.regionRestore r) r stOk 0 [] { taken r s with power := { s.power with
      isolated := s.power.isolated &&& ~~~((1 : BitVec 7) <<< k) } } s) ∧
  (∀ (r : Req) (k : Nat) (s : State), Ready 0x0B04 [] 1 1 r s → (wordAt r.payload 0).toNat = k → k ≤ 4 →
    (∃ c ∈ crossings k, crossApart s c 120 = true) → Answers (.regionRestore r) r stBusy 0xFFC3 [] (taken r s) s)

/-- Monitoring: MARGIN_SAMPLE while the CP runs takes the next instant of the 10 µs grid, holds the sample, and leaves the DSP, VAT and SYS rails
where margins lie from 25 % to below 30 %; REGULATOR_POLL keeps what a healthy regulator answers, and the third missing acknowledge in a row is a
fault, counted and raised; GUARDED_MODE_CHANGE sets or clears one crossing's bit, counts an entry, and raises vector 42 (R418, R421, R424, R426). -/
def Obligations.PowerMonitoring : Prop :=
  (∀ (m : MarginSample) (s : State), cpRuns s = true → (∀ k : Fin 7, 250 ≤ m.margin[k] ∧ m.margin[k] < 300) → dspHeld s = false →
    (∀ k : Fin 4, s.power.rails[k].mv ≤ vmaxOf s k) →
    ∃ t, exec (.marginSample m) s = ok t ∧ t.power.sensors = m.sensors ∧ t.power.volts = m.volts ∧ s.time.clk < t.time.clk ∧
      t.time.clk % 10 ^ 7 = 0 ∧ t.power.margins[4] = m.margin[4] ∧ (∀ k : Fin 7, t.power.short[k] = 0) ∧
      (∀ k : Fin 4, k ≠ 0 → t.power.rails[k].mv = s.power.rails[k].mv) ∧ Frame [.time, .power, .taster, .out] s t) ∧
  (∀ (k : Fin 4) (p : RegPoll) (s : State), cpRuns s = true → p.noAck = false → p.outputFault = false → p.settled = false →
    exec (.regulatorPoll k p) s = ok (s.updRail k fun r => { r with naks := 0, faulted := false, vout := p.readVout, iout := p.readIoutMa })) ∧
  (∀ (k : Fin 4) (p : RegPoll) (s : State), cpRuns s = true → p.noAck = true → s.power.rails[k].naks = 2 → s.power.rails[k].faulted = false →
    ∃ t, exec (.regulatorPoll k p) s = ok t ∧ t.power.rails[k].faulted = true ∧ t.power.rails[k].mv = s.power.rails[k].mv ∧
      t.power.pmbFaults = addSat s.power.pmbFaults 1 ∧ t.pcie.irqSum.getLsbD 42 = true ∧ Frame [.power, .pcie, .out] s t) ∧
  (∀ (c : Fin 11) (s : State), railsUp s = true → s.power.guarded.getLsbD c.val = false →
    ∃ t, exec (.guardedModeChange c true) s = ok t ∧ t.power.guarded = s.power.guarded ||| ((1 : BitVec 11) <<< c.val) ∧
      t.power.guardCount = addSat s.power.guardCount 1 ∧ t.pcie.irqSum.getLsbD 42 = true ∧ Frame [.power, .pcie, .out] s t) ∧
  (∀ (c : Fin 11) (s : State), railsUp s = true → s.power.guarded.getLsbD c.val = true →
    ∃ t, exec (.guardedModeChange c false) s = ok t ∧ t.power.guarded = s.power.guarded &&& ~~~((1 : BitVec 11) <<< c.val) ∧
      t.power.guardCount = s.power.guardCount ∧ t.pcie.irqSum.getLsbD 42 = true ∧ Frame [.power, .pcie, .out] s t)

/-- Shedding, in the order of Table 1.2: where a region is short and its rail cannot rise, SHEDDING_STEP takes step 1, then step 2, which asks every
RUNNING and WAITING core to pause and touches no other, then step 3; each is counted and raised. SHEDDING_RESTORE gives back the last one taken, a
tone at a time (R19-R21). REGION_ISOLATION: an engine's RUN becomes 0 in both sets; every Cooper core of an isolated DSP region that was STOPPED loses
IM and DM; isolation of VAT or SYS announces a level-3 reset with cause 5; a region already isolated changes nothing (R427). -/
def Obligations.SheddingAndIsolation : Prop :=
  ((∀ s : State, cpRuns s = true → mustShed s = true → s.power.shed1 = false →
    ∃ t, exec .sheddingStep s = ok t ∧ t.power.shed1 = true ∧ t.power.shed2 = s.power.shed2 ∧ t.power.shed3 = s.power.shed3 ∧
      t.power.shedCount = addSat s.power.shedCount 1 ∧ t.pcie.irqSum.getLsbD 41 = true ∧ Frame [.time, .power, .pcie, .out] s t) ∧
  (∀ s : State, cpRuns s = true → mustShed s = true → s.power.shed1 = true → s.power.shed2 = false →
    ∃ t, exec .sheddingStep s = ok t ∧ t.power.shed2 = true ∧ t.power.shedCount = addSat s.power.shedCount 1 ∧
      (∀ n : CoreId, s.core[n].st ≠ .running → s.core[n].st ≠ .waiting → t.core[n] = s.core[n]) ∧
      (∀ n : CoreId, s.core[n].st = .running ∨ s.core[n].st = .waiting → t.core[n].st = .paused ∨ t.core[n].pauseReq = true) ∧
      Frame [.time, .power, .pcie, .core, .out] s t) ∧
  (∀ s : State, cpRuns s = true → mustShed s = true → s.power.shed1 = true → s.power.shed2 = true → canShedTone s = true →
    ∃ t, exec .sheddingStep s = ok t ∧ t.power.shed3 = s.power.shed3 + 1 ∧ t.power.shedCount = addSat s.power.shedCount 1 ∧
      t.pcie.irqSum.getLsbD 41 = true ∧ Frame [.time, .power, .pcie, .out] s t) ∧
  (∀ (e : Nat) (s : State), s.power.easySince = some e → cpRuns s = true → 0 < s.power.shed3 →
    ∃ t, exec .sheddingRestore s = ok t ∧ t.power.shed3 = s.power.shed3 - 1 ∧ t.power.shed1 = s.power.shed1 ∧ t.power.shed2 = s.power.shed2 ∧
      t.power.shedCount = s.power.shedCount ∧ e + 10 ^ 11 ≤ t.time.clk ∧ t.pcie.irqSum.getLsbD 41 = true ∧
      Frame [.time, .power, .pcie, .out] s t) ∧
  (∀ (e : Nat) (s : State), s.power.easySince = some e → cpRuns s = true → s.power.shed3 = 0 → s.power.shed2 = false → s.power.shed1 = true →
    ∃ t, exec .sheddingRestore s = ok t ∧ t.power.shed1 = false ∧ t.pcie.irqSum.getLsbD 41 = true ∧ Frame [.time, .power, .pcie, .out] s t)) ∧
  ((∀ (f : Fe) (s : State), railsUp s = true → s.power.isolated.getLsbD f.val = false →
    ∃ t, exec (.regionIsolation ⟨f.val, by omega⟩) s = ok t ∧ t.power.isolated.getLsbD f.val = true ∧
      runOf (t.act 0x10 f.val) = false ∧ runOf (t.shad 0x10 f.val) = false) ∧
  (∀ s : State, railsUp s = true → s.power.isolated.getLsbD 4 = false → (∀ n : CoreId, s.core[n].st = .stopped) → s.taster.run = none →
    s.proto.ops = [] →
    ∃ t, exec (.regionIsolation 4) s = ok t ∧ t.power.isolated = s.power.isolated ||| 0x10 ∧
      (∀ n : CoreId, t.core[n].im = [] ∧ t.core[n].dm = [] ∧ t.core[n].st = .stopped ∧ t.pcie.irqSum.getLsbD (45 + n.val) = true) ∧
      t.pcie.irqSum.getLsbD 42 = true ∧ Frame [.power, .core, .pcie, .out] s t) ∧
  (∀ (k : Fin 7) (s : State), 5 ≤ k.val → railsUp s = true → s.power.isolated.getLsbD k.val = false → s.life.pendReset = none →
    exec (.regionIsolation k) s = ok { s with
      power := { s.power with isolated := s.power.isolated ||| ((1 : BitVec 7) <<< k.val) }
      life := { s.life with pendReset := some ⟨s.time.clk + 10 ^ 9, true, 5⟩ } }) ∧
  (∀ (k : Fin 7) (s : State), s.power.isolated.getLsbD k.val = true → exec (.regionIsolation k) s = ok s))

/-- Admission: ADMISSION_GRANT of a CELLAR_TRAIN at the head of the queue that fits starts the training and raises vector 41; ADMISSION_TIMEOUT of one
that still does not fit takes it out of the queue and raises vector 41; a head that does not fit waits (R430-R432). -/
def Obligations.Admission : Prop :=
  (∀ (q : QReq) (l : List QReq) (s : State), s.power.queue = q :: l → s.life.phase = 3 → cpRuns s = true → fits s q.budget = true →
    q.req.opcode = 0x0701 → rsvdBad q.req 0 0x7F = false → trainBusy s = none →
    ∃ t, exec .admissionGrant s = ok t ∧ t.power.queue = l ∧ t.cellar.gathering = true ∧
      t.proto.ops = s.proto.ops ++ [⟨q.req.sess, q.req.seq, 0x0701, .cellarTrain (BitVec.ofNat 4 (wbits (wordAt q.req.payload 0) 0 4))
        (BitVec.ofNat 3 (wbits (wordAt q.req.payload 0) 4 3)), true, s.time.clk⟩] ∧
      t.pcie.irqSum.getLsbD 41 = true ∧ Frame [.power, .cellar, .proto, .pcie, .out] s t) ∧
  (∀ (q : QReq) (l : List QReq) (s : State), s.power.queue = q :: l → fits s q.budget = false → exec .admissionGrant s = ok s) ∧
  (∀ (q : QReq) (l : List QReq) (s : State), s.power.queue = q :: l → s.life.phase = 3 → cpRuns s = true → fits s q.budget = false →
    q.req.opcode = 0x0701 →
    ∃ t, exec .admissionTimeout s = ok t ∧ t.power.queue = l ∧ t.time.clk = max s.time.clk (q.since + queueTimeout s) ∧
      t.pcie.irqSum.getLsbD 41 = true ∧ t.cellar = s.cellar ∧ Frame [.time, .power, .proto, .rings, .pcie, .out] s t)

/-- Power states: AUTO_IDLE after 1 ms without activity enters IDLE; entry into a low state puts the Cellar into self-refresh and stops every lane and
link; a wake source seen during entry is recorded; an enabled source in a low state returns the device to IDLE, records itself in LAST_WAKE and raises
vector 41; WAKE_AT is source 4 and does so at its time (R434-R439). -/
def Obligations.PowerStates : Prop :=
  (∀ (w : Nat) (s : State), s.power.idleSince = some w → cpRuns s = true → s.power.state = 0 → isIdle s = true →
    ∃ t, exec .autoIdle s = .next t ∧ t.power.state = 1 ∧ t.time.clk = max s.time.clk (w + 10 ^ 9) ∧ Frame [.time] s t) ∧
  (∀ (st : Fin 6) (s : State), s.power.entering = some st → 2 ≤ st.val → s.power.wakeSeen = 0 →
    ∃ t, exec .powerStateEntryComplete s = .next t ∧ t.power.state = st ∧ t.power.entering = none ∧ t.cellar.selfRefresh = true ∧
      t.cellar.mem = s.cellar.mem ∧ (∀ l : Fin 4, t.peer.lanes[l].st = .down) ∧ (∀ (f : Fe) (k : Fin 3), t.fe[f].links[k] = .off) ∧
      t.params = s.params ∧ t.core = s.core ∧ t.harv = s.harv ∧ t.proto = s.proto) ∧
  (∀ (st src : Fin 6) (m : Nat) (s : State), s.power.entering = some st → src ≠ 4 → wakeEnabled s st src = true → s.power.state.val < 2 →
    exec (.wakeEvent src m) s = ok { s with power := { s.power with wakeSeen := s.power.wakeSeen ||| ((1 : BitVec 6) <<< src.val) } }) ∧
  (∀ (src : Fin 6) (m : Nat) (s : State), s.power.entering = none → 2 ≤ s.power.state.val → src.val < 4 →
    wakeEnabled s s.power.state src = true → s.proto.heldIn = [] → s.proto.smbLater = [] →
    ∃ t, exec (.wakeEvent src m) s = ok t ∧ t.power.state = (if isIdle t then 1 else 0) ∧ t.power.lastWake = (1 : BitVec 6) <<< src.val ∧ t.cellar.selfRefresh = false ∧
      t.pcie.irqSum.getLsbD 41 = true ∧ t.params = s.params ∧ t.proto = s.proto ∧ t.core = s.core ∧ t.harv = s.harv) ∧
  (∀ (v : BitVec 64) (m : Nat) (s : State), s.power.entering = none → s.power.state = 2 → s.power.wakeAt = some v → s.proto.heldIn = [] → s.proto.smbLater = [] →
    ∃ t, exec (.wakeAt m) s = ok t ∧ t.power.state = (if isIdle t then 1 else 0) ∧ t.power.lastWake = 0x10 ∧ t.time.clk = s.time.clkOf v ∧ t.power.wakeAt = none ∧
      t.pcie.irqSum.getLsbD 41 = true ∧ t.params = s.params ∧ t.proto = s.proto)

/-- Pins: a TRIG_IN edge reaches the sequencers of the armed and triggered units alone, and a GPIO edge that is no wake source does nothing (R252,
R437). OPERATION_TIME_LIMIT ends a FW_WRITE that has run 1 s (R67). -/
def Obligations.PinsAndLimits : Prop :=
  (∀ (p : Fin 4) (falling : Bool) (w : Nat) (s : State), s.power.state.val < 4 → bf (s.act 0xC0 0) 8 16 4 = 0 →
    ∃ t, exec (.trigInEdge p falling w) s = ok t ∧ t.time.clk = max s.time.clk w ∧ Frame [.time, .harv] s t ∧
      (∀ u : Fin 4, t.harv[u] = if (s.harv[u].st = .armed ∨ s.harv[u].st = .post) ∧ s.harv[u].armClk ≤ max s.time.clk w then
        { s.harv[u] with
          inbox := s.harv[u].inbox ++ [⟨if falling then 6 else 5, p.val, s.time.stamp (max s.time.clk w), 0, 0, max s.time.clk w⟩] }
        else s.harv[u])) ∧
  (∀ (p : Fin 16) (s : State), (bf (s.act 0xC0 0) 8 0 16).testBit p.val = false → exec (.gpioEdge p) s = ok s) ∧
  (∀ (p : Fin 16) (st : Fin 6) (s : State), (bf (s.act 0xC0 0) 8 0 16).testBit p.val = true → s.power.entering = some st →
    exec (.gpioEdge p) s = ok { s with
      free := s.free + 1, power := { s.power with wakeSeen := s.power.wakeSeen ||| 0x04 } }) ∧
  (∀ (o : Op) (off : Nat) (dat : List Word) (s : State), s.findOp o.sess o.seq = some o → o.kind = .fwWrite off dat → cpRuns s = true →
    ∃ t, exec (.operationTimeLimit o.sess o.seq) s = ok t ∧ t.proto.ops = s.proto.ops.erase o ∧
      t.time.clk = max s.time.clk (o.start + 10 ^ 12) ∧ Frame [.time, .proto, .rings, .out] s t)

/-! ## Time (R73-R87, R102) -/

/-- The reference: REF_LOST sets REF_LOST and HOLDOVER, reports event 0 on vector 42 and leaves device time going on; REF_IN_EDGE_RETURN clears it; a
gate of REF_GATE_END outside 200 ppm sets REF_BAD, one within clears it; RELOCKED after 10 ms of good reference locks again; PPS_LOST reports event 3
(R73-R75, R80, R87). A PPS edge of the other polarity is ignored; at one of the selected polarity what the TIME set changed of PPS_EN and TIME_SOURCE
comes into force; a follower's, or one without alignment, moves nothing of the time base; a first edge steps device time to an integer second at the
edge and reports event 5; a pending TIME_SET takes effect there and ends. A PTM dialogue that succeeds records t4 and counts, one that fails clears PTM_VALID
(R79, R81, R84, R102). -/
def Obligations.TimeSources : Prop :=
  ((∀ (w : Nat) (s : State), s.time.refLost = false → ∃ t, exec (.refLost w) s = ok t ∧ t.time.refLost = true ∧ t.time.holdover = true ∧
    t.time.refLocked = false ∧ t.time.events = s.time.events ||| 1 ∧ t.pcie.irqSum.getLsbD 42 = true ∧ t.now = s.time.at (max s.time.clk w) ∧
    Frame [.time, .tiu, .pcie, .out] s t) ∧
  (∀ (w : Nat) (s : State), s.time.refLost = true → ∃ t, exec (.refInEdgeReturn w) s = ok t ∧ t.time.refLost = false ∧
    t.time.goodSince = (if s.time.refBad then none else some (max s.time.clk w)) ∧ t.time.events = s.time.events ∧ Frame [.time] s t) ∧
  (∀ (w n : Nat) (s : State), s.time.lostInGate = false → s.time.refLost = false → s.time.refBad = false → (n < 99980 ∨ 100020 < n) →
    ∃ t, exec (.refGateEnd w n) s = ok t ∧ t.time.refBad = true ∧ t.time.holdover = true ∧ t.time.refLocked = false ∧
      t.time.events = s.time.events ||| 2 ∧ t.pcie.irqSum.getLsbD 42 = true ∧ Frame [.time, .tiu, .pcie, .out] s t) ∧
  (∀ (w n : Nat) (s : State), s.time.lostInGate = false → s.time.refLost = false → 99980 ≤ n → n ≤ 100020 →
    ∃ t, exec (.refGateEnd w n) s = ok t ∧ t.time.refBad = false ∧ t.time.events = s.time.events ∧ t.time.holdover = s.time.holdover ∧
      Frame [.time] s t) ∧
  (∀ (w g : Nat) (s : State), s.time.refLocked = false → s.time.refLost = false → s.time.refBad = false → s.time.goodSince = some g →
    g + 10 ^ 10 ≤ max s.time.clk w →
    ∃ t, exec (.relocked w) s = ok t ∧ t.time.refLocked = true ∧ t.time.holdover = (s.time.holdover && ppsEn s) ∧
      t.time.events = s.time.events ||| 4 ∧ t.pcie.irqSum.getLsbD 42 = true ∧ Frame [.time, .pcie, .out] s t) ∧
  (∀ s : State, ppsEn s = true → follower s = false → s.time.ppsLost = false →
    ∃ t, exec .ppsLost s = ok t ∧ t.time.ppsLost = true ∧ t.time.ppsLocked = false ∧ t.time.events = s.time.events ||| 8 ∧
      t.pcie.irqSum.getLsbD 42 = true ∧ Frame [.time, .pcie, .out] s t)) ∧
  ((∀ (w : Nat) (e : Bool) (s : State), e ≠ bfb (timeSetOf s) 0 1 →
    ∃ t, exec (.ppsInEdge w e) s = ok t ∧ t.time = s.time.goTo w ∧ Frame [.time, .tiu] s t) ∧
  (∀ (w : Nat) (e : Bool) (s : State), e = bfb (timeSetOf s) 0 1 →
    bfb (timeSetOf s) 0 3 = true ∨ (bfb (timeSetOf s) 0 0 = false ∧ s.time.pendSet = none) →
    ∃ t, exec (.ppsInEdge w e) s = ok t ∧ t.time.clk = max s.time.clk w ∧ t.time.base = s.time.base ∧ t.time.baseClk = s.time.baseClk ∧
      t.time.adj = s.time.adj ∧ t.time.events = s.time.events ∧ t.time.pendSet = s.time.pendSet ∧ t.time.ppsLocked = false ∧
      t.time.src = bfb (timeSetOf s) 0 3 ∧ t.time.pps = bfb (timeSetOf s) 0 0 ∧ Frame [.time, .tiu] s t) ∧
  (∀ (w : Nat) (e : Bool) (s : State), e = bfb (timeSetOf s) 0 1 → bfb (timeSetOf s) 0 3 = false → bfb (timeSetOf s) 0 0 = true →
    s.time.pendSet = none → s.time.ppsFirst = true ∨ s.time.pps = false →
    ∃ t, exec (.ppsInEdge w e) s = ok t ∧ t.time.pps = true ∧ t.time.src = false ∧ t.time.ppsFirst = false ∧ t.time.ppsLost = false ∧
      t.time.events = s.time.events ||| 32 ∧ t.pcie.irqSum.getLsbD 42 = true ∧ t.time.baseClk = max s.time.clk w ∧
      (t.time.at96 t.time.clk - ((s.goTo w).time.at96 (max s.time.clk w) - (s.goTo w).time.at96 (max s.time.clk w / 625 * 625)) -
        ps96 (bfs (timeSetOf s) 2 0 32)).extractLsb' 0 64 = 0 ∧
      Frame [.time, .tiu, .therm, .pcie, .out] s t) ∧
  (∀ (w : Nat) (e : Bool) (p : PendSet) (o : Op) (s : State), bfb (timeSetOf s) 0 3 = false → e = bfb (timeSetOf s) 0 1 →
    s.time.pendSet = some p → s.findOp p.sess p.seq = some o →
    ∃ t, exec (.ppsInEdge w e) s = ok t ∧ t.time.pendSet = none ∧ t.proto.ops = s.proto.ops.erase o ∧
      t.time.events = s.time.events ||| 32 ∧ t.time.baseClk = max s.time.clk w ∧ Frame [.time, .tiu, .therm, .proto, .rings, .pcie, .out] s t) ∧
  (∀ (a b t32 : Nat) (t2 : BitVec 64) (s : State), bfb (timeSetOf s) 0 6 = true → s.pcie.ptmEn = true →
    ∃ t, exec (.ptmDialogue a b t2 t32 true) s = ok t ∧ t.time.ptmDevice = s.time.at b ∧ t.time.ptmCount = s.time.ptmCount + 1 ∧
      t.time.ptmValid = true ∧ Frame [.time, .free] s t) ∧
  (∀ (a b t32 : Nat) (t2 : BitVec 64) (s : State),
    exec (.ptmDialogue a b t2 t32 false) s = ok { s with time := { s.time with clk := max s.time.clk b, ptmValid := false } }))

/-- TIME_GET answers device time, TIME_STATUS and PPS_ERROR; TIME_SET at once steps device time to its value, and with AT_PPS waits for an edge;
TIME_SET_TIMEOUT after 1.1 s without one ends it; a follower refuses it with BAD_PARAM (R81, R91, R102). -/
def Obligations.TimeOpcodes : Prop :=
  (∀ (r : Req) (s : State), Ready 0x0802 [] 0 0 r s →
    Answers (.timeGet r) r stOk 0 (split64 s.now ++ [timeStatus s.time, errWord s.time.ppsError]) (taken r s) s) ∧
  (∀ (r : Req) (s : State), Ready 0x0801 [] 3 3 r s → wordAt r.payload 2 = 0 → follower s = false → s.time.pendSet = none →
    ∃ u, Answers (.timeSet r) r stOk 0 [] u s ∧ u.now = word64 r.payload 0 ∧ u.time.events = s.time.events ||| 32 ∧
      u.pcie.irqSum.getLsbD 42 = true ∧ Frame [.time, .therm, .proto, .pcie, .out] s u) ∧
  (∀ (r : Req) (s : State), Ready 0x0801 [] 3 3 r s → wordAt r.payload 2 = 1 → follower s = false → refGone s = false → s.time.pendSet = none →
    Answers (.timeSet r) r stPending 0 [] { (taken r s).addOp r .timeSet true with
      time := { s.time with pendSet := some ⟨r.sess, r.seq, word64 r.payload 0, s.time.clk⟩ } } s) ∧
  (∀ (r : Req) (s : State), Ready 0x0801 [] 3 3 r s → (wordAt r.payload 2).toNat ≤ 1 → follower s = true →
    Answers (.timeSet r) r stBadParam 0 [] (taken r s) s) ∧
  (∀ (p : PendSet) (o : Op) (s : State), s.time.pendSet = some p → s.findOp p.sess p.seq = some o →
    ∃ t, exec .timeSetTimeout s = ok t ∧ t.time.pendSet = none ∧ t.time.clk = max s.time.clk (p.since + 11 * 10 ^ 11) ∧
      t.proto.ops = s.proto.ops.erase o ∧ Frame [.time, .proto, .rings, .out] s t)

/-! ## TIU (R97-R102) -/

/-- TIU_ARM of one idle channel in single mode arms it from now and answers ACCEPTED_PENDING; TIU_STOP of it answers OK and ends it ABORTED with an
event on vector 38; of an idle one it answers COMPLETED (R98, R102). The edges of an interval measurement, each of the polarity its pin is set to: a start later than the arming instant opens
it, or is counted by a frequency gate through its prescaler (R99); a stop within the window is stamped, one before 1 ns only counts as SHORT, one before OPEN as EARLY, one beyond the stops asked for as OVERFLOW
(R97, R98, Table 3.7). -/
def Obligations.TiuStartAndStop : Prop :=
  ((∀ (c : Fin 4) (r : Req) (s : State), Ready 0x0803 [] 1 1 r s → (wordAt r.payload 0).toNat = 2 ^ c.val → tiuMode s c = 1 →
    s.tiu[c].ph = .idle → s.tiu[c].result = none → tiuInCal s c = false → refGone s = false → s.taster.run = none →
    ∃ u, Answers (.tiuArm r) r stPending 0 [] u s ∧ u.tiu[c].ph = .armed ∧ u.tiu[c].armAt = s.now ∧ u.tiu[c].armClk = s.time.clk ∧
      (∀ d : Fin 4, d ≠ c → u.tiu[d] = s.tiu[d]) ∧
      u.proto.ops = s.proto.ops ++ [⟨r.sess, r.seq, r.opcode, .tiuArm (BitVec.ofNat 4 (2 ^ c.val)), true, s.time.clk⟩] ∧
      Frame [.tiu, .proto] s u) ∧
  (∀ (c : Fin 4) (r : Req) (s : State), Ready 0x0804 [] 1 1 r s → (wordAt r.payload 0).toNat = 2 ^ c.val → tiuMode s c = 1 →
    s.tiu[c].ph = .armed → s.commits = [] → s.proto.ops = [] →
    ∃ u, Answers (.tiuStop r) r stOk 0 [] u s ∧ u.tiu[c].ph = .idle ∧ u.tiu[c].result = some (0x03, tiuRecord s c) ∧
      u.pcie.irqSum.getLsbD 38 = true ∧ (∀ d : Fin 4, d ≠ c → u.tiu[d] = s.tiu[d]) ∧ Frame [.tiu, .proto, .vint, .pcie, .out] s u) ∧
  (∀ (c : Fin 4) (r : Req) (s : State), Ready 0x0804 [] 1 1 r s → (wordAt r.payload 0).toNat = 2 ^ c.val → tiuMode s c = 1 →
    s.tiu[c].ph = .idle → Answers (.tiuStop r) r stCompleted 0 [] (taken r s) s)) ∧
  ((∀ (c : Fin 4) (w : Nat) (b : Byte) (f : Bool) (s : State), s.tiu[c].ph = .armed → s.tiu[c].armClk < max s.time.clk w →
    bf (tiuSet s c) 0 4 3 = 0 → f = bfb (tiuSet s c) 0 2 →
    ∃ t, exec (.tiuStartEdge c ⟨f, w⟩ b) s = ok t ∧ t.tiu[c].ph = .open ∧ t.tiu[c].start = s.time.at (max s.time.clk w) ∧ t.tiu[c].sub = b ∧
      t.tiu[c].stops = [] ∧ (∀ d : Fin 4, d ≠ c → t.tiu[d] = s.tiu[d]) ∧ Frame [.time, .tiu] s t) ∧
  (∀ (c : Fin 4) (w : Nat) (b : Byte) (f : Bool) (s : State), f ≠ bfb (tiuSet s c) 0 2 ∨ bf (tiuSet s c) 0 4 3 ≠ 0 →
    exec (.tiuStartEdge c ⟨f, w⟩ b) s = ok (s.goTo w)) ∧
  (∀ (c : Fin 4) (w : Nat) (b : Byte) (s : State), s.tiu[c].ph = .gating → s.tiu[c].armClk < max s.time.clk w → bf (tiuSet s c) 0 4 3 = 0 →
    exec (.tiuStartEdge c ⟨bfb (tiuSet s c) 0 2, w⟩ b) s = ok ((s.goTo w).updTiu c fun t =>
      if t.pre < bf (tiuSet s c) 0 8 6 then { t with pre := t.pre + 1 }
      else { t with
        pre := 0, edges := ((s.goTo w).now.toNat * 256 + b.toNat) :: t.edges
        holdover := if t.edges = [] then s.time.holdover else t.holdover })) ∧
  (∀ (c : Fin 4) (x : Nat) (f : Bool) (s : State), f ≠ bfb (tiuSet s c) 0 3 → exec (.tiuStopEdge c ⟨f, x⟩) s = ok s) ∧
  (∀ (c : Fin 4) (x : Nat) (s : State), s.tiu[c].ph = .open → 2 ^ 40 ≤ x * 10 ^ 9 → bf (tiuSet s c) 1 0 32 ≤ x → x ≤ bf (tiuSet s c) 2 0 32 →
    s.tiu[c].stops = [] → 1 ≤ bf (tiuSet s c) 0 14 5 →
    exec (.tiuStopEdge c ⟨bfb (tiuSet s c) 0 3, x⟩) s = ok { s with tiu := s.tiu.set c { s.tiu[c] with stops := [x] } }) ∧
  (∀ (c : Fin 4) (x : Nat) (s : State), s.tiu[c].ph = .open → x * 10 ^ 9 < 2 ^ 40 →
    exec (.tiuStopEdge c ⟨bfb (tiuSet s c) 0 3, x⟩) s = ok { s with tiu := s.tiu.set c { s.tiu[c] with short := sat16 (s.tiu[c].short + 1) } }) ∧
  (∀ (c : Fin 4) (x : Nat) (s : State), s.tiu[c].ph = .open → 2 ^ 40 ≤ x * 10 ^ 9 → x < bf (tiuSet s c) 1 0 32 →
    exec (.tiuStopEdge c ⟨bfb (tiuSet s c) 0 3, x⟩) s = ok { s with tiu := s.tiu.set c { s.tiu[c] with early := sat16 (s.tiu[c].early + 1) } }) ∧
  (∀ (c : Fin 4) (x y : Nat) (l : List Nat) (s : State), s.tiu[c].ph = .open → 2 ^ 40 ≤ x * 10 ^ 9 → bf (tiuSet s c) 1 0 32 ≤ x →
    x ≤ bf (tiuSet s c) 2 0 32 → s.tiu[c].stops = l ++ [y] → 15 * 2 ^ 40 < (x - y) * 10 ^ 10 → bf (tiuSet s c) 0 14 5 ≤ l.length + 1 →
    exec (.tiuStopEdge c ⟨bfb (tiuSet s c) 0 3, x⟩) s = ok { s with tiu := s.tiu.set c { s.tiu[c] with overflow := sat16 (s.tiu[c].overflow + 1) } }))

/-- The ends of a measurement: CLOSE of a continuous one pushes its record to its ring and waits, and TIU_REARM arms it again; CLOSE of a single one,
its arming timeout, and the end of a frequency gate report it, each with vector 38 (R98, R99, R101). -/
def Obligations.TiuEnds : Prop :=
  (∀ (c : Fin 4) (s : State), s.tiu[c].ph = .open → tiuMode s c = 2 →
    ∃ t, exec (.tiuClose c) s = ok t ∧ t.tiu[c].ph = .closed ∧ t.pcie.irqSum.getLsbD 38 = true ∧
      t.rings[ringOf (bf (tiuSet s c) 5 0 8)].queue =
        s.rings[ringOf (bf (tiuSet s c) 5 0 8)].queue ++ [⟨wordsBytes (tiuRecord s c), 0, 5, c.val⟩] ∧
      (∀ d : Fin 4, d ≠ c → t.tiu[d] = s.tiu[d]) ∧ Frame [.time, .tiu, .rings, .harv, .vint, .pcie, .out] s t) ∧
  (∀ (c : Fin 4) (s : State), s.tiu[c].ph = .closed → tiuMode s c = 2 → s.commits = [] →
    ∃ t, exec (.tiuRearm c) s = ok t ∧ t.tiu[c].ph = .armed ∧ t.tiu[c].armAt = t.now ∧ (∀ d : Fin 4, d ≠ c → t.tiu[d] = s.tiu[d]) ∧
      Frame [.time, .tiu] s t) ∧
  (∀ (c : Fin 4) (s : State), s.tiu[c].ph = .open → tiuMode s c = 1 → s.commits = [] → s.proto.ops = [] →
    ∃ t, exec (.tiuClose c) s = ok t ∧ t.tiu[c].ph = .idle ∧ t.tiu[c].result = some (0x00, tiuRecord s c) ∧
      t.pcie.irqSum.getLsbD 38 = true ∧ (∀ d : Fin 4, d ≠ c → t.tiu[d] = s.tiu[d]) ∧ Frame [.time, .tiu, .harv, .vint, .pcie, .out] s t) ∧
  (∀ (c : Fin 4) (s : State), s.tiu[c].ph = .armed → tiuMode s c = 1 → bf (tiuSet s c) 5 8 24 ≠ 0 → s.commits = [] → s.proto.ops = [] →
    ∃ t x, exec (.tiuArmTimeout c) s = ok t ∧ t.tiu[c].ph = .idle ∧ t.tiu[c].result = some (0x41, x) ∧
      t.time.clk = max s.time.clk (s.tiu[c].armClk + bf (tiuSet s c) 5 8 24 * 10 ^ 9) ∧ t.pcie.irqSum.getLsbD 38 = true ∧
      (∀ d : Fin 4, d ≠ c → t.tiu[d] = s.tiu[d]) ∧ Frame [.time, .tiu, .vint, .pcie, .out] s t) ∧
  (∀ (c : Fin 4) (l : List Nat) (k n : Nat) (s : State), s.tiu[c].ph = .gating → s.commits = [] → s.proto.ops = [] →
    ∃ t x, exec (.tiuGateEnd c l k n) s = ok t ∧ t.tiu[c].ph = .idle ∧ t.tiu[c].result = some (0x00, x) ∧ x.length = 22 ∧
      t.time.clk = max s.time.clk (s.tiu[c].armClk + bf (tiuSet s c) 3 0 32 * 10 ^ 6) ∧
      t.pcie.irqSum.getLsbD 38 = true ∧ (∀ d : Fin 4, d ≠ c → t.tiu[d] = s.tiu[d]) ∧ Frame [.time, .tiu, .vint, .pcie, .out, .free] s t)

/-! ## Sessions and parameters (R33, R46, R49-R56, R69) -/

/-- HELLO under session 0 with a version in common and a transport without a session opens one: a free id other than 0, the agreed version, the
features both know. BYE closes its session and no other (R33, R46, R50). INFO answers 30 words, ECHO on a ring its own payload; neither changes
anything (R49, R69). -/
def Obligations.SessionOpcodes : Prop :=
  ((∀ (r : Req) (maj mnr : Nat) (s : State), r.opcode = 1 → r.sess = 0 → s.proto.waiting.contains r = true → isHead s r = true → isTurn s r = true →
    s.proto.waiting.all (fun q => knownOps.contains q.opcode.toNat) = true → cpRuns s = true → sessionFree s r = true → s.life.phase = 3 → r.payload.length = 3 → rsvdBad r 0 0xFFFFFF = false →
    agree (wbits (wordAt r.payload 0) 16 8) (wbits (wordAt r.payload 0) 8 8) (wbits (wordAt r.payload 0) 0 8) = some (maj, mnr) →
    (∀ x ∈ s.proto.sessions, x.via ≠ r.via) → s.proto.sessions.length < 4 →
    ∃ t x, exec (.hello r) s = ok t ∧ t.proto.sessions = s.proto.sessions ++ [x] ∧ x.via = r.via ∧ x.id ≠ 0 ∧ x.major = maj ∧ x.minor = mnr ∧
      x.features = word64 r.payload 1 &&& offered maj ∧ x.cache = [] ∧ (∀ y ∈ s.proto.sessions, y.id ≠ x.id) ∧
      Frame [.proto, .rings, .free, .out] s t) ∧
  (∀ (r : Req) (x : Session) (e : CacheEntry) (s : State), Ready 0x0004 [] 0 0 r s → s.session r.sess = some x → r.sess ≠ 0 → e ∈ x.cache →
    e.seq = r.seq → e.opcode = 4 →
    ∃ t, exec (.bye r) s = ok t ∧ t.session r.sess = none ∧ (∀ k : BitVec 8, k ≠ r.sess → t.session k = s.session k) ∧
      t.params = s.params ∧ t.core = s.core ∧ t.harv = s.harv ∧ t.fe = s.fe)) ∧
  ((∀ (r : Req) (s : State), Ready 0x0002 [] 0 0 r s → ∃ ws, ws.length = 30 ∧ wordAt ws 0 = 0x71801F70 ∧
    Answers (.info r) r stOk 0 ws (taken r s) s) ∧
  (∀ (r : Req) (s : State), Ready 0x0003 [] 0 (payloadLimit r.via) r s → r.via ≠ .smbus → Answers (.echo r) r stOk 0 r.payload (taken r s) s))

/-- SET_PARAM writes the addressed words of one shadow block and nothing else, where every word is acceptable; the first word that is not is named by
BAD_PARAM and nothing changes; a block of a locked domain is BUSY_COMMIT. GET_PARAM answers words of the shadow, active or default block. DEFAULTS
puts one block's defaults into its shadow (R51, R53, R54, R56, R60). RECV_REF_SET writes taps of one shadow bank of one engine; RECV_REF_GET answers
taps of the shadow or active bank (R144, R155). -/
def Obligations.ParametersAndBanks : Prop :=
  ((∀ (r : Req) (b : BlockId) (c : Cls) (off n : Nat) (s : State), Ready 0x0101 [] 3 16384 r s →
    (wordAt r.payload 0).toNat = b.toNat + 65536 → (wordAt r.payload 1).toNat = off + n * 65536 → off < 65536 → n < 4096 → 0 < n →
    r.payload.length = 2 + n → blockCls b = some c → off + n ≤ c.len →
    firstBad (c.fldsIn s) (overlay (getBlk s.params.shadow b) off (r.payload.drop 2)) off n = none → locked s (domBits s b) = false →
    Answers (.setParam r) r stOk 0 [] ((taken r s).setShad b (overlay (getBlk s.params.shadow b) off (r.payload.drop 2))) s) ∧
  (∀ (r : Req) (b : BlockId) (c : Cls) (off n i : Nat) (s : State), Ready 0x0101 [] 3 16384 r s →
    (wordAt r.payload 0).toNat = b.toNat + 65536 → (wordAt r.payload 1).toNat = off + n * 65536 → off < 65536 → n < 4096 → 0 < n →
    r.payload.length = 2 + n → blockCls b = some c → off + n ≤ c.len →
    firstBad (c.fldsIn s) (overlay (getBlk s.params.shadow b) off (r.payload.drop 2)) off n = some i →
    Answers (.setParam r) r stBadParam (2 + i) [] (taken r s) s) ∧
  (∀ (r : Req) (b : BlockId) (c : Cls) (off n : Nat) (s : State), Ready 0x0101 [] 3 16384 r s →
    (wordAt r.payload 0).toNat = b.toNat + 65536 → (wordAt r.payload 1).toNat = off + n * 65536 → off < 65536 → n < 4096 → 0 < n →
    r.payload.length = 2 + n → blockCls b = some c → off + n ≤ c.len →
    firstBad (c.fldsIn s) (overlay (getBlk s.params.shadow b) off (r.payload.drop 2)) off n = none → locked s (domBits s b) = true →
    Answers (.setParam r) r stBusyCommit 0 [] (taken r s) s) ∧
  (∀ (r : Req) (b : BlockId) (c : Cls) (off n sel : Nat) (s : State), Ready 0x0102 [] 2 2 r s → r.via ≠ .smbus →
    (wordAt r.payload 0).toNat = b.toNat + 65536 → (wordAt r.payload 1).toNat = off + n * 65536 + sel * 2 ^ 28 → off < 65536 → n < 4096 →
    0 < n → sel < 3 → blockCls b = some c → off + n ≤ c.len →
    Answers (.getParam r) r stOk 0 (((if sel = 0 then getBlk s.params.shadow b else if sel = 1 then getBlk s.params.active b else dfltBlock b).drop
      off).take n) (taken r s) s) ∧
  (∀ (r : Req) (b : BlockId) (c : Cls) (s : State), Ready 0x0105 [] 1 1 r s → (wordAt r.payload 0).toNat = b.toNat → blockCls b = some c →
    b.inst ≠ 0xFF → locked s (domBits s b) = false → Answers (.defaults r) r stOk 0 [] ((taken r s).setShad b (dfltBlock b)) s)) ∧
  ((∀ (r : Req) (n : Nat) (s : State), Ready 0x0202 [] 3 514 r s → rsvdBad r 0 0x01FF003F = false → (wordAt r.payload 1).toNat = n → 1 ≤ n →
    r.payload.length = 2 + n → wbits (wordAt r.payload 0) 16 9 + n ≤ 512 → locked s ((1 : BitVec 6) <<< (feOf r).val) = false →
    ∃ u, Answers (.recvRefSet r) r stOk 0 [] u s ∧ Frame [.fe, .proto] s u ∧ (∀ g : Fe, g ≠ feOf r → u.fe[g] = s.fe[g]) ∧
      u.fe[feOf r].refActive = s.fe[feOf r].refActive ∧
      ∀ i : Nat, i < n → assocGet u.fe[feOf r].refShadow (refKey r i) = some (wordAt r.payload (2 + i))) ∧
  (∀ (r : Req) (n : Nat) (s : State), Ready 0x0203 [] 2 2 r s → rsvdBad r 0 0x01FF803F = false → (wordAt r.payload 1).toNat = n → 1 ≤ n →
    wbits (wordAt r.payload 0) 16 9 + n ≤ 512 → r.via ≠ .smbus →
    Answers (.recvRefGet r) r stOk 0 ((List.range n).map fun i =>
      (assocGet (if (wordAt r.payload 0).getLsbD 15 then s.fe[feOf r].refActive else s.fe[feOf r].refShadow) (refKey r i)).getD 0) (taken r s) s))

/-! ## Commits (R57-R63) -/

/-- COMMIT of one engine at a PPN: a value two or more boundaries ahead that passes every check and raises no budget is scheduled, with nothing yet
active; a nearer one is BAD_PARAM, TARGET_TOO_SOON; a locked domain is BUSY_COMMIT (R57-R60). COMMIT_ABORT withdraws a scheduled commit that has not
begun: it leaves the list, the shadows keep their contents, nothing becomes active; one whose application has begun answers COMPLETED.
COMMIT_TIME_TARGET_REACHED applies a LOCAL block at the commit's time, and the commit is done (R58, R61, R63). -/
def Obligations.Commits : Prop :=
  ((∀ (r : Req) (f : Fe) (s : State), Ready 0x0103 (commitFeats r) 3 3 r s → (wordAt r.payload 0).toNat = 2 ^ f.val + 256 →
    wbits (wordAt r.payload 2) 16 16 = 0 → tooSoon s (commitDoms (wordAt r.payload 0)) 1 (word64 r.payload 1) = false →
    commitRefusal (sweepAreas (taken r s)) (commitDoms (wordAt r.payload 0)) r.via = none →
    commitRise (taken r s) (commitDoms (wordAt r.payload 0)) = 0 → s.commits = [] →
    ∃ u c, exec (.commit r) s = ok u ∧ u.commits = [c] ∧ c.doms = (1 : BitVec 6) <<< f.val ∧ c.target = 1 ∧ c.value = word64 r.payload 1 ∧
      c.sess = r.sess ∧ c.seq = r.seq ∧ c.queued = false ∧ c.feDone = [] ∧ c.left = [] ∧ c.begun = false ∧ u.params = s.params ∧
      u.proto.ops = s.proto.ops ++ [⟨r.sess, r.seq, r.opcode, .commit, false, s.time.clk⟩] ∧
      Frame [.commits, .proto, .cellar, .power, .free, .aux, .out] s u) ∧
  (∀ (r : Req) (f : Fe) (s : State), Ready 0x0103 (commitFeats r) 3 3 r s → (wordAt r.payload 0).toNat = 2 ^ f.val + 256 →
    wbits (wordAt r.payload 2) 16 16 = 0 → tooSoon s (commitDoms (wordAt r.payload 0)) 1 (word64 r.payload 1) = true →
    Answers (.commit r) r stBadParam dtTooSoon [] (taken r s) s) ∧
  (∀ (r : Req) (f : Fe) (s : State), Ready 0x0103 (commitFeats r) 3 3 r s → (wordAt r.payload 0).toNat = 2 ^ f.val + 256 →
    wbits (wordAt r.payload 2) 16 16 = 0 → tooSoon s (commitDoms (wordAt r.payload 0)) 1 (word64 r.payload 1) = false →
    shadowFault (sweepAreas (taken r s)) (commitDoms (wordAt r.payload 0)) r.via = none →
    locked s (commitDoms (wordAt r.payload 0)) = true → Answers (.commit r) r stBusyCommit 0 [] (taken r s) s)) ∧
  ((∀ (r : Req) (c : Commit) (s : State), Ready 0x0104 [] 1 1 r s → queuedReq s r.sess (wordAt r.payload 0) = none → s.peer.shared = [] →
    s.peer.armed = [] → s.commits.find? (fun c => c.sess = r.sess && c.seq = wordAt r.payload 0) = some c → c.begun = false →
    ∃ u, Answers (.commitAbort r) r stOk 0 [] u s ∧ u.commits = s.commits.erase c ∧
      Frame [.commits, .proto, .cellar, .power, .rings, .out] s u) ∧
  (∀ (r : Req) (c : Commit) (s : State), Ready 0x0104 [] 1 1 r s → queuedReq s r.sess (wordAt r.payload 0) = none → s.peer.shared = [] →
    s.peer.armed = [] → s.commits.find? (fun c => c.sess = r.sess && c.seq = wordAt r.payload 0) = some c → c.begun = true →
    Answers (.commitAbort r) r stCompleted 0 [] (taken r s) s) ∧
  (∀ (c : Commit) (s : State), s.commits = [c] → c.queued = false → c.target = 2 → c.doms = 0x20 → c.left = [bid 0x01 0] → c.kind = 0 →
    s.now < c.value → c.value ≤ (s.goTo (s.time.clkOf c.value)).now →
    ∃ t, exec .commitTimeTargetReached s = ok t ∧ t.time.clk = s.time.clkOf c.value ∧ t.commits = [] ∧ t.act 0x01 0 = s.shad 0x01 0 ∧
      t.params.shadow = s.params.shadow ∧ Frame [.time, .params, .commits, .proto, .rings, .life, .power, .aux, .out] s t))


/-! ## Fibre engines (R103-R136, R144-R158) -/

/-- A BOUNDARY of a stopped engine with no due commit adds 1 to its PPN and begins the next period one PERIOD later; GROUP_LAUNCH of a running one
adds one shot of the group at its instant, and past the last group does nothing (R103, R105). SHOT_ROW_PROCESS takes the oldest launched shot and
leaves the others, and no other engine's channels; with none launched it does nothing (R158). -/
def Obligations.BoundariesAndShots : Prop :=
  ((∀ (f : Fe) (s : State), s.power.state.val < 4 → s.life.inReset = false → runOf (s.act 0x10 f.val) = false → s.commits = [] →
    s.fe[f].reinit = false →
    ∃ t, exec (.boundary f) s = ok t ∧ t.fe[f].ppn = s.fe[f].ppn + 1 ∧ t.fe[f].bnd = s.fe[f].next ∧
      t.fe[f].next = s.fe[f].next + periodPs (s.act 0x10 f.val) ∧ t.fe[f].shots = s.fe[f].shots ∧ t.time.clk = max s.time.clk s.fe[f].next ∧
      (∀ g : Fe, g ≠ f → t.fe[g] = s.fe[g]) ∧ Frame [.time, .fe, .vint, .out, .aux, .harv, .tiu] s t) ∧
  (∀ (f : Fe) (s : State), runOf (s.act 0x10 f.val) = true → s.fe[f].launched < groupsOf (s.act 0x10 f.val) →
    ∃ t x, exec (.groupLaunch f) s = ok t ∧ t.fe[f].launched = s.fe[f].launched + 1 ∧ t.fe[f].shots = s.fe[f].shots ++ [x] ∧
      x.ppn = s.fe[f].ppn ∧ x.group = s.fe[f].launched ∧
      x.t = s.fe[f].bnd + s.fe[f].launched * (periodPs (s.act 0x10 f.val) / groupsOf (s.act 0x10 f.val)) ∧
      (∀ g : Fe, g ≠ f → t.fe[g] = s.fe[g]) ∧ Frame [.time, .fe, .harv, .out] s t) ∧
  (∀ (f : Fe) (s : State), groupsOf (s.act 0x10 f.val) ≤ s.fe[f].launched → exec (.groupLaunch f) s = ok s)) ∧
  ((∀ (f : Fe) (sh : Shot) (l : List Shot) (x : PairSamples) (e : List (Nat × EccRead)) (lost : Bool) (k : Nat) (s : State), s.fe[f].shots = sh :: l →
    ∃ t, exec (.shotRowProcess f x e lost k) s = ok t ∧ t.fe[f].shots = l ∧ (∀ g : Fe, g ≠ f → t.fe[g].chans = s.fe[g].chans) ∧
      t.time.clk = max s.time.clk (sh.t + windowPs sh.probe sh.recv) ∧ t.params.shadow = s.params.shadow) ∧
  (∀ (f : Fe) (x : PairSamples) (e : List (Nat × EccRead)) (lost : Bool) (k : Nat) (s : State), s.fe[f].shots = [] →
    exec (.shotRowProcess f x e lost k) s = ok s))

/-- JESD204C links: a SYSREF edge aligns the links that train; a link that an edge has aligned reaches the data state where its lanes come in time,
RBD_VIOLATION where one comes late, and stays out of it where none has; a failing multiblock counts on its lane; a link that falls out of the data
state trains again, is counted, and is raised while the engine runs; a retry that succeeds brings it back, with LINK_UP where its fall was raised; a
rate mismatch is latched and raised (R116, R131-R136). -/
def Obligations.JesdLinks : Prop :=
  (∀ (f : Fe) (d : Int) (s : State), (∀ k : Fin 3, s.fe[f].links[k] = .training) →
    ∃ t, exec (.sysrefEdge f d) s = ok t ∧ (∀ k : Fin 3, t.fe[f].links[k] = .aligning) ∧ t.fe[f].sysrefMis = s.fe[f].sysrefMis ∧
      (∀ g : Fe, g ≠ f → t.fe[g] = s.fe[g]) ∧ Frame [.fe] s t) ∧
  (∀ (f : Fe) (k : Fin 3) (n : Nat) (s : State), s.life.thermtrip = false → s.fe[f].lemc.getLsbD k.val = true →
    (s.fe[f].links[k] = .aligning ∨ s.fe[f].links[k] = .training) → s.fe[f].fell.getLsbD k.val = false → s.proto.ops = [] →
    ∃ t, exec (.linkInitComplete f k n) s = ok t ∧
      t.fe[f].links[k] = (if rbdOf (s.act 0x11 f.val) k < n then .rbdViolation else .data) ∧ (∀ j : Fin 3, j ≠ k → t.fe[f].links[j] = s.fe[f].links[j]) ∧
      (∀ g : Fe, g ≠ f → t.fe[g] = s.fe[g]) ∧ Frame [.fe, .harv] s t) ∧
  (∀ (f : Fe) (k : Fin 3) (n : Nat) (s : State), s.fe[f].lemc.getLsbD k.val = false → exec (.linkInitComplete f k n) s = ok s) ∧
  (∀ (f : Fe) (l : Fin 6) (a b : Nat) (s : State),
    ∃ t, exec (.crc12Failure f l a b) s = ok t ∧ t.fe[f].crcErr[l] = addSat s.fe[f].crcErr[l] 1 ∧
      (∀ m : Fin 6, m ≠ l → t.fe[f].crcErr[m] = s.fe[f].crcErr[m]) ∧ (∀ g : Fe, g ≠ f → t.fe[g] = s.fe[g]) ∧ Frame [.time, .fe] s t) ∧
  (∀ (f : Fe) (k : Fin 3) (w : Nat) (s : State), s.fe[f].links[k] = .data → runOf (s.act 0x10 f.val) = true →
    ∃ t, exec (.linkDown f k w) s = ok t ∧ t.fe[f].links[k] = .training ∧ t.fe[f].linkDowns = min 65535 (s.fe[f].linkDowns + 1) ∧
      t.fe[f].outage[k] = some (max s.time.clk w) ∧ t.pcie.irqSum.getLsbD (32 + f.val) = true ∧ (∀ g : Fe, g ≠ f → t.fe[g] = s.fe[g]) ∧
      Frame [.time, .fe, .pcie, .out] s t) ∧
  (∀ (f : Fe) (k : Fin 3) (o n : Nat) (s : State), s.fe[f].outage[k] = some o → s.life.thermtrip = false → s.proto.ops = [] →
    s.fe[f].lemc.getLsbD k.val = true → (s.fe[f].links[k] = .aligning ∨ s.fe[f].links[k] = .training) → n ≤ rbdOf (s.act 0x11 f.val) k →
    ∃ t, exec (.linkRetry f k true n) s = ok t ∧ t.fe[f].links[k] = .data ∧ t.fe[f].outage[k] = none ∧ (t.time.clk - o) % 10 ^ 10 = 0 ∧
      (s.fe[f].fell.getLsbD k.val = true → t.pcie.irqSum.getLsbD (32 + f.val) = true) ∧
      (∀ g : Fe, g ≠ f → t.fe[g] = s.fe[g]) ∧ Frame [.time, .fe, .harv, .pcie, .out] s t) ∧
  (∀ (f : Fe) (k : Fin 3) (s : State),
    ∃ t, exec (.rateMismatch f k) s = ok t ∧ t.fe[f].rateMis = true ∧ t.pcie.irqSum.getLsbD (32 + f.val) = true ∧
      (∀ g : Fe, g ≠ f → t.fe[g] = s.fe[g]) ∧ Frame [.fe, .pcie, .out] s t)

/-- The status reads of an engine: FE_STATUS changes nothing; RECV_STATUS and PHASE_STATUS clear the counters and sticky bits they report, of the
named engine alone (R125, R156, R180). STREAM_STATUS and PRESS_STATUS clear the counters they report, of the named stream alone; FINING_ROM_GET
answers the taps of a filter and changes nothing, and a filter above 16 is BAD_PARAM (R186, R202, R283). ZONE_STATUS answers ON, LATCHED and the
transitions of one zone and clears the transitions; ZONE_SUMMARY answers five words and clears its two counters (R218). -/
def Obligations.StatusOpcodes : Prop :=
  ((∀ (r : Req) (s : State), Ready 0x0201 [] 1 1 r s → (wordAt r.payload 0).toNat ≤ 3 →
    ∃ ws, ws.length = 15 ∧ wordAt ws 1 = (s.fe[feOf r].ppn.zeroExtend 64).extractLsb' 0 32 ∧ Answers (.feStatus r) r stOk 0 ws (taken r s) s) ∧
  (∀ (r : Req) (s : State), Ready 0x0204 [] 1 1 r s → (wordAt r.payload 0).toNat ≤ 3 →
    ∃ ws u, ws.length = 11 ∧ (ws.drop 2).take 6 = s.fe[feOf r].crcErr.toList ∧ Answers (.recvStatus r) r stOk 0 ws u s ∧
      u.fe[feOf r].crcErr = Vector.replicate 6 0 ∧ u.fe[feOf r].linkDowns = 0 ∧ u.fe[feOf r].sysrefMis = false ∧ u.fe[feOf r].rateMis = false ∧
      u.fe[feOf r].links = s.fe[feOf r].links ∧ (∀ g : Fe, g ≠ feOf r → u.fe[g] = s.fe[g]) ∧ Frame [.fe, .proto] s u) ∧
  (∀ (r : Req) (s : State), Ready 0x0205 [] 1 1 r s → (wordAt r.payload 0).toNat ≤ 3 →
    ∃ ws u, ws.length = 9 ∧ wordAt ws 4 = s.fe[feOf r].faded ∧ wordAt ws 5 = s.fe[feOf r].bridged ∧ Answers (.phaseStatus r) r stOk 0 ws u s ∧
      u.fe[feOf r] = { s.fe[feOf r] with resets := 0, faded := 0, bridged := 0, eccResets := 0 } ∧
      (∀ g : Fe, g ≠ feOf r → u.fe[g] = s.fe[g]) ∧ Frame [.fe, .proto] s u)) ∧
  ((∀ (r : Req) (n : StreamId) (s : State), Ready 0x0206 [] 1 1 r s → (wordAt r.payload 0).toNat = n.val →
    ∃ ws, ws.length = 7 ∧ wordAt ws 2 = s.stream[n].dropped ∧ wordAt ws 3 = s.stream[n].sat ∧
      Answers (.streamStatus r) r stOk 0 ws ((taken r s).updStream n fun y => { y with dropped := 0, sat := 0 }) s) ∧
  (∀ (r : Req) (n : StreamId) (s : State), Ready 0x0209 [] 1 1 r s → (wordAt r.payload 0).toNat = n.val →
    ∃ ws, ws.length = 5 ∧ ws.drop 1 = [s.stream[n].blocks, s.stream[n].exacts, s.stream[n].raws, s.stream[n].flushes] ∧
      Answers (.pressStatus r) r stOk 0 ws
        ((taken r s).updStream n fun y => { y with maxShift := 0, blocks := 0, exacts := 0, raws := 0, flushes := 0 }) s) ∧
  (∀ (r : Req) (s : State), Ready 0x0207 [] 1 1 r s → (wordAt r.payload 0).toNat = 16 →
    Answers (.finingRomGet r) r stOk 0 (15 :: (List.range 15).map fun k => (Config.finingRom 16 k).signExtend 32) (taken r s) s) ∧
  (∀ (r : Req) (f : Nat) (s : State), Ready 0x0207 [] 1 1 r s → (wordAt r.payload 0).toNat = f → 1 ≤ f → f ≤ 15 →
    Answers (.finingRomGet r) r stOk 0 (31 :: (List.range 31).map fun k => (Config.finingRom f k).signExtend 32) (taken r s) s) ∧
  (∀ (r : Req) (s : State), Ready 0x0207 [] 1 1 r s → 16 < (wordAt r.payload 0).toNat → Answers (.finingRomGet r) r stBadParam 0 [] (taken r s) s)) ∧
  ((∀ (r : Req) (z : Nat) (s : State), Ready 0x0302 [] 1 1 r s → (wordAt r.payload 0).toNat = z → z < 2048 →
    ∃ ws u, ws.length = 7 ∧ (wordAt ws 0).getLsbD 0 = (s.zone z).on ∧ (wordAt ws 0).getLsbD 1 = (s.zone z).latched ∧
      wordAt ws 6 = (s.zone z).trans ∧ Answers (.zoneStatus r) r stOk 0 ws u s ∧ (u.zone z).trans = 0 ∧
      (∀ y : Nat, y ≠ z → u.zone y = s.zone y) ∧ Frame [.zones, .proto] s u) ∧
  (∀ (r : Req) (s : State), Ready 0x0303 [] 0 0 r s →
    ∃ ws, ws.length = 5 ∧ wordAt ws 3 = s.zones.dropped ∧ wordAt ws 4 = s.zones.locals ∧
      Answers (.zoneSummary r) r stOk 0 ws { taken r s with zones := { s.zones with dropped := 0, locals := 0 } } s))

/-! ## Corner-turn, Fining, Press (R181-R202, R267-R283) -/

/-- BAND_CLOSE of a full band queues it for reading; FINING_TILE reads one tile of the oldest closed band, drops the band with its last tile, and
touches no other band of it and no other engine; with no closed band it does nothing (R183). PRESS_RECORD takes the oldest record handed to the
stream's Press and touches no other stream; with none it does nothing. PRESS_FLUSH where no named stream runs answers OK with mask 0, and of one that
runs asks it to flush and waits (R268, R278, R283). -/
def Obligations.FiningAndPress : Prop :=
  ((∀ (f : Fe) (b : Band) (s : State), feEnded s f = false → s.fe[f].band = some b → 1024 ≤ b.rows.length →
    ∃ t, exec (.bandClose f) s = ok t ∧ t.fe[f].band = none ∧ t.fe[f].closed = s.fe[f].closed ++ [b] ∧ (∀ g : Fe, g ≠ f → t.fe[g] = s.fe[g]) ∧
      Frame [.fe] s t) ∧
  (∀ (f : Fe) (b : Band) (l : List Band) (s : State), s.fe[f].closed = b :: l →
    ∃ t, exec (.finingTile f [] []) s = ok t ∧
      t.fe[f] = (if tilesOf b.nch ≤ s.fe[f].tile + 1 then { s.fe[f] with closed := l, tile := 0 }
        else { s.fe[f] with closed := t.fe[f].closed, tile := s.fe[f].tile + 1 }) ∧
      (tilesOf b.nch ≤ s.fe[f].tile + 1 ∨ t.fe[f].closed.tail = l ∧ t.fe[f].closed.map (·.nch) = s.fe[f].closed.map (·.nch)) ∧
      (∀ g : Fe, g ≠ f → t.fe[g] = s.fe[g]) ∧ Frame [.fe, .stream, .free, .proto, .rings, .pcie, .out] s t) ∧
  (∀ (f : Fe) (a : List (Nat × Nat × EccRead)) (c : List (StreamId × Nat × EccRead)) (s : State), s.fe[f].closed = [] → exec (.finingTile f a c) s = ok s)) ∧
  ((∀ (n : StreamId) (i : PressIn) (l : List PressIn) (e : List (Nat × EccRead)) (s : State), s.stream[n].toPress = i :: l →
    ∃ t, exec (.pressRecord n e) s = ok t ∧ t.stream[n].toPress = l ∧ (∀ m : StreamId, m ≠ n → t.stream[m] = s.stream[m]) ∧
      Frame [.stream, .free, .proto, .rings, .pcie, .out, .cellar] s t) ∧
  (∀ (n : StreamId) (e : List (Nat × EccRead)) (s : State), s.stream[n].toPress = [] → exec (.pressRecord n e) s = ok s) ∧
  (∀ (r : Req) (s : State), Ready 0x0208 [] 1 1 r s → (wordAt r.payload 0).toNat < 65536 → (∀ n : StreamId, pressRuns s n = false) →
    Answers (.pressFlush r) r stOk 0 [0] (taken r s) s) ∧
  (∀ (r : Req) (n : StreamId) (s : State), Ready 0x0208 [] 1 1 r s → (wordAt r.payload 0).toNat = 2 ^ n.val → pressRuns s n = true →
    exec (.pressFlush r) s = ok (((taken r s).updStream n fun y => { y with flushReq := true }).addOp r
        (.pressFlush ((1 : BitVec 16) <<< n.val) 0 (pressLimit (taken r s) ((1 : BitVec 16) <<< n.val))) false)))

/-! ## Zones (R203-R218) -/

/-- ZONE_ACK of a zone that cannot decide takes effect at once, of that zone alone; ZONE_ACK_TIMEOUT gives it to a zone that has not decided within
2.2 ms; ZONE_EVENT_RECORD puts the oldest transition into the event ring, or counts it as dropped where the ring is full, and the record signals vector 36
once it is written to the host (R212, R218). -/
def Obligations.ZoneEvents : Prop :=
  (∀ (r : Req) (z : Nat) (s : State), Ready 0x0301 [] 1 1 r s → z < 2048 → (wordAt r.payload 0).toNat = z + 65536 → zoneIdle s z = true →
    s.proto.ops = [] →
    ∃ u, exec (.zoneAck r) s = ok u ∧ u.zone z = { s.zone z with latched := false } ∧ (∀ y : Nat, y ≠ z → u.zone y = s.zone y) ∧
      u.proto.ops = [] ∧ Frame [.zones, .proto, .rings, .out] s u) ∧
  (∀ (o : Op) (z n : Nat) (s : State), s.proto.ops = [o] → o.kind = .zoneAck [z] n →
    ∃ t, exec .zoneAckTimeout s = ok t ∧ t.zone z = { s.zone z with latched := false } ∧ (∀ y : Nat, y ≠ z → t.zone y = s.zone y) ∧
      t.proto.ops = [] ∧ t.time.clk = max s.time.clk (o.start + 2200000000) ∧ Frame [.time, .zones, .proto, .rings, .out] s t) ∧
  (∀ (e : ZoneEv) (l : List ZoneEv) (s : State), s.zones.events = e :: l → ringRoom s (ringOf (bf (s.act 0x20 0) 2 0 5)) = true →
    ∃ t, exec .zoneEventRecord s = ok t ∧ t.zones.events = l ∧ t.zones.eseq = s.zones.eseq + 1 ∧ t.zones.lost = 0 ∧
      t.rings[ringOf (bf (s.act 0x20 0) 2 0 5)].queue = s.rings[ringOf (bf (s.act 0x20 0) 2 0 5)].queue ++
        [⟨wordsBytes (zoneRecord e s.zones.eseq s.zones.lost), 0, 2, 0⟩] ∧ Frame [.zones, .rings] s t) ∧
  (∀ (n : RingId) (d : Vector Word 8) (i : Item) (s : State), chanLive s n = true → rgKind (ringBlk s n) = 2 → dsBad 2 d = false →
    s.rings[n].descs = [d] → s.rings[n].cur = none → s.rings[n].queue = [i] → i.tag = 2 → s.rings[n].done = 0 → s.rings[n].reads = [] →
    0 < i.bytes.length → i.bytes.length ≤ burstOf (dsHost d) (dsLen d) → s.power.entering = none →
    ∃ t, exec (.replyDelivery n) s = ok t ∧ t.pcie.irqSum.getLsbD 36 = true ∧ t.rings[n].queue = [] ∧
      (∃ ro ns, Out.hostWrite (dsHost d) i.bytes ro ns false ∈ t.out) ∧ Frame [.rings, .out, .pcie] s t) ∧
  (∀ (e : ZoneEv) (l : List ZoneEv) (s : State), s.zones.events = e :: l → ringRoom s (ringOf (bf (s.act 0x20 0) 2 0 5)) = false →
    ∃ t, exec .zoneEventRecord s = ok t ∧ t.zones.events = l ∧ t.zones.eseq = s.zones.eseq + 1 ∧ t.zones.lost = s.zones.lost + 1 ∧
      t.zones.dropped = addSat s.zones.dropped 1 ∧ Frame [.zones] s t)


/-! ## Thermal profiling (R223-R245) -/

/-- The Raman chain: RAMAN_SHOT_ACCUMULATE takes the oldest fire; SUBINTERVAL_FOLD ends the sub-interval that waits, and with an uncorrectable error
raises vector 42; INTERVAL_COMPLETE takes the oldest interval and counts it; RAMAN_RECORD takes the oldest record that waits; none touches another
engine's profiler (R224-R228, R240). Fusion: FUSION_EPOCH takes the oldest epoch handed over; FUSED_RECORD of an enabled fused output writes the
record of the next integer second; neither touches another engine's profiler (R234, R239). -/
def Obligations.ThermalChain : Prop :=
  ((∀ (f : Fe) (x : RamanShot) (a : Fire) (l : List Fire) (s : State), s.therm[f].fires = a :: l →
    ∃ t, exec (.ramanShotAccumulate f x) s = ok t ∧ t.therm[f].fires = l ∧
      t.time.clk = max s.time.clk (a.t + (binZero a.recv a.therm + thNBin a.therm) * 8000) ∧
      ((x.lost && shedLast s) = true → t.pcie.irqSum.getLsbD 42 = true) ∧
      (∀ m : RamanSum, (if shotIndex a.probe a.ppn % thSub a.therm = 0 then some (newSum a) else s.therm[f].acc) = some m →
        shotIndex a.probe a.ppn % thSub a.therm ≠ thSub a.therm - 1 →
        ∃ m', t.therm[f].acc = some m' ∧ m'.used + m'.excluded = m.used + m.excluded + 1) ∧
      (∀ g : Fe, g ≠ f → t.therm[g] = s.therm[g]) ∧ Frame [.time, .fe, .therm, .pcie, .out] s t) ∧
  (∀ (f : Fe) (d : RamanSum) (last : Bool) (e : EccRead) (s : State), s.therm[f].done = some (d, last) →
    ∃ t, exec (.subintervalFold f e) s = ok t ∧ t.therm[f].done = none ∧
      t.therm[f].excluded = (if e = .uncorrectable then addSat s.therm[f].excluded d.used else s.therm[f].excluded) ∧
      t.therm[f].complete.length = s.therm[f].complete.length + (if last then 1 else 0) ∧
      (e = .uncorrectable → t.pcie.irqSum.getLsbD 42 = true) ∧
      (∀ g : Fe, g ≠ f → t.therm[g] = s.therm[g]) ∧ Frame [.therm, .vat, .cellar, .free, .pcie, .out] s t) ∧
  (∀ (f : Fe) (m : RamanSum) (l : List RamanSum) (s : State), s.therm[f].complete = m :: l →
    ∃ t, exec (.intervalComplete f) s = ok t ∧ t.therm[f].complete = l ∧ t.therm[f].intervals = addSat s.therm[f].intervals 1 ∧
      (∀ g : Fe, g ≠ f → t.therm[g] = s.therm[g]) ∧ t.params.active = s.params.active ∧ t.core = s.core ∧ t.fe = s.fe) ∧
  (∀ (f : Fe) (k : Nat) (h : List Word) (b : List Byte) (fl : BitVec 16) (l : List (Nat × List Word × List Byte × BitVec 16)) (s : State),
    s.therm[f].recs = (k, h, b, fl) :: l →
    ∃ t, exec (.ramanRecord f) s = ok t ∧ t.therm[f].recs = l ∧ t.therm[f].rseq[kindIdx k] = s.therm[f].rseq[kindIdx k] + 1 ∧
      (∀ g : Fe, g ≠ f → t.therm[g] = s.therm[g]) ∧ Frame [.therm, .rings, .harv, .core] s t)) ∧
  ((∀ (f : Fe) (e : Epoch) (l : List Epoch) (s : State), s.therm[f].epochs = e :: l →
    ∃ t, exec (.fusionEpoch f) s = ok t ∧ t.therm[f].epochs = l ∧ (∀ g : Fe, g ≠ f → t.therm[g] = s.therm[g]) ∧ Frame [.therm, .free] s t) ∧
  (∀ (f : Fe) (s : State), thEn (s.act 0x30 f.val) = true → bfb (s.act 0x30 f.val) 0 3 = true →
    ∃ t, exec (.fusedRecord f) s = ok t ∧ t.therm[f].second = s.therm[f].second + 1 ∧ t.therm[f].rseq[1] = s.therm[f].rseq[1] + 1 ∧
      (∀ g : Fe, g ≠ f → t.therm[g] = s.therm[g]) ∧ Frame [.time, .therm, .rings, .harv, .core] s t))

/-- The opcodes of group 0x04: THERM_CALIBRATE of an engine without one is accepted, of one that runs BUSY; THERM_ABORT and THERM_CAL_TIMEOUT end it;
THERM_STATUS clears its counters; THERM_RESEED touches nothing but the named engine's fused channels (R232, R245). -/
def Obligations.ThermalOpcodes : Prop :=
  (∀ (r : Req) (s : State), Ready 0x0401 [] 1 1 r s → (wordAt r.payload 0).toNat ≤ 3 →
    ∃ ws, ws.length = 10 ∧ wordAt ws 3 = s.therm[feOf r].intervals ∧ wordAt ws 4 = s.therm[feOf r].excluded ∧
      wordAt ws 5 = s.therm[feOf r].skipped ∧ wordAt ws 6 = s.therm[feOf r].auxFaults ∧ wordAt ws 7 = s.therm[feOf r].dropped ∧
      Answers (.thermStatus r) r stOk 0 ws
        ((taken r s).updTherm (feOf r) fun t => { t with intervals := 0, excluded := 0, skipped := 0, auxFaults := 0, dropped := 0 }) s) ∧
  (∀ (r : Req) (s : State), Ready 0x0402 [] 2 2 r s → rsvdBad r 0 0x1FF = false → wbits (wordAt r.payload 0) 2 2 ≠ 3 → wordAt r.payload 1 ≠ 0 →
    calOp s (feOf r) = none →
    Answers (.thermCalibrate r) r stPending 0 []
      ((taken r s).addOp r (.thermCal (feOf r) (wordAt r.payload 0) (wordAt r.payload 1)) true) s) ∧
  (∀ (r : Req) (s : State), Ready 0x0402 [] 2 2 r s → rsvdBad r 0 0x1FF = false → wbits (wordAt r.payload 0) 2 2 ≠ 3 → wordAt r.payload 1 ≠ 0 →
    (calOp s (feOf r)).isSome = true → Answers (.thermCalibrate r) r stBusy 0 [] (taken r s) s) ∧
  (∀ (f : Fe) (o : Op) (s : State), calOp s f = some o →
    ∃ t, exec (.thermCalTimeout f) s = ok t ∧ t.proto.ops = s.proto.ops.erase o ∧
      t.time.clk = max s.time.clk (o.start + 3 * tInt (s.act 0x10 f.val) (s.act 0x30 f.val) + 10 ^ 12) ∧ Frame [.time, .proto, .rings, .out] s t) ∧
  (∀ (r : Req) (o : Op) (f : Fe) (a b : Word) (s : State), Ready 0x0403 [] 1 1 r s → s.findOp r.sess (wordAt r.payload 0) = some o →
    o.kind = .thermCal f a b →
    ∃ u, Answers (.thermAbort r) r stOk 0 [] u s ∧ u.proto.ops = s.proto.ops.erase o ∧ Frame [.proto, .rings, .out] s u) ∧
  (∀ (r : Req) (s : State), Ready 0x0404 [5] 2 2 r s → (wordAt r.payload 0).toNat ≤ 3 →
    ∃ u, Answers (.thermReseed r) r stOk 0 [] u s ∧ (∀ g : Fe, g ≠ feOf r → u.therm[g] = s.therm[g]) ∧
      (∃ l, u.therm[feOf r] = { s.therm[feOf r] with fused := l }) ∧ Frame [.therm, .proto] s u)

/-! ## Harvest (R246-R265) -/

/-- HARVEST_ARM of an idle unit, or with OVERWRITE of one that holds a capture, that passes its checks and is granted its power arms it from now and
reserves its rate; an armed one is BUSY. HARVEST_DISARM of an armed unit ends it with nothing held; HARVEST_FORCE with IMMEDIATE triggers it in any state of its sequencer; each with
vector 37 (R256, R257, R259). HARVEST_READ of a held capture begins its delivery, of an idle unit is BAD_PARAM; HARVEST_RELEASE frees a held capture;
HARVEST_STATUS clears the ignored count (R261, R265). -/
def Obligations.HarvestOpcodes : Prop :=
  ((∀ (r : Req) (b : List Word) (s : State), Ready 0x0501 (harvFeats r s) 1 1 r s → (wordAt r.payload 0).toNat < 8 → b = s.act 0x40 (unitOf r).val →
    s.harv[unitOf r].st = .idle ∨ (s.harv[unitOf r].st = .held ∧ (wordAt r.payload 0).getLsbD 2 = true) →
    (hvSrc b ≤ 1 → s.fe[hvFe b].links[if hvSrc b = 0 then (0 : Fin 3) else 1] = .data ∧
      judgeAdmit (taken r s) (if hvSrc b = 0 then 900 else 300) = .granted) →
    armCross s b = true → hvPost b ≤ capElems b (eszOf s b) → reservedNow s + harvRate s b ≤ capOf s s.cellar.fsp →
    ∃ u, Answers (.harvestArm r) r stPending 0 ([BitVec.ofNat 32 u.harv[unitOf r].pre, BitVec.ofNat 32 (capElems b (eszOf s b))] ++
        split64 s.now ++ [BitVec.ofNat 32 (ceilDiv (harvRate s b) 1000000)]) u s ∧
      u.harv[unitOf r].pre = (if capElems b (eszOf s b) < hvPre b + hvPost b then capElems b (eszOf s b) - hvPost b else hvPre b) ∧
      u.harv[unitOf r].st = .armed ∧ u.harv[unitOf r].seq = 0 ∧ u.harv[unitOf r].armAt = s.now ∧ u.harv[unitOf r].set = b ∧
      u.harv[unitOf r].rate = harvRate s b ∧ u.harv[unitOf r].elems = [] ∧ (hvSrc b ≤ 1 → u.pcie.irqSum.getLsbD 41 = true) ∧
      (∀ v : Fin 4, v ≠ unitOf r → u.harv[v] = s.harv[v]) ∧
      u.proto.ops = s.proto.ops ++ [⟨r.sess, r.seq, r.opcode, .harvestArm (unitOf r), true, s.time.clk⟩] ∧
      Frame ([.harv, .proto] ++ (if hvSrc b ≤ 1 then [.power, .pcie, .out] else [])) s u) ∧
  (∀ (r : Req) (s : State), Ready 0x0501 (harvFeats r s) 1 1 r s → (wordAt r.payload 0).toNat < 8 → s.harv[unitOf r].st = .armed →
    2 ≤ hvSrc (s.act 0x40 (unitOf r).val) → Answers (.harvestArm r) r stBusy 0 [] (taken r s) s) ∧
  (∀ (r : Req) (v : Fin 4) (s : State), Ready 0x0502 [] 1 1 r s → (wordAt r.payload 0).toNat = 2 ^ v.val → s.harv[v].st = .armed →
    s.commits = [] → s.proto.ops = [] →
    ∃ u, Answers (.harvestDisarm r) r stOk 0 [] u s ∧ u.harv[v].st = .idle ∧ u.harv[v].elems = [] ∧ u.harv[v].rate = 0 ∧
      u.pcie.irqSum.getLsbD 37 = true ∧ (∀ w : Fin 4, w ≠ v → u.harv[w] = s.harv[w]) ∧ Frame [.harv, .proto, .power, .pcie, .out] s u) ∧
  (∀ (r : Req) (v : Fin 4) (s : State), Ready 0x0502 [] 1 1 r s → (wordAt r.payload 0).toNat = 2 ^ v.val → s.harv[v].st = .idle →
    Answers (.harvestDisarm r) r stCompleted 0 [] (taken r s) s) ∧
  (∀ (r : Req) (v : Fin 4) (s : State), Ready 0x0503 [] 1 1 r s → (wordAt r.payload 0).toNat = 2 ^ v.val + 16 → s.harv[v].st = .armed →
    s.harv[v].elems = [] → s.harv[v].trigAt = none →
    ∃ u, Answers (.harvestForce r) r stOk 0 [] u s ∧ u.harv[v].st = .post ∧ u.harv[v].trig = some ⟨s.now, 0, 15, s.harv[v].seq, 0⟩ ∧
      u.pcie.irqSum.getLsbD 37 = true ∧ (∀ w : Fin 4, w ≠ v → u.harv[w] = s.harv[w]) ∧ Frame [.harv, .proto, .pcie, .out] s u)) ∧
  ((∀ (r : Req) (s : State), Ready 0x0504 [] 1 1 r s → (wordAt r.payload 0).toNat ≤ 3 → s.harv[unitOf r].st = .held →
    Answers (.harvestRead r) r stPending 0 []
      (((taken r s).updHarv (unitOf r) fun x => { x with st := .reading, sent := 0 }).addOp r (.harvestRead (unitOf r)) true) s) ∧
  (∀ (r : Req) (s : State), Ready 0x0504 [] 1 1 r s → (wordAt r.payload 0).toNat ≤ 3 → s.harv[unitOf r].st = .idle →
    Answers (.harvestRead r) r stBadParam 0xFF53 [] (taken r s) s) ∧
  (∀ (r : Req) (v : Fin 4) (s : State), Ready 0x0505 [] 1 1 r s → (wordAt r.payload 0).toNat = 2 ^ v.val → s.harv[v].st = .held → s.commits = [] →
    Answers (.harvestRelease r) r stOk 0 []
      ((taken r s).updHarv v fun h => { h with st := .idle, elems := [], trig := none, trigAt := none, unread := false }) s) ∧
  (∀ (r : Req) (s : State), Ready 0x0506 [] 1 1 r s → (wordAt r.payload 0).toNat ≤ 3 →
    ∃ ws, ws.length = 7 ∧ wordAt ws 6 = s.harv[unitOf r].ignored ∧
      Answers (.harvestStatus r) r stOk 0 ws ((taken r s).updHarv (unitOf r) fun x => { x with ignored := 0 }) s))

/-- A unit at work: an element of a raw or a row input is stored and counted; an event that the sequencer's state does not watch, or that came before
the state, is taken and changes nothing else, one after the trigger is counted as ignored, one that is watched counts, and the one that completes the
state's count moves to its hit state; a state's timer that expires before any event moves to its other state; the arming timeout ends the unit with
nothing held; a level detector holds the last sample (R250, R253-R256). -/
def Obligations.HarvestRuns : Prop :=
  (∀ (u : Fin 4) (x : RawSample) (s : State), s.harv[u].st = .armed → hvSrc s.harv[u].set ≤ 1 → hvAvg s.harv[u].set = 0 →
    s.harv[u].trig = none →
    ∃ t, exec (.harvestElementWrite u x) s = ok t ∧ t.harv[u].written = s.harv[u].written + 1 ∧ t.harv[u].st = .armed ∧
      t.time.clk = max s.time.clk x.t ∧ (∀ v : Fin 4, v ≠ u → t.harv[v] = s.harv[v]) ∧ Frame [.time, .harv, .cellar] s t) ∧
  (∀ (u : Fin 4) (x : RawSample) (i : HarvestInput) (l : List HarvestInput) (s : State), s.harv[u].st = .armed → 2 ≤ hvSrc s.harv[u].set →
    hvAvg s.harv[u].set = 0 → s.harv[u].trig = none → s.harv[u].inputs = i :: l →
    ∃ t, exec (.harvestElementWrite u x) s = ok t ∧ t.harv[u].written = s.harv[u].written + 1 ∧ t.harv[u].st = .armed ∧ t.harv[u].inputs = l ∧
      (t.harv[u].elems.getLast?.map fun m => (m.time, m.flags, m.ppn, m.group)) = some (i.time, i.flags, i.ppn, i.group) ∧
      (∀ v : Fin 4, v ≠ u → t.harv[v] = s.harv[v]) ∧ Frame [.harv, .cellar] s t) ∧
  (∀ (u : Fin 4) (e : SeqEvent) (s : State), nextEvent s.harv[u].inbox = some e → s.harv[u].st = .armed →
    (∀ k, timerAt s u = some k → seqSlot e.clk ≤ seqSlot k) →
    (watches s.harv[u].set s.harv[u].seq e = true → hvHit s.harv[u].set s.harv[u].seq < 8) →
    exec (.harvestSeqEvent u) s = ok (s.updHarv u fun _ =>
      if watches s.harv[u].set s.harv[u].seq e = false ∨ e.clk < s.harv[u].entered then { s.harv[u] with inbox := s.harv[u].inbox.erase e }
       else if s.harv[u].cnt + 1 < hvNeed s.harv[u].set s.harv[u].seq then
        { s.harv[u] with inbox := s.harv[u].inbox.erase e, cnt := s.harv[u].cnt + 1 }
       else { s.harv[u] with
        inbox := s.harv[u].inbox.erase e, seq := hvHit s.harv[u].set s.harv[u].seq, cnt := 0, entered := e.clk
        mark := shotInstants s (hvFe s.harv[u].set) e.clk })) ∧
  (∀ (u : Fin 4) (e : SeqEvent) (s : State), nextEvent s.harv[u].inbox = some e → s.harv[u].st = .armed →
    (∀ k, timerAt s u = some k → seqSlot e.clk ≤ seqSlot k) → watches s.harv[u].set s.harv[u].seq e = true → s.harv[u].entered ≤ e.clk →
    hvNeed s.harv[u].set s.harv[u].seq ≤ s.harv[u].cnt + 1 → hvHit s.harv[u].set s.harv[u].seq = 8 → s.harv[u].elems = [] →
    s.harv[u].trigAt = none →
    ∃ t, exec (.harvestSeqEvent u) s = ok t ∧ t.harv[u].st = .post ∧
      t.harv[u].trig = some ⟨e.time, e.sub, hvKind s.harv[u].set s.harv[u].seq, s.harv[u].seq, e.frac⟩ ∧ t.pcie.irqSum.getLsbD 37 = true ∧
      (∀ v : Fin 4, v ≠ u → t.harv[v] = s.harv[v]) ∧ Frame [.harv, .pcie, .out] s t) ∧
  (∀ (u : Fin 4) (e : SeqEvent) (s : State), nextEvent s.harv[u].inbox = some e → s.harv[u].st = .post →
    exec (.harvestSeqEvent u) s = ok { s with harv := s.harv.set u { s.harv[u] with
      inbox := s.harv[u].inbox.erase e, ignored := addSat s.harv[u].ignored 1, ignoredCap := addSat s.harv[u].ignoredCap 1 } }) ∧
  (∀ (u : Fin 4) (k : Nat) (s : State), s.harv[u].st = .armed → timerAt s u = some k →
    (∀ e, nextEvent s.harv[u].inbox = some e → seqSlot k < seqSlot e.clk) → hvTmo s.harv[u].set s.harv[u].seq < 8 →
    ∃ t, exec (.harvestSeqTimer u) s = ok t ∧ t.harv[u] = { s.harv[u] with
        seq := hvTmo s.harv[u].set s.harv[u].seq, cnt := 0, entered := k, mark := t.harv[u].mark } ∧
      t.time.clk = max s.time.clk k ∧ (∀ v : Fin 4, v ≠ u → t.harv[v] = s.harv[v]) ∧ Frame [.time, .harv] s t) ∧
  (∀ (u : Fin 4) (s : State), hvUnit s.harv[u].set s.harv[u].seq = 2 →
    timerAt s u = some (s.harv[u].entered + ceilDiv (hvTimer s.harv[u].set s.harv[u].seq) 8 * 8000)) ∧
  (∀ (u : Fin 4) (s : State), s.harv[u].st ≠ .armed ∨ timerAt s u = none → exec (.harvestSeqTimer u) s = ok s) ∧
  (∀ (u : Fin 4) (s : State), s.harv[u].st = .armed → hvTimeout s.harv[u].set ≠ 0 → s.commits = [] → s.proto.ops = [] →
    ∃ t, exec (.harvestArmTimeout u) s = ok t ∧ t.harv[u].st = .idle ∧ t.harv[u].elems = [] ∧ t.pcie.irqSum.getLsbD 37 = true ∧
      t.time.clk = max s.time.clk (s.harv[u].armClk + hvTimeout s.harv[u].set * 10 ^ 9) ∧ (∀ v : Fin 4, v ≠ u → t.harv[v] = s.harv[v]) ∧
      Frame [.time, .harv, .power, .pcie, .out] s t) ∧
  (∀ (u : Fin 4) (x : Int) (w : Nat) (s : State), s.harv[u].st = .armed → 2 ≤ hvLvlKind s.harv[u].set → hvLvlKind s.harv[u].set ≤ 5 →
    s.harv[u].last = none →
    ∃ t, exec (.rawStreamLevelCrossing u x w false) s = ok t ∧ t.harv[u] = { s.harv[u] with
        upArmed := s.harv[u].upArmed || decide (x < hvLvlTh s.harv[u].set - hvLvlHyst s.harv[u].set)
        downArmed := s.harv[u].downArmed || decide (hvLvlTh s.harv[u].set + hvLvlHyst s.harv[u].set < x)
        last := some (x, w) } ∧
      (∀ v : Fin 4, v ≠ u → t.harv[v] = s.harv[v]) ∧ Frame [.time, .harv] s t)

/-! ## Cooper cores (R283-R313) -/

/-- Every arithmetic row of Table 12.6 with a result one bundle later, alone in a bundle of a core with nothing under way: its result is in its
destination for the next bundle and nothing else of the core changes but the bundle count; MUL's result comes two bundles on (R291, R294, R300). -/
def Obligations.CooperArithmetic : Prop :=
  (∀ p ∈ [(Instr.add, fun (x y : Word) => x + y), (Instr.sub, fun x y => x - y),
      (Instr.adds, fun x y => Word.ofInt (max (-2147483648) (min 2147483647 (x.toInt + y.toInt)))),
      (Instr.subs, fun x y => Word.ofInt (max (-2147483648) (min 2147483647 (x.toInt - y.toInt)))),
      (Instr.and, fun x y => x &&& y), (Instr.or, fun x y => x ||| y), (Instr.xor, fun x y => x ^^^ y),
      (Instr.shl, fun x y => x <<< (y.toNat % 32)), (Instr.sra, fun x y => x.sshiftRight (y.toNat % 32)),
      (Instr.srl, fun x y => x >>> (y.toNat % 32)), (Instr.min, fun x y => if x.toInt ≤ y.toInt then x else y),
      (Instr.max, fun x y => if x.toInt ≤ y.toInt then y else x), (Instr.cmpeq, fun x y => if x = y then 1 else 0),
      (Instr.cmplt, fun x y => if x.toInt < y.toInt then 1 else 0),
      (Instr.add2, fun x y => (x.extractLsb' 16 16 + y.extractLsb' 16 16) ++ (x.extractLsb' 0 16 + y.extractLsb' 0 16)),
      (Instr.sub2, fun x y => (x.extractLsb' 16 16 - y.extractLsb' 16 16) ++ (x.extractLsb' 0 16 - y.extractLsb' 0 16)),
      (Instr.pack, fun x y => y.extractLsb' 0 16 ++ x.extractLsb' 0 16)],
    ∀ (n : CoreId) (sl : ASlot) (d sa sb : BitVec 5) (s : State), Plain s.core[n] →
      Issues (p.1 ⟨n, sl, d, sa, sb, .last .clean⟩) n (withG (afterBundle s.core[n]) d (p.2 (greg s.core[n] sa) (greg s.core[n] sb))) s) ∧
  (∀ p ∈ [(Instr.shli, fun (x : Word) (i : BitVec 5) => x <<< i.toNat), (Instr.srai, fun x i => x.sshiftRight i.toNat),
      (Instr.srli, fun x i => x >>> i.toNat), (Instr.addi, fun x i => x + i.signExtend 32)],
    ∀ (n : CoreId) (sl : ASlot) (d sa i : BitVec 5) (s : State), Plain s.core[n] →
      Issues (p.1 ⟨n, sl, d, sa, i, .last .clean⟩) n (withG (afterBundle s.core[n]) d (p.2 (greg s.core[n] sa) i)) s) ∧
  (∀ p ∈ [(Instr.mov, fun (x : Word) => x), (Instr.abs, fun x => if x = 0x80000000 then 0x7FFFFFFF else if x.toInt < 0 then -x else x),
      (Instr.norm, fun x => x <<< expOf 32 x.toNat), (Instr.exp, fun x => BitVec.ofNat 32 (expOf 32 x.toNat))],
    ∀ (n : CoreId) (sl : ASlot) (d sa : BitVec 5) (s : State), Plain s.core[n] →
      Issues (p.1 ⟨n, sl, d, sa, 0, .last .clean⟩) n (withG (afterBundle s.core[n]) d (p.2 (greg s.core[n] sa))) s) ∧
  (∀ (n : CoreId) (sl : ASlot) (d sa sb : BitVec 5) (s : State), Plain s.core[n] →
    Issues (.mul ⟨n, sl, d, sa, sb, .last .clean⟩) n (comesG (afterBundle s.core[n]) 1 d (greg s.core[n] sa * greg s.core[n] sb)) s) ∧
  (∀ (n : CoreId) (sl : Slot) (s : State), Plain s.core[n] → Issues (.nop n sl (.last .clean)) n (afterBundle s.core[n]) s)

/-- The accumulator rows of Table 12.6, alone in a bundle: a MAC-family row adds or subtracts its product, an MPY-family row stores it, ASH shifts,
CLRA clears, each to an exact value inside the accumulator; a reader's result comes two bundles on and is that of the accumulator as the bundle before
the last left it (R291-R293). -/
def Obligations.CooperAccumulators : Prop :=
  (∀ p ∈ [(Instr.mac, fun (a x y : Int) => a + x * y), (Instr.msu, fun a x y => a - x * y), (Instr.mpy, fun _ x y => x * y)],
    ∀ (n : CoreId) (sl : ASlot) (k : Fin 4) (sat : Bool) (sa sb : BitVec 5) (s : State) (v : Int), Plain s.core[n] → s.core[n].inHandler = false →
      v = p.2 s.core[n].a[k].toInt (greg s.core[n] sa).toInt (greg s.core[n] sb).toInt → -2 ^ 71 ≤ v → v < 2 ^ 71 →
      Issues (p.1 ⟨n, sl, BitVec.ofBool sat ++ 0#2 ++ BitVec.ofNat 2 k.val, sa, sb, .last .clean⟩) n
        { afterBundle s.core[n] with a := s.core[n].a.set k (BitVec.ofInt 72 v) } s) ∧
  (∀ p ∈ [(Instr.mac2, fun (a x y : Int) => a + (x + y)), (Instr.msu2, fun a x y => a - (x + y)), (Instr.mpy2, fun _ x y => x + y)],
    ∀ (n : CoreId) (sl : ASlot) (k : Fin 4) (sat : Bool) (sa sb : BitVec 5) (s : State) (v : Int), Plain s.core[n] → s.core[n].inHandler = false →
      v = p.2 s.core[n].a[k].toInt (((greg s.core[n] sa).extractLsb' 0 16).toInt * ((greg s.core[n] sb).extractLsb' 0 16).toInt)
        (((greg s.core[n] sa).extractLsb' 16 16).toInt * ((greg s.core[n] sb).extractLsb' 16 16).toInt) → -2 ^ 71 ≤ v → v < 2 ^ 71 →
      Issues (p.1 ⟨n, sl, BitVec.ofBool sat ++ 0#2 ++ BitVec.ofNat 2 k.val, sa, sb, .last .clean⟩) n
        { afterBundle s.core[n] with a := s.core[n].a.set k (BitVec.ofInt 72 v) } s) ∧
  (∀ (n : CoreId) (sl : ASlot) (k : Fin 4) (sa sb : BitVec 5) (s : State), Plain s.core[n] → s.core[n].inHandler = false →
    2 ^ 71 ≤ s.core[n].a[k].toInt + (greg s.core[n] sa).toInt * (greg s.core[n] sb).toInt → s.core[n].ovfTrap = false →
    Issues (.mac ⟨n, sl, 1#1 ++ 0#2 ++ BitVec.ofNat 2 k.val, sa, sb, .last .clean⟩) n
      { afterBundle s.core[n] with
          a := s.core[n].a.set k (BitVec.ofInt 72 (2 ^ 71 - 1)), av := s.core[n].av ||| ((1 : BitVec 4) <<< k.val) } s) ∧
  (∀ (n : CoreId) (sl : ASlot) (k : Fin 4) (sat : Bool) (i : BitVec 5) (s : State) (v : Int), Plain s.core[n] → s.core[n].inHandler = false →
    v = (if i.toInt < 0 then Int.fdiv s.core[n].a[k].toInt (2 ^ i.toInt.natAbs) else s.core[n].a[k].toInt * 2 ^ i.toInt.natAbs) →
    -2 ^ 71 ≤ v → v < 2 ^ 71 →
    Issues (.ash ⟨n, sl, BitVec.ofBool sat ++ 0#2 ++ BitVec.ofNat 2 k.val, 0, i, .last .clean⟩) n
      { afterBundle s.core[n] with a := s.core[n].a.set k (BitVec.ofInt 72 v) } s) ∧
  (∀ (n : CoreId) (sl : ASlot) (k : Fin 4) (s : State), Plain s.core[n] → s.core[n].inHandler = false →
    Issues (.clra ⟨n, sl, BitVec.ofNat 5 k.val, 0, 0, .last .clean⟩) n { afterBundle s.core[n] with a := s.core[n].a.set k 0 } s) ∧
  (∀ p ∈ [(Instr.moval, fun (a : BitVec 72) => a.extractLsb' 0 32), (Instr.movah, fun a => a.extractLsb' 32 32),
      (Instr.movag, fun a => (a.extractLsb' 64 8).signExtend 32), (Instr.expa, fun a => BitVec.ofNat 32 (expOf 72 a.toNat))],
    ∀ (n : CoreId) (sl : ASlot) (d : BitVec 5) (k : Fin 4) (s : State), Plain s.core[n] → s.core[n].inHandler = false →
      Issues (p.1 ⟨n, sl, d, BitVec.ofNat 5 k.val, 0, .last .clean⟩) n (comesG (afterBundle s.core[n]) 1 d (p.2 s.core[n].aOld[k])) s) ∧
  (∀ p ∈ [(Instr.rnd, (2 : Int) ^ 31), (Instr.rndh, 2 ^ 15)],
    ∀ (n : CoreId) (sl : ASlot) (d i : BitVec 5) (k : Fin 4) (s : State) (v : Int), Plain s.core[n] → s.core[n].inHandler = false →
      v = (if i = 0 then s.core[n].aOld[k].toInt else Int.fdiv (s.core[n].aOld[k].toInt + 2 ^ (i.toNat - 1)) (2 ^ i.toNat)) →
      Issues (p.1 ⟨n, sl, d, BitVec.ofNat 5 k.val, i, .last .clean⟩) n
        { comesG (afterBundle s.core[n]) 1 d (Word.ofInt (max (-p.2) (min (p.2 - 1) v))) with
          rsat := s.core[n].rsat || decide (v < -p.2) || decide (p.2 ≤ v) } s)

/-- The load/store rows of Table 12.7 in every MODE of Table 12.5, alone in a bundle: a load's value comes three bundles on, a store changes exactly
its bytes of DM, a move or a post-modify of Table 12.10 is in place for the next bundle, and a corrected load is counted. A misaligned access stops the
core with fault MISALIGNED, an uncorrectable load with ECC, a slot that the tables do not allow with ILLEGAL (R286, R290, R291, R295, R309). -/
def Obligations.CooperMemory : Prop :=
  (∀ p ∈ [(Instr.ldw, (1 : BitVec 4), 4, fun (m : Mem) (x : Nat) => bytesWord (m.readN x 4)),
      (Instr.ldh, 2, 2, fun m x => (m.read (x + 1) ++ m.read x).signExtend 32),
      (Instr.ldhu, 3, 2, fun m x => (m.read (x + 1) ++ m.read x).zeroExtend 32)],
    ∀ (n : CoreId) (g : BitVec 5) (b : BitVec 3) (md : BitVec 2) (off : BitVec 6) (e : EccRead) (s : State) (x : Nat), Plain s.core[n] →
      lsForm s.core[n] b md off → e ≠ .uncorrectable → x = (lsAddr s.core[n] (lsSlot p.2.1 g b md off)).toNat → x % p.2.2.1 = 0 →
      Issues (p.1 ⟨n, g, b, md, off, .last .clean⟩ e) n
        (stepsP s.core[n] b md s.free (metEcc e (comesG (afterBundle s.core[n]) 2 g (p.2.2.2 s.core[n].dm x)))) s) ∧
  (∀ (n : CoreId) (g : BitVec 5) (b : BitVec 3) (md : BitVec 2) (off : BitVec 6) (e : EccRead) (s : State) (x : Nat), Plain s.core[n] →
    lsForm s.core[n] b md off → g.getLsbD 0 = false → e ≠ .uncorrectable → x = (lsAddr s.core[n] (lsSlot 4 g b md off)).toNat → x % 8 = 0 →
    Issues (.ldd ⟨n, g, b, md, off, .last .clean⟩ e) n
      (stepsP s.core[n] b md s.free (metEcc e { afterBundle s.core[n] with
        flight :=
          [⟨2, .g s.core[n].inHandler (physG s.core[n] g), bytesWord (s.core[n].dm.readN x 4)⟩,
           ⟨2, .g s.core[n].inHandler (physG s.core[n] (g ||| 1)), bytesWord (s.core[n].dm.readN (x + 4) 4)⟩] })) s) ∧
  (∀ p ∈ [(Instr.stw, (5 : BitVec 4), 4), (Instr.sth, 6, 2), (Instr.std, 7, 8)],
    ∀ (n : CoreId) (g : BitVec 5) (b : BitVec 3) (md : BitVec 2) (off : BitVec 6) (s : State) (x : Nat), Plain s.core[n] →
      lsForm s.core[n] b md off → (p.2.2 = 8 → g.getLsbD 0 = false) → x = (lsAddr s.core[n] (lsSlot p.2.1 g b md off)).toNat → x % p.2.2 = 0 →
      s.core[n].dm.wf = true →
      ∃ m, Issues (p.1 ⟨n, g, b, md, off, .last .clean⟩) n (stepsP s.core[n] b md s.free { afterBundle s.core[n] with dm := m }) s ∧
        m.readN x p.2.2 = (wordBytes (greg s.core[n] g) ++ wordBytes (greg s.core[n] (g ||| 1))).take p.2.2 ∧
        ∀ y, y < x ∨ x + p.2.2 ≤ y → m.read y = s.core[n].dm.read y) ∧
  (∀ (n : CoreId) (g : BitVec 5) (b : BitVec 3) (s : State), Plain s.core[n] →
    Issues (.movg ⟨n, g, b, 0, 0, .last .clean⟩) n (withG (afterBundle s.core[n]) g ((preg s.core[n] b).zeroExtend 32)) s ∧
    Issues (.movm ⟨n, g, b, 0, 0, .last .clean⟩) n { afterBundle s.core[n] with m := s.core[n].m.set b.toFin (greg s.core[n] g) } s ∧
    Issues (.movp ⟨n, g, b, 0, 0, .last .clean⟩) n (withP (afterBundle s.core[n]) b ((greg s.core[n] g).extractLsb' 0 18)) s) ∧
  (∀ (n : CoreId) (b : BitVec 3) (s : State), Plain s.core[n] → wbits s.core[n].m[b.toFin] 16 2 ≠ 3 →
    Issues (.modp ⟨n, 0, b, 1, 0, .last .clean⟩) n (stepsP s.core[n] b 1 s.free (afterBundle s.core[n])) s) ∧
  (∀ (k : Nat) (m : Word) (base p : BitVec 18),
    (wbits m 16 2 = 0 → postMod k m base p = p + (m.extractLsb' 0 16).signExtend 18) ∧
    (wbits m 16 2 = 1 → wbits m 18 14 ≠ 0 → postMod k m base p =
      base + BitVec.ofInt 18 (((p.toNat : Int) - base.toNat + (m.extractLsb' 0 16).toInt) % (4 * wbits m 18 14 : Nat))) ∧
    (wbits m 16 2 = 2 → wbits m 0 4 ≤ 3 → 1 ≤ wbits m 4 5 → wbits m 4 5 ≤ 15 → wbits m 9 7 = 0 → wbits m 18 14 = 0 →
      ∀ j : Nat, (postMod k m base p).getLsbD j =
        if (wbits m 0 4 ≤ j ∧ j < wbits m 0 4 + wbits m 4 5) then
          (bitrev (wbits m 4 5) ((bitrev (wbits m 4 5) (bitsOf p.toNat (wbits m 0 4) (wbits m 4 5)) + 1) % 2 ^ wbits m 4 5)).testBit (j - wbits m 0 4)
        else p.getLsbD j)) ∧
  (∀ e : EccRead, ∀ p ∈ [((Instr.ldw · e), (1 : BitVec 4), 4), ((Instr.ldh · e), 2, 2), ((Instr.ldhu · e), 3, 2), ((Instr.ldd · e), 4, 8),
      (Instr.stw, 5, 4), (Instr.sth, 6, 2), (Instr.std, 7, 8)],
    ∀ (n : CoreId) (g : BitVec 5) (b : BitVec 3) (md : BitVec 2) (off : BitVec 6) (s : State), Plain s.core[n] → reinitOps 1 n.val s = [] →
      lsForm s.core[n] b md off → (p.2.2 = 8 → g.getLsbD 0 = false) → (lsAddr s.core[n] (lsSlot p.2.1 g b md off)).toNat % p.2.2 ≠ 0 →
      Faults (p.1 ⟨n, g, b, md, off, .last .clean⟩) n 2 s.core[n] s) ∧
  (∀ p ∈ [(Instr.ldw, (1 : BitVec 4), 4), (Instr.ldh, 2, 2), (Instr.ldhu, 3, 2), (Instr.ldd, 4, 8)],
    ∀ (n : CoreId) (g : BitVec 5) (b : BitVec 3) (md : BitVec 2) (off : BitVec 6) (s : State) (x : Nat), Plain s.core[n] → reinitOps 1 n.val s = [] →
      lsForm s.core[n] b md off → (p.2.2 = 8 → g.getLsbD 0 = false) → x = (lsAddr s.core[n] (lsSlot p.2.1 g b md off)).toNat → x % p.2.2 = 0 →
      Faults (p.1 ⟨n, g, b, md, off, .last .clean⟩ .uncorrectable) n 4 { s.core[n] with dmBad := [x / 32] } s) ∧
  (∀ e : EccRead, ∀ p ∈ [((Instr.ldw · e), false), ((Instr.ldh · e), false), ((Instr.ldhu · e), false), ((Instr.ldd · e), true),
      (Instr.stw, false), (Instr.sth, false), (Instr.std, true)],
    ∀ (n : CoreId) (g : BitVec 5) (b : BitVec 3) (md : BitVec 2) (off : BitVec 6) (s : State), Plain s.core[n] → reinitOps 1 n.val s = [] →
      ¬ lsForm s.core[n] b md off ∨ (p.2 && g.getLsbD 0) = true → Faults (p.1 ⟨n, g, b, md, off, .last .clean⟩) n 1 s.core[n] s) ∧
  (∀ p ∈ [Instr.movp, Instr.movg, Instr.movm],
    ∀ (n : CoreId) (g : BitVec 5) (b : BitVec 3) (md : BitVec 2) (off : BitVec 6) (s : State), Plain s.core[n] → reinitOps 1 n.val s = [] →
      md ≠ 0 ∨ off ≠ 0 → Faults (p ⟨n, g, b, md, off, .last .clean⟩) n 1 s.core[n] s) ∧
  (∀ (n : CoreId) (g : BitVec 5) (b : BitVec 3) (md : BitVec 2) (off : BitVec 6) (s : State), Plain s.core[n] → reinitOps 1 n.val s = [] →
    md ≠ 1 ∨ off ≠ 0 ∨ g ≠ 0 ∨ wbits s.core[n].m[b.toFin] 16 2 = 3 → Faults (.modp ⟨n, g, b, md, off, .last .clean⟩) n 1 s.core[n] s)

/-- The control rows of Table 12.8, each alone in a bundle, with every operand the table allows: branches jump after two more bundles, LOOP and REPEAT
set up their counts from COUNT or from g, MVC moves to and from every control register, MOVI and MOVHI load immediates, HALT halts with vector 45 + n,
WAIT waits where nothing enabled is pending, POST gives its status, TAPREL releases halves. END loops back or leaves its loop, REPEAT issues its bundle
again, and the delay slots end at the target. A field that the table leaves at 0, COND above 4 and a control format in a delay slot fault ILLEGAL, the
cases of R298 fault LOOP (R289-R291, R296-R301, R303, R305, R309). -/
def Obligations.CooperControlRows : Prop :=
  (∀ (n : CoreId) (cond : BitVec 3) (g : BitVec 5) (dest : BitVec 13) (s : State), Plain s.core[n] → cond.toNat ≤ 4 →
    Issues (.br ⟨n, cond ++ g ++ 0#14 ++ dest, .last .clean⟩) n
      { afterBundle s.core[n] with
        jump := if cond = 0 ∨ (cond = 1 ∧ greg s.core[n] g = 0) ∨ (cond = 2 ∧ greg s.core[n] g ≠ 0) ∨ (cond = 3 ∧ (greg s.core[n] g).msb = true) ∨
          (cond = 4 ∧ (greg s.core[n] g).msb = false) then some (2, .to dest) else none } s) ∧
  (∀ (n : CoreId) (g : BitVec 5) (dest : BitVec 13) (s : State), Plain s.core[n] →
    Issues (.brl ⟨n, 0#3 ++ g ++ 0#14 ++ dest, .last .clean⟩) n
      { withG (afterBundle s.core[n]) g ((s.core[n].pc + 3).zeroExtend 32) with jump := some (2, .to dest) } s ∧
    Issues (.jr ⟨n, 0#3 ++ g ++ 0#27, .last .clean⟩) n
      { afterBundle s.core[n] with jump := some (2, .to ((greg s.core[n] g).extractLsb' 0 13)) } s ∧
    Issues (.reti ⟨n, 0, .last .clean⟩) n { afterBundle s.core[n] with jump := some (2, .reti) } s) ∧
  (∀ (n : CoreId) (lvl : Fin 2) (rot reg : Bool) (g : BitVec 5) (cnt : BitVec 14) (last : BitVec 13) (v : Word) (s : State), Plain s.core[n] →
    s.core[n].inHandler = false → s.core[n].pc.toNat < last.toNat → v = (if reg then greg s.core[n] g else cnt.zeroExtend 32) →
    Issues (.loop ⟨n, BitVec.ofBool (lvl == 1) ++ BitVec.ofBool rot ++ BitVec.ofBool reg ++ g ++ cnt ++ last, .last .clean⟩) n
      (if v = 0 then { afterBundle s.core[n] with pc := last + 1 }
       else { afterBundle s.core[n] with
          lc := s.core[n].lc.set lvl v, loops := s.core[n].loops.set lvl ⟨true, s.core[n].pc + 1, last, rot⟩ }) s) ∧
  (∀ (n : CoreId) (reg : Bool) (g : BitVec 5) (cnt : BitVec 13) (k : Nat) (s : State), Plain s.core[n] →
    k = (if reg then (greg s.core[n] g).toNat else cnt.toNat) →
    Issues (.repeat_ ⟨n, 0#2 ++ BitVec.ofBool reg ++ g ++ 0#14 ++ cnt, .last .clean⟩) n
      (if k = 0 then { afterBundle s.core[n] with pc := s.core[n].pc + 1 + 1 } else { afterBundle s.core[n] with rep := some k }) s) ∧
  (∀ (n : CoreId) (g : BitVec 5) (i : BitVec 16) (s : State), Plain s.core[n] →
    Issues (.movi ⟨n, 0#3 ++ g ++ 0#11 ++ i, .last .clean⟩) n (withG (afterBundle s.core[n]) g (i.signExtend 32)) s ∧
    Issues (.movhi ⟨n, 0#3 ++ g ++ 0#11 ++ i, .last .clean⟩) n
      (withG (afterBundle s.core[n]) g (i ++ (greg s.core[n] g).extractLsb' 0 16)) s) ∧
  (∀ p ∈ [(0#5, fun (c : Core) (v : Word) => { c with
        ie := v.getLsbD 0, av := c.av &&& ~~~(v.extractLsb' 2 4), rsat := c.rsat && !v.getLsbD 6, ovfTrap := v.getLsbD 7 }),
      (1, fun c v => { c with ivec := v.extractLsb' 0 13 }), (2, fun c v => { c with ien := v.extractLsb' 0 6 }),
      (3, fun c v => { c with ipend := c.ipend &&& ~~~(v.extractLsb' 0 6) }), (4, fun c v => { c with iret := v.extractLsb' 0 13 }),
      (5, fun c v => { c with lb := v.extractLsb' 0 4 }), (6, fun c v => { c with lc := c.lc.set 0 v }), (7, fun c v => { c with lc := c.lc.set 1 v }),
      (16, fun c v => { c with base := c.base.set 0 (v.extractLsb' 0 18) }), (17, fun c v => { c with base := c.base.set 1 (v.extractLsb' 0 18) }),
      (18, fun c v => { c with base := c.base.set 2 (v.extractLsb' 0 18) }), (19, fun c v => { c with base := c.base.set 3 (v.extractLsb' 0 18) }),
      (20, fun c v => { c with base := c.base.set 4 (v.extractLsb' 0 18) }), (21, fun c v => { c with base := c.base.set 5 (v.extractLsb' 0 18) }),
      (22, fun c v => { c with base := c.base.set 6 (v.extractLsb' 0 18) }), (23, fun c v => { c with base := c.base.set 7 (v.extractLsb' 0 18) })],
    ∀ (n : CoreId) (g : BitVec 5) (s : State), Plain s.core[n] →
      Issues (.mvc ⟨n, 0#3 ++ g ++ 0#22 ++ p.1, .last .clean⟩) n (p.2 (afterBundle s.core[n]) (greg s.core[n] g)) s) ∧
  (∀ (n : CoreId) (g k : BitVec 5) (s : State), Plain s.core[n] → 8 ≤ k.toNat ∧ k.toNat ≤ 14 ∨ 24 ≤ k.toNat →
    Issues (.mvc ⟨n, 0#3 ++ g ++ 0#22 ++ k, .last .clean⟩) n (afterBundle s.core[n]) s) ∧
  (∀ (n : CoreId) (g : BitVec 5) (s : State), Plain s.core[n] → ∃ t, exec (.mvc ⟨n, 0#3 ++ g ++ 0#22 ++ 15#5, .last .clean⟩) s = ok t ∧
    t.core = s.core.set n { afterBundle s.core[n] with msgOut := greg s.core[n] g } ∧ t.pcie.irqSum.getLsbD (45 + n.val) = true ∧
    Frame [.core, .free, .pcie, .out] s t) ∧
  (∀ (n : CoreId) (g k : BitVec 5) (s : State), Plain s.core[n] → k = 15 ∨ 24 ≤ k.toNat →
    Issues (.mvc ⟨n, 4#3 ++ g ++ 0#22 ++ k, .last .clean⟩) n (withG (afterBundle s.core[n]) g 0) s) ∧
  (∀ p ∈ [(0#5, fun (c : Core) => 0#23 ++ BitVec.ofBool c.msgValid ++ BitVec.ofBool c.ovfTrap ++ BitVec.ofBool c.rsat ++ c.av ++
        BitVec.ofBool c.inHandler ++ BitVec.ofBool c.ie), (1, fun c => c.ivec.zeroExtend 32), (2, fun c => c.ien.zeroExtend 32),
      (3, fun c => c.ipend.zeroExtend 32), (5, fun c => c.lb.zeroExtend 32), (8, fun c => c.tapst.zeroExtend 32), (4, fun c => c.iret.zeroExtend 32), (6, fun c => c.lc[(0 : Fin 2)]),
      (7, fun c => c.lc[(1 : Fin 2)]), (9, fun c => BitVec.ofNat 32 c.posts.length), (11, fun c => c.latBundles), (13, fun c => c.latTime),
      (16, fun c => c.base[(0 : Fin 8)].zeroExtend 32), (17, fun c => c.base[(1 : Fin 8)].zeroExtend 32),
      (18, fun c => c.base[(2 : Fin 8)].zeroExtend 32), (19, fun c => c.base[(3 : Fin 8)].zeroExtend 32),
      (20, fun c => c.base[(4 : Fin 8)].zeroExtend 32), (21, fun c => c.base[(5 : Fin 8)].zeroExtend 32),
      (22, fun c => c.base[(6 : Fin 8)].zeroExtend 32), (23, fun c => c.base[(7 : Fin 8)].zeroExtend 32)],
    ∀ (n : CoreId) (g : BitVec 5) (s : State), Plain s.core[n] →
      Issues (.mvc ⟨n, 4#3 ++ g ++ 0#22 ++ p.1, .last .clean⟩) n (withG (afterBundle s.core[n]) g (p.2 s.core[n])) s) ∧
  (∀ (n : CoreId) (g : BitVec 5) (s : State), Plain s.core[n] →
    Issues (.mvc ⟨n, 4#3 ++ g ++ 0#22 ++ 10#5, .last .clean⟩) n
      (withG { afterBundle s.core[n] with latBundles := s.core[n].bundles.extractLsb' 32 32 } g (s.core[n].bundles.extractLsb' 0 32)) s ∧
    Issues (.mvc ⟨n, 4#3 ++ g ++ 0#22 ++ 12#5, .last .clean⟩) n
      (withG { afterBundle s.core[n] with latTime := s.now.extractLsb' 32 32 } g (s.now.extractLsb' 0 32)) s ∧
    Issues (.mvc ⟨n, 4#3 ++ g ++ 0#22 ++ 14#5, .last .clean⟩) n
      (withG { afterBundle s.core[n] with msgIn := 0, msgValid := false } g s.core[n].msgIn) s) ∧
  (∀ (n : CoreId) (s : State), Plain s.core[n] → reinitOps 1 n.val s = [] →
    ∃ t, exec (.halt ⟨n, 0, .last .clean⟩) s = ok t ∧ t.core = s.core.set n { afterBundle s.core[n] with st := .halted } ∧
      t.pcie.irqSum.getLsbD (45 + n.val) = true ∧ Frame [.core, .free, .power, .proto, .rings, .pcie, .out] s t) ∧
  (∀ (n : CoreId) (s : State), Plain s.core[n] →
    Issues (.wait ⟨n, 0, .last .clean⟩) n
      (if s.core[n].ipend &&& s.core[n].ien = 0 then { afterBundle s.core[n] with st := .waiting } else afterBundle s.core[n]) s) ∧
  (∀ (n : CoreId) (g : BitVec 5) (s : State), Plain s.core[n] → 4 ≤ s.core[n].posts.length →
    Issues (.post ⟨n, 0#3 ++ g ++ 0#27, .last .clean⟩) n (withG (afterBundle s.core[n]) g 1) s) ∧
  (∀ (n : CoreId) (g : BitVec 5) (s : State) (d : List Word), Plain s.core[n] → s.core[n].posts.length < 4 →
    d = bytesWords 16 (s.core[n].dm.readN ((greg s.core[n] g).toNat % 2 ^ 18) 64) →
    Issues (.post ⟨n, 0#3 ++ g ++ 0#27, .last .clean⟩) n
      (if postOk (greg s.core[n] g) d then
        withG { afterBundle s.core[n] with posts := s.core[n].posts ++ [⟨d, none⟩], posted := addSat s.core[n].posted 1 } g 0
       else withG (afterBundle s.core[n]) g 2) s) ∧
  (∀ (n : CoreId) (m : BitVec 4) (s : State), Plain s.core[n] →
    Issues (.taprel ⟨n, 0#31 ++ m, .last .clean⟩) n { afterBundle s.core[n] with tapst := s.core[n].tapst &&& ~~~m } s) ∧
  (∀ p ∈ [(Instr.br, 0x7F8001FFF), (Instr.brl, 0xF8001FFF), (Instr.jr, 0xF8000000), (Instr.reti, 0), (Instr.repeat_, 0x1F8001FFF),
      (Instr.mvc, 0x4F800001F), (Instr.movi, 0xF800FFFF), (Instr.movhi, 0xF800FFFF), (Instr.halt, 0), (Instr.wait, 0), (Instr.post, 0xF8000000),
      (Instr.taprel, 0xF)],
    ∀ (n : CoreId) (o : BitVec 35) (s : State), Plain s.core[n] → reinitOps 1 n.val s = [] → o &&& ~~~(BitVec.ofNat 35 p.2) ≠ 0 →
      Faults (p.1 ⟨n, o, .last .clean⟩) n 1 s.core[n] s) ∧
  (∀ (n : CoreId) (o : BitVec 35) (s : State), Plain s.core[n] → reinitOps 1 n.val s = [] → 5 ≤ (o.extractLsb' 32 3).toNat →
    Faults (.br ⟨n, o, .last .clean⟩) n 1 s.core[n] s) ∧
  (∀ (n : CoreId) (o : BitVec 35) (s : State), Flows s.core[n] → s.core[n].jump = none → s.core[n].rep = none → reinitOps 1 n.val s = [] →
    (o.extractLsb' 0 13).toNat ≤ s.core[n].pc.toNat ∨ s.core[n].loops[if o.getLsbD 34 then (1 : Fin 2) else 0].on = true ∨
      s.core[n].inHandler = true ∨ (o.getLsbD 34 = true ∧ s.core[n].loops[(0 : Fin 2)].on = true ∧
        s.core[n].loops[(0 : Fin 2)].last.toNat < (o.extractLsb' 0 13).toNat) →
    Faults (.loop ⟨n, o, .last .clean⟩) n 3 s.core[n] s) ∧
  (∀ p ∈ [(Instr.br, 0xF8001FFF), (Instr.brl, 0xF8001FFF), (Instr.jr, 0xF8000000), (Instr.reti, 0)],
    ∀ (n : CoreId) (o : BitVec 35) (l : Fin 2) (s : State), Flows s.core[n] → s.core[n].jump = none → s.core[n].rep = none →
      reinitOps 1 n.val s = [] → o &&& ~~~(BitVec.ofNat 35 p.2) = 0 → s.core[n].loops[l].on = true →
      s.core[n].loops[l].first.toNat ≤ s.core[n].pc.toNat → s.core[n].pc.toNat ≤ s.core[n].loops[l].last.toNat →
      s.core[n].loops[l].last.toNat ≤ s.core[n].pc.toNat + 2 → Faults (p.1 ⟨n, o, .last .clean⟩) n 3 s.core[n] s) ∧
  (∀ (n : CoreId) (l : Fin 2) (s : State), Flows s.core[n] → s.core[n].jump = none → s.core[n].rep = none → s.core[n].loops[l].on = true →
    s.core[n].loops[l].last = s.core[n].pc → (∀ k : Fin 2, k ≠ l → s.core[n].loops[k].on = false) →
    Issues (.nop n .ls (.last .clean)) n
      (if 1 < s.core[n].lc[l].toNat then { afterBundle s.core[n] with
          pc := s.core[n].loops[l].first, lc := s.core[n].lc.set l (s.core[n].lc[l] - 1)
          lb := if s.core[n].loops[l].rot then s.core[n].lb - 1 else s.core[n].lb }
       else { afterBundle s.core[n] with
          lc := s.core[n].lc.set l 0, loops := s.core[n].loops.set l { s.core[n].loops[l] with on := false }
          lb := if s.core[n].loops[l].rot then s.core[n].lb - 1 else s.core[n].lb }) s) ∧
  (∀ (n : CoreId) (k : Nat) (s : State), Flows s.core[n] → s.core[n].jump = none → s.core[n].rep = some k →
    (∀ l : Fin 2, s.core[n].loops[l].on = false) →
    Issues (.nop n .ls (.last .clean)) n
      (if 1 < k then { afterBundle s.core[n] with pc := s.core[n].pc, rep := some (k - 1) } else { afterBundle s.core[n] with rep := none }) s) ∧
  (∀ (n : CoreId) (k : Nat) (j : Jump) (s : State), Flows s.core[n] → s.core[n].jump = some (k, j) → s.core[n].rep = none →
    (∀ l : Fin 2, s.core[n].loops[l].on = false) →
    Issues (.nop n .ls (.last .clean)) n
      (if 1 < k then { afterBundle s.core[n] with jump := some (k - 1, j) }
       else match j with
        | .to a => { afterBundle s.core[n] with jump := none, pc := a }
        | .reti => { afterBundle s.core[n] with jump := none, pc := s.core[n].iret, ie := true, inHandler := false }) s) ∧
  (∀ (n : CoreId) (s : State), Flows s.core[n] → reinitOps 1 n.val s = [] → s.core[n].jump.isSome = true ∨ s.core[n].rep.isSome = true →
    Faults (.nop n .ctl (.last .clean)) n 1 s.core[n] s)

/-- Slots given one by one make one bundle: an arithmetic, load/store or control slot that is not the last is held and nothing else changes; on a core
that does not run a slot does nothing; a corrected error of the fetch is counted, an uncorrectable one stops the core with fault ECC (Table 12.4, R286;
log entry 30). -/
def Obligations.CooperSlots : Prop :=
  (∀ p ∈ [(Instr.add, 1#6), (Instr.sub, 2), (Instr.adds, 3), (Instr.subs, 4), (Instr.and, 5), (Instr.or, 6), (Instr.xor, 7), (Instr.shl, 8),
      (Instr.shli, 9), (Instr.sra, 10), (Instr.srai, 11), (Instr.srl, 12), (Instr.srli, 13), (Instr.mov, 14), (Instr.addi, 15), (Instr.min, 16),
      (Instr.max, 17), (Instr.abs, 18), (Instr.cmpeq, 19), (Instr.cmplt, 20), (Instr.add2, 21), (Instr.sub2, 22), (Instr.pack, 23),
      (Instr.mul, 24), (Instr.norm, 25), (Instr.exp, 26), (Instr.mac, 32), (Instr.msu, 33), (Instr.mpy, 34), (Instr.mac2, 35), (Instr.msu2, 36),
      (Instr.mpy2, 37), (Instr.rnd, 40), (Instr.rndh, 41), (Instr.expa, 42), (Instr.ash, 43), (Instr.clra, 44), (Instr.moval, 45),
      (Instr.movah, 46), (Instr.movag, 47)],
    ∀ (n : CoreId) (d sa sb : BitVec 5) (s : State), s.core[n].st = .running →
      exec (p.1 ⟨n, .a1, d, sa, sb, .more⟩) s =
        ok (s.updCore n fun c => { c with asm := { c.asm with a1 := p.2 ++ d ++ sa ++ sb } }) ∧
      exec (p.1 ⟨n, .a2, d, sa, sb, .more⟩) s =
        ok (s.updCore n fun c => { c with asm := { c.asm with a2 := p.2 ++ d ++ sa ++ sb } })) ∧
  (∀ p ∈ [(Instr.stw, 5#4), (Instr.sth, 6), (Instr.std, 7), (Instr.movp, 8), (Instr.movg, 9), (Instr.movm, 10), (Instr.modp, 11)],
    ∀ (n : CoreId) (g : BitVec 5) (b : BitVec 3) (md : BitVec 2) (off : BitVec 6) (s : State), s.core[n].st = .running →
      exec (p.1 ⟨n, g, b, md, off, .more⟩) s =
        ok (s.updCore n fun c => { c with asm := { c.asm with ls := p.2 ++ g ++ b ++ md ++ off, ecc := .clean } })) ∧
  (∀ p ∈ [(Instr.ldw, 1#4), (Instr.ldh, 2), (Instr.ldhu, 3), (Instr.ldd, 4)],
    ∀ (n : CoreId) (g : BitVec 5) (b : BitVec 3) (md : BitVec 2) (off : BitVec 6) (e : EccRead) (s : State), s.core[n].st = .running →
      exec (p.1 ⟨n, g, b, md, off, .more⟩ e) s =
        ok (s.updCore n fun c => { c with asm := { c.asm with ls := p.2 ++ g ++ b ++ md ++ off, ecc := e } })) ∧
  (∀ p ∈ [(Instr.br, 1#6), (Instr.brl, 2), (Instr.jr, 3), (Instr.reti, 4), (Instr.loop, 5), (Instr.repeat_, 6), (Instr.mvc, 7), (Instr.movi, 8),
      (Instr.movhi, 9), (Instr.halt, 10), (Instr.wait, 11), (Instr.post, 12), (Instr.taprel, 13)],
    ∀ (n : CoreId) (o : BitVec 35) (s : State), s.core[n].st = .running →
      exec (p.1 ⟨n, o, .more⟩) s = ok (s.updCore n fun c => { c with asm := { c.asm with ctl := some (p.2, o) } })) ∧
  (∀ (n : CoreId) (s : State), s.core[n].st = .running →
    exec (.nop n .ls .more) s = ok (s.updCore n fun c => { c with asm := { c.asm with ls := 0 } }) ∧
    exec (.nop n .a1 .more) s = ok (s.updCore n fun c => { c with asm := { c.asm with a1 := 0 } }) ∧
    exec (.nop n .a2 .more) s = ok (s.updCore n fun c => { c with asm := { c.asm with a2 := 0 } }) ∧
    exec (.nop n .ctl .more) s = ok (s.updCore n fun c => { c with asm := { c.asm with ctl := some (0, 0) } })) ∧
  (∀ (n : CoreId) (s : State), Plain s.core[n] →
    Issues (.nop n .ls (.last .corrected)) n { afterBundle s.core[n] with eccCorr := addSat s.core[n].eccCorr 1 } s) ∧
  (∀ (n : CoreId) (s : State), Plain s.core[n] → reinitOps 1 n.val s = [] →
    Faults (.nop n .ls (.last .uncorrectable)) n 4 { s.core[n] with imBad := [s.core[n].pc.toNat / 4] } s) ∧
  (∀ (n : CoreId) (sl : Slot) (after : SlotEnd) (s : State), s.core[n].st ≠ .running → exec (.nop n sl after) s = ok s)

/-- Control of the cores: COOPER_LOAD writes DM of any core and IM of one that is STOPPED, HALTED or in FAULT; COOPER_START runs from ENTRY with every
register 0, or waits or is denied as its admission says; COOPER_STOP leaves every named core STOPPED, a running one at its next interruptible bundle;
COOPER_SIGNAL sets MSG_IN and its IPEND bit and ends a WAIT; COOPER_STATUS clears its counters (R287, R307, R308, R313). TAP_WINDOW_FILL of a full or
short window writes header and data to its half of DM, sets its TAPST bit and the tap's IPEND bit, and goes to the other half; COOPER_TIMER sets IPEND
bit 4 when TIMER µs have passed; INTERRUPT_TAKE of a due interrupt saves the address in IRET, clears IE and goes to IVEC (R300-R303). -/
def Obligations.CooperControl : Prop :=
  ((∀ (r : Req) (n : CoreId) (off : Nat) (s : State), Ready 0x0601 [4] 3 16384 r s → wordAt r.payload 0 = BitVec.ofNat 32 (n.val + 8) →
    wordAt r.payload 1 = BitVec.ofNat 32 off → off % 4 = 0 → off + 4 * (r.payload.length - 2) ≤ 0x40000 → s.power.isolated.getLsbD 4 = false →
    ∃ u, Answers (.cooperLoad r) r stOk 0 [] u s ∧ u.core[n] = s.core[n].putDm 2 off ((wordsBytes (r.payload.drop 2)).map some) ∧
      u.core[n].im = s.core[n].im ∧ u.core[n].g = s.core[n].g ∧ u.core[n].st = s.core[n].st ∧
      (s.core[n].dm.wf = true → u.core[n].dm.readN off (4 * (r.payload.length - 2)) = wordsBytes (r.payload.drop 2) ∧
        ∀ y, y < off ∨ off + 4 * (r.payload.length - 2) ≤ y → u.core[n].dm.read y = s.core[n].dm.read y) ∧
      (∀ m : CoreId, m ≠ n → u.core[m] = s.core[m]) ∧ Frame [.core, .proto, .taster, .power, .rings, .out] s u) ∧
  (∀ (r : Req) (n : CoreId) (off : Nat) (s : State), Ready 0x0601 [4] 3 16384 r s → wordAt r.payload 0 = BitVec.ofNat 32 n.val →
    wordAt r.payload 1 = BitVec.ofNat 32 off → off % 8 = 0 → off + 4 * (r.payload.length - 2) ≤ 0x10000 → r.payload.length % 2 = 0 →
    s.power.isolated.getLsbD 4 = false → coreActive s.core[n] = false →
    ∃ u, Answers (.cooperLoad r) r stOk 0 [] u s ∧ u.core[n] = s.core[n].putIm off ((wordsBytes (r.payload.drop 2)).map some) ∧
      u.core[n].dm = s.core[n].dm ∧
      (s.core[n].im.wf = true → u.core[n].im.readN off (4 * (r.payload.length - 2)) = wordsBytes (r.payload.drop 2) ∧
        ∀ y, y < off ∨ off + 4 * (r.payload.length - 2) ≤ y → u.core[n].im.read y = s.core[n].im.read y) ∧
      (∀ m : CoreId, m ≠ n → u.core[m] = s.core[m]) ∧ Frame [.core, .proto, .taster, .power, .rings, .out] s u) ∧
  (∀ (r : Req) (n : CoreId) (off : Nat) (s : State), Ready 0x0601 [4] 3 16384 r s → wordAt r.payload 0 = BitVec.ofNat 32 n.val →
    wordAt r.payload 1 = BitVec.ofNat 32 off → off % 8 = 0 → off + 4 * (r.payload.length - 2) ≤ 0x10000 → r.payload.length % 2 = 0 →
    s.power.isolated.getLsbD 4 = false → coreActive s.core[n] = true → Answers (.cooperLoad r) r stBusy 0xFF60 [] (taken r s) s) ∧
  (∀ (r : Req) (n : CoreId) (s : State), Ready 0x0602 [4] 1 1 r s → wordAt r.payload 0 = BitVec.ofNat 32 n.val →
    ringIs s (bf (s.act 0x60 n.val) 0 0 5) 3 = true → s.power.isolated.getLsbD 4 = false → coreActive s.core[n] = false →
    judgeAdmit (endCoreTest n.val (taken r s)) 600 = .granted →
    ∃ u, Answers (.cooperStart r) r stOk 0 [] u s ∧ u.core[n].st = .running ∧ u.core[n].pc.toNat = bf (s.act 0x60 n.val) 1 0 13 ∧
      (∀ d : BitVec 5, greg u.core[n] d = 0) ∧ u.core[n].a = Vector.replicate 4 0 ∧ u.core[n].p = Vector.replicate 8 0 ∧
      u.core[n].m = Vector.replicate 8 0 ∧ u.core[n].ie = false ∧ u.core[n].bundles = 0 ∧ u.core[n].timerAt = s.time.clk ∧
      u.core[n].im = s.core[n].im ∧ u.core[n].dm = s.core[n].dm ∧ u.core[n].posts = s.core[n].posts ∧
      u.grantOf (.core n) = s.grantOf (.core n) + 600 ∧ u.pcie.irqSum.getLsbD 41 = true ∧
      (∀ m : CoreId, m ≠ n → u.core[m] = s.core[m]) ∧ Frame [.core, .proto, .taster, .power, .rings, .pcie, .out] s u) ∧
  (∀ (r : Req) (n : CoreId) (s : State), Ready 0x0602 [4] 1 1 r s → wordAt r.payload 0 = BitVec.ofNat 32 n.val →
    ringIs s (bf (s.act 0x60 n.val) 0 0 5) 3 = true → s.power.isolated.getLsbD 4 = false → coreActive s.core[n] = false →
    judgeAdmit (endCoreTest n.val (taken r s)) 600 = .queued →
    ∃ u, Answers (.cooperStart r) r stQueued 0 [] u s ∧ u.core = s.core.set n { s.core[n] with st := .queued } ∧
      u.power.queue = s.power.queue ++ [⟨r, 600, s.time.clk⟩] ∧ Frame [.core, .proto, .taster, .power, .rings, .out] s u) ∧
  (∀ (r : Req) (n : CoreId) (d : Nat) (s : State), Ready 0x0602 [4] 1 1 r s → wordAt r.payload 0 = BitVec.ofNat 32 n.val →
    ringIs s (bf (s.act 0x60 n.val) 0 0 5) 3 = true → s.power.isolated.getLsbD 4 = false → coreActive s.core[n] = false →
    judgeAdmit (endCoreTest n.val (taken r s)) 600 = .denied d →
    ∃ u, Answers (.cooperStart r) r stDenied d [] u s ∧ u.pcie.irqSum.getLsbD 41 = true ∧
      Frame [.proto, .taster, .power, .rings, .pcie, .out] s u) ∧
  (∀ (r : Req) (n : CoreId) (s : State), Ready 0x0602 [4] 1 1 r s → wordAt r.payload 0 = BitVec.ofNat 32 n.val →
    ringIs s (bf (s.act 0x60 n.val) 0 0 5) 3 = true → s.power.isolated.getLsbD 4 = false → coreActive s.core[n] = true →
    Answers (.cooperStart r) r stBusy 0xFF60 [] (taken r s) s) ∧
  (∀ (r : Req) (m : BitVec 8) (s : State), Ready 0x0603 [4] 1 1 r s → wordAt r.payload 0 = m.zeroExtend 32 →
    (∀ n : CoreId, m.getLsbD n.val = true → s.core[n].st ≠ .queued ∧ reinitOps 1 n.val s = [] ∧
      (s.core[n].st = .running → interruptible s.core[n] = true)) →
    ∃ u, Answers (.cooperStop r) r stOk 0 [] u s ∧
      (∀ n : CoreId, u.core[n] = if m.getLsbD n.val = true ∧ s.core[n].st ≠ .stopped then
        { landAll s.core[n] with st := .stopped, stopReq := false, pauseReq := false, stoppedAt := s.time.clk } else s.core[n]) ∧
      Frame [.core, .proto, .power, .rings, .out] s u) ∧
  (∀ (r : Req) (n : CoreId) (s : State), Ready 0x0603 [4] 1 1 r s → wordAt r.payload 0 = BitVec.ofNat 32 (2 ^ n.val) → s.core[n].st = .running →
    interruptible s.core[n] = false →
    exec (.cooperStop r) s = .next (((taken r s).updCore n fun c => stopPoint s.time.clk { c with stopReq := true }).addOp r
      (.cooperStop (BitVec.ofNat 8 (2 ^ n.val))) false).noteIdle) ∧
  (∀ (r : Req) (n : CoreId) (s : State), Ready 0x0604 [4] 2 2 r s → wordAt r.payload 0 = BitVec.ofNat 32 n.val →
    Answers (.cooperSignal r) r stOk 0 [if s.core[n].msgValid then 1 else 0] ((taken r s).updCore n fun c => { c with
      msgIn := wordAt r.payload 1, msgValid := true, ipend := c.ipend ||| 32
      st := if c.st = .waiting ∧ (c.ipend ||| 32) &&& c.ien ≠ 0 then .running else c.st }) s) ∧
  (∀ (r : Req) (n : CoreId) (s : State), Ready 0x0605 [4] 1 1 r s → wordAt r.payload 0 = BitVec.ofNat 32 n.val →
    ∃ w0, wbits w0 0 3 = coreStNum s.core[n].st ∧ wbits w0 8 3 = (if s.core[n].st = .fault then s.core[n].cause.toNat else 0) ∧
      wbits w0 16 13 = s.core[n].pc.toNat ∧
      Answers (.cooperStatus r) r stOk 0
        [w0, s.core[n].bundles.extractLsb' 0 32, s.core[n].bundles.extractLsb' 32 32, s.core[n].stalls, s.core[n].msgOut,
          s.core[n].taps[(0 : Fin 2)].written, s.core[n].taps[(0 : Fin 2)].missed, s.core[n].taps[(1 : Fin 2)].written,
          s.core[n].taps[(1 : Fin 2)].missed, s.core[n].posted, 0#27 ++ BitVec.ofBool s.core[n].rsat ++ s.core[n].av, s.core[n].eccCorr]
        ((taken r s).updCore n fun c => { c with
          stalls := 0, posted := 0, eccCorr := 0, taps := c.taps.map fun t => { t with written := 0, missed := 0 } }) s)) ∧
  ((∀ (n : CoreId) (k : Fin 2) (x : Tap) (a : Nat) (h d : List Byte) (s : State), tapLive s.core[n] = true → s.core[n].taps[k] = x → x.rows ≠ [] →
    (tapFull x || x.short) = true → a = tpBuf x.flds + (if x.half then tpHalf x.flds else 0) →
    d = (x.rows.flatMap (·.bytes)).take (if tpKind x.flds = 3 then tpHalf x.flds - 32 else (x.rows.flatMap (·.bytes)).length) →
    h = wordsBytes (tapHeader x x.flds (tpKind x.flds = 3 && decide (tpHalf x.flds - 32 < (x.rows.flatMap (·.bytes)).length))) →
    ∃ t, exec (.tapWindowFill n k) s = ok t ∧ t.core[n].tapst = s.core[n].tapst ||| ((1 : BitVec 4) <<< (2 * k.val + x.half.toNat)) ∧
      t.core[n].ipend = s.core[n].ipend ||| ((1 : BitVec 6) <<< (1 + k.val)) ∧ t.core[n].taps = s.core[n].taps.set k { x with
        rows := [], skip := x.short, short := false, half := !x.half, written := addSat x.written 1, missedRun := 0 } ∧
      (s.core[n].dm.wf = true → t.core[n].dm.readN a (h.length + d.length) = h ++ d ∧
        ∀ y, y < a ∨ a + h.length + d.length ≤ y → t.core[n].dm.read y = s.core[n].dm.read y) ∧
      t.core[n].g = s.core[n].g ∧ t.core[n].pc = s.core[n].pc ∧ (∀ m : CoreId, m ≠ n → t.core[m] = s.core[m]) ∧ Frame [.core] s t) ∧
  (∀ (n : CoreId) (k : Fin 2) (s : State), tapLive s.core[n] = false ∨ (tapFull s.core[n].taps[k] || s.core[n].taps[k].short) = false →
    exec (.tapWindowFill n k) s = ok s) ∧
  (∀ (n : CoreId) (d : Nat) (s : State), s.core[n].st = .running ∨ s.core[n].st = .waiting ∨ s.core[n].st = .paused →
    bf (s.act 0x60 n.val) 2 0 24 ≠ 0 → d = s.core[n].timerAt + bf (s.act 0x60 n.val) 2 0 24 * 10 ^ 6 →
    ∃ t, exec (.cooperTimer n) s = ok t ∧ t.core = s.core.set n { s.core[n] with
        timerAt := d, ipend := s.core[n].ipend ||| 16
        st := if s.core[n].st = .waiting ∧ (s.core[n].ipend ||| 16) &&& s.core[n].ien ≠ 0 then .running else s.core[n].st } ∧
      t.time.clk = max s.time.clk d ∧ Frame [.time, .core] s t) ∧
  (∀ (n : CoreId) (s : State), bf (s.act 0x60 n.val) 2 0 24 = 0 ∨ coreActive s.core[n] = false ∨ s.core[n].st = .queued →
    exec (.cooperTimer n) s = ok s) ∧
  (∀ (n : CoreId) (s : State), s.core[n].st = .running → s.core[n].ie = true → s.core[n].inHandler = false →
    s.core[n].ipend &&& s.core[n].ien ≠ 0 → s.core[n].jump = none → s.core[n].rep = none →
    exec (.interruptTake n) s = ok (s.updCore n fun c => landNext { c with
      iret := c.pc, pc := c.ivec, ie := false, inHandler := true, bundles := c.bundles + 1, aOld := c.a, asOld := c.as_
      ext := serveExt none c.ext })) ∧
  (∀ (n : CoreId) (s : State), s.core[n].st ≠ .running ∨ s.core[n].ie = false ∨ s.core[n].inHandler = true ∨
      s.core[n].ipend &&& s.core[n].ien = 0 ∨ s.core[n].jump.isSome = true ∨ s.core[n].rep.isSome = true →
    exec (.interruptTake n) s = ok s))


/-! ## The Cellar (R321-R342) -/

/-- Training: CELLAR_TRAIN and CELLAR_TRAIN_STEP with the Cellar free and the budget granted start gathering and are answered pending; with a
reservation in force they are BUSY CELLAR_IN_USE; CELLAR_TRAIN_COMPLETE with a pass for every pair marks exactly those set points trained and ends
gathering; a failed pair raises vector 42; CELLAR_TRAIN_ABORT ends it; CELLAR_TRAIN_STEP_COMPLETE keeps a passing step's values only with KEEP
(R336-R338, R342). -/
def Obligations.CellarTraining : Prop :=
  (∀ (r : Req) (s : State), Ready 0x0701 [] 1 1 r s → rsvdBad r 0 0x7F = false → trainingRuns s = false → s.cellar.gathering = false →
    reservedNow s = 0 → cellarMoving s = false → judgeAdmit s 1500 = .granted →
    ∃ u, Answers (.cellarTrain r) r stPending 0 [] u s ∧ u.cellar = { s.cellar with gathering := true } ∧
      u.proto.ops = s.proto.ops ++ [⟨r.sess, r.seq, r.opcode,
        .cellarTrain ((wordAt r.payload 0).extractLsb' 0 4) ((wordAt r.payload 0).extractLsb' 4 3), true, s.time.clk⟩] ∧
      Frame [.cellar, .proto, .power, .pcie, .out] s u) ∧
  (∀ (r : Req) (s : State), Ready 0x0701 [] 1 1 r s → rsvdBad r 0 0x7F = false → trainingRuns s = false → s.cellar.gathering = false →
    0 < reservedNow s → Answers (.cellarTrain r) r stBusy 0xFF70 [] (taken r s) s) ∧
  (∀ (r : Req) (s : State) (k : Fin 8), Ready 0x0702 [8] 1 1 r s → rsvdBad r 0 0x7F = false → wbits (wordAt r.payload 0) 2 4 = k.val + 1 →
    trainingRuns s = false → s.cellar.gathering = false → reservedNow s = 0 → cellarMoving s = false → judgeAdmit s 1500 = .granted →
    ∃ u, Answers (.cellarTrainStep r) r stPending 0 [] u s ∧ u.cellar = { s.cellar with gathering := true } ∧
      Frame [.cellar, .proto, .power, .pcie, .out] s u) ∧
  (∀ (o : Op) (chans : BitVec 4) (fsps : BitVec 3) (results : List TrainResult) (s : State),
    s.proto.ops = [o] → o.kind = .cellarTrain chans fsps →
    (∀ p ∈ trainPairs chans fsps, ∃ x ∈ results, x.channel = p.1 ∧ x.fsp = p.2) → (∀ x ∈ results, x.failedStep = 0) →
    ∃ t, exec (.cellarTrainComplete results) s = ok t ∧ t.proto.ops = [] ∧ t.cellar.gathering = false ∧
      (∀ (c : Fin 4) (f : Fin 3), t.cellar.ch[c].trained.getLsbD f.val =
        (s.cellar.ch[c].trained.getLsbD f.val || (chans.getLsbD c.val && fsps.getLsbD f.val))) ∧
      t.cellar.mem = s.cellar.mem ∧ Frame [.time, .cellar, .proto, .power, .free, .rings, .out] s t) ∧
  (∀ (o : Op) (chans : BitVec 4) (fsps : BitVec 3) (results : List TrainResult) (s : State),
    s.proto.ops = [o] → o.kind = .cellarTrain chans fsps → trainPairs chans fsps ≠ [] →
    (∀ p ∈ trainPairs chans fsps, ∃ x ∈ results, x.channel = p.1 ∧ x.fsp = p.2) → (∀ x ∈ results, x.failedStep ≠ 0) →
    ∃ t, exec (.cellarTrainComplete results) s = ok t ∧ t.proto.ops = [] ∧ t.cellar = { s.cellar with gathering := false } ∧
      t.pcie.irqSum.getLsbD 42 = true ∧ Frame [.time, .cellar, .proto, .power, .rings, .pcie, .out] s t) ∧
  (∀ (r : Req) (o : Op) (chans : BitVec 4) (fsps : BitVec 3) (s : State), Ready 0x0707 [] 1 1 r s → s.power.queue = [] →
    s.findOp r.sess (wordAt r.payload 0) = some o → o.kind = .cellarTrain chans fsps →
    ∃ u, Answers (.cellarTrainAbort r) r stOk 0 [] u s ∧ u.proto.ops = s.proto.ops.erase o ∧ u.cellar.gathering = false ∧
      u.cellar.mem = s.cellar.mem ∧ Frame [.cellar, .proto, .power, .free, .rings, .out] s u) ∧
  (∀ (o : Op) (c : Fin 4) (k : BitVec 4) (keep : Bool) (res : StepResult) (s : State), s.proto.ops = [o] → o.kind = .cellarStep c k keep →
    ∃ t, exec (.cellarTrainStepComplete res) s = ok t ∧ t.proto.ops = [] ∧ t.cellar.gathering = false ∧
      t.cellar.ch = (if keep = true ∧ res.pass = true
        then s.cellar.ch.set c { s.cellar.ch[c] with
          values := s.cellar.ch[c].values.set s.cellar.fsp ((List.range 36).map (wordAt res.lines)) }
        else s.cellar.ch) ∧ Frame [.time, .cellar, .proto, .power, .rings, .out] s t)

/-- CELLAR_PATTERN sets the channel's user pattern; CELLAR_COMPARE answers the saturated error counters and changes nothing; FREQ_SET to a trained set
point whose cap covers the reservations puts it in force and restarts every channel's refresh, and is BAD_PARAM FSP_UNTRAINED where a channel lacks
it; CELLAR_STATUS answers and clears the channel's counters (R329, R333, R335, R342). -/
def Obligations.CellarOpcodes : Prop :=
  (∀ (r : Req) (c : Fin 4) (s : State), Ready 0x0703 [8] 17 17 r s → wordAt r.payload 0 = BitVec.ofNat 32 c.val → s.cellar.gathering = false →
    ∃ u, Answers (.cellarPattern r) r stOk 0 [] u s ∧ (∀ i : Fin 16, u.cellar.ch[c].pattern[i] = wordAt r.payload (1 + i.val)) ∧
      (∀ d : Fin 4, d ≠ c → u.cellar.ch[d] = s.cellar.ch[d]) ∧ u.cellar.mem = s.cellar.mem ∧ Frame [.cellar, .proto] s u) ∧
  (∀ (r : Req) (errs : Vector Nat 36) (s : State), Ready 0x0704 [8] 2 2 r s → rsvdBad r 0 0xF = false → wordAt r.payload 1 ≠ 0 →
    (wordAt r.payload 1).toNat ≤ 65536 → s.cellar.gathering = false →
    Answers (.cellarCompare r errs) r stOk 0 (errs.toList.map fun e => if e < 2 ^ 32 then BitVec.ofNat 32 e else 0xFFFFFFFF) (taken r s) s) ∧
  (∀ (r : Req) (f : Fin 3) (e ps : Nat) (s : State), Ready 0x0705 [] 1 1 r s → wordAt r.payload 0 = BitVec.ofNat 32 f.val →
    s.cellar.gathering = false → (∀ c : Fin 4, s.cellar.ch[c].trained.getLsbD f.val = true) → reservedNow s ≤ capOf s f.val →
    ∃ u, Answers (.freqSet r e ps) r stOk 0 [u.now.extractLsb' 0 32, u.now.extractLsb' 32 32] u s ∧ u.cellar.fsp = f ∧
      (∀ c : Fin 4, u.cellar.ch[c] = { s.cellar.ch[c] with refreshed := u.time.clk, refreshes := s.cellar.ch[c].refreshes + 1 }) ∧
      s.time.clk + min ps 1500000 ≤ u.time.clk ∧ u.cellar.mem = s.cellar.mem ∧ Frame [.time, .cellar, .proto] s u) ∧
  (∀ (r : Req) (f : Fin 3) (e ps : Nat) (c : Fin 4) (s : State), Ready 0x0705 [] 1 1 r s → wordAt r.payload 0 = BitVec.ofNat 32 f.val →
    s.cellar.gathering = false → s.cellar.ch[c].trained.getLsbD f.val = false →
    Answers (.freqSet r e ps) r stBadParam 0xFF72 [] (taken r s) s) ∧
  (∀ (r : Req) (c : Fin 4) (s : State), Ready 0x0706 [] 1 1 r s → wordAt r.payload 0 = BitVec.ofNat 32 c.val →
    ∃ ws, ws.length = 10 ∧ wordAt ws 1 = BitVec.ofNat 32 s.cellar.ch[c].densityMib ∧ wordAt ws 2 = s.cellar.ch[c].corr ∧
      wordAt ws 3 = s.cellar.ch[c].uncorr ∧ wordAt ws 6 = s.cellar.ch[c].drains ∧
      Answers (.cellarStatus r) r stOk 0 ws ((taken r s).updCel c fun c => { c with corr := 0, uncorr := 0, drains := 0 }) s)

/-- What the Cellar and the vats do by themselves: a refresh comes tREFI after the last, of 3.906 µs or 1.953 µs while the channel is hot; the
temperature read sets HOT; a write drain empties the queue to WR_LWM and counts; the scrub counts a corrected word and lets it wait for its write-
back, and records an uncorrectable vat word with vector 42; a write-back takes the oldest that waits (R321, R322, R328, R331, R339). -/
def Obligations.CellarUpkeep : Prop :=
  (∀ (c : Fin 4) (s : State), s.cellar.selfRefresh = false →
    ∃ t, exec (.cellarRefresh c) s = ok t ∧
      t.time.clk = max s.time.clk (s.cellar.ch[c].refreshed + if s.cellar.ch[c].hot then 1953000 else 3906000) ∧
      t.cellar.ch[c] = { s.cellar.ch[c] with refreshed := t.time.clk, refreshes := s.cellar.ch[c].refreshes + 1 } ∧
      (∀ d : Fin 4, d ≠ c → t.cellar.ch[d] = s.cellar.ch[d]) ∧ t.cellar.mem = s.cellar.mem ∧ Frame [.time, .cellar] s t) ∧
  (∀ (c : Fin 4) (hot : Bool) (s : State),
    exec (.cellarTempRead c hot) s = ok (s.updCel c fun x => { x with hot := hot, drifts := x.drifts + 1 })) ∧
  (∀ (c : Fin 4) (s : State), s.cellar.ch[c].wq ≠ [] → bf (s.act 0x70 c.val) 0 8 6 ≤ s.cellar.ch[c].wq.length →
    ∃ t, exec (.writeDrain c) s = ok t ∧ t.cellar.ch[c].wq.length = min (bf (s.act 0x70 c.val) 0 16 6) (s.cellar.ch[c].wq.length - 1) ∧
      t.cellar.ch[c].drains = addSat s.cellar.ch[c].drains 1 ∧ (∀ d : Fin 4, d ≠ c → t.cellar.ch[d] = s.cellar.ch[d]) ∧
      t.cellar.mem = s.cellar.mem ∧ Frame [.cellar] s t) ∧
  (∀ (a : Nat) (s : State), ∃ t, exec (.vatScrub false a .corrected) s = ok t ∧ t.vat = { s.vat with eccCorr := addSat s.vat.eccCorr 1 } ∧
    t.cellar.writeBacks = s.cellar.writeBacks ++ [(false, a / 32)] ∧ t.cellar.mem = s.cellar.mem ∧ Frame [.vat, .cellar] s t) ∧
  (∀ (a : Nat) (s : State), ∃ t, exec (.vatScrub false a .uncorrectable) s = ok t ∧ t.vat.eccUncorr = addSat s.vat.eccUncorr 1 ∧
    t.vat.mem = s.vat.mem ∧ t.pcie.irqSum.getLsbD 42 = true ∧ Frame [.vat, .cellar, .pcie, .out] s t) ∧
  (∀ s : State, exec .eccWriteBack s = ok { s with cellar := { s.cellar with writeBacks := s.cellar.writeBacks.drop 1 } })

/-! ## Peer links (R89-R95, R102) -/

/-- Lanes: PEER_LANE_UP of an enabled lane that is down makes it UP with a far end of version 1.x and another DEVICE_NUM, else INCOMPATIBLE, each with
vector 44; silence or loss of lock of a lane that is UP retrains it with vector 44; a frame with a bad CRC is only counted (R89, R90). -/
def Obligations.PeerLanes : Prop :=
  (∀ (l : Fin 4) (mi : Byte) (num : Fin 4) (s : State), lnEn (peerSet s l) = true → s.life.thermtrip = false → s.peer.lanes[l].st = .down →
    num.val ≠ deviceNum s →
    ∃ t, exec (.peerLaneUp l 1 mi num) s = ok t ∧ t.peer.lanes[l].st = .up ∧ t.peer.lanes[l].ver = (if mi = 0 then 0x10 else 0x11) ∧
      t.peer.lanes[l].farNum = num ∧ (∀ k : Fin 4, k ≠ l → t.peer.lanes[k] = s.peer.lanes[k]) ∧ t.pcie.irqSum.getLsbD 44 = true ∧
      Frame [.peer, .pcie, .out] s t) ∧
  (∀ (l : Fin 4) (ma mi : Byte) (num : Fin 4) (s : State), lnEn (peerSet s l) = true → s.life.thermtrip = false → s.peer.lanes[l].st = .down →
    ma ≠ 1 ∨ num.val = deviceNum s →
    ∃ t, exec (.peerLaneUp l ma mi num) s = ok t ∧ t.peer.lanes[l].st = .incompatible ∧
      (∀ k : Fin 4, k ≠ l → t.peer.lanes[k] = s.peer.lanes[k]) ∧ t.pcie.irqSum.getLsbD 44 = true ∧ Frame [.peer, .pcie, .out] s t) ∧
  (∀ c ∈ [Instr.peerLaneSilence, Instr.peerLaneLockLoss], ∀ (l : Fin 4) (s : State), s.peer.lanes[l].st = .up → s.peer.armed = [] →
    s.peer.shared = [] → follower s = false →
    ∃ t, exec (c l) s = ok t ∧ t.peer.lanes[l].st = .training ∧ (∀ k : Fin 4, k ≠ l → t.peer.lanes[k] = s.peer.lanes[k]) ∧
      t.pcie.irqSum.getLsbD 44 = true ∧ Frame [.peer, .pcie, .out] s t) ∧
  (∀ (l : Fin 4) (s : State), s.peer.lanes[l].st ≠ .down →
    exec (.peerFrameCrcError l) s = ok (s.updLane l fun x => { x with crcErr := min 524287 (x.crcErr + 1) }))

/-- Frames: every frame but LINK_HELLO on a lane that is not UP, and every further copy of a frame that has acted, is dropped but for its time; IDLE
only shows that the lane lives; LINK_HELLO on a training lane starts the negotiation and answers, on a negotiating one gives the far end's version; a
SYNC_REQ is answered by a master alone; a SYNC_RESP of a time path moves a follower's time, at the first and beyond 1 µs by a step, else by a slew, and
no other device's; SYNC_REQ_TIMER sends only on a follower; ZONE_EVENT reaches nothing but sequencers and the event ring (R89-R92, R212). -/
def Obligations.PeerFrames : Prop :=
  (∀ c ∈ [Instr.idle, Instr.syncReq, Instr.syncResp, Instr.zoneEvent, Instr.prepare, Instr.accept, Instr.refuse, Instr.withdraw],
    ∀ (f : Frame) (s : State), ¬ Fresh f s → exec (c f) s = ok (s.goTo f.t)) ∧
  (∀ (f : Frame) (s : State), (s.peer.lanes[f.lane].st ≠ .training ∧ s.peer.lanes[f.lane].st ≠ .negotiating) ∨
    s.peer.lanes[f.lane].rxSeqs.contains f.fseq = true → exec (.linkHello f) s = ok (s.goTo f.t)) ∧
  (∀ (f : Frame) (s : State), Fresh f s → exec (.idle f) s = ok (heard f s)) ∧
  (∀ (f : Frame) (s : State), s.peer.lanes[f.lane].st = .training → s.peer.lanes[f.lane].rxSeqs.contains f.fseq = false →
    ∃ t, exec (.linkHello f) s = ok t ∧ t.peer.lanes[f.lane].farNum.val = wbits (fw f 1) 16 2 ∧
      t.peer.lanes[f.lane].st = (if wbits (fw f 1) 8 8 = 1 ∧ wbits (fw f 1) 16 2 ≠ deviceNum s then .negotiating else .incompatible) ∧
      (wbits (fw f 1) 8 8 = 1 → wbits (fw f 1) 16 2 ≠ deviceNum s →
        t.peer.lanes[f.lane].ver = (if wbits (fw f 1) 0 8 = 0 then 0x10 else 0x11)) ∧
      (∀ k : Fin 4, k ≠ f.lane → t.peer.lanes[k] = s.peer.lanes[k]) ∧
      t.out = .frame f.lane (frameWords 1 (deviceNum s) s.peer.lanes[f.lane].txSeq [BitVec.ofNat 32 (0x101 + deviceNum s * 65536), 1]) :: s.out ∧
      Frame [.time, .peer, .out] s t) ∧
  (∀ (f : Frame) (s : State), s.peer.lanes[f.lane].st = .negotiating → s.peer.lanes[f.lane].rxSeqs.contains f.fseq = false →
    ∃ t, exec (.linkHello f) s = ok t ∧ t.peer.lanes[f.lane].farNum.val = wbits (fw f 1) 16 2 ∧
      t.peer.lanes[f.lane].st = (if wbits (fw f 1) 8 8 = 1 ∧ wbits (fw f 1) 16 2 ≠ deviceNum s then .negotiating else .incompatible) ∧
      (∀ k : Fin 4, k ≠ f.lane → t.peer.lanes[k] = s.peer.lanes[k]) ∧ Frame [.time, .peer] s t) ∧
  (∀ (f : Frame) (s : State), Fresh f s →
    exec (.syncReq f) s = ok (if follower s then heard f s
      else (heard f s).sendFrame f.lane 3 1 ([fw f 1, fw f 2] ++ split64 (s.goTo f.t).now ++ split64 (s.goTo f.t).now))) ∧
  (∀ (f : Frame) (s : State), Fresh f s → (follower s = false ∧ bfb (s.act 0x02 0) 0 3 = false) ∨ lnTimePath (peerSet s f.lane) = false →
    exec (.syncResp f) s = ok (heard f s)) ∧
  (∀ (f : Frame) (o : BitVec 96) (ps : Int) (s : State), Fresh f s → bfb (s.act 0x02 0) 0 3 = true → lnTimePath (peerSet s f.lane) = true →
    o = peerOffset96 (fw f 2 ++ fw f 1) (fw f 4 ++ fw f 3) (fw f 6 ++ fw f 5) (s.goTo f.t).now (bfs (peerSet s f.lane) 1 0 32) →
    ps = roundEven (o.toInt * 10 ^ 12) (2 ^ 64) →
    ∃ t, exec (.syncResp f) s = ok t ∧ t.time.src = true ∧ t.time.clk = max s.time.clk f.t ∧ t.time.peerOffset = errWord ps ∧
      (if s.time.peerSynced = false ∨ 1000000 < ps.natAbs then
        t.time.at96 t.time.clk = (s.goTo f.t).time.at96 t.time.clk + o ∧ t.time.peerSynced = true ∧ t.time.peerLocked = false ∧
          t.time.peerGood = 0
       else t.time.at96 t.time.clk = (s.goTo f.t).time.at96 t.time.clk ∧ t.time.adj.natAbs ≤ 10 ^ 8 ∧ t.time.adj * ps ≥ 0 ∧
          t.time.peerGood = (if ps.natAbs ≤ 1000 then s.time.peerGood + 1 else 0) ∧ t.time.peerLocked = decide (100 ≤ t.time.peerGood)) ∧
      Frame [.time, .peer, .therm, .free, .pcie, .rings, .proto, .out] s t) ∧
  (∀ (f : Frame) (s : State), Fresh f s → follower s = true → bfb (s.act 0x02 0) 0 3 = false → lnTimePath (peerSet s f.lane) = true →
    ∃ t, exec (.syncResp f) s = ok t ∧ t.time.src = false ∧ t.time.peerLocked = false ∧ t.time.base = s.time.base ∧ t.time.adj = s.time.adj ∧
      Frame [.time, .peer] s t) ∧
  (∀ s : State, follower s = false → bfb (s.act 0x02 0) 0 3 = false → exec .syncReqTimer s = ok s) ∧
  (∀ s : State, follower s = true ∨ bfb (s.act 0x02 0) 0 3 = true → ∃ t, exec .syncReqTimer s = ok t ∧ Frame [.peer, .out] s t ∧
    t.out.length = s.out.length + ((List.finRange 4).filter fun l => lnTimePath (peerSet s l) && s.peer.lanes[l].st = .up).length ∧
    (∀ k : Fin 4, t.peer.lanes[k] = (if lnTimePath (peerSet s k) ∧ s.peer.lanes[k].st = .up then
      { s.peer.lanes[k] with txSeq := s.peer.lanes[k].txSeq + 1, lastTx := s.time.clk } else s.peer.lanes[k])) ∧
    ∀ k : Fin 4, lnTimePath (peerSet s k) = true → s.peer.lanes[k].st = .up →
      Out.frame k (frameWords 2 (deviceNum s) s.peer.lanes[k].txSeq (split64 s.now)) ∈ t.out) ∧
  (∀ (f : Frame) (s : State), Fresh f s →
    ∃ t, exec (.zoneEvent f) s = ok t ∧ t.time = s.time.goTo f.t ∧ t.peer = (heard f s).peer ∧
      t.zones = (if lnRxZones (peerSet s f.lane) = true ∧ bfb (s.act 0x20 0) 2 5 = true then { s.zones with
        events := s.zones.events ++ [⟨true, wbits (fw f 1) 11 1 = 1, false, false, 0, wbits (fw f 1) 0 11, wbits (fw f 1) 12 2, f.src.val,
          (fw f 3 ++ fw f 2).extractLsb' 0 48, 0, fw f 5 ++ fw f 4, 0⟩] } else s.zones) ∧
      (lnRxZones (peerSet s f.lane) = true → wbits (fw f 1) 11 1 = 1 → ∀ u : Fin 4, s.harv[u].st = .armed →
        (t.harv[u].inbox.getLast?.map fun e => (e.kind.val, e.arg, e.time)) =
          some (4, wbits (fw f 1) 0 11 + f.src.val * 2048, fw f 5 ++ fw f 4)) ∧
      Frame [.time, .peer, .zones, .harv] s t)

/-- Shared commits at a peer: COMMIT_ARM of no domain disarms; of domains that pass every check and are granted their power it arms with the rise as its
budget, and what fails is refused, queued or denied; PREPARE of an armed TAG that passes its checks schedules the commit and is answered ACCEPT, any other
REFUSE, which changes no other part; WITHDRAW of nothing prepared changes nothing (R93, R94). Shared commits at their originator: COMMIT_SHARED with a
peer locks its domains from now and waits; an ACCEPT or a REFUSE is recorded once, and the last ACCEPT schedules; a missing ACCEPT withdraws 100 µs after
PREPARE; the completion point makes scheduled shared commits irrevocable; PEER_STATUS changes nothing (R93, R94, R102). -/
def Obligations.SharedCommits : Prop :=
  ((∀ (r : Req) (s : State), Ready 0x0D02 (sharedFeats r) 1 1 r s → commitDoms (wordAt r.payload 0) = 0 → rsvdBad r 0 0xFFFF003F = false →
    (∀ a ∈ s.peer.armed, a.prep ≠ none) → Answers (.commitArm r) r stOk 0 [] (taken r s) s) ∧
  (∀ (r : Req) (a : Armed) (s : State), Ready 0x0D02 (sharedFeats r) 1 1 r s → commitDoms (wordAt r.payload 0) = 0 → rsvdBad r 0 0xFFFF003F = false →
    (s.peer.armed.find? fun a => a.prep.isNone) = some a →
    ∃ u, Answers (.commitArm r) r stOk 0 [] u s ∧ u.peer.armed = s.peer.armed.erase a ∧ u.peer.lanes = s.peer.lanes ∧
      Frame [.peer, .proto, .power, .rings, .out] s u) ∧
  (∀ (r : Req) (d : BitVec 6) (s : State), Ready 0x0D02 (sharedFeats r) 1 1 r s → d = commitDoms (wordAt r.payload 0) → d ≠ 0 →
    rsvdBad r 0 0xFFFF003F = false → commitRefusal (sweepAreas (taken r s)) d r.via = none →
    commitRise (taken r s) d = 0 ∨ judgeAdmit (taken r s) (commitRise (taken r s) d) = .granted →
    ∃ u, Answers (.commitArm r) r stOk 0 [] u s ∧ u.peer.armed =
        (match s.peer.armed.find? fun a => a.prep.isNone with | some a => s.peer.armed.erase a | none => s.peer.armed) ++
          [⟨r.sess, r.seq, (wordAt r.payload 0).extractLsb' 16 16, d, commitRise (taken r s) d, none, false⟩] ∧
      u.peer.lanes = s.peer.lanes ∧ u.peer.shared = s.peer.shared ∧
      u.proto.ops.getLast? = some ⟨r.sess, r.seq, r.opcode, .commitArm, true, s.time.clk⟩ ∧
      Frame [.peer, .proto, .power, .rings, .pcie, .out] s u) ∧
  (∀ (r : Req) (d : BitVec 6) (st det : Nat) (s : State), Ready 0x0D02 (sharedFeats r) 1 1 r s → d = commitDoms (wordAt r.payload 0) → d ≠ 0 →
    rsvdBad r 0 0xFFFF003F = false → commitRefusal (sweepAreas (taken r s)) d r.via = some (st, det) →
    Answers (.commitArm r) r st det [] (taken r s) s) ∧
  (∀ (r : Req) (d : BitVec 6) (s : State), Ready 0x0D02 (sharedFeats r) 1 1 r s → d = commitDoms (wordAt r.payload 0) → d ≠ 0 →
    rsvdBad r 0 0xFFFF003F = false → commitRefusal (sweepAreas (taken r s)) d r.via = none → commitRise (taken r s) d ≠ 0 →
    judgeAdmit (taken r s) (commitRise (taken r s) d) = .queued →
    ∃ u, Answers (.commitArm r) r stQueued 0 [] u s ∧ u.power.queue = s.power.queue ++ [⟨r, commitRise (taken r s) d, s.time.clk⟩] ∧
      Frame [.proto, .power] s u) ∧
  (∀ (f : Frame) (st : Nat) (s : State), Fresh f s →
    judgePrepare (heard f s) f.lane ((fw f 1).extractLsb' 0 16) (fw f 3 ++ fw f 2) = .inr st →
    exec (.prepare f) s = ok ((heard f s).sendFrame f.lane 7 3 [tagWord ((fw f 1).extractLsb' 0 16) st])) ∧
  (∀ (f : Frame) (s : State), (∀ a ∈ s.peer.armed, a.prep = none → a.tag ≠ (fw f 1).extractLsb' 0 16) →
    judgePrepare s f.lane ((fw f 1).extractLsb' 0 16) (fw f 3 ++ fw f 2) = .inr stBadParam) ∧
  (∀ (f : Frame) (a : Armed) (s : State), Fresh f s → s.peer.armed.Nodup →
    (∀ c ∈ s.commits, localDue c (s.goTo f.t).now = false) →
    judgePrepare (heard f s) f.lane ((fw f 1).extractLsb' 0 16) (fw f 3 ++ fw f 2) = .inl a →
    ∃ t, exec (.prepare f) s = ok t ∧
      (∃ c ∈ t.commits, c.sess = a.sess ∧ c.seq = a.seq ∧ c.doms = a.doms ∧ c.kind = 1 ∧ c.queued = false ∧ c.value = fw f 3 ++ fw f 2) ∧
      (s.peer.armed = [a] → t.peer.armed = [{ a with prep := some (f.lane, fw f 3 ++ fw f 2) }]) ∧ t.params.shadow = s.params.shadow ∧
      t.out.take 3 = List.replicate 3 (.frame f.lane (frameWords 6 (deviceNum t) (t.peer.lanes[f.lane].txSeq - 1)
        [tagWord ((fw f 1).extractLsb' 0 16) 0])) ∧ s.out <:+ t.out) ∧
  (∀ (f : Frame) (s : State), Fresh f s →
    (∀ a ∈ s.peer.armed, a.tag = (fw f 1).extractLsb' 0 16 → a.prep.all (fun p => p.1 ≠ f.lane || sharedPast (heard f s) p.2 a.stands) = true) →
    exec (.withdraw f) s = ok (heard f s)) ∧
  (∀ (f : Frame) (a : Armed) (c : Commit) (t : BitVec 64) (s : State), Fresh f s → s.peer.armed = [a] → a.tag = (fw f 1).extractLsb' 0 16 →
    a.prep = some (f.lane, t) → sharedPast (heard f s) t a.stands = false → sharedCommit s a.sess a.seq 1 = some c → s.commits = [c] →
    ∃ u, exec (.withdraw f) s = ok u ∧ u.commits = [] ∧ u.peer.armed = [] ∧ u.params = s.params ∧
      Frame [.time, .peer, .commits, .cellar, .proto, .power, .rings, .fe, .out] s u)) ∧
  ((∀ (r : Req) (s : State), Ready 0x0D01 [1] 0 0 r s →
    Answers (.peerStatus r) r stOk 0 ((List.finRange 4).map fun l => BitVec.ofNat 32 (s.peer.lanes[l].st.code + 8 * s.peer.lanes[l].ver.toNat +
      2048 * s.peer.lanes[l].farNum.val + 8192 * s.peer.lanes[l].crcErr)) (taken r s) s) ∧
  (∀ (r : Req) (d : BitVec 6) (s : State), Ready 0x0D03 (sharedFeats r) 3 3 r s → rsvdBad r 0 0xFFFF003F = false →
    d = commitDoms (wordAt r.payload 0) → d ≠ 0 → rsvdBad r 1 0xF = false → wordAt r.payload 1 ≠ 0 →
    500 ≤ (wordAt r.payload 2).toNat → (wordAt r.payload 2).toNat ≤ 10000000 → commitRefusal (sweepAreas (taken r s)) d r.via = none →
    commitRise (taken r s) d = 0 ∨ judgeAdmit (taken r s) (commitRise (taken r s) d) = .granted →
    ∃ t, exec (.commitShared r) s = .next t.noteIdle ∧ t.peer.shared = s.peer.shared ++
        [⟨r.sess, r.seq, (wordAt r.payload 0).extractLsb' 16 16, d, (wordAt r.payload 1).extractLsb' 0 4,
          s.now + BitVec.ofNat 64 ((wordAt r.payload 2).toNat * 2 ^ 32 / 10 ^ 6), s.now, s.time.clk, [], false, false,
          commitRise (taken r s) d⟩] ∧
      (∃ c, t.commits = s.commits ++ [c] ∧ c.sess = r.sess ∧ c.seq = r.seq ∧ c.doms = d ∧ c.kind = 2 ∧ c.queued = true) ∧
      t.peer.armed = s.peer.armed ∧ Frame [.peer, .proto, .commits, .power, .pcie, .out] s t) ∧
  (∀ (r : Req) (d : BitVec 6) (s : State), Ready 0x0D03 (sharedFeats r) 3 3 r s → rsvdBad r 0 0xFFFF003F = false →
    d = commitDoms (wordAt r.payload 0) → d ≠ 0 → wordAt r.payload 1 = 0 →
    500 ≤ (wordAt r.payload 2).toNat → (wordAt r.payload 2).toNat ≤ 10000000 → commitRefusal (sweepAreas (taken r s)) d r.via = none →
    commitRise (taken r s) d = 0 ∨ judgeAdmit (taken r s) (commitRise (taken r s) d) = .granted →
    sharedCommit s r.sess r.seq 2 = none → (∀ c ∈ s.commits, localDue c s.now = false) →
    s.now < s.now + BitVec.ofNat 64 ((wordAt r.payload 2).toNat * 2 ^ 32 / 10 ^ 6) →
    ∃ (t : State) (c : Commit), exec (.commitShared r) s = .next t.noteIdle ∧ t.params.shadow = s.params.shadow ∧
      c ∈ t.commits ∧ c.sess = r.sess ∧ c.seq = r.seq ∧ c.doms = d ∧ c.kind = 2 ∧ c.queued = false ∧
        c.value = s.now + BitVec.ofNat 64 ((wordAt r.payload 2).toNat * 2 ^ 32 / 10 ^ 6)) ∧
  (∀ (r : Req) (d : BitVec 6) (st det : Nat) (s : State), Ready 0x0D03 (sharedFeats r) 3 3 r s → rsvdBad r 0 0xFFFF003F = false →
    d = commitDoms (wordAt r.payload 0) → d ≠ 0 → rsvdBad r 1 0xF = false →
    500 ≤ (wordAt r.payload 2).toNat → (wordAt r.payload 2).toNat ≤ 10000000 →
    commitRefusal (sweepAreas (taken r s)) d r.via = some (st, det) → Answers (.commitShared r) r st det [] (taken r s) s) ∧
  (∀ (f : Frame) (s : State), Fresh f s →
    (∀ x ∈ s.peer.shared, x.tag = (fw f 1).extractLsb' 0 16 → x.scheduled = true ∨ x.peers.getLsbD f.src.val = false ∨
      ∃ a ∈ x.answers, a.1 = f.src) →
    exec (.accept f) s = ok (heard f s) ∧ exec (.refuse f) s = ok (heard f s)) ∧
  (∀ (f : Frame) (s : State) (x : Shared), Fresh f s → s.peer.shared = [x] → x.tag = (fw f 1).extractLsb' 0 16 → x.scheduled = false →
    x.peers.getLsbD f.src.val = true → (∀ a ∈ x.answers, a.1 ≠ f.src) →
    ((x.prepareAt + 100000000 < max s.time.clk f.t ∨ ∃ d : Fin 4, d ≠ f.src ∧ x.peers.getLsbD d.val = true ∧ (d, 0) ∉ x.answers) →
      ∃ t, exec (.accept f) s = ok t ∧ t.peer.shared = [{ x with answers := x.answers ++ [(f.src, 0)] }] ∧
        t.peer.lanes = (heard f s).peer.lanes ∧ Frame [.time, .peer] s t) ∧
    ((fw f 1).extractLsb' 16 8 ≠ 0 → ∃ t, exec (.refuse f) s = ok t ∧
      t.peer.shared = [{ x with answers := x.answers ++ [(f.src, (fw f 1).extractLsb' 16 8)] }] ∧
        t.peer.lanes = (heard f s).peer.lanes ∧ Frame [.time, .peer] s t)) ∧
  (∀ (f : Frame) (s : State) (x : Shared) (c : Commit), Fresh f s → s.peer.shared = [x] → x.tag = (fw f 1).extractLsb' 0 16 →
    x.scheduled = false → x.peers.getLsbD f.src.val = true → (∀ a ∈ x.answers, a.1 ≠ f.src) → max s.time.clk f.t ≤ x.prepareAt + 100000000 →
    (∀ d : Fin 4, d ≠ f.src → x.peers.getLsbD d.val = true → (d, 0) ∈ x.answers) → s.commits = [c] → sharedCommit s x.sess x.seq 2 = some c →
    c.target = 2 → (s.goTo f.t).now < c.value →
    ∃ t, exec (.accept f) s = ok t ∧ t.params.shadow = s.params.shadow ∧ ∃ k ∈ t.commits, k.sess = c.sess ∧ k.seq = c.seq ∧ k.doms = c.doms ∧
      k.kind = 2 ∧ k.queued = false ∧ k.value = c.value) ∧
  (∀ s : State, (∀ x ∈ s.peer.shared, x.scheduled = true) → exec .sharedAcceptTimeout s = ok s) ∧
  (∀ (s : State) (x : Shared) (c : Commit), s.peer.shared = [x] → x.scheduled = false → s.commits = [c] → c.sess = x.sess → c.seq = x.seq → c.kind = 2 →
    ∃ t, exec .sharedAcceptTimeout s = ok t ∧ t.commits = [] ∧ t.peer.shared = [] ∧ t.time = s.time.goTo (x.prepareAt + 100000000) ∧
      (∀ l : Fin 4, t.peer.lanes[l].st = s.peer.lanes[l].st) ∧ t.params = s.params ∧
      Frame [.time, .peer, .commits, .cellar, .proto, .power, .rings, .fe, .out] s t) ∧
  (∀ (s : State) (x : Shared), s.peer.shared = [x] → x.scheduled = true → x.stands = false → s.peer.armed = [] →
    ∃ t, exec .sharedCompletionPoint s = ok t ∧ t.peer.shared = [{ x with stands := true }] ∧ t.peer.lanes = s.peer.lanes ∧
      t.time = s.time.goTo (s.time.clkOf (x.target - BitVec.ofNat 64 (20 * 2 ^ 32 / 10 ^ 6))) ∧ Frame [.time, .peer] s t) ∧
  (∀ s : State, (∀ x ∈ s.peer.shared, x.scheduled = false ∨ x.stands = true) → (∀ a ∈ s.peer.armed, a.prep = none ∨ a.stands = true) →
    exec .sharedCompletionPoint s = ok s))


/-! ## Auxiliary front end (R374-R399) -/

/-- The opcodes of group 0x09: AUX_READ without CONVERT answers the latest results, with CONVERT of an input of an idle sequencer it begins a
conversion; AUX_SELFCAL, AUX_SYSCAL and AUX_TEST are accepted when no calibration runs, and AUX_SELFCAL is BUSY while one does; AUX_CAL_COMPLETE of a
self-calibration takes the measured factors with vector 39, of a test it changes none; AUX_CAL_ABORT ends one; AUX_INTLK_RESET frees the latched
switches of the named pins; AUX_STATUS answers and clears its counters (R381, R390-R395, R399). -/
def Obligations.AuxOpcodes : Prop :=
  (∀ (r : Req) (s : State), Ready 0x0901 [] 1 1 r s → rsvdBad r 0 0xFFFF = false →
    (∀ i : Fin 16, (wordAt r.payload 0).getLsbD i.val = true → bfb (s.act 0x90 i.val) 0 0 = true) → r.via ≠ .smbus →
    Answers (.auxRead r) r stOk 0
      (((List.finRange 16).filter fun i => (wordAt r.payload 0).getLsbD i.val).flatMap fun i => s.aux.inp[i].latest) (taken r s) s) ∧
  (∀ (r : Req) (i : AuxId) (s : State), Ready 0x0901 [] 1 1 r s → wordAt r.payload 0 = BitVec.ofNat 32 (2 ^ i.val + 65536) →
    bfb (s.act 0x90 i.val) 0 0 = true → sqStart (s.act 0x91 0) ≠ 0 → syscalRuns s = false → s.aux.cur = none → s.aux.ins = [] →
    ∃ t, exec (.auxRead r) s = .next t.noteIdle ∧ t.proto.ops = s.proto.ops ++
        [⟨r.sess, r.seq, r.opcode, .auxRead ((1 : BitVec 16) <<< i.val) ((1 : BitVec 16) <<< i.val), false, s.time.clk⟩] ∧
      (∃ c, t.aux.cur = some c ∧ c.input = i ∧ c.inserted = true ∧ c.n = 0) ∧ t.aux.inp = s.aux.inp ∧ Frame [.proto, .aux, .vint] s t) ∧
  (∀ (r : Req) (s : State), Ready 0x0902 [] 0 0 r s → auxBusy s = false → syscalRuns s = false →
    ∃ u, Answers (.auxSelfcal r) r stPending 0 [] u s ∧ u.proto.ops = s.proto.ops ++
        [⟨r.sess, r.seq, r.opcode, .auxCal 0x0902 0 0, true, s.time.clk⟩] ∧ u.aux.inp = s.aux.inp ∧ Frame [.proto, .aux, .out] s u) ∧
  (∀ (r : Req) (s : State), Ready 0x0902 [] 0 0 r s → auxBusy s = true → Answers (.auxSelfcal r) r stBusy 0 [] (taken r s) s) ∧
  (∀ (r : Req) (s : State), Ready 0x0903 [] 2 2 r s → syscalBad r = none → auxBusy s = false →
    ∃ u, Answers (.auxSyscal r) r stPending 0 [] u s ∧ u.aux.cur = none ∧ u.aux.todo = [] ∧ u.aux.cycle = false ∧ u.aux.inp = s.aux.inp ∧
      Frame [.proto, .aux, .out] s u) ∧
  (∀ (r : Req) (s : State), Ready 0x0904 [] 1 1 r s → rsvdBad r 0 0xF = false → auxBusy s = false →
    ∃ u, Answers (.auxTest r) r stPending 0 [] u s ∧ u.proto.ops = s.proto.ops ++
        [⟨r.sess, r.seq, r.opcode, .auxCal 0x0904 (wordAt r.payload 0) 0, true, s.time.clk⟩] ∧ u.aux.inp = s.aux.inp ∧
      Frame [.proto, .aux, .out] s u) ∧
  (∀ (m : AuxMeasure) (o : Op) (s : State), s.proto.ops = [o] → o.kind = .auxCal 0x0902 0 0 →
    ∃ t, exec (.auxCalComplete m) s = ok t ∧ t.proto.ops = [] ∧ t.aux.self = ⟨m.ofs, m.gain⟩ ∧ t.aux.selfValid = true ∧ t.aux.selfTime = s.now ∧
      t.aux.sys = s.aux.sys ∧ t.aux.inp = s.aux.inp ∧ t.pcie.irqSum.getLsbD 39 = true ∧ Frame [.aux, .proto, .rings, .pcie, .out] s t) ∧
  (∀ (m : AuxMeasure) (o : Op) (w0 w1 : Word) (s : State), s.proto.ops = [o] → o.kind = .auxCal 0x0904 w0 w1 →
    ∃ t, exec (.auxCalComplete m) s = ok t ∧ t.proto.ops = [] ∧ t.aux = s.aux ∧ t.pcie.irqSum.getLsbD 39 = true ∧
      Frame [.proto, .rings, .pcie, .out] s t) ∧
  (∀ (r : Req) (o : Op) (w0 w1 : Word) (k : BitVec 16) (s : State), Ready 0x0907 [] 1 1 r s → s.findOp r.sess (wordAt r.payload 0) = some o →
    o.kind = .auxCal k w0 w1 →
    ∃ u, Answers (.auxCalAbort r) r stOk 0 [] u s ∧ u.proto.ops = s.proto.ops.erase o ∧ u.aux.self = s.aux.self ∧ u.aux.sys = s.aux.sys ∧
      Frame [.aux, .proto, .rings, .out] s u) ∧
  (∀ (r : Req) (s : State), Ready 0x0905 [] 1 1 r s → rsvdBad r 0 0xF = false →
    ∃ u, Answers (.auxIntlkReset r) r stOk 0 [] u s ∧ u.aux.pins = s.aux.pins ∧
      (∀ i : Fin 16, u.aux.inp[i] = { s.aux.inp[i] with freed := s.aux.inp[i].freed ||
        (bfb (s.act 0x90 i.val) 3 0 && (wordAt r.payload 0).getLsbD (bf (s.act 0x90 i.val) 3 1 2)) }) ∧ Frame [.aux, .proto] s u) ∧
  (∀ (r : Req) (s : State), Ready 0x0906 [] 0 0 r s →
    ∃ ws, ws.length = 9 ∧ wordAt ws 1 = s.aux.missed ∧ wordAt ws 2 = s.aux.discards ∧ wordAt ws 3 = s.aux.ovrs ∧ wordAt ws 4 = s.aux.brks ∧
      wordAt ws 5 = s.aux.ranges ∧ Answers (.auxStatus r) r stOk 0 ws
        ((taken r s).updAux fun a => { a with missed := 0, discards := 0, ovrs := 0, brks := 0, ranges := 0 }) s)

/-- The aux sequencer: a start finds its first slot and begins a cycle; one that arrives while a cycle runs, from the timer, CONVST or a probe
instant, is not queued, is counted in MISSED_STARTS and starts nothing (R380); the end of a conversion adds its code to the slot until the
oversampling is complete, and a discard adds nothing; a release makes the oldest result that waits the input's latest and counts it in RSEQ; a source
enters break state and leaves it (R376, R379, R382, R385, R387). -/
def Obligations.AuxSequence : Prop :=
  (∀ (s : State) (i : AuxId) (l : List AuxId), seqRuns s = true → sqStart (s.act 0x91 0) = 1 → sqInputs (s.act 0x91 0) = i :: l → s.aux.cycle = false →
    s.aux.cur = none → s.aux.ins = [] →
    ∃ t, exec .auxCycleStart s = ok t ∧ t.aux.cycle = true ∧ t.aux.todo = l ∧ (∃ c, t.aux.cur = some c ∧ c.input = i ∧ c.n = 0 ∧ c.sum = 0) ∧
      t.aux.inp = s.aux.inp ∧ Frame [.aux, .vint] s t) ∧
  (∀ s : State, seqRuns s = true → sqStart (s.act 0x91 0) = 2 → s.aux.cycle = true →
    ∃ t, exec .auxCycleStart s = ok t ∧
      t.aux = { s.aux with missed := addSat s.aux.missed 1, timerAt := s.aux.timerAt + bf (s.act 0x91 0) 1 0 24 * 1000000 } ∧
      t.time.clk = max s.time.clk t.aux.timerAt ∧ Frame [.time, .aux] s t) ∧
  (∀ (s : State) (i : AuxId) (l : List AuxId), seqRuns s = true → sqStart (s.act 0x91 0) = 3 → sqInputs (s.act 0x91 0) = i :: l → s.aux.cycle = false →
    s.aux.cur = none → s.aux.ins = [] →
    (∃ t, exec (.auxConvstEdge (bfb (s.act 0x91 0) 0 3)) s = ok t ∧ t.aux.cycle = true ∧ t.aux.todo = l ∧
      (∃ c, t.aux.cur = some c ∧ c.input = i ∧ s.time.clk + 100000 ≤ c.began) ∧ Frame [.aux, .vint] s t) ∧
    exec (.auxConvstEdge (!bfb (s.act 0x91 0) 0 3)) s = ok s) ∧
  (∀ s : State, seqRuns s = true → sqStart (s.act 0x91 0) = 3 → s.aux.cycle = true →
    exec (.auxConvstEdge (bfb (s.act 0x91 0) 0 3)) s = ok { s with aux := { s.aux with missed := addSat s.aux.missed 1 } }) ∧
  (∀ (w : Nat) (l : List Nat) (s : State), seqRuns s = true → sqStart (s.act 0x91 0) = 4 → s.aux.cycle = true → s.aux.probeDue = w :: l →
    ∃ t, exec .auxCycleStart s = ok t ∧ t.aux = { s.aux with missed := addSat s.aux.missed 1, probeDue := l } ∧ t.time.clk = max s.time.clk w ∧
      Frame [.time, .aux] s t) ∧
  (∀ (v : Int) (c : AuxSlot) (s : State), s.aux.cur = some c → syscalRuns s = false → c.discard = true →
    ∃ t, exec (.auxConversionEnd v) s = ok t ∧ (∃ d, t.aux.cur = some d ∧ d.discard = false ∧ d.n = c.n ∧ d.sum = c.sum) ∧ t.aux.inp = s.aux.inp ∧
      t.time.clk = max s.time.clk (s.aux.convAt + 1000000) ∧ Frame [.time, .aux] s t) ∧
  (∀ (v : Int) (c : AuxSlot) (s : State), s.aux.cur = some c → syscalRuns s = false → c.discard = false → c.n + 1 < 2 ^ axOver c.set →
    axOver c.set < 6 →
    ∃ t, exec (.auxConversionEnd v) s = ok t ∧
      (∃ d, t.aux.cur = some d ∧ d.n = c.n + 1 ∧ d.sum = c.sum + (auxCode c.gain v).1 * 2 ^ 20) ∧ t.aux.inp = s.aux.inp ∧
      t.time.clk = max s.time.clk (s.aux.convAt + 1000000) ∧ Frame [.time, .aux] s t) ∧
  (∀ (i : AuxId) (x : AuxRes) (l : List AuxRes) (s : State), s.aux.inp[i].wait = x :: l → axMux x.set ≠ 2 → axIntlk x.set = false → x.inserted = false →
    ∃ t, exec (.auxResultRelease i) s = ok t ∧ t.aux.inp[i].wait = l ∧ t.aux.inp[i].rseq = s.aux.inp[i].rseq + 1 ∧ t.aux.inp[i].latest.length = 4 ∧
      t.time.clk = max s.time.clk x.due ∧ t.aux.ovrs = (if x.ovr then addSat s.aux.ovrs 1 else s.aux.ovrs) ∧
      (∀ j : AuxId, j ≠ i → t.aux.inp[j] = s.aux.inp[j]) ∧ Frame [.time, .aux, .therm, .pcie, .out] s t) ∧
  (∀ (j : Fin 4) (s : State), s.aux.brk[j] = none →
    ∃ t, exec (.excitationBreak j) s = ok t ∧ t.aux = { s.aux with brk := s.aux.brk.set j (some s.time.clk) } ∧
      t.pcie.irqSum.getLsbD 39 = (s.pcie.irqSum.getLsbD 39 || bfb (s.act 0x91 0) 6 1) ∧ Frame [.aux, .pcie, .out] s t) ∧
  (∀ (j : Fin 4) (t0 : Nat) (s : State), s.aux.brk[j] = some t0 →
    exec (.excitationBreakClear j) s = ok { s with aux := { s.aux with
      brk := s.aux.brk.set j none, brkPast := s.aux.brkPast.set j (some (t0, s.time.clk)) } })

/-! ## Vintages (R400-R416) -/

/-- The calibrations: CAL_TIU, CAL_AUX and CAL_DIE are accepted when nothing else calibrates and their units are at rest, and CAL_TIU is BUSY while
something does; CAL_COMPLETE of a die calibration writes the working field sets where every sensor is within 10 °C of the reference and else leaves
them with vector 42, and CAL_ABORT and CAL_DIE_TIMEOUT leave them; no stored record changes (R411-R413, R416). -/
def Obligations.Calibrations : Prop :=
  (∀ (r : Req) (s : State), Ready 0x0A01 [] 1 1 r s → rsvdBad r 0 0xF = false → wordAt r.payload 0 ≠ 0 → calRuns s = false → s.taster.run = none →
    (∀ c : Fin 4, s.tiu[c].ph = .idle) → refGone s = false →
    Answers (.calTiu r) r stPending 0 [] ((taken r s).addOp r (.devCal 0x0A01 (wordAt r.payload 0) 0) true) s) ∧
  (∀ (r : Req) (s : State), Ready 0x0A01 [] 1 1 r s → rsvdBad r 0 0xF = false → wordAt r.payload 0 ≠ 0 → calRuns s = true →
    Answers (.calTiu r) r stBusy 0 [] (taken r s) s) ∧
  (∀ (r : Req) (s : State), Ready 0x0A02 [] 2 2 r s → syscalBad r = none → (wordAt r.payload 0).getLsbD 8 = false → auxBusy s = false →
    ∃ u, Answers (.calAux r) r stPending 0 [] u s ∧ u.aux.cur = none ∧ u.aux.cycle = false ∧ u.vint = s.vint ∧ u.proto.ops = s.proto.ops ++
        [⟨r.sess, r.seq, r.opcode, .devCal 0x0A02 (wordAt r.payload 0) (wordAt r.payload 1), true, s.time.clk⟩] ∧ Frame [.proto, .aux, .out] s u) ∧
  (∀ (r : Req) (s : State), Ready 0x0A03 [] 2 2 r s → -40000 ≤ (wordAt r.payload 0).toInt → (wordAt r.payload 0).toInt ≤ 125000 → wordAt r.payload 1 = 0 →
    calRuns s = false → (∀ f : Fin 4, runOf (s.act 0x10 f.val) = false) → (∀ c : CoreId, s.core[c].st = .stopped) →
    Answers (.calDie r) r stPending 0 [] ((taken r s).addOp r (.devCal 0x0A03 (wordAt r.payload 0) 0) true) s) ∧
  (∀ (m : CalMeasure) (o : Op) (w0 : Word) (s : State), s.proto.ops = [o] → o.kind = .devCal 0x0A03 w0 0 →
    (∀ i : Fin 16, (w0.toInt - m.die[i]).natAbs ≤ 10000) →
    ∃ t, exec (.calComplete m) s = ok t ∧ t.proto.ops = [] ∧ t.vint.written = true ∧ t.vint.fld = s.vint.fld ∧ t.vint.factory = s.vint.factory ∧
      t.vint.trims = s.vint.trims ∧ Frame [.vint, .proto, .free, .rings, .aux, .out] s t) ∧
  (∀ (m : CalMeasure) (o : Op) (w0 : Word) (i : Fin 16) (s : State), s.proto.ops = [o] → o.kind = .devCal 0x0A03 w0 0 →
    10000 < (w0.toInt - m.die[i]).natAbs →
    ∃ t, exec (.calComplete m) s = ok t ∧ t.proto.ops = [] ∧ t.vint = s.vint ∧ t.pcie.irqSum.getLsbD 42 = true ∧
      Frame [.proto, .rings, .aux, .pcie, .out] s t) ∧
  (∀ (o : Op) (w0 w1 : Word) (s : State), s.proto.ops = [o] → o.kind = .devCal 0x0A03 w0 w1 →
    ∃ t, exec .calDieTimeout s = ok t ∧ t.proto.ops = [] ∧ t.vint = s.vint ∧ t.time.clk = max s.time.clk (o.start + 10 ^ 13) ∧
      Frame [.time, .proto, .rings, .out] s t) ∧
  (∀ (r : Req) (o : Op) (k : BitVec 16) (w0 w1 : Word) (s : State), Ready 0x0A07 [] 1 1 r s → s.findOp r.sess (wordAt r.payload 0) = some o →
    o.kind = .devCal k w0 w1 →
    ∃ u, Answers (.calAbort r) r stOk 0 [] u s ∧ u.proto.ops = s.proto.ops.erase o ∧ u.vint = s.vint ∧ Frame [.aux, .proto, .rings, .out] s u)

/-- VINTAGE_STORE is accepted when no calibration runs; its verified end stores the working sets with the next store count, an unverified one leaves
every copy and raises vector 42; VINTAGE_STATUS and VINTAGE_READ change nothing; VINTAGE_RECOMPUTE reads the sensors INTERVAL ms after the last time
(R403, R404, R414-R416). -/
def Obligations.VintageStoreAndUse : Prop :=
  (∀ (r : Req) (s : State), Ready 0x0A04 [] 1 1 r s → rsvdBad r 0 1 = false → calRuns s = false →
    Answers (.vintageStore r) r stPending 0 [] ((taken r s).addOp r (.vintageStore ((wordAt r.payload 0).getLsbD 0)) true) s) ∧
  (∀ (o : Op) (sys : Bool) (s : State), s.proto.ops = [o] → o.kind = .vintageStore sys →
    ∃ t, exec (.vintageStoreComplete true) s = ok t ∧ t.proto.ops = [] ∧ t.vint.present = true ∧ t.vint.work = s.vint.work ∧
      (∃ k : Fin 2, t.vint.fld = s.vint.fld.set k
        (some ⟨s.vint.work, storeCount s.vint + 1, s.now, if sys then some (s.aux.sys, s.aux.sysCur) else none, true⟩)) ∧
      Frame [.vint, .proto, .rings, .out] s t) ∧
  (∀ (o : Op) (sys : Bool) (s : State), s.proto.ops = [o] → o.kind = .vintageStore sys →
    ∃ t, exec (.vintageStoreComplete false) s = ok t ∧ t.proto.ops = [] ∧ t.pcie.irqSum.getLsbD 42 = true ∧
      Frame [.proto, .rings, .pcie, .out] s t) ∧
  (∀ (r : Req) (s : State), Ready 0x0A05 [] 0 0 r s → ∃ ws, ws.length = 21 ∧ Answers (.vintageStatus r) r stOk 0 ws (taken r s) s) ∧
  (∀ (r : Req) (s : State), Ready 0x0A06 [] 1 1 r s → wordAt r.payload 0 = 2 →
    Answers (.vintageRead r) r stOk 0 (0 :: s.vint.force.drop 1) (taken r s) s) ∧
  (∀ (raw : Vector Int 16) (s : State), s.commits = [] →
    ∃ t, exec (.vintageRecompute raw) s = ok t ∧ t.vint.raw = raw ∧ t.vint.last = t.time.clk ∧
      t.time.clk = max s.time.clk (s.vint.last + bf (s.act 0xB0 0) 1 0 10 * 10 ^ 9) ∧ t.vint.work = s.vint.work ∧ t.vint.fld = s.vint.fld ∧
      t.vint.factory = s.vint.factory ∧ Frame [.time, .vint, .pcie, .out] s t)

/-! ## The Taster (R459-R463, R468, R469) -/

/-- TASTER_RUN that may start starts with its budget and is answered pending, and is BUSY while a run is in progress; TASTER_RUN_END counts the run, a
failure with vector 43; TASTER_ABORT ends the run in progress uncounted; a scheduled run is not started while another runs, and is counted in SKIPPED
where a margin is below 25 %; TASTER_STATUS answers and clears its counters. -/
def Obligations.TasterRuns : Prop :=
  (∀ (r : Req) (t : Fin 6) (i : Nat) (s : State), Ready 0x0C08 [] 1 1 r s → wordAt r.payload 0 = BitVec.ofNat 32 (t.val + 256 * i) → i < testCount t.val →
    tasterHeld s t.val i = false → judgeAdmit s 400 = .granted →
    ∃ u, Answers (.tasterRun r) r stPending 0 [] u s ∧ u.taster.run = some ⟨t, i, some (r.sess, r.seq)⟩ ∧ u.taster.runs = s.taster.runs ∧
      u.vat.mem = s.vat.mem ∧ Frame [.taster, .vat, .proto, .power, .pcie, .out] s u) ∧
  (∀ (r : Req) (t : Fin 6) (i : Nat) (s : State), Ready 0x0C08 [] 1 1 r s → wordAt r.payload 0 = BitVec.ofNat 32 (t.val + 256 * i) → i < testCount t.val →
    s.taster.run.isSome = true → Answers (.tasterRun r) r stBusy 0 [] (taken r s) s) ∧
  (∀ (run : TastRun) (m : BitVec 16) (s : State), s.taster.run = some run → run.test ≠ 0 → run.cmd = none →
    ∃ t, exec (.tasterRunEnd true m) s = ok t ∧ t.taster = { s.taster with
        run := none, runs := s.taster.runs.set run.test (addSat s.taster.runs[run.test] 1) } ∧ Frame [.taster, .power] s t) ∧
  (∀ (run : TastRun) (m : BitVec 16) (s : State), s.taster.run = some run → run.test ≠ 0 → run.test ≠ 3 → run.cmd = none →
    ∃ t, exec (.tasterRunEnd false m) s = ok t ∧ t.taster.run = none ∧ t.taster.fails[run.test] = addSat s.taster.fails[run.test] 1 ∧
      t.taster.failTime = s.now ∧ t.taster.failMeasure = m ∧ t.taster.failTest.toNat = run.test.val ∧ t.pcie.irqSum.getLsbD 43 = true ∧
      Frame [.taster, .power, .pcie, .out] s t) ∧
  (∀ (r : Req) (o : Op) (i : Nat) (run : TastRun) (s : State), Ready 0x0C0A [] 1 1 r s → s.power.queue = [] → s.proto.ops = [o] →
    o.sess = r.sess → o.seq = wordAt r.payload 0 → (∃ t : Fin 8, o.kind = .tasterRun t i) → s.taster.run = some run →
    ∃ u, Answers (.tasterAbort r) r stOk 0 [] u s ∧ u.proto.ops = [] ∧ u.taster = { s.taster with run := none } ∧ u.vat.mem = s.vat.mem ∧
      Frame [.taster, .vat, .power, .proto, .rings, .out] s u) ∧
  (∀ (t : Fin 6) (i : Nat) (s : State), s.taster.run.isSome = true → exec (.tasterScheduledRun t i) s = ok s) ∧
  (∀ (t : Fin 6) (i : Nat) (s : State), s.life.phase = 3 → tsEn (tsBlk s) = true → tsInterval (tsBlk s) t.val ≠ 0 → s.taster.run = none →
    i < testCount t.val → s.power.state.val < 2 → (∃ k : Fin 7, s.power.margins[k] < 250) → t.val = 3 → runOf (s.act 0x10 i) = true →
    ∃ u, exec (.tasterScheduledRun t i) s = ok u ∧ u.taster.skipped[t] = addSat s.taster.skipped[t] 1 ∧ u.taster.run = none ∧
      Frame [.time, .taster] s u) ∧
  (∀ (r : Req) (s : State), Ready 0x0C09 [] 0 0 r s →
    ∃ ws, ws.length = 22 ∧ (∀ t : Fin 6, wordAt ws (1 + 3 * t.val) = s.taster.runs[t] ∧ wordAt ws (2 + 3 * t.val) = s.taster.fails[t] ∧
        wordAt ws (3 + 3 * t.val) = s.taster.skipped[t]) ∧
      Answers (.tasterStatus r) r stOk 0 ws { taken r s with taster := { s.taster with
        runs := Vector.replicate 6 0, fails := Vector.replicate 6 0, skipped := Vector.replicate 6 0 } } s)

/-- What the CP keeps (R44): the sessions with their reply caches and the scheduled commits survive a watchdog bite and the CP restart it causes, and
are lost at RESET_N and at a warm reset within its limit. -/
def Obligations.RestartKeepsReplies : Prop :=
  (∀ (w : Nat) (s : State), liveOp s = none →
    ∃ t, exec (.watchdogBite w) s = ok t ∧ t.proto = s.proto ∧ t.commits = s.commits) ∧
  (∀ s : State, liveOp s = none → s.proto.heldIn = [] → s.proto.smbLater = [] →
    ∃ t, exec .cpRestartComplete s = ok t ∧ t.proto = s.proto ∧ t.commits = s.commits) ∧
  (∀ s : State, s.life.powered = true → s.life.inReset = false →
    ∃ t, exec .resetNAssert s = ok t ∧ t.proto.sessions = [] ∧ t.commits = []) ∧
  (∀ (p : PendReset) (s : State), s.life.pendReset = some p → s.life.l3Times.length < syLimit (syBlk s) →
    ∃ t, exec .warmReset s = ok t ∧ t.proto.sessions = [] ∧ t.commits = [])
end

