-- ==== Sys2Proof/Laws/Memory.lean ====
section
/-! SUPPORT. The laws of the sparse memory: reads after writes, and the canonical form that every operation keeps. -/

namespace Sys2Proof.Machine

/-- Every address listed in a canonical memory whose first address is above `a` is above `a`. -/
def Mem.above (a : Nat) : Mem → Bool
  | [] => true
  | (x, _) :: _ => decide (a < x)

theorem Mem.wf_cons (a : Nat) (b : Byte) (r : Mem) : Mem.wf ((a, b) :: r) = (b != 0 && Mem.above a r && Mem.wf r) := by
  cases r with
  | nil => simp [Mem.wf, Mem.above]
  | cons c r => obtain ⟨x, y⟩ := c; simp [Mem.wf, Mem.above]

theorem Mem.above_trans {a b : Nat} {m : Mem} (h : a < b) (hb : Mem.above b m = true) : Mem.above a m = true := by
  cases m with
  | nil => rfl
  | cons c r => obtain ⟨x, y⟩ := c; simp [Mem.above] at *; omega

theorem Mem.read_above {a : Nat} {m : Mem} (hw : m.wf = true) (h : Mem.above a m = true) : m.read a = 0 := by
  induction m generalizing a with
  | nil => rfl
  | cons c r ih =>
    obtain ⟨x, y⟩ := c
    rw [Mem.wf_cons] at hw
    simp [Mem.above] at hw h
    have : ¬ x = a := by omega
    simp [Mem.read, this]
    exact ih hw.2 (Mem.above_trans h hw.1.2)

theorem Mem.above_write {a x : Nat} {v : Byte} {m : Mem} (hm : Mem.above a m = true) (hw : m.wf = true) (h : a < x) :
    Mem.above a (m.write x v) = true := by
  cases m with
  | nil => by_cases hv : v = 0#8 <;> simp [Mem.write, hv, Mem.above, h]
  | cons c r =>
    obtain ⟨k, b⟩ := c
    rw [Mem.wf_cons] at hw
    simp [Mem.above] at hm hw
    by_cases h1 : x < k
    · by_cases hv : v = 0#8 <;> simp [Mem.write, h1, hv, Mem.above, h, hm]
    · by_cases h2 : x = k
      · by_cases hv : v = 0#8
        · simp [Mem.write, h2, hv]; exact Mem.above_trans (by omega) hw.1.2
        · simp [Mem.write, h2, hv, Mem.above]; omega
      · simp [Mem.write, h1, h2, Mem.above, hm]

/-- Writing a byte keeps the canonical form. -/
theorem Mem.write_wf {m : Mem} (x : Nat) (v : Byte) (hw : m.wf = true) : (m.write x v).wf = true := by
  induction m with
  | nil => by_cases hv : v = 0#8 <;> simp [Mem.write, hv, Mem.wf]
  | cons c r ih =>
    obtain ⟨k, b⟩ := c
    have hw' := hw
    rw [Mem.wf_cons] at hw'
    simp at hw'
    by_cases h1 : x < k
    · by_cases hv : v = 0#8
      · simp [Mem.write, h1, hv, hw]
      · simp [Mem.write, h1, hv]; rw [Mem.wf_cons]; simp [hv, Mem.above, h1, hw]
    · by_cases h2 : x = k
      · by_cases hv : v = 0#8
        · simp [Mem.write, h2, hv, hw'.2]
        · simp [Mem.write, h2, hv]; rw [Mem.wf_cons]; simp [hv, hw'.1.2, hw'.2]
      · simp only [Mem.write, h1, h2, if_false]
        rw [Mem.wf_cons]
        simp [hw'.1.1, ih hw'.2]
        exact Mem.above_write hw'.1.2 hw'.2 (by omega)

/-- A read of the byte just written gives it. -/
theorem Mem.read_write_same {m : Mem} (x : Nat) (v : Byte) (hw : m.wf = true) : (m.write x v).read x = v := by
  induction m with
  | nil => by_cases hv : v = 0#8 <;> simp [Mem.write, hv, Mem.read]
  | cons c r ih =>
    obtain ⟨k, b⟩ := c
    have hw' := hw
    rw [Mem.wf_cons] at hw'
    simp at hw'
    by_cases h1 : x < k
    · by_cases hv : v = 0#8
      · simp [Mem.write, h1, hv]
        exact Mem.read_above hw (by simp [Mem.above, h1])
      · simp [Mem.write, h1, hv, Mem.read]
    · by_cases h2 : x = k
      · by_cases hv : v = 0#8
        · simp [Mem.write, h2, hv]
          exact Mem.read_above hw'.2 hw'.1.2
        · simp [Mem.write, h2, hv, Mem.read]
      · have h3 : ¬ k = x := fun h => h2 h.symm
        simp [Mem.write, h1, h2, Mem.read, h3, ih hw'.2]

/-- A write leaves every other byte alone. -/
theorem Mem.read_write_other {m : Mem} {x y : Nat} (v : Byte) (hxy : y ≠ x) : (m.write x v).read y = m.read y := by
  induction m with
  | nil =>
    by_cases hv : v = 0#8
    · simp [Mem.write, hv]
    · have : ¬ x = y := fun h => hxy h.symm
      simp [Mem.write, hv, Mem.read, this]
  | cons c r ih =>
    obtain ⟨k, b⟩ := c
    have hx : ¬ x = y := fun h => hxy h.symm
    by_cases h1 : x < k
    · by_cases hv : v = 0#8 <;> simp [Mem.write, h1, hv, Mem.read, hx]
    · by_cases h2 : x = k
      · subst h2
        by_cases hv : v = 0#8 <;> simp [Mem.write, hv, Mem.read, hx]
      · simp only [Mem.write, h1, h2, if_false, Mem.read, ih]

/-- Writing bytes keeps the canonical form. -/
theorem Mem.writeN_wf {m : Mem} (a : Nat) (l : List Byte) (hw : m.wf = true) : (m.writeN a l).wf = true := by
  induction l generalizing m a with
  | nil => exact hw
  | cons b r ih => exact ih (a + 1) (Mem.write_wf a b hw)

/-- Writing enabled bytes keeps the canonical form. -/
theorem Mem.writeOpt_wf {m : Mem} (a : Nat) (l : List (Option Byte)) (hw : m.wf = true) : (m.writeOpt a l).wf = true := by
  induction l generalizing m a with
  | nil => exact hw
  | cons b r ih =>
    cases b with
    | none => exact ih (a + 1) hw
    | some v => exact ih (a + 1) (Mem.write_wf a v hw)

theorem Mem.above_filter {a : Nat} {m : Mem} (p : Host.Cell → Bool) (hw : m.wf = true) (h : Mem.above a m = true) :
    Mem.above a (m.filter p) = true := by
  induction m with
  | nil => rfl
  | cons c r ih =>
    obtain ⟨x, y⟩ := c
    rw [Mem.wf_cons] at hw
    simp [Mem.above] at hw h
    rw [List.filter_cons]
    split
    · simp [Mem.above, h]
    · exact ih hw.2 (Mem.above_trans h hw.1.2)

/-- Keeping some of the bytes keeps the canonical form. -/
theorem Mem.filter_wf {m : Mem} (p : Host.Cell → Bool) (hw : m.wf = true) : Mem.wf (m.filter p) = true := by
  induction m with
  | nil => rfl
  | cons c r ih =>
    obtain ⟨x, y⟩ := c
    rw [Mem.wf_cons] at hw
    simp at hw
    rw [List.filter_cons]
    split
    · rw [Mem.wf_cons]
      simp [hw.1.1, ih hw.2]
      exact Mem.above_filter p hw.2 hw.1.2
    · exact ih hw.2

/-- Dropping a range keeps the canonical form. -/
theorem Mem.clear_wf {m : Mem} (lo hi : Nat) (hw : m.wf = true) : (m.clear lo hi).wf = true := Mem.filter_wf _ hw

/-- Bytes outside a written range read as before. -/
theorem Mem.read_writeN_other {m : Mem} {y : Nat} (a : Nat) (l : List Byte) (h : y < a ∨ a + l.length ≤ y) :
    (m.writeN a l).read y = m.read y := by
  induction l generalizing m a with
  | nil => rfl
  | cons b r ih =>
    simp only [List.length_cons] at h
    rw [Mem.writeN, ih (a + 1) (by omega), Mem.read_write_other b (by omega)]

/-- Two canonical memories that read alike everywhere are equal data. -/
theorem Mem.ext {m n : Mem} (hm : m.wf = true) (hn : n.wf = true) (h : ∀ a, m.read a = n.read a) : m = n := by
  induction m generalizing n with
  | nil =>
    cases n with
    | nil => rfl
    | cons c r =>
      obtain ⟨x, y⟩ := c
      rw [Mem.wf_cons] at hn
      simp at hn
      have := h x
      simp [Mem.read] at this
      exact absurd this.symm hn.1.1
  | cons c r ih =>
    obtain ⟨k, b⟩ := c
    have hm' := hm
    rw [Mem.wf_cons] at hm'
    simp at hm'
    cases n with
    | nil =>
      have := h k
      simp [Mem.read] at this
      exact absurd this hm'.1.1
    | cons d q =>
      obtain ⟨x, y⟩ := d
      have hn' := hn
      rw [Mem.wf_cons] at hn'
      simp at hn'
      have hkx : k = x := by
        rcases Nat.lt_trichotomy k x with hlt | he | hlt
        · have h1 := h k
          rw [show Mem.read ((k, b) :: r) k = b by simp [Mem.read],
            Mem.read_above hn (by simp [Mem.above, hlt])] at h1
          exact absurd h1 hm'.1.1
        · exact he
        · have h1 := h x
          rw [show Mem.read ((x, y) :: q) x = y by simp [Mem.read],
            Mem.read_above hm (by simp [Mem.above, hlt])] at h1
          exact absurd h1.symm hn'.1.1
      subst hkx
      have hby : b = y := by have := h k; simpa [Mem.read] using this
      subst hby
      have : r = q := by
        apply ih hm'.2 hn'.2
        intro a
        by_cases ha : k = a
        · subst ha; rw [Mem.read_above hm'.2 hm'.1.2, Mem.read_above hn'.2 hn'.1.2]
        · have := h a; simpa [Mem.read, ha] using this
      rw [this]

/-- Nothing is listed after reset. -/
theorem Mem.reset_wf : State.reset.vat.mem.wf = true ∧ State.reset.cellar.mem.wf = true := ⟨rfl, rfl⟩

end Sys2Proof.Machine
end

