-- ==== Sys2Proof/Laws/State.lean ====
section
/-! SUPPORT. What each named update of the state leaves alone: one lemma per field and update. -/

namespace Sys2Proof.Machine

@[simp] theorem State.goTo_peer (s : State) (clk : Nat) : (s.goTo clk).peer = s.peer := rfl
@[simp] theorem State.goTo_tiu (s : State) (clk : Nat) : (s.goTo clk).tiu = s.tiu := rfl
@[simp] theorem State.goTo_pcie (s : State) (clk : Nat) : (s.goTo clk).pcie = s.pcie := rfl
@[simp] theorem State.goTo_rings (s : State) (clk : Nat) : (s.goTo clk).rings = s.rings := rfl
@[simp] theorem State.goTo_proto (s : State) (clk : Nat) : (s.goTo clk).proto = s.proto := rfl
@[simp] theorem State.goTo_params (s : State) (clk : Nat) : (s.goTo clk).params = s.params := rfl
@[simp] theorem State.goTo_commits (s : State) (clk : Nat) : (s.goTo clk).commits = s.commits := rfl
@[simp] theorem State.goTo_vat (s : State) (clk : Nat) : (s.goTo clk).vat = s.vat := rfl
@[simp] theorem State.goTo_cellar (s : State) (clk : Nat) : (s.goTo clk).cellar = s.cellar := rfl
@[simp] theorem State.goTo_power (s : State) (clk : Nat) : (s.goTo clk).power = s.power := rfl
@[simp] theorem State.goTo_life (s : State) (clk : Nat) : (s.goTo clk).life = s.life := rfl
@[simp] theorem State.goTo_core (s : State) (clk : Nat) : (s.goTo clk).core = s.core := rfl
@[simp] theorem State.goTo_fe (s : State) (clk : Nat) : (s.goTo clk).fe = s.fe := rfl
@[simp] theorem State.goTo_stream (s : State) (clk : Nat) : (s.goTo clk).stream = s.stream := rfl
@[simp] theorem State.goTo_zones (s : State) (clk : Nat) : (s.goTo clk).zones = s.zones := rfl
@[simp] theorem State.goTo_therm (s : State) (clk : Nat) : (s.goTo clk).therm = s.therm := rfl
@[simp] theorem State.goTo_harv (s : State) (clk : Nat) : (s.goTo clk).harv = s.harv := rfl
@[simp] theorem State.goTo_aux (s : State) (clk : Nat) : (s.goTo clk).aux = s.aux := rfl
@[simp] theorem State.goTo_vint (s : State) (clk : Nat) : (s.goTo clk).vint = s.vint := rfl
@[simp] theorem State.goTo_taster (s : State) (clk : Nat) : (s.goTo clk).taster = s.taster := rfl
@[simp] theorem State.goTo_free (s : State) (clk : Nat) : (s.goTo clk).free = s.free := rfl
@[simp] theorem State.goTo_out (s : State) (clk : Nat) : (s.goTo clk).out = s.out := rfl
@[simp] theorem State.goTo_pending (s : State) (clk : Nat) : (s.goTo clk).pending = s.pending := rfl

@[simp] theorem State.emit_time (s : State) (o : Out) : (s.emit o).time = s.time := rfl
@[simp] theorem State.emit_peer (s : State) (o : Out) : (s.emit o).peer = s.peer := rfl
@[simp] theorem State.emit_tiu (s : State) (o : Out) : (s.emit o).tiu = s.tiu := rfl
@[simp] theorem State.emit_pcie (s : State) (o : Out) : (s.emit o).pcie = s.pcie := rfl
@[simp] theorem State.emit_rings (s : State) (o : Out) : (s.emit o).rings = s.rings := rfl
@[simp] theorem State.emit_proto (s : State) (o : Out) : (s.emit o).proto = s.proto := rfl
@[simp] theorem State.emit_params (s : State) (o : Out) : (s.emit o).params = s.params := rfl
@[simp] theorem State.emit_commits (s : State) (o : Out) : (s.emit o).commits = s.commits := rfl
@[simp] theorem State.emit_vat (s : State) (o : Out) : (s.emit o).vat = s.vat := rfl
@[simp] theorem State.emit_cellar (s : State) (o : Out) : (s.emit o).cellar = s.cellar := rfl
@[simp] theorem State.emit_power (s : State) (o : Out) : (s.emit o).power = s.power := rfl
@[simp] theorem State.emit_life (s : State) (o : Out) : (s.emit o).life = s.life := rfl
@[simp] theorem State.emit_core (s : State) (o : Out) : (s.emit o).core = s.core := rfl
@[simp] theorem State.emit_fe (s : State) (o : Out) : (s.emit o).fe = s.fe := rfl
@[simp] theorem State.emit_stream (s : State) (o : Out) : (s.emit o).stream = s.stream := rfl
@[simp] theorem State.emit_zones (s : State) (o : Out) : (s.emit o).zones = s.zones := rfl
@[simp] theorem State.emit_therm (s : State) (o : Out) : (s.emit o).therm = s.therm := rfl
@[simp] theorem State.emit_harv (s : State) (o : Out) : (s.emit o).harv = s.harv := rfl
@[simp] theorem State.emit_aux (s : State) (o : Out) : (s.emit o).aux = s.aux := rfl
@[simp] theorem State.emit_vint (s : State) (o : Out) : (s.emit o).vint = s.vint := rfl
@[simp] theorem State.emit_taster (s : State) (o : Out) : (s.emit o).taster = s.taster := rfl
@[simp] theorem State.emit_free (s : State) (o : Out) : (s.emit o).free = s.free := rfl
@[simp] theorem State.emit_pending (s : State) (o : Out) : (s.emit o).pending = s.pending := rfl

@[simp] theorem State.setSum_time (s : State) (v : Fin 64) : (s.setSum v).time = s.time := rfl
@[simp] theorem State.setSum_peer (s : State) (v : Fin 64) : (s.setSum v).peer = s.peer := rfl
@[simp] theorem State.setSum_tiu (s : State) (v : Fin 64) : (s.setSum v).tiu = s.tiu := rfl
@[simp] theorem State.setSum_rings (s : State) (v : Fin 64) : (s.setSum v).rings = s.rings := rfl
@[simp] theorem State.setSum_proto (s : State) (v : Fin 64) : (s.setSum v).proto = s.proto := rfl
@[simp] theorem State.setSum_params (s : State) (v : Fin 64) : (s.setSum v).params = s.params := rfl
@[simp] theorem State.setSum_commits (s : State) (v : Fin 64) : (s.setSum v).commits = s.commits := rfl
@[simp] theorem State.setSum_vat (s : State) (v : Fin 64) : (s.setSum v).vat = s.vat := rfl
@[simp] theorem State.setSum_cellar (s : State) (v : Fin 64) : (s.setSum v).cellar = s.cellar := rfl
@[simp] theorem State.setSum_power (s : State) (v : Fin 64) : (s.setSum v).power = s.power := rfl
@[simp] theorem State.setSum_life (s : State) (v : Fin 64) : (s.setSum v).life = s.life := rfl
@[simp] theorem State.setSum_core (s : State) (v : Fin 64) : (s.setSum v).core = s.core := rfl
@[simp] theorem State.setSum_fe (s : State) (v : Fin 64) : (s.setSum v).fe = s.fe := rfl
@[simp] theorem State.setSum_stream (s : State) (v : Fin 64) : (s.setSum v).stream = s.stream := rfl
@[simp] theorem State.setSum_zones (s : State) (v : Fin 64) : (s.setSum v).zones = s.zones := rfl
@[simp] theorem State.setSum_therm (s : State) (v : Fin 64) : (s.setSum v).therm = s.therm := rfl
@[simp] theorem State.setSum_harv (s : State) (v : Fin 64) : (s.setSum v).harv = s.harv := rfl
@[simp] theorem State.setSum_aux (s : State) (v : Fin 64) : (s.setSum v).aux = s.aux := rfl
@[simp] theorem State.setSum_vint (s : State) (v : Fin 64) : (s.setSum v).vint = s.vint := rfl
@[simp] theorem State.setSum_taster (s : State) (v : Fin 64) : (s.setSum v).taster = s.taster := rfl
@[simp] theorem State.setSum_free (s : State) (v : Fin 64) : (s.setSum v).free = s.free := rfl
@[simp] theorem State.setSum_out (s : State) (v : Fin 64) : (s.setSum v).out = s.out := rfl
@[simp] theorem State.setSum_pending (s : State) (v : Fin 64) : (s.setSum v).pending = s.pending := rfl

@[simp] theorem State.updRing_time (s : State) (n : RingId) (f : Ring → Ring) : (s.updRing n f).time = s.time := rfl
@[simp] theorem State.updRing_peer (s : State) (n : RingId) (f : Ring → Ring) : (s.updRing n f).peer = s.peer := rfl
@[simp] theorem State.updRing_tiu (s : State) (n : RingId) (f : Ring → Ring) : (s.updRing n f).tiu = s.tiu := rfl
@[simp] theorem State.updRing_pcie (s : State) (n : RingId) (f : Ring → Ring) : (s.updRing n f).pcie = s.pcie := rfl
@[simp] theorem State.updRing_proto (s : State) (n : RingId) (f : Ring → Ring) : (s.updRing n f).proto = s.proto := rfl
@[simp] theorem State.updRing_params (s : State) (n : RingId) (f : Ring → Ring) : (s.updRing n f).params = s.params := rfl
@[simp] theorem State.updRing_commits (s : State) (n : RingId) (f : Ring → Ring) : (s.updRing n f).commits = s.commits := rfl
@[simp] theorem State.updRing_vat (s : State) (n : RingId) (f : Ring → Ring) : (s.updRing n f).vat = s.vat := rfl
@[simp] theorem State.updRing_cellar (s : State) (n : RingId) (f : Ring → Ring) : (s.updRing n f).cellar = s.cellar := rfl
@[simp] theorem State.updRing_power (s : State) (n : RingId) (f : Ring → Ring) : (s.updRing n f).power = s.power := rfl
@[simp] theorem State.updRing_life (s : State) (n : RingId) (f : Ring → Ring) : (s.updRing n f).life = s.life := rfl
@[simp] theorem State.updRing_core (s : State) (n : RingId) (f : Ring → Ring) : (s.updRing n f).core = s.core := rfl
@[simp] theorem State.updRing_fe (s : State) (n : RingId) (f : Ring → Ring) : (s.updRing n f).fe = s.fe := rfl
@[simp] theorem State.updRing_stream (s : State) (n : RingId) (f : Ring → Ring) : (s.updRing n f).stream = s.stream := rfl
@[simp] theorem State.updRing_zones (s : State) (n : RingId) (f : Ring → Ring) : (s.updRing n f).zones = s.zones := rfl
@[simp] theorem State.updRing_therm (s : State) (n : RingId) (f : Ring → Ring) : (s.updRing n f).therm = s.therm := rfl
@[simp] theorem State.updRing_harv (s : State) (n : RingId) (f : Ring → Ring) : (s.updRing n f).harv = s.harv := rfl
@[simp] theorem State.updRing_aux (s : State) (n : RingId) (f : Ring → Ring) : (s.updRing n f).aux = s.aux := rfl
@[simp] theorem State.updRing_vint (s : State) (n : RingId) (f : Ring → Ring) : (s.updRing n f).vint = s.vint := rfl
@[simp] theorem State.updRing_taster (s : State) (n : RingId) (f : Ring → Ring) : (s.updRing n f).taster = s.taster := rfl
@[simp] theorem State.updRing_free (s : State) (n : RingId) (f : Ring → Ring) : (s.updRing n f).free = s.free := rfl
@[simp] theorem State.updRing_out (s : State) (n : RingId) (f : Ring → Ring) : (s.updRing n f).out = s.out := rfl
@[simp] theorem State.updRing_pending (s : State) (n : RingId) (f : Ring → Ring) : (s.updRing n f).pending = s.pending := rfl

@[simp] theorem State.updTiu_time (s : State) (n : Fin 4) (f : TiuCh → TiuCh) : (s.updTiu n f).time = s.time := rfl
@[simp] theorem State.updTiu_peer (s : State) (n : Fin 4) (f : TiuCh → TiuCh) : (s.updTiu n f).peer = s.peer := rfl
@[simp] theorem State.updTiu_pcie (s : State) (n : Fin 4) (f : TiuCh → TiuCh) : (s.updTiu n f).pcie = s.pcie := rfl
@[simp] theorem State.updTiu_rings (s : State) (n : Fin 4) (f : TiuCh → TiuCh) : (s.updTiu n f).rings = s.rings := rfl
@[simp] theorem State.updTiu_proto (s : State) (n : Fin 4) (f : TiuCh → TiuCh) : (s.updTiu n f).proto = s.proto := rfl
@[simp] theorem State.updTiu_params (s : State) (n : Fin 4) (f : TiuCh → TiuCh) : (s.updTiu n f).params = s.params := rfl
@[simp] theorem State.updTiu_commits (s : State) (n : Fin 4) (f : TiuCh → TiuCh) : (s.updTiu n f).commits = s.commits := rfl
@[simp] theorem State.updTiu_vat (s : State) (n : Fin 4) (f : TiuCh → TiuCh) : (s.updTiu n f).vat = s.vat := rfl
@[simp] theorem State.updTiu_cellar (s : State) (n : Fin 4) (f : TiuCh → TiuCh) : (s.updTiu n f).cellar = s.cellar := rfl
@[simp] theorem State.updTiu_power (s : State) (n : Fin 4) (f : TiuCh → TiuCh) : (s.updTiu n f).power = s.power := rfl
@[simp] theorem State.updTiu_life (s : State) (n : Fin 4) (f : TiuCh → TiuCh) : (s.updTiu n f).life = s.life := rfl
@[simp] theorem State.updTiu_core (s : State) (n : Fin 4) (f : TiuCh → TiuCh) : (s.updTiu n f).core = s.core := rfl
@[simp] theorem State.updTiu_fe (s : State) (n : Fin 4) (f : TiuCh → TiuCh) : (s.updTiu n f).fe = s.fe := rfl
@[simp] theorem State.updTiu_stream (s : State) (n : Fin 4) (f : TiuCh → TiuCh) : (s.updTiu n f).stream = s.stream := rfl
@[simp] theorem State.updTiu_zones (s : State) (n : Fin 4) (f : TiuCh → TiuCh) : (s.updTiu n f).zones = s.zones := rfl
@[simp] theorem State.updTiu_therm (s : State) (n : Fin 4) (f : TiuCh → TiuCh) : (s.updTiu n f).therm = s.therm := rfl
@[simp] theorem State.updTiu_harv (s : State) (n : Fin 4) (f : TiuCh → TiuCh) : (s.updTiu n f).harv = s.harv := rfl
@[simp] theorem State.updTiu_aux (s : State) (n : Fin 4) (f : TiuCh → TiuCh) : (s.updTiu n f).aux = s.aux := rfl
@[simp] theorem State.updTiu_vint (s : State) (n : Fin 4) (f : TiuCh → TiuCh) : (s.updTiu n f).vint = s.vint := rfl
@[simp] theorem State.updTiu_taster (s : State) (n : Fin 4) (f : TiuCh → TiuCh) : (s.updTiu n f).taster = s.taster := rfl
@[simp] theorem State.updTiu_free (s : State) (n : Fin 4) (f : TiuCh → TiuCh) : (s.updTiu n f).free = s.free := rfl
@[simp] theorem State.updTiu_out (s : State) (n : Fin 4) (f : TiuCh → TiuCh) : (s.updTiu n f).out = s.out := rfl
@[simp] theorem State.updTiu_pending (s : State) (n : Fin 4) (f : TiuCh → TiuCh) : (s.updTiu n f).pending = s.pending := rfl

@[simp] theorem State.updLane_time (s : State) (n : Fin 4) (f : Lane → Lane) : (s.updLane n f).time = s.time := rfl
@[simp] theorem State.updLane_tiu (s : State) (n : Fin 4) (f : Lane → Lane) : (s.updLane n f).tiu = s.tiu := rfl
@[simp] theorem State.updLane_pcie (s : State) (n : Fin 4) (f : Lane → Lane) : (s.updLane n f).pcie = s.pcie := rfl
@[simp] theorem State.updLane_rings (s : State) (n : Fin 4) (f : Lane → Lane) : (s.updLane n f).rings = s.rings := rfl
@[simp] theorem State.updLane_proto (s : State) (n : Fin 4) (f : Lane → Lane) : (s.updLane n f).proto = s.proto := rfl
@[simp] theorem State.updLane_params (s : State) (n : Fin 4) (f : Lane → Lane) : (s.updLane n f).params = s.params := rfl
@[simp] theorem State.updLane_commits (s : State) (n : Fin 4) (f : Lane → Lane) : (s.updLane n f).commits = s.commits := rfl
@[simp] theorem State.updLane_vat (s : State) (n : Fin 4) (f : Lane → Lane) : (s.updLane n f).vat = s.vat := rfl
@[simp] theorem State.updLane_cellar (s : State) (n : Fin 4) (f : Lane → Lane) : (s.updLane n f).cellar = s.cellar := rfl
@[simp] theorem State.updLane_power (s : State) (n : Fin 4) (f : Lane → Lane) : (s.updLane n f).power = s.power := rfl
@[simp] theorem State.updLane_life (s : State) (n : Fin 4) (f : Lane → Lane) : (s.updLane n f).life = s.life := rfl
@[simp] theorem State.updLane_core (s : State) (n : Fin 4) (f : Lane → Lane) : (s.updLane n f).core = s.core := rfl
@[simp] theorem State.updLane_fe (s : State) (n : Fin 4) (f : Lane → Lane) : (s.updLane n f).fe = s.fe := rfl
@[simp] theorem State.updLane_stream (s : State) (n : Fin 4) (f : Lane → Lane) : (s.updLane n f).stream = s.stream := rfl
@[simp] theorem State.updLane_zones (s : State) (n : Fin 4) (f : Lane → Lane) : (s.updLane n f).zones = s.zones := rfl
@[simp] theorem State.updLane_therm (s : State) (n : Fin 4) (f : Lane → Lane) : (s.updLane n f).therm = s.therm := rfl
@[simp] theorem State.updLane_harv (s : State) (n : Fin 4) (f : Lane → Lane) : (s.updLane n f).harv = s.harv := rfl
@[simp] theorem State.updLane_aux (s : State) (n : Fin 4) (f : Lane → Lane) : (s.updLane n f).aux = s.aux := rfl
@[simp] theorem State.updLane_vint (s : State) (n : Fin 4) (f : Lane → Lane) : (s.updLane n f).vint = s.vint := rfl
@[simp] theorem State.updLane_taster (s : State) (n : Fin 4) (f : Lane → Lane) : (s.updLane n f).taster = s.taster := rfl
@[simp] theorem State.updLane_free (s : State) (n : Fin 4) (f : Lane → Lane) : (s.updLane n f).free = s.free := rfl
@[simp] theorem State.updLane_out (s : State) (n : Fin 4) (f : Lane → Lane) : (s.updLane n f).out = s.out := rfl
@[simp] theorem State.updLane_pending (s : State) (n : Fin 4) (f : Lane → Lane) : (s.updLane n f).pending = s.pending := rfl

@[simp] theorem State.updCel_time (s : State) (n : Fin 4) (f : CelCh → CelCh) : (s.updCel n f).time = s.time := rfl
@[simp] theorem State.updCel_peer (s : State) (n : Fin 4) (f : CelCh → CelCh) : (s.updCel n f).peer = s.peer := rfl
@[simp] theorem State.updCel_tiu (s : State) (n : Fin 4) (f : CelCh → CelCh) : (s.updCel n f).tiu = s.tiu := rfl
@[simp] theorem State.updCel_pcie (s : State) (n : Fin 4) (f : CelCh → CelCh) : (s.updCel n f).pcie = s.pcie := rfl
@[simp] theorem State.updCel_rings (s : State) (n : Fin 4) (f : CelCh → CelCh) : (s.updCel n f).rings = s.rings := rfl
@[simp] theorem State.updCel_proto (s : State) (n : Fin 4) (f : CelCh → CelCh) : (s.updCel n f).proto = s.proto := rfl
@[simp] theorem State.updCel_params (s : State) (n : Fin 4) (f : CelCh → CelCh) : (s.updCel n f).params = s.params := rfl
@[simp] theorem State.updCel_commits (s : State) (n : Fin 4) (f : CelCh → CelCh) : (s.updCel n f).commits = s.commits := rfl
@[simp] theorem State.updCel_vat (s : State) (n : Fin 4) (f : CelCh → CelCh) : (s.updCel n f).vat = s.vat := rfl
@[simp] theorem State.updCel_power (s : State) (n : Fin 4) (f : CelCh → CelCh) : (s.updCel n f).power = s.power := rfl
@[simp] theorem State.updCel_life (s : State) (n : Fin 4) (f : CelCh → CelCh) : (s.updCel n f).life = s.life := rfl
@[simp] theorem State.updCel_core (s : State) (n : Fin 4) (f : CelCh → CelCh) : (s.updCel n f).core = s.core := rfl
@[simp] theorem State.updCel_fe (s : State) (n : Fin 4) (f : CelCh → CelCh) : (s.updCel n f).fe = s.fe := rfl
@[simp] theorem State.updCel_stream (s : State) (n : Fin 4) (f : CelCh → CelCh) : (s.updCel n f).stream = s.stream := rfl
@[simp] theorem State.updCel_zones (s : State) (n : Fin 4) (f : CelCh → CelCh) : (s.updCel n f).zones = s.zones := rfl
@[simp] theorem State.updCel_therm (s : State) (n : Fin 4) (f : CelCh → CelCh) : (s.updCel n f).therm = s.therm := rfl
@[simp] theorem State.updCel_harv (s : State) (n : Fin 4) (f : CelCh → CelCh) : (s.updCel n f).harv = s.harv := rfl
@[simp] theorem State.updCel_aux (s : State) (n : Fin 4) (f : CelCh → CelCh) : (s.updCel n f).aux = s.aux := rfl
@[simp] theorem State.updCel_vint (s : State) (n : Fin 4) (f : CelCh → CelCh) : (s.updCel n f).vint = s.vint := rfl
@[simp] theorem State.updCel_taster (s : State) (n : Fin 4) (f : CelCh → CelCh) : (s.updCel n f).taster = s.taster := rfl
@[simp] theorem State.updCel_free (s : State) (n : Fin 4) (f : CelCh → CelCh) : (s.updCel n f).free = s.free := rfl
@[simp] theorem State.updCel_out (s : State) (n : Fin 4) (f : CelCh → CelCh) : (s.updCel n f).out = s.out := rfl
@[simp] theorem State.updCel_pending (s : State) (n : Fin 4) (f : CelCh → CelCh) : (s.updCel n f).pending = s.pending := rfl

@[simp] theorem State.updFe_time (s : State) (n : Fe) (f : FeSt → FeSt) : (s.updFe n f).time = s.time := rfl
@[simp] theorem State.updFe_peer (s : State) (n : Fe) (f : FeSt → FeSt) : (s.updFe n f).peer = s.peer := rfl
@[simp] theorem State.updFe_tiu (s : State) (n : Fe) (f : FeSt → FeSt) : (s.updFe n f).tiu = s.tiu := rfl
@[simp] theorem State.updFe_pcie (s : State) (n : Fe) (f : FeSt → FeSt) : (s.updFe n f).pcie = s.pcie := rfl
@[simp] theorem State.updFe_rings (s : State) (n : Fe) (f : FeSt → FeSt) : (s.updFe n f).rings = s.rings := rfl
@[simp] theorem State.updFe_proto (s : State) (n : Fe) (f : FeSt → FeSt) : (s.updFe n f).proto = s.proto := rfl
@[simp] theorem State.updFe_params (s : State) (n : Fe) (f : FeSt → FeSt) : (s.updFe n f).params = s.params := rfl
@[simp] theorem State.updFe_commits (s : State) (n : Fe) (f : FeSt → FeSt) : (s.updFe n f).commits = s.commits := rfl
@[simp] theorem State.updFe_vat (s : State) (n : Fe) (f : FeSt → FeSt) : (s.updFe n f).vat = s.vat := rfl
@[simp] theorem State.updFe_cellar (s : State) (n : Fe) (f : FeSt → FeSt) : (s.updFe n f).cellar = s.cellar := rfl
@[simp] theorem State.updFe_power (s : State) (n : Fe) (f : FeSt → FeSt) : (s.updFe n f).power = s.power := rfl
@[simp] theorem State.updFe_life (s : State) (n : Fe) (f : FeSt → FeSt) : (s.updFe n f).life = s.life := rfl
@[simp] theorem State.updFe_core (s : State) (n : Fe) (f : FeSt → FeSt) : (s.updFe n f).core = s.core := rfl
@[simp] theorem State.updFe_stream (s : State) (n : Fe) (f : FeSt → FeSt) : (s.updFe n f).stream = s.stream := rfl
@[simp] theorem State.updFe_zones (s : State) (n : Fe) (f : FeSt → FeSt) : (s.updFe n f).zones = s.zones := rfl
@[simp] theorem State.updFe_therm (s : State) (n : Fe) (f : FeSt → FeSt) : (s.updFe n f).therm = s.therm := rfl
@[simp] theorem State.updFe_harv (s : State) (n : Fe) (f : FeSt → FeSt) : (s.updFe n f).harv = s.harv := rfl
@[simp] theorem State.updFe_aux (s : State) (n : Fe) (f : FeSt → FeSt) : (s.updFe n f).aux = s.aux := rfl
@[simp] theorem State.updFe_vint (s : State) (n : Fe) (f : FeSt → FeSt) : (s.updFe n f).vint = s.vint := rfl
@[simp] theorem State.updFe_taster (s : State) (n : Fe) (f : FeSt → FeSt) : (s.updFe n f).taster = s.taster := rfl
@[simp] theorem State.updFe_free (s : State) (n : Fe) (f : FeSt → FeSt) : (s.updFe n f).free = s.free := rfl
@[simp] theorem State.updFe_out (s : State) (n : Fe) (f : FeSt → FeSt) : (s.updFe n f).out = s.out := rfl
@[simp] theorem State.updFe_pending (s : State) (n : Fe) (f : FeSt → FeSt) : (s.updFe n f).pending = s.pending := rfl

@[simp] theorem State.updStream_time (s : State) (n : StreamId) (f : StreamSt → StreamSt) : (s.updStream n f).time = s.time := rfl
@[simp] theorem State.updStream_peer (s : State) (n : StreamId) (f : StreamSt → StreamSt) : (s.updStream n f).peer = s.peer := rfl
@[simp] theorem State.updStream_tiu (s : State) (n : StreamId) (f : StreamSt → StreamSt) : (s.updStream n f).tiu = s.tiu := rfl
@[simp] theorem State.updStream_pcie (s : State) (n : StreamId) (f : StreamSt → StreamSt) : (s.updStream n f).pcie = s.pcie := rfl
@[simp] theorem State.updStream_rings (s : State) (n : StreamId) (f : StreamSt → StreamSt) : (s.updStream n f).rings = s.rings := rfl
@[simp] theorem State.updStream_proto (s : State) (n : StreamId) (f : StreamSt → StreamSt) : (s.updStream n f).proto = s.proto := rfl
@[simp] theorem State.updStream_params (s : State) (n : StreamId) (f : StreamSt → StreamSt) : (s.updStream n f).params = s.params := rfl
@[simp] theorem State.updStream_commits (s : State) (n : StreamId) (f : StreamSt → StreamSt) : (s.updStream n f).commits = s.commits := rfl
@[simp] theorem State.updStream_vat (s : State) (n : StreamId) (f : StreamSt → StreamSt) : (s.updStream n f).vat = s.vat := rfl
@[simp] theorem State.updStream_cellar (s : State) (n : StreamId) (f : StreamSt → StreamSt) : (s.updStream n f).cellar = s.cellar := rfl
@[simp] theorem State.updStream_power (s : State) (n : StreamId) (f : StreamSt → StreamSt) : (s.updStream n f).power = s.power := rfl
@[simp] theorem State.updStream_life (s : State) (n : StreamId) (f : StreamSt → StreamSt) : (s.updStream n f).life = s.life := rfl
@[simp] theorem State.updStream_core (s : State) (n : StreamId) (f : StreamSt → StreamSt) : (s.updStream n f).core = s.core := rfl
@[simp] theorem State.updStream_fe (s : State) (n : StreamId) (f : StreamSt → StreamSt) : (s.updStream n f).fe = s.fe := rfl
@[simp] theorem State.updStream_zones (s : State) (n : StreamId) (f : StreamSt → StreamSt) : (s.updStream n f).zones = s.zones := rfl
@[simp] theorem State.updStream_therm (s : State) (n : StreamId) (f : StreamSt → StreamSt) : (s.updStream n f).therm = s.therm := rfl
@[simp] theorem State.updStream_harv (s : State) (n : StreamId) (f : StreamSt → StreamSt) : (s.updStream n f).harv = s.harv := rfl
@[simp] theorem State.updStream_aux (s : State) (n : StreamId) (f : StreamSt → StreamSt) : (s.updStream n f).aux = s.aux := rfl
@[simp] theorem State.updStream_vint (s : State) (n : StreamId) (f : StreamSt → StreamSt) : (s.updStream n f).vint = s.vint := rfl
@[simp] theorem State.updStream_taster (s : State) (n : StreamId) (f : StreamSt → StreamSt) : (s.updStream n f).taster = s.taster := rfl
@[simp] theorem State.updStream_free (s : State) (n : StreamId) (f : StreamSt → StreamSt) : (s.updStream n f).free = s.free := rfl
@[simp] theorem State.updStream_out (s : State) (n : StreamId) (f : StreamSt → StreamSt) : (s.updStream n f).out = s.out := rfl
@[simp] theorem State.updStream_pending (s : State) (n : StreamId) (f : StreamSt → StreamSt) : (s.updStream n f).pending = s.pending := rfl

@[simp] theorem State.updTherm_time (s : State) (n : Fe) (f : ThermSt → ThermSt) : (s.updTherm n f).time = s.time := rfl
@[simp] theorem State.updTherm_peer (s : State) (n : Fe) (f : ThermSt → ThermSt) : (s.updTherm n f).peer = s.peer := rfl
@[simp] theorem State.updTherm_tiu (s : State) (n : Fe) (f : ThermSt → ThermSt) : (s.updTherm n f).tiu = s.tiu := rfl
@[simp] theorem State.updTherm_pcie (s : State) (n : Fe) (f : ThermSt → ThermSt) : (s.updTherm n f).pcie = s.pcie := rfl
@[simp] theorem State.updTherm_rings (s : State) (n : Fe) (f : ThermSt → ThermSt) : (s.updTherm n f).rings = s.rings := rfl
@[simp] theorem State.updTherm_proto (s : State) (n : Fe) (f : ThermSt → ThermSt) : (s.updTherm n f).proto = s.proto := rfl
@[simp] theorem State.updTherm_params (s : State) (n : Fe) (f : ThermSt → ThermSt) : (s.updTherm n f).params = s.params := rfl
@[simp] theorem State.updTherm_commits (s : State) (n : Fe) (f : ThermSt → ThermSt) : (s.updTherm n f).commits = s.commits := rfl
@[simp] theorem State.updTherm_vat (s : State) (n : Fe) (f : ThermSt → ThermSt) : (s.updTherm n f).vat = s.vat := rfl
@[simp] theorem State.updTherm_cellar (s : State) (n : Fe) (f : ThermSt → ThermSt) : (s.updTherm n f).cellar = s.cellar := rfl
@[simp] theorem State.updTherm_power (s : State) (n : Fe) (f : ThermSt → ThermSt) : (s.updTherm n f).power = s.power := rfl
@[simp] theorem State.updTherm_life (s : State) (n : Fe) (f : ThermSt → ThermSt) : (s.updTherm n f).life = s.life := rfl
@[simp] theorem State.updTherm_core (s : State) (n : Fe) (f : ThermSt → ThermSt) : (s.updTherm n f).core = s.core := rfl
@[simp] theorem State.updTherm_fe (s : State) (n : Fe) (f : ThermSt → ThermSt) : (s.updTherm n f).fe = s.fe := rfl
@[simp] theorem State.updTherm_stream (s : State) (n : Fe) (f : ThermSt → ThermSt) : (s.updTherm n f).stream = s.stream := rfl
@[simp] theorem State.updTherm_zones (s : State) (n : Fe) (f : ThermSt → ThermSt) : (s.updTherm n f).zones = s.zones := rfl
@[simp] theorem State.updTherm_harv (s : State) (n : Fe) (f : ThermSt → ThermSt) : (s.updTherm n f).harv = s.harv := rfl
@[simp] theorem State.updTherm_aux (s : State) (n : Fe) (f : ThermSt → ThermSt) : (s.updTherm n f).aux = s.aux := rfl
@[simp] theorem State.updTherm_vint (s : State) (n : Fe) (f : ThermSt → ThermSt) : (s.updTherm n f).vint = s.vint := rfl
@[simp] theorem State.updTherm_taster (s : State) (n : Fe) (f : ThermSt → ThermSt) : (s.updTherm n f).taster = s.taster := rfl
@[simp] theorem State.updTherm_free (s : State) (n : Fe) (f : ThermSt → ThermSt) : (s.updTherm n f).free = s.free := rfl
@[simp] theorem State.updTherm_out (s : State) (n : Fe) (f : ThermSt → ThermSt) : (s.updTherm n f).out = s.out := rfl
@[simp] theorem State.updTherm_pending (s : State) (n : Fe) (f : ThermSt → ThermSt) : (s.updTherm n f).pending = s.pending := rfl

@[simp] theorem State.updHarv_time (s : State) (n : Fin 4) (f : HarvSt → HarvSt) : (s.updHarv n f).time = s.time := rfl
@[simp] theorem State.updHarv_peer (s : State) (n : Fin 4) (f : HarvSt → HarvSt) : (s.updHarv n f).peer = s.peer := rfl
@[simp] theorem State.updHarv_tiu (s : State) (n : Fin 4) (f : HarvSt → HarvSt) : (s.updHarv n f).tiu = s.tiu := rfl
@[simp] theorem State.updHarv_pcie (s : State) (n : Fin 4) (f : HarvSt → HarvSt) : (s.updHarv n f).pcie = s.pcie := rfl
@[simp] theorem State.updHarv_rings (s : State) (n : Fin 4) (f : HarvSt → HarvSt) : (s.updHarv n f).rings = s.rings := rfl
@[simp] theorem State.updHarv_proto (s : State) (n : Fin 4) (f : HarvSt → HarvSt) : (s.updHarv n f).proto = s.proto := rfl
@[simp] theorem State.updHarv_params (s : State) (n : Fin 4) (f : HarvSt → HarvSt) : (s.updHarv n f).params = s.params := rfl
@[simp] theorem State.updHarv_commits (s : State) (n : Fin 4) (f : HarvSt → HarvSt) : (s.updHarv n f).commits = s.commits := rfl
@[simp] theorem State.updHarv_vat (s : State) (n : Fin 4) (f : HarvSt → HarvSt) : (s.updHarv n f).vat = s.vat := rfl
@[simp] theorem State.updHarv_cellar (s : State) (n : Fin 4) (f : HarvSt → HarvSt) : (s.updHarv n f).cellar = s.cellar := rfl
@[simp] theorem State.updHarv_power (s : State) (n : Fin 4) (f : HarvSt → HarvSt) : (s.updHarv n f).power = s.power := rfl
@[simp] theorem State.updHarv_life (s : State) (n : Fin 4) (f : HarvSt → HarvSt) : (s.updHarv n f).life = s.life := rfl
@[simp] theorem State.updHarv_core (s : State) (n : Fin 4) (f : HarvSt → HarvSt) : (s.updHarv n f).core = s.core := rfl
@[simp] theorem State.updHarv_fe (s : State) (n : Fin 4) (f : HarvSt → HarvSt) : (s.updHarv n f).fe = s.fe := rfl
@[simp] theorem State.updHarv_stream (s : State) (n : Fin 4) (f : HarvSt → HarvSt) : (s.updHarv n f).stream = s.stream := rfl
@[simp] theorem State.updHarv_zones (s : State) (n : Fin 4) (f : HarvSt → HarvSt) : (s.updHarv n f).zones = s.zones := rfl
@[simp] theorem State.updHarv_therm (s : State) (n : Fin 4) (f : HarvSt → HarvSt) : (s.updHarv n f).therm = s.therm := rfl
@[simp] theorem State.updHarv_aux (s : State) (n : Fin 4) (f : HarvSt → HarvSt) : (s.updHarv n f).aux = s.aux := rfl
@[simp] theorem State.updHarv_vint (s : State) (n : Fin 4) (f : HarvSt → HarvSt) : (s.updHarv n f).vint = s.vint := rfl
@[simp] theorem State.updHarv_taster (s : State) (n : Fin 4) (f : HarvSt → HarvSt) : (s.updHarv n f).taster = s.taster := rfl
@[simp] theorem State.updHarv_free (s : State) (n : Fin 4) (f : HarvSt → HarvSt) : (s.updHarv n f).free = s.free := rfl
@[simp] theorem State.updHarv_out (s : State) (n : Fin 4) (f : HarvSt → HarvSt) : (s.updHarv n f).out = s.out := rfl
@[simp] theorem State.updHarv_pending (s : State) (n : Fin 4) (f : HarvSt → HarvSt) : (s.updHarv n f).pending = s.pending := rfl

@[simp] theorem State.updCore_time (s : State) (n : CoreId) (f : Core → Core) : (s.updCore n f).time = s.time := rfl
@[simp] theorem State.updCore_peer (s : State) (n : CoreId) (f : Core → Core) : (s.updCore n f).peer = s.peer := rfl
@[simp] theorem State.updCore_tiu (s : State) (n : CoreId) (f : Core → Core) : (s.updCore n f).tiu = s.tiu := rfl
@[simp] theorem State.updCore_pcie (s : State) (n : CoreId) (f : Core → Core) : (s.updCore n f).pcie = s.pcie := rfl
@[simp] theorem State.updCore_rings (s : State) (n : CoreId) (f : Core → Core) : (s.updCore n f).rings = s.rings := rfl
@[simp] theorem State.updCore_proto (s : State) (n : CoreId) (f : Core → Core) : (s.updCore n f).proto = s.proto := rfl
@[simp] theorem State.updCore_params (s : State) (n : CoreId) (f : Core → Core) : (s.updCore n f).params = s.params := rfl
@[simp] theorem State.updCore_commits (s : State) (n : CoreId) (f : Core → Core) : (s.updCore n f).commits = s.commits := rfl
@[simp] theorem State.updCore_vat (s : State) (n : CoreId) (f : Core → Core) : (s.updCore n f).vat = s.vat := rfl
@[simp] theorem State.updCore_cellar (s : State) (n : CoreId) (f : Core → Core) : (s.updCore n f).cellar = s.cellar := rfl
@[simp] theorem State.updCore_power (s : State) (n : CoreId) (f : Core → Core) : (s.updCore n f).power = s.power := rfl
@[simp] theorem State.updCore_life (s : State) (n : CoreId) (f : Core → Core) : (s.updCore n f).life = s.life := rfl
@[simp] theorem State.updCore_fe (s : State) (n : CoreId) (f : Core → Core) : (s.updCore n f).fe = s.fe := rfl
@[simp] theorem State.updCore_stream (s : State) (n : CoreId) (f : Core → Core) : (s.updCore n f).stream = s.stream := rfl
@[simp] theorem State.updCore_zones (s : State) (n : CoreId) (f : Core → Core) : (s.updCore n f).zones = s.zones := rfl
@[simp] theorem State.updCore_therm (s : State) (n : CoreId) (f : Core → Core) : (s.updCore n f).therm = s.therm := rfl
@[simp] theorem State.updCore_harv (s : State) (n : CoreId) (f : Core → Core) : (s.updCore n f).harv = s.harv := rfl
@[simp] theorem State.updCore_aux (s : State) (n : CoreId) (f : Core → Core) : (s.updCore n f).aux = s.aux := rfl
@[simp] theorem State.updCore_vint (s : State) (n : CoreId) (f : Core → Core) : (s.updCore n f).vint = s.vint := rfl
@[simp] theorem State.updCore_taster (s : State) (n : CoreId) (f : Core → Core) : (s.updCore n f).taster = s.taster := rfl
@[simp] theorem State.updCore_free (s : State) (n : CoreId) (f : Core → Core) : (s.updCore n f).free = s.free := rfl
@[simp] theorem State.updCore_out (s : State) (n : CoreId) (f : Core → Core) : (s.updCore n f).out = s.out := rfl
@[simp] theorem State.updCore_pending (s : State) (n : CoreId) (f : Core → Core) : (s.updCore n f).pending = s.pending := rfl

@[simp] theorem State.updRail_time (s : State) (n : Fin 4) (f : Rail → Rail) : (s.updRail n f).time = s.time := rfl
@[simp] theorem State.updRail_peer (s : State) (n : Fin 4) (f : Rail → Rail) : (s.updRail n f).peer = s.peer := rfl
@[simp] theorem State.updRail_tiu (s : State) (n : Fin 4) (f : Rail → Rail) : (s.updRail n f).tiu = s.tiu := rfl
@[simp] theorem State.updRail_pcie (s : State) (n : Fin 4) (f : Rail → Rail) : (s.updRail n f).pcie = s.pcie := rfl
@[simp] theorem State.updRail_rings (s : State) (n : Fin 4) (f : Rail → Rail) : (s.updRail n f).rings = s.rings := rfl
@[simp] theorem State.updRail_proto (s : State) (n : Fin 4) (f : Rail → Rail) : (s.updRail n f).proto = s.proto := rfl
@[simp] theorem State.updRail_params (s : State) (n : Fin 4) (f : Rail → Rail) : (s.updRail n f).params = s.params := rfl
@[simp] theorem State.updRail_commits (s : State) (n : Fin 4) (f : Rail → Rail) : (s.updRail n f).commits = s.commits := rfl
@[simp] theorem State.updRail_vat (s : State) (n : Fin 4) (f : Rail → Rail) : (s.updRail n f).vat = s.vat := rfl
@[simp] theorem State.updRail_cellar (s : State) (n : Fin 4) (f : Rail → Rail) : (s.updRail n f).cellar = s.cellar := rfl
@[simp] theorem State.updRail_life (s : State) (n : Fin 4) (f : Rail → Rail) : (s.updRail n f).life = s.life := rfl
@[simp] theorem State.updRail_core (s : State) (n : Fin 4) (f : Rail → Rail) : (s.updRail n f).core = s.core := rfl
@[simp] theorem State.updRail_fe (s : State) (n : Fin 4) (f : Rail → Rail) : (s.updRail n f).fe = s.fe := rfl
@[simp] theorem State.updRail_stream (s : State) (n : Fin 4) (f : Rail → Rail) : (s.updRail n f).stream = s.stream := rfl
@[simp] theorem State.updRail_zones (s : State) (n : Fin 4) (f : Rail → Rail) : (s.updRail n f).zones = s.zones := rfl
@[simp] theorem State.updRail_therm (s : State) (n : Fin 4) (f : Rail → Rail) : (s.updRail n f).therm = s.therm := rfl
@[simp] theorem State.updRail_harv (s : State) (n : Fin 4) (f : Rail → Rail) : (s.updRail n f).harv = s.harv := rfl
@[simp] theorem State.updRail_aux (s : State) (n : Fin 4) (f : Rail → Rail) : (s.updRail n f).aux = s.aux := rfl
@[simp] theorem State.updRail_vint (s : State) (n : Fin 4) (f : Rail → Rail) : (s.updRail n f).vint = s.vint := rfl
@[simp] theorem State.updRail_taster (s : State) (n : Fin 4) (f : Rail → Rail) : (s.updRail n f).taster = s.taster := rfl
@[simp] theorem State.updRail_free (s : State) (n : Fin 4) (f : Rail → Rail) : (s.updRail n f).free = s.free := rfl
@[simp] theorem State.updRail_out (s : State) (n : Fin 4) (f : Rail → Rail) : (s.updRail n f).out = s.out := rfl
@[simp] theorem State.updRail_pending (s : State) (n : Fin 4) (f : Rail → Rail) : (s.updRail n f).pending = s.pending := rfl

@[simp] theorem State.noteIdle_time (s : State) : (s.noteIdle).time = s.time := rfl
@[simp] theorem State.noteIdle_peer (s : State) : (s.noteIdle).peer = s.peer := rfl
@[simp] theorem State.noteIdle_tiu (s : State) : (s.noteIdle).tiu = s.tiu := rfl
@[simp] theorem State.noteIdle_pcie (s : State) : (s.noteIdle).pcie = s.pcie := rfl
@[simp] theorem State.noteIdle_rings (s : State) : (s.noteIdle).rings = s.rings := rfl
@[simp] theorem State.noteIdle_proto (s : State) : (s.noteIdle).proto = s.proto := rfl
@[simp] theorem State.noteIdle_params (s : State) : (s.noteIdle).params = s.params := rfl
@[simp] theorem State.noteIdle_commits (s : State) : (s.noteIdle).commits = s.commits := rfl
@[simp] theorem State.noteIdle_vat (s : State) : (s.noteIdle).vat = s.vat := rfl
@[simp] theorem State.noteIdle_cellar (s : State) : (s.noteIdle).cellar = s.cellar := rfl
@[simp] theorem State.noteIdle_life (s : State) : (s.noteIdle).life = s.life := rfl
@[simp] theorem State.noteIdle_core (s : State) : (s.noteIdle).core = s.core := rfl
@[simp] theorem State.noteIdle_fe (s : State) : (s.noteIdle).fe = s.fe := rfl
@[simp] theorem State.noteIdle_stream (s : State) : (s.noteIdle).stream = s.stream := rfl
@[simp] theorem State.noteIdle_zones (s : State) : (s.noteIdle).zones = s.zones := rfl
@[simp] theorem State.noteIdle_therm (s : State) : (s.noteIdle).therm = s.therm := rfl
@[simp] theorem State.noteIdle_harv (s : State) : (s.noteIdle).harv = s.harv := rfl
@[simp] theorem State.noteIdle_aux (s : State) : (s.noteIdle).aux = s.aux := rfl
@[simp] theorem State.noteIdle_vint (s : State) : (s.noteIdle).vint = s.vint := rfl
@[simp] theorem State.noteIdle_taster (s : State) : (s.noteIdle).taster = s.taster := rfl
@[simp] theorem State.noteIdle_free (s : State) : (s.noteIdle).free = s.free := rfl
@[simp] theorem State.noteIdle_out (s : State) : (s.noteIdle).out = s.out := rfl
@[simp] theorem State.noteIdle_pending (s : State) : (s.noteIdle).pending = s.pending := rfl

@[simp] theorem State.pin_time (s : State) (p : Pin) (l : Bool) : (s.pin p l).time = s.time := rfl
@[simp] theorem State.pin_peer (s : State) (p : Pin) (l : Bool) : (s.pin p l).peer = s.peer := rfl
@[simp] theorem State.pin_tiu (s : State) (p : Pin) (l : Bool) : (s.pin p l).tiu = s.tiu := rfl
@[simp] theorem State.pin_pcie (s : State) (p : Pin) (l : Bool) : (s.pin p l).pcie = s.pcie := rfl
@[simp] theorem State.pin_rings (s : State) (p : Pin) (l : Bool) : (s.pin p l).rings = s.rings := rfl
@[simp] theorem State.pin_proto (s : State) (p : Pin) (l : Bool) : (s.pin p l).proto = s.proto := rfl
@[simp] theorem State.pin_params (s : State) (p : Pin) (l : Bool) : (s.pin p l).params = s.params := rfl
@[simp] theorem State.pin_commits (s : State) (p : Pin) (l : Bool) : (s.pin p l).commits = s.commits := rfl
@[simp] theorem State.pin_vat (s : State) (p : Pin) (l : Bool) : (s.pin p l).vat = s.vat := rfl
@[simp] theorem State.pin_cellar (s : State) (p : Pin) (l : Bool) : (s.pin p l).cellar = s.cellar := rfl
@[simp] theorem State.pin_power (s : State) (p : Pin) (l : Bool) : (s.pin p l).power = s.power := rfl
@[simp] theorem State.pin_life (s : State) (p : Pin) (l : Bool) : (s.pin p l).life = s.life := rfl
@[simp] theorem State.pin_core (s : State) (p : Pin) (l : Bool) : (s.pin p l).core = s.core := rfl
@[simp] theorem State.pin_fe (s : State) (p : Pin) (l : Bool) : (s.pin p l).fe = s.fe := rfl
@[simp] theorem State.pin_stream (s : State) (p : Pin) (l : Bool) : (s.pin p l).stream = s.stream := rfl
@[simp] theorem State.pin_zones (s : State) (p : Pin) (l : Bool) : (s.pin p l).zones = s.zones := rfl
@[simp] theorem State.pin_therm (s : State) (p : Pin) (l : Bool) : (s.pin p l).therm = s.therm := rfl
@[simp] theorem State.pin_harv (s : State) (p : Pin) (l : Bool) : (s.pin p l).harv = s.harv := rfl
@[simp] theorem State.pin_aux (s : State) (p : Pin) (l : Bool) : (s.pin p l).aux = s.aux := rfl
@[simp] theorem State.pin_vint (s : State) (p : Pin) (l : Bool) : (s.pin p l).vint = s.vint := rfl
@[simp] theorem State.pin_taster (s : State) (p : Pin) (l : Bool) : (s.pin p l).taster = s.taster := rfl
@[simp] theorem State.pin_free (s : State) (p : Pin) (l : Bool) : (s.pin p l).free = s.free := rfl
@[simp] theorem State.pin_pending (s : State) (p : Pin) (l : Bool) : (s.pin p l).pending = s.pending := rfl

@[simp] theorem State.setShad_time (s : State) (b : BlockId) (v : List Word) : (s.setShad b v).time = s.time := rfl
@[simp] theorem State.setShad_peer (s : State) (b : BlockId) (v : List Word) : (s.setShad b v).peer = s.peer := rfl
@[simp] theorem State.setShad_tiu (s : State) (b : BlockId) (v : List Word) : (s.setShad b v).tiu = s.tiu := rfl
@[simp] theorem State.setShad_pcie (s : State) (b : BlockId) (v : List Word) : (s.setShad b v).pcie = s.pcie := rfl
@[simp] theorem State.setShad_rings (s : State) (b : BlockId) (v : List Word) : (s.setShad b v).rings = s.rings := rfl
@[simp] theorem State.setShad_proto (s : State) (b : BlockId) (v : List Word) : (s.setShad b v).proto = s.proto := rfl
@[simp] theorem State.setShad_commits (s : State) (b : BlockId) (v : List Word) : (s.setShad b v).commits = s.commits := rfl
@[simp] theorem State.setShad_vat (s : State) (b : BlockId) (v : List Word) : (s.setShad b v).vat = s.vat := rfl
@[simp] theorem State.setShad_cellar (s : State) (b : BlockId) (v : List Word) : (s.setShad b v).cellar = s.cellar := rfl
@[simp] theorem State.setShad_power (s : State) (b : BlockId) (v : List Word) : (s.setShad b v).power = s.power := rfl
@[simp] theorem State.setShad_life (s : State) (b : BlockId) (v : List Word) : (s.setShad b v).life = s.life := rfl
@[simp] theorem State.setShad_core (s : State) (b : BlockId) (v : List Word) : (s.setShad b v).core = s.core := rfl
@[simp] theorem State.setShad_fe (s : State) (b : BlockId) (v : List Word) : (s.setShad b v).fe = s.fe := rfl
@[simp] theorem State.setShad_stream (s : State) (b : BlockId) (v : List Word) : (s.setShad b v).stream = s.stream := rfl
@[simp] theorem State.setShad_zones (s : State) (b : BlockId) (v : List Word) : (s.setShad b v).zones = s.zones := rfl
@[simp] theorem State.setShad_therm (s : State) (b : BlockId) (v : List Word) : (s.setShad b v).therm = s.therm := rfl
@[simp] theorem State.setShad_harv (s : State) (b : BlockId) (v : List Word) : (s.setShad b v).harv = s.harv := rfl
@[simp] theorem State.setShad_aux (s : State) (b : BlockId) (v : List Word) : (s.setShad b v).aux = s.aux := rfl
@[simp] theorem State.setShad_vint (s : State) (b : BlockId) (v : List Word) : (s.setShad b v).vint = s.vint := rfl
@[simp] theorem State.setShad_taster (s : State) (b : BlockId) (v : List Word) : (s.setShad b v).taster = s.taster := rfl
@[simp] theorem State.setShad_free (s : State) (b : BlockId) (v : List Word) : (s.setShad b v).free = s.free := rfl
@[simp] theorem State.setShad_out (s : State) (b : BlockId) (v : List Word) : (s.setShad b v).out = s.out := rfl
@[simp] theorem State.setShad_pending (s : State) (b : BlockId) (v : List Word) : (s.setShad b v).pending = s.pending := rfl

@[simp] theorem State.setAct_time (s : State) (b : BlockId) (v : List Word) : (s.setAct b v).time = s.time := rfl
@[simp] theorem State.setAct_peer (s : State) (b : BlockId) (v : List Word) : (s.setAct b v).peer = s.peer := rfl
@[simp] theorem State.setAct_tiu (s : State) (b : BlockId) (v : List Word) : (s.setAct b v).tiu = s.tiu := rfl
@[simp] theorem State.setAct_pcie (s : State) (b : BlockId) (v : List Word) : (s.setAct b v).pcie = s.pcie := rfl
@[simp] theorem State.setAct_rings (s : State) (b : BlockId) (v : List Word) : (s.setAct b v).rings = s.rings := rfl
@[simp] theorem State.setAct_proto (s : State) (b : BlockId) (v : List Word) : (s.setAct b v).proto = s.proto := rfl
@[simp] theorem State.setAct_commits (s : State) (b : BlockId) (v : List Word) : (s.setAct b v).commits = s.commits := rfl
@[simp] theorem State.setAct_vat (s : State) (b : BlockId) (v : List Word) : (s.setAct b v).vat = s.vat := rfl
@[simp] theorem State.setAct_cellar (s : State) (b : BlockId) (v : List Word) : (s.setAct b v).cellar = s.cellar := rfl
@[simp] theorem State.setAct_power (s : State) (b : BlockId) (v : List Word) : (s.setAct b v).power = s.power := rfl
@[simp] theorem State.setAct_life (s : State) (b : BlockId) (v : List Word) : (s.setAct b v).life = s.life := rfl
@[simp] theorem State.setAct_core (s : State) (b : BlockId) (v : List Word) : (s.setAct b v).core = s.core := rfl
@[simp] theorem State.setAct_fe (s : State) (b : BlockId) (v : List Word) : (s.setAct b v).fe = s.fe := rfl
@[simp] theorem State.setAct_stream (s : State) (b : BlockId) (v : List Word) : (s.setAct b v).stream = s.stream := rfl
@[simp] theorem State.setAct_zones (s : State) (b : BlockId) (v : List Word) : (s.setAct b v).zones = s.zones := rfl
@[simp] theorem State.setAct_therm (s : State) (b : BlockId) (v : List Word) : (s.setAct b v).therm = s.therm := rfl
@[simp] theorem State.setAct_harv (s : State) (b : BlockId) (v : List Word) : (s.setAct b v).harv = s.harv := rfl
@[simp] theorem State.setAct_aux (s : State) (b : BlockId) (v : List Word) : (s.setAct b v).aux = s.aux := rfl
@[simp] theorem State.setAct_vint (s : State) (b : BlockId) (v : List Word) : (s.setAct b v).vint = s.vint := rfl
@[simp] theorem State.setAct_taster (s : State) (b : BlockId) (v : List Word) : (s.setAct b v).taster = s.taster := rfl
@[simp] theorem State.setAct_free (s : State) (b : BlockId) (v : List Word) : (s.setAct b v).free = s.free := rfl
@[simp] theorem State.setAct_out (s : State) (b : BlockId) (v : List Word) : (s.setAct b v).out = s.out := rfl
@[simp] theorem State.setAct_pending (s : State) (b : BlockId) (v : List Word) : (s.setAct b v).pending = s.pending := rfl

@[simp] theorem State.seqEvent_time (s : State) (ev : SeqEvent) : (s.seqEvent ev).time = s.time := rfl
@[simp] theorem State.seqEvent_peer (s : State) (ev : SeqEvent) : (s.seqEvent ev).peer = s.peer := rfl
@[simp] theorem State.seqEvent_tiu (s : State) (ev : SeqEvent) : (s.seqEvent ev).tiu = s.tiu := rfl
@[simp] theorem State.seqEvent_pcie (s : State) (ev : SeqEvent) : (s.seqEvent ev).pcie = s.pcie := rfl
@[simp] theorem State.seqEvent_rings (s : State) (ev : SeqEvent) : (s.seqEvent ev).rings = s.rings := rfl
@[simp] theorem State.seqEvent_proto (s : State) (ev : SeqEvent) : (s.seqEvent ev).proto = s.proto := rfl
@[simp] theorem State.seqEvent_params (s : State) (ev : SeqEvent) : (s.seqEvent ev).params = s.params := rfl
@[simp] theorem State.seqEvent_commits (s : State) (ev : SeqEvent) : (s.seqEvent ev).commits = s.commits := rfl
@[simp] theorem State.seqEvent_vat (s : State) (ev : SeqEvent) : (s.seqEvent ev).vat = s.vat := rfl
@[simp] theorem State.seqEvent_cellar (s : State) (ev : SeqEvent) : (s.seqEvent ev).cellar = s.cellar := rfl
@[simp] theorem State.seqEvent_power (s : State) (ev : SeqEvent) : (s.seqEvent ev).power = s.power := rfl
@[simp] theorem State.seqEvent_life (s : State) (ev : SeqEvent) : (s.seqEvent ev).life = s.life := rfl
@[simp] theorem State.seqEvent_core (s : State) (ev : SeqEvent) : (s.seqEvent ev).core = s.core := rfl
@[simp] theorem State.seqEvent_fe (s : State) (ev : SeqEvent) : (s.seqEvent ev).fe = s.fe := rfl
@[simp] theorem State.seqEvent_stream (s : State) (ev : SeqEvent) : (s.seqEvent ev).stream = s.stream := rfl
@[simp] theorem State.seqEvent_zones (s : State) (ev : SeqEvent) : (s.seqEvent ev).zones = s.zones := rfl
@[simp] theorem State.seqEvent_therm (s : State) (ev : SeqEvent) : (s.seqEvent ev).therm = s.therm := rfl
@[simp] theorem State.seqEvent_aux (s : State) (ev : SeqEvent) : (s.seqEvent ev).aux = s.aux := rfl
@[simp] theorem State.seqEvent_vint (s : State) (ev : SeqEvent) : (s.seqEvent ev).vint = s.vint := rfl
@[simp] theorem State.seqEvent_taster (s : State) (ev : SeqEvent) : (s.seqEvent ev).taster = s.taster := rfl
@[simp] theorem State.seqEvent_free (s : State) (ev : SeqEvent) : (s.seqEvent ev).free = s.free := rfl
@[simp] theorem State.seqEvent_out (s : State) (ev : SeqEvent) : (s.seqEvent ev).out = s.out := rfl
@[simp] theorem State.seqEvent_pending (s : State) (ev : SeqEvent) : (s.seqEvent ev).pending = s.pending := rfl

@[simp] theorem State.updSession_time (s : State) (id : BitVec 8) (f : Session → Session) : (s.updSession id f).time = s.time := rfl
@[simp] theorem State.updSession_peer (s : State) (id : BitVec 8) (f : Session → Session) : (s.updSession id f).peer = s.peer := rfl
@[simp] theorem State.updSession_tiu (s : State) (id : BitVec 8) (f : Session → Session) : (s.updSession id f).tiu = s.tiu := rfl
@[simp] theorem State.updSession_pcie (s : State) (id : BitVec 8) (f : Session → Session) : (s.updSession id f).pcie = s.pcie := rfl
@[simp] theorem State.updSession_rings (s : State) (id : BitVec 8) (f : Session → Session) : (s.updSession id f).rings = s.rings := rfl
@[simp] theorem State.updSession_params (s : State) (id : BitVec 8) (f : Session → Session) : (s.updSession id f).params = s.params := rfl
@[simp] theorem State.updSession_commits (s : State) (id : BitVec 8) (f : Session → Session) : (s.updSession id f).commits = s.commits := rfl
@[simp] theorem State.updSession_vat (s : State) (id : BitVec 8) (f : Session → Session) : (s.updSession id f).vat = s.vat := rfl
@[simp] theorem State.updSession_cellar (s : State) (id : BitVec 8) (f : Session → Session) : (s.updSession id f).cellar = s.cellar := rfl
@[simp] theorem State.updSession_power (s : State) (id : BitVec 8) (f : Session → Session) : (s.updSession id f).power = s.power := rfl
@[simp] theorem State.updSession_life (s : State) (id : BitVec 8) (f : Session → Session) : (s.updSession id f).life = s.life := rfl
@[simp] theorem State.updSession_core (s : State) (id : BitVec 8) (f : Session → Session) : (s.updSession id f).core = s.core := rfl
@[simp] theorem State.updSession_fe (s : State) (id : BitVec 8) (f : Session → Session) : (s.updSession id f).fe = s.fe := rfl
@[simp] theorem State.updSession_stream (s : State) (id : BitVec 8) (f : Session → Session) : (s.updSession id f).stream = s.stream := rfl
@[simp] theorem State.updSession_zones (s : State) (id : BitVec 8) (f : Session → Session) : (s.updSession id f).zones = s.zones := rfl
@[simp] theorem State.updSession_therm (s : State) (id : BitVec 8) (f : Session → Session) : (s.updSession id f).therm = s.therm := rfl
@[simp] theorem State.updSession_harv (s : State) (id : BitVec 8) (f : Session → Session) : (s.updSession id f).harv = s.harv := rfl
@[simp] theorem State.updSession_aux (s : State) (id : BitVec 8) (f : Session → Session) : (s.updSession id f).aux = s.aux := rfl
@[simp] theorem State.updSession_vint (s : State) (id : BitVec 8) (f : Session → Session) : (s.updSession id f).vint = s.vint := rfl
@[simp] theorem State.updSession_taster (s : State) (id : BitVec 8) (f : Session → Session) : (s.updSession id f).taster = s.taster := rfl
@[simp] theorem State.updSession_free (s : State) (id : BitVec 8) (f : Session → Session) : (s.updSession id f).free = s.free := rfl
@[simp] theorem State.updSession_out (s : State) (id : BitVec 8) (f : Session → Session) : (s.updSession id f).out = s.out := rfl
@[simp] theorem State.updSession_pending (s : State) (id : BitVec 8) (f : Session → Session) : (s.updSession id f).pending = s.pending := rfl

@[simp] theorem State.addOp_time (s : State) (r : Req) (k : OpKind) (e : Bool) : (s.addOp r k e).time = s.time := rfl
@[simp] theorem State.addOp_peer (s : State) (r : Req) (k : OpKind) (e : Bool) : (s.addOp r k e).peer = s.peer := rfl
@[simp] theorem State.addOp_tiu (s : State) (r : Req) (k : OpKind) (e : Bool) : (s.addOp r k e).tiu = s.tiu := rfl
@[simp] theorem State.addOp_pcie (s : State) (r : Req) (k : OpKind) (e : Bool) : (s.addOp r k e).pcie = s.pcie := rfl
@[simp] theorem State.addOp_rings (s : State) (r : Req) (k : OpKind) (e : Bool) : (s.addOp r k e).rings = s.rings := rfl
@[simp] theorem State.addOp_params (s : State) (r : Req) (k : OpKind) (e : Bool) : (s.addOp r k e).params = s.params := rfl
@[simp] theorem State.addOp_commits (s : State) (r : Req) (k : OpKind) (e : Bool) : (s.addOp r k e).commits = s.commits := rfl
@[simp] theorem State.addOp_vat (s : State) (r : Req) (k : OpKind) (e : Bool) : (s.addOp r k e).vat = s.vat := rfl
@[simp] theorem State.addOp_cellar (s : State) (r : Req) (k : OpKind) (e : Bool) : (s.addOp r k e).cellar = s.cellar := rfl
@[simp] theorem State.addOp_power (s : State) (r : Req) (k : OpKind) (e : Bool) : (s.addOp r k e).power = s.power := rfl
@[simp] theorem State.addOp_life (s : State) (r : Req) (k : OpKind) (e : Bool) : (s.addOp r k e).life = s.life := rfl
@[simp] theorem State.addOp_core (s : State) (r : Req) (k : OpKind) (e : Bool) : (s.addOp r k e).core = s.core := rfl
@[simp] theorem State.addOp_fe (s : State) (r : Req) (k : OpKind) (e : Bool) : (s.addOp r k e).fe = s.fe := rfl
@[simp] theorem State.addOp_stream (s : State) (r : Req) (k : OpKind) (e : Bool) : (s.addOp r k e).stream = s.stream := rfl
@[simp] theorem State.addOp_zones (s : State) (r : Req) (k : OpKind) (e : Bool) : (s.addOp r k e).zones = s.zones := rfl
@[simp] theorem State.addOp_therm (s : State) (r : Req) (k : OpKind) (e : Bool) : (s.addOp r k e).therm = s.therm := rfl
@[simp] theorem State.addOp_harv (s : State) (r : Req) (k : OpKind) (e : Bool) : (s.addOp r k e).harv = s.harv := rfl
@[simp] theorem State.addOp_aux (s : State) (r : Req) (k : OpKind) (e : Bool) : (s.addOp r k e).aux = s.aux := rfl
@[simp] theorem State.addOp_vint (s : State) (r : Req) (k : OpKind) (e : Bool) : (s.addOp r k e).vint = s.vint := rfl
@[simp] theorem State.addOp_taster (s : State) (r : Req) (k : OpKind) (e : Bool) : (s.addOp r k e).taster = s.taster := rfl
@[simp] theorem State.addOp_free (s : State) (r : Req) (k : OpKind) (e : Bool) : (s.addOp r k e).free = s.free := rfl
@[simp] theorem State.addOp_out (s : State) (r : Req) (k : OpKind) (e : Bool) : (s.addOp r k e).out = s.out := rfl
@[simp] theorem State.addOp_pending (s : State) (r : Req) (k : OpKind) (e : Bool) : (s.addOp r k e).pending = s.pending := rfl

@[simp] theorem State.ringPush_time (s : State) (n : RingId) (i : Item) : (s.ringPush n i).time = s.time := rfl
@[simp] theorem State.ringPush_peer (s : State) (n : RingId) (i : Item) : (s.ringPush n i).peer = s.peer := rfl
@[simp] theorem State.ringPush_tiu (s : State) (n : RingId) (i : Item) : (s.ringPush n i).tiu = s.tiu := rfl
@[simp] theorem State.ringPush_pcie (s : State) (n : RingId) (i : Item) : (s.ringPush n i).pcie = s.pcie := rfl
@[simp] theorem State.ringPush_proto (s : State) (n : RingId) (i : Item) : (s.ringPush n i).proto = s.proto := rfl
@[simp] theorem State.ringPush_params (s : State) (n : RingId) (i : Item) : (s.ringPush n i).params = s.params := rfl
@[simp] theorem State.ringPush_commits (s : State) (n : RingId) (i : Item) : (s.ringPush n i).commits = s.commits := rfl
@[simp] theorem State.ringPush_vat (s : State) (n : RingId) (i : Item) : (s.ringPush n i).vat = s.vat := rfl
@[simp] theorem State.ringPush_cellar (s : State) (n : RingId) (i : Item) : (s.ringPush n i).cellar = s.cellar := rfl
@[simp] theorem State.ringPush_power (s : State) (n : RingId) (i : Item) : (s.ringPush n i).power = s.power := rfl
@[simp] theorem State.ringPush_life (s : State) (n : RingId) (i : Item) : (s.ringPush n i).life = s.life := rfl
@[simp] theorem State.ringPush_core (s : State) (n : RingId) (i : Item) : (s.ringPush n i).core = s.core := rfl
@[simp] theorem State.ringPush_fe (s : State) (n : RingId) (i : Item) : (s.ringPush n i).fe = s.fe := rfl
@[simp] theorem State.ringPush_stream (s : State) (n : RingId) (i : Item) : (s.ringPush n i).stream = s.stream := rfl
@[simp] theorem State.ringPush_zones (s : State) (n : RingId) (i : Item) : (s.ringPush n i).zones = s.zones := rfl
@[simp] theorem State.ringPush_therm (s : State) (n : RingId) (i : Item) : (s.ringPush n i).therm = s.therm := rfl
@[simp] theorem State.ringPush_harv (s : State) (n : RingId) (i : Item) : (s.ringPush n i).harv = s.harv := rfl
@[simp] theorem State.ringPush_aux (s : State) (n : RingId) (i : Item) : (s.ringPush n i).aux = s.aux := rfl
@[simp] theorem State.ringPush_vint (s : State) (n : RingId) (i : Item) : (s.ringPush n i).vint = s.vint := rfl
@[simp] theorem State.ringPush_taster (s : State) (n : RingId) (i : Item) : (s.ringPush n i).taster = s.taster := rfl
@[simp] theorem State.ringPush_free (s : State) (n : RingId) (i : Item) : (s.ringPush n i).free = s.free := rfl
@[simp] theorem State.ringPush_out (s : State) (n : RingId) (i : Item) : (s.ringPush n i).out = s.out := rfl
@[simp] theorem State.ringPush_pending (s : State) (n : RingId) (i : Item) : (s.ringPush n i).pending = s.pending := rfl

/-- What goes out is appended in front. -/
@[simp] theorem State.emit_out (s : State) (o : Out) : (s.emit o).out = o :: s.out := rfl

/-- The clock never moves back. -/
@[simp] theorem State.goTo_clk (s : State) (t : Nat) : (s.goTo t).time.clk = max s.time.clk t := rfl

@[simp] theorem State.message_time (s : State) (v : Fin 64) : (s.message v).time = s.time := by
  unfold State.message; (repeat' split) <;> rfl
@[simp] theorem State.raise_time (s : State) (v : Fin 64) : (s.raise v).time = s.time := by simp [State.raise]
@[simp] theorem State.message_peer (s : State) (v : Fin 64) : (s.message v).peer = s.peer := by
  unfold State.message; (repeat' split) <;> rfl
@[simp] theorem State.raise_peer (s : State) (v : Fin 64) : (s.raise v).peer = s.peer := by simp [State.raise]
@[simp] theorem State.message_tiu (s : State) (v : Fin 64) : (s.message v).tiu = s.tiu := by
  unfold State.message; (repeat' split) <;> rfl
@[simp] theorem State.raise_tiu (s : State) (v : Fin 64) : (s.raise v).tiu = s.tiu := by simp [State.raise]
@[simp] theorem State.message_rings (s : State) (v : Fin 64) : (s.message v).rings = s.rings := by
  unfold State.message; (repeat' split) <;> rfl
@[simp] theorem State.raise_rings (s : State) (v : Fin 64) : (s.raise v).rings = s.rings := by simp [State.raise]
@[simp] theorem State.message_proto (s : State) (v : Fin 64) : (s.message v).proto = s.proto := by
  unfold State.message; (repeat' split) <;> rfl
@[simp] theorem State.raise_proto (s : State) (v : Fin 64) : (s.raise v).proto = s.proto := by simp [State.raise]
@[simp] theorem State.message_params (s : State) (v : Fin 64) : (s.message v).params = s.params := by
  unfold State.message; (repeat' split) <;> rfl
@[simp] theorem State.raise_params (s : State) (v : Fin 64) : (s.raise v).params = s.params := by simp [State.raise]
@[simp] theorem State.message_commits (s : State) (v : Fin 64) : (s.message v).commits = s.commits := by
  unfold State.message; (repeat' split) <;> rfl
@[simp] theorem State.raise_commits (s : State) (v : Fin 64) : (s.raise v).commits = s.commits := by simp [State.raise]
@[simp] theorem State.message_vat (s : State) (v : Fin 64) : (s.message v).vat = s.vat := by
  unfold State.message; (repeat' split) <;> rfl
@[simp] theorem State.raise_vat (s : State) (v : Fin 64) : (s.raise v).vat = s.vat := by simp [State.raise]
@[simp] theorem State.message_cellar (s : State) (v : Fin 64) : (s.message v).cellar = s.cellar := by
  unfold State.message; (repeat' split) <;> rfl
@[simp] theorem State.raise_cellar (s : State) (v : Fin 64) : (s.raise v).cellar = s.cellar := by simp [State.raise]
@[simp] theorem State.message_power (s : State) (v : Fin 64) : (s.message v).power = s.power := by
  unfold State.message; (repeat' split) <;> rfl
@[simp] theorem State.raise_power (s : State) (v : Fin 64) : (s.raise v).power = s.power := by simp [State.raise]
@[simp] theorem State.message_life (s : State) (v : Fin 64) : (s.message v).life = s.life := by
  unfold State.message; (repeat' split) <;> rfl
@[simp] theorem State.raise_life (s : State) (v : Fin 64) : (s.raise v).life = s.life := by simp [State.raise]
@[simp] theorem State.message_core (s : State) (v : Fin 64) : (s.message v).core = s.core := by
  unfold State.message; (repeat' split) <;> rfl
@[simp] theorem State.raise_core (s : State) (v : Fin 64) : (s.raise v).core = s.core := by simp [State.raise]
@[simp] theorem State.message_fe (s : State) (v : Fin 64) : (s.message v).fe = s.fe := by
  unfold State.message; (repeat' split) <;> rfl
@[simp] theorem State.raise_fe (s : State) (v : Fin 64) : (s.raise v).fe = s.fe := by simp [State.raise]
@[simp] theorem State.message_stream (s : State) (v : Fin 64) : (s.message v).stream = s.stream := by
  unfold State.message; (repeat' split) <;> rfl
@[simp] theorem State.raise_stream (s : State) (v : Fin 64) : (s.raise v).stream = s.stream := by simp [State.raise]
@[simp] theorem State.message_zones (s : State) (v : Fin 64) : (s.message v).zones = s.zones := by
  unfold State.message; (repeat' split) <;> rfl
@[simp] theorem State.raise_zones (s : State) (v : Fin 64) : (s.raise v).zones = s.zones := by simp [State.raise]
@[simp] theorem State.message_therm (s : State) (v : Fin 64) : (s.message v).therm = s.therm := by
  unfold State.message; (repeat' split) <;> rfl
@[simp] theorem State.raise_therm (s : State) (v : Fin 64) : (s.raise v).therm = s.therm := by simp [State.raise]
@[simp] theorem State.message_harv (s : State) (v : Fin 64) : (s.message v).harv = s.harv := by
  unfold State.message; (repeat' split) <;> rfl
@[simp] theorem State.raise_harv (s : State) (v : Fin 64) : (s.raise v).harv = s.harv := by simp [State.raise]
@[simp] theorem State.message_aux (s : State) (v : Fin 64) : (s.message v).aux = s.aux := by
  unfold State.message; (repeat' split) <;> rfl
@[simp] theorem State.raise_aux (s : State) (v : Fin 64) : (s.raise v).aux = s.aux := by simp [State.raise]
@[simp] theorem State.message_vint (s : State) (v : Fin 64) : (s.message v).vint = s.vint := by
  unfold State.message; (repeat' split) <;> rfl
@[simp] theorem State.raise_vint (s : State) (v : Fin 64) : (s.raise v).vint = s.vint := by simp [State.raise]
@[simp] theorem State.message_taster (s : State) (v : Fin 64) : (s.message v).taster = s.taster := by
  unfold State.message; (repeat' split) <;> rfl
@[simp] theorem State.raise_taster (s : State) (v : Fin 64) : (s.raise v).taster = s.taster := by simp [State.raise]
@[simp] theorem State.message_free (s : State) (v : Fin 64) : (s.message v).free = s.free := by
  unfold State.message; (repeat' split) <;> rfl
@[simp] theorem State.raise_free (s : State) (v : Fin 64) : (s.raise v).free = s.free := by simp [State.raise]
@[simp] theorem State.message_pending (s : State) (v : Fin 64) : (s.message v).pending = s.pending := by
  unfold State.message; (repeat' split) <;> rfl
@[simp] theorem State.raise_pending (s : State) (v : Fin 64) : (s.raise v).pending = s.pending := by simp [State.raise]

end Sys2Proof.Machine
end

