-- ==== Sys2Proof/Laws/Protocol.lean ====
section
/-! SUPPORT. What an answer can change, and what the runner of the opcodes does with a command whose turn has come. -/

namespace Sys2Proof.Machine

theorem reqOf_opcode {r : Req} {code : Nat} (h : r.opcode = BitVec.ofNat 16 code) : { r with opcode := BitVec.ofNat 16 code } = r := by
  rw [← h]

/-- A command that is ready runs its handler on the state without it, and its answer is delivered. -/
theorem runOp_ready {code : Nat} {feats : List Nat} {lo hi : Nat} {r : Req} {s : State} (ahead : Bool) (h : Req → State → Res)
    (hr : Ready code feats lo hi r s) : runOp code feats lo hi ahead h r s = (h r (taken r s)).deliver r false := by
  obtain ⟨h1, h2, h3, ht, hk, h4, h5, h6, h7, h8, h9, h10⟩ := hr
  have hl : ¬ (r.payload.length < lo ∨ hi < r.payload.length) := by omega
  have h8' : ∀ x ∈ feats, hasFeature s r.sess x = true := by simpa using h8
  have hs : settleUnknown s = s := by unfold settleUnknown; simp only [hk, Bool.true_or, if_true]
  unfold runOp runTurn
  simp only [hs, reqOf_opcode h1, h2, h4, h3, ht, h6, h7, Bool.true_or, if_true, Bool.or_true, Bool.and_true, Bool.and_self]
  unfold execReq
  simp only [h5, h8, taken]
  simp [hl]

theorem deliver_ok (ws : List Word) (u : State) (r : Req) : (Res.ok ws u).deliver r false = answered r stOk 0 ws u := rfl
theorem deliver_rep (st d : Nat) (ws : List Word) (u : State) (r : Req) : (Res.rep st d ws u).deliver r false = answered r st d ws u := rfl
theorem deliver_bad (d : Nat) (u : State) (r : Req) : (Res.bad d u).deliver r false = answered r stBadParam d [] u := rfl
theorem deliver_later (u : State) (r : Req) : (Res.later u).deliver r false = u := rfl

@[simp] theorem send_time (s : State) (via : Transport) (i : BitVec 8) (e : Bool) (b : List Byte) : (s.send via i e b).time = s.time := by
  unfold State.send; (repeat' (first | split | dsimp only)) <;> rfl
@[simp] theorem answer_time (s : State) (via : Transport) (i : BitVec 8) (o : BitVec 16) (q : Word) (e : Bool) (p : List Word) :
    (s.answer via i o q e p).time = s.time := by
  unfold State.answer State.replyAs State.replyUnder; split
  · simp
  · split <;> simp
@[simp] theorem answered_time (r : Req) (st d : Nat) (ws : List Word) (s : State) : (answered r st d ws s).time = s.time := by
  unfold answered; simp
@[simp] theorem taken_time (r : Req) (s : State) : (taken r s).time = s.time := rfl
@[simp] theorem send_peer (s : State) (via : Transport) (i : BitVec 8) (e : Bool) (b : List Byte) : (s.send via i e b).peer = s.peer := by
  unfold State.send; (repeat' (first | split | dsimp only)) <;> rfl
@[simp] theorem answer_peer (s : State) (via : Transport) (i : BitVec 8) (o : BitVec 16) (q : Word) (e : Bool) (p : List Word) :
    (s.answer via i o q e p).peer = s.peer := by
  unfold State.answer State.replyAs State.replyUnder; split
  · simp
  · split <;> simp
@[simp] theorem answered_peer (r : Req) (st d : Nat) (ws : List Word) (s : State) : (answered r st d ws s).peer = s.peer := by
  unfold answered; simp
@[simp] theorem taken_peer (r : Req) (s : State) : (taken r s).peer = s.peer := rfl
@[simp] theorem send_tiu (s : State) (via : Transport) (i : BitVec 8) (e : Bool) (b : List Byte) : (s.send via i e b).tiu = s.tiu := by
  unfold State.send; (repeat' (first | split | dsimp only)) <;> rfl
@[simp] theorem answer_tiu (s : State) (via : Transport) (i : BitVec 8) (o : BitVec 16) (q : Word) (e : Bool) (p : List Word) :
    (s.answer via i o q e p).tiu = s.tiu := by
  unfold State.answer State.replyAs State.replyUnder; split
  · simp
  · split <;> simp
@[simp] theorem answered_tiu (r : Req) (st d : Nat) (ws : List Word) (s : State) : (answered r st d ws s).tiu = s.tiu := by
  unfold answered; simp
@[simp] theorem taken_tiu (r : Req) (s : State) : (taken r s).tiu = s.tiu := rfl
@[simp] theorem send_pcie (s : State) (via : Transport) (i : BitVec 8) (e : Bool) (b : List Byte) : (s.send via i e b).pcie = s.pcie := by
  unfold State.send; (repeat' (first | split | dsimp only)) <;> rfl
@[simp] theorem answer_pcie (s : State) (via : Transport) (i : BitVec 8) (o : BitVec 16) (q : Word) (e : Bool) (p : List Word) :
    (s.answer via i o q e p).pcie = s.pcie := by
  unfold State.answer State.replyAs State.replyUnder; split
  · simp
  · split <;> simp
@[simp] theorem answered_pcie (r : Req) (st d : Nat) (ws : List Word) (s : State) : (answered r st d ws s).pcie = s.pcie := by
  unfold answered; simp
@[simp] theorem taken_pcie (r : Req) (s : State) : (taken r s).pcie = s.pcie := rfl
@[simp] theorem send_params (s : State) (via : Transport) (i : BitVec 8) (e : Bool) (b : List Byte) : (s.send via i e b).params = s.params := by
  unfold State.send; (repeat' (first | split | dsimp only)) <;> rfl
@[simp] theorem answer_params (s : State) (via : Transport) (i : BitVec 8) (o : BitVec 16) (q : Word) (e : Bool) (p : List Word) :
    (s.answer via i o q e p).params = s.params := by
  unfold State.answer State.replyAs State.replyUnder; split
  · simp
  · split <;> simp
@[simp] theorem answered_params (r : Req) (st d : Nat) (ws : List Word) (s : State) : (answered r st d ws s).params = s.params := by
  unfold answered; simp
@[simp] theorem taken_params (r : Req) (s : State) : (taken r s).params = s.params := rfl
@[simp] theorem send_commits (s : State) (via : Transport) (i : BitVec 8) (e : Bool) (b : List Byte) : (s.send via i e b).commits = s.commits := by
  unfold State.send; (repeat' (first | split | dsimp only)) <;> rfl
@[simp] theorem answer_commits (s : State) (via : Transport) (i : BitVec 8) (o : BitVec 16) (q : Word) (e : Bool) (p : List Word) :
    (s.answer via i o q e p).commits = s.commits := by
  unfold State.answer State.replyAs State.replyUnder; split
  · simp
  · split <;> simp
@[simp] theorem answered_commits (r : Req) (st d : Nat) (ws : List Word) (s : State) : (answered r st d ws s).commits = s.commits := by
  unfold answered; simp
@[simp] theorem taken_commits (r : Req) (s : State) : (taken r s).commits = s.commits := rfl
@[simp] theorem send_vat (s : State) (via : Transport) (i : BitVec 8) (e : Bool) (b : List Byte) : (s.send via i e b).vat = s.vat := by
  unfold State.send; (repeat' (first | split | dsimp only)) <;> rfl
@[simp] theorem answer_vat (s : State) (via : Transport) (i : BitVec 8) (o : BitVec 16) (q : Word) (e : Bool) (p : List Word) :
    (s.answer via i o q e p).vat = s.vat := by
  unfold State.answer State.replyAs State.replyUnder; split
  · simp
  · split <;> simp
@[simp] theorem answered_vat (r : Req) (st d : Nat) (ws : List Word) (s : State) : (answered r st d ws s).vat = s.vat := by
  unfold answered; simp
@[simp] theorem taken_vat (r : Req) (s : State) : (taken r s).vat = s.vat := rfl
@[simp] theorem send_cellar (s : State) (via : Transport) (i : BitVec 8) (e : Bool) (b : List Byte) : (s.send via i e b).cellar = s.cellar := by
  unfold State.send; (repeat' (first | split | dsimp only)) <;> rfl
@[simp] theorem answer_cellar (s : State) (via : Transport) (i : BitVec 8) (o : BitVec 16) (q : Word) (e : Bool) (p : List Word) :
    (s.answer via i o q e p).cellar = s.cellar := by
  unfold State.answer State.replyAs State.replyUnder; split
  · simp
  · split <;> simp
@[simp] theorem answered_cellar (r : Req) (st d : Nat) (ws : List Word) (s : State) : (answered r st d ws s).cellar = s.cellar := by
  unfold answered; simp
@[simp] theorem taken_cellar (r : Req) (s : State) : (taken r s).cellar = s.cellar := rfl
@[simp] theorem send_power (s : State) (via : Transport) (i : BitVec 8) (e : Bool) (b : List Byte) : (s.send via i e b).power = s.power := by
  unfold State.send; (repeat' (first | split | dsimp only)) <;> rfl
@[simp] theorem answer_power (s : State) (via : Transport) (i : BitVec 8) (o : BitVec 16) (q : Word) (e : Bool) (p : List Word) :
    (s.answer via i o q e p).power = s.power := by
  unfold State.answer State.replyAs State.replyUnder; split
  · simp
  · split <;> simp
@[simp] theorem answered_power (r : Req) (st d : Nat) (ws : List Word) (s : State) : (answered r st d ws s).power = s.power := by
  unfold answered; simp
@[simp] theorem taken_power (r : Req) (s : State) : (taken r s).power = s.power := rfl
@[simp] theorem send_life (s : State) (via : Transport) (i : BitVec 8) (e : Bool) (b : List Byte) : (s.send via i e b).life = s.life := by
  unfold State.send; (repeat' (first | split | dsimp only)) <;> rfl
@[simp] theorem answer_life (s : State) (via : Transport) (i : BitVec 8) (o : BitVec 16) (q : Word) (e : Bool) (p : List Word) :
    (s.answer via i o q e p).life = s.life := by
  unfold State.answer State.replyAs State.replyUnder; split
  · simp
  · split <;> simp
@[simp] theorem answered_life (r : Req) (st d : Nat) (ws : List Word) (s : State) : (answered r st d ws s).life = s.life := by
  unfold answered; simp
@[simp] theorem taken_life (r : Req) (s : State) : (taken r s).life = s.life := rfl
@[simp] theorem send_core (s : State) (via : Transport) (i : BitVec 8) (e : Bool) (b : List Byte) : (s.send via i e b).core = s.core := by
  unfold State.send; (repeat' (first | split | dsimp only)) <;> rfl
@[simp] theorem answer_core (s : State) (via : Transport) (i : BitVec 8) (o : BitVec 16) (q : Word) (e : Bool) (p : List Word) :
    (s.answer via i o q e p).core = s.core := by
  unfold State.answer State.replyAs State.replyUnder; split
  · simp
  · split <;> simp
@[simp] theorem answered_core (r : Req) (st d : Nat) (ws : List Word) (s : State) : (answered r st d ws s).core = s.core := by
  unfold answered; simp
@[simp] theorem taken_core (r : Req) (s : State) : (taken r s).core = s.core := rfl
@[simp] theorem send_fe (s : State) (via : Transport) (i : BitVec 8) (e : Bool) (b : List Byte) : (s.send via i e b).fe = s.fe := by
  unfold State.send; (repeat' (first | split | dsimp only)) <;> rfl
@[simp] theorem answer_fe (s : State) (via : Transport) (i : BitVec 8) (o : BitVec 16) (q : Word) (e : Bool) (p : List Word) :
    (s.answer via i o q e p).fe = s.fe := by
  unfold State.answer State.replyAs State.replyUnder; split
  · simp
  · split <;> simp
@[simp] theorem answered_fe (r : Req) (st d : Nat) (ws : List Word) (s : State) : (answered r st d ws s).fe = s.fe := by
  unfold answered; simp
@[simp] theorem taken_fe (r : Req) (s : State) : (taken r s).fe = s.fe := rfl
@[simp] theorem send_stream (s : State) (via : Transport) (i : BitVec 8) (e : Bool) (b : List Byte) : (s.send via i e b).stream = s.stream := by
  unfold State.send; (repeat' (first | split | dsimp only)) <;> rfl
@[simp] theorem answer_stream (s : State) (via : Transport) (i : BitVec 8) (o : BitVec 16) (q : Word) (e : Bool) (p : List Word) :
    (s.answer via i o q e p).stream = s.stream := by
  unfold State.answer State.replyAs State.replyUnder; split
  · simp
  · split <;> simp
@[simp] theorem answered_stream (r : Req) (st d : Nat) (ws : List Word) (s : State) : (answered r st d ws s).stream = s.stream := by
  unfold answered; simp
@[simp] theorem taken_stream (r : Req) (s : State) : (taken r s).stream = s.stream := rfl
@[simp] theorem send_zones (s : State) (via : Transport) (i : BitVec 8) (e : Bool) (b : List Byte) : (s.send via i e b).zones = s.zones := by
  unfold State.send; (repeat' (first | split | dsimp only)) <;> rfl
@[simp] theorem answer_zones (s : State) (via : Transport) (i : BitVec 8) (o : BitVec 16) (q : Word) (e : Bool) (p : List Word) :
    (s.answer via i o q e p).zones = s.zones := by
  unfold State.answer State.replyAs State.replyUnder; split
  · simp
  · split <;> simp
@[simp] theorem answered_zones (r : Req) (st d : Nat) (ws : List Word) (s : State) : (answered r st d ws s).zones = s.zones := by
  unfold answered; simp
@[simp] theorem taken_zones (r : Req) (s : State) : (taken r s).zones = s.zones := rfl
@[simp] theorem send_therm (s : State) (via : Transport) (i : BitVec 8) (e : Bool) (b : List Byte) : (s.send via i e b).therm = s.therm := by
  unfold State.send; (repeat' (first | split | dsimp only)) <;> rfl
@[simp] theorem answer_therm (s : State) (via : Transport) (i : BitVec 8) (o : BitVec 16) (q : Word) (e : Bool) (p : List Word) :
    (s.answer via i o q e p).therm = s.therm := by
  unfold State.answer State.replyAs State.replyUnder; split
  · simp
  · split <;> simp
@[simp] theorem answered_therm (r : Req) (st d : Nat) (ws : List Word) (s : State) : (answered r st d ws s).therm = s.therm := by
  unfold answered; simp
@[simp] theorem taken_therm (r : Req) (s : State) : (taken r s).therm = s.therm := rfl
@[simp] theorem send_harv (s : State) (via : Transport) (i : BitVec 8) (e : Bool) (b : List Byte) : (s.send via i e b).harv = s.harv := by
  unfold State.send; (repeat' (first | split | dsimp only)) <;> rfl
@[simp] theorem answer_harv (s : State) (via : Transport) (i : BitVec 8) (o : BitVec 16) (q : Word) (e : Bool) (p : List Word) :
    (s.answer via i o q e p).harv = s.harv := by
  unfold State.answer State.replyAs State.replyUnder; split
  · simp
  · split <;> simp
@[simp] theorem answered_harv (r : Req) (st d : Nat) (ws : List Word) (s : State) : (answered r st d ws s).harv = s.harv := by
  unfold answered; simp
@[simp] theorem taken_harv (r : Req) (s : State) : (taken r s).harv = s.harv := rfl
@[simp] theorem send_aux (s : State) (via : Transport) (i : BitVec 8) (e : Bool) (b : List Byte) : (s.send via i e b).aux = s.aux := by
  unfold State.send; (repeat' (first | split | dsimp only)) <;> rfl
@[simp] theorem answer_aux (s : State) (via : Transport) (i : BitVec 8) (o : BitVec 16) (q : Word) (e : Bool) (p : List Word) :
    (s.answer via i o q e p).aux = s.aux := by
  unfold State.answer State.replyAs State.replyUnder; split
  · simp
  · split <;> simp
@[simp] theorem answered_aux (r : Req) (st d : Nat) (ws : List Word) (s : State) : (answered r st d ws s).aux = s.aux := by
  unfold answered; simp
@[simp] theorem taken_aux (r : Req) (s : State) : (taken r s).aux = s.aux := rfl
@[simp] theorem send_vint (s : State) (via : Transport) (i : BitVec 8) (e : Bool) (b : List Byte) : (s.send via i e b).vint = s.vint := by
  unfold State.send; (repeat' (first | split | dsimp only)) <;> rfl
@[simp] theorem answer_vint (s : State) (via : Transport) (i : BitVec 8) (o : BitVec 16) (q : Word) (e : Bool) (p : List Word) :
    (s.answer via i o q e p).vint = s.vint := by
  unfold State.answer State.replyAs State.replyUnder; split
  · simp
  · split <;> simp
@[simp] theorem answered_vint (r : Req) (st d : Nat) (ws : List Word) (s : State) : (answered r st d ws s).vint = s.vint := by
  unfold answered; simp
@[simp] theorem taken_vint (r : Req) (s : State) : (taken r s).vint = s.vint := rfl
@[simp] theorem send_taster (s : State) (via : Transport) (i : BitVec 8) (e : Bool) (b : List Byte) : (s.send via i e b).taster = s.taster := by
  unfold State.send; (repeat' (first | split | dsimp only)) <;> rfl
@[simp] theorem answer_taster (s : State) (via : Transport) (i : BitVec 8) (o : BitVec 16) (q : Word) (e : Bool) (p : List Word) :
    (s.answer via i o q e p).taster = s.taster := by
  unfold State.answer State.replyAs State.replyUnder; split
  · simp
  · split <;> simp
@[simp] theorem answered_taster (r : Req) (st d : Nat) (ws : List Word) (s : State) : (answered r st d ws s).taster = s.taster := by
  unfold answered; simp
@[simp] theorem taken_taster (r : Req) (s : State) : (taken r s).taster = s.taster := rfl
@[simp] theorem send_free (s : State) (via : Transport) (i : BitVec 8) (e : Bool) (b : List Byte) : (s.send via i e b).free = s.free := by
  unfold State.send; (repeat' (first | split | dsimp only)) <;> rfl
@[simp] theorem answer_free (s : State) (via : Transport) (i : BitVec 8) (o : BitVec 16) (q : Word) (e : Bool) (p : List Word) :
    (s.answer via i o q e p).free = s.free := by
  unfold State.answer State.replyAs State.replyUnder; split
  · simp
  · split <;> simp
@[simp] theorem answered_free (r : Req) (st d : Nat) (ws : List Word) (s : State) : (answered r st d ws s).free = s.free := by
  unfold answered; simp
@[simp] theorem taken_free (r : Req) (s : State) : (taken r s).free = s.free := rfl
@[simp] theorem send_pending (s : State) (via : Transport) (i : BitVec 8) (e : Bool) (b : List Byte) : (s.send via i e b).pending = s.pending := by
  unfold State.send; (repeat' (first | split | dsimp only)) <;> rfl
@[simp] theorem answer_pending (s : State) (via : Transport) (i : BitVec 8) (o : BitVec 16) (q : Word) (e : Bool) (p : List Word) :
    (s.answer via i o q e p).pending = s.pending := by
  unfold State.answer State.replyAs State.replyUnder; split
  · simp
  · split <;> simp
@[simp] theorem answered_pending (r : Req) (st d : Nat) (ws : List Word) (s : State) : (answered r st d ws s).pending = s.pending := by
  unfold answered; simp
@[simp] theorem taken_pending (r : Req) (s : State) : (taken r s).pending = s.pending := rfl

end Sys2Proof.Machine
end

