-- ==== Sys2Proof/WellFormed.lean ====
section
/-! DEFINITION. Which commands can be given: what a packet, a TLP, a block write or an event can carry beyond the types of its operands. -/

namespace Sys2Proof

/-- As many samples of one converter as of the other, each of 16 bits (R129). -/
def PairSamples.ok (x : PairSamples) : Bool :=
  x.c0.length = x.c1.length && (x.c0 ++ x.c1).all fun v => decide (-32768 ≤ v) && decide (v ≤ 32767)

/-- Payload words a transport carries at most (R39). -/
def wfReq (r : Req) : Bool :=
  match r.via with
  | .ring _ => r.payload.length ≤ 16384
  | .smbus => r.payload.length ≤ 59

/-- The operands of a command are ones that the outside can give. -/
def Instr.wf : Instr → Bool
  | .powerOn _ => true
  | .resetNAssert => true
  | .resetNRelease _ => true
  | .hostImageVerify => true
  | .firmwareStart _ => true
  | .readyReached _ => true
  | .perstNAssert => true
  | .functionLevelReset => true
  | .d3hotEntry => true
  | .d0Resume => true
  | .aspmL1Request => true
  | .registerWrite _ be _ wide _ => wide || decide (be.toNat < 16)
  | .rcRegisterRead a wide _ => match a with
    | .bar0 off => off.toNat % (if wide then 8 else 4) = 0
    | .bar2 _ len _ => 1 ≤ len && len ≤ 4096
  | .timeLatchRead off wide => off.toNat % (if wide then 8 else 4) = 0
  | .conflClear _ _ => true
  | .doorbell _ _ => true
  | .prodWrite _ _ => true
  | .heartbeat => true
  | .resume _ => true
  | .skip _ => true
  | .msixUnmask _ => true
  | .bar2Write addr data _ => 1 ≤ data.length && data.length ≤ 512 && addr.toNat + data.length ≤ 2 ^ 28
  | .vatBitSetWrite _ addr data => 1 ≤ data.length && addr.toNat + data.length ≤ 2 ^ 26
  | .vatBitClearWrite _ addr data => 1 ≤ data.length && addr.toNat + data.length ≤ 2 ^ 26
  | .packetIn bytes _ => bytes.length ≤ 255
  | .packetOut => true
  | .linkStatus => true
  | .smbusAlertResponse => true
  | .commandPacketArrival _ buf => buf.length ≤ 16 + 4 * 16384
  | .replyDelivery _ => true
  | .hello r => wfReq r
  | .info r => wfReq r
  | .echo r => wfReq r
  | .bye r => wfReq r
  | .setParam r => wfReq r
  | .getParam r => wfReq r
  | .commit r => wfReq r
  | .commitAbort r => wfReq r
  | .defaults r => wfReq r
  | .feStatus r => wfReq r
  | .recvRefSet r => wfReq r
  | .recvRefGet r => wfReq r
  | .recvStatus r => wfReq r
  | .phaseStatus r => wfReq r
  | .streamStatus r => wfReq r
  | .finingRomGet r => wfReq r
  | .pressFlush r => wfReq r
  | .pressStatus r => wfReq r
  | .zoneAck r => wfReq r
  | .zoneStatus r => wfReq r
  | .zoneSummary r => wfReq r
  | .zoneAckTimeout => true
  | .thermStatus r => wfReq r
  | .thermCalibrate r => wfReq r
  | .thermCalTimeout _ => true
  | .thermAbort r => wfReq r
  | .thermReseed r => wfReq r
  | .harvestArm r => wfReq r
  | .harvestDisarm r => wfReq r
  | .harvestForce r => wfReq r
  | .harvestRead r => wfReq r
  | .harvestRelease r => wfReq r
  | .harvestStatus r => wfReq r
  | .cooperLoad r => wfReq r
  | .cooperStart r => wfReq r
  | .cooperStop r => wfReq r
  | .cooperSignal r => wfReq r
  | .cooperStatus r => wfReq r
  | .cellarTrain r => wfReq r
  | .cellarTrainComplete results => results.length ≤ 12
  | .cellarTrainStep r => wfReq r
  | .cellarPattern r => wfReq r
  | .cellarCompare r errs => wfReq r && errs.toList.all (fun n => decide (n < 2 ^ 32))
  | .freqSet r _ _ => wfReq r
  | .cellarStatus r => wfReq r
  | .cellarTrainAbort r => wfReq r
  | .timeSet r => wfReq r
  | .timeSetTimeout => true
  | .timeGet r => wfReq r
  | .tiuArm r => wfReq r
  | .tiuStop r => wfReq r
  | .peerStatus r => wfReq r
  | .commitArm r => wfReq r
  | .commitShared r => wfReq r
  | .sharedAcceptTimeout => true
  | .sharedCompletionPoint => true
  | .auxRead r => wfReq r
  | .auxSelfcal r => wfReq r
  | .auxSyscal r => wfReq r
  | .auxTest r => wfReq r
  | .auxCalComplete _ => true
  | .auxIntlkReset r => wfReq r
  | .auxStatus r => wfReq r
  | .auxCalAbort r => wfReq r
  | .calTiu r => wfReq r
  | .calAux r => wfReq r
  | .calDie r => wfReq r
  | .calComplete _ => true
  | .calDieTimeout => true
  | .vintageStore r => wfReq r
  | .vintageStoreComplete _ => true
  | .vintageStatus r => wfReq r
  | .vintageRead r => wfReq r
  | .calAbort r => wfReq r
  | .powerStatus r => wfReq r
  | .powerStateSet r => wfReq r
  | .powerQueueGet r => wfReq r
  | .regionRestore r => wfReq r
  | .lcStatus r => wfReq r
  | .funcReinit r => wfReq r
  | .devReset r => wfReq r
  | .warmReset => true
  | .powerCycleReq r => wfReq r
  | .fwWrite r => wfReq r
  | .fwWriteComplete _ => true
  | .fwActivate r => wfReq r
  | .fwTrialFail => true
  | .fwConfirm r => wfReq r
  | .tasterRun r => wfReq r
  | .tasterStatus r => wfReq r
  | .tasterAbort r => wfReq r
  | .tasterScheduledRun test inst => inst < ([66, 8, 48, 4, 4, 4] : List Nat).getD test.val 0
  | .tasterRunEnd _ _ => true
  | .vatScrub _ addr _ => addr % 32 = 0
  | .eccWriteBack => true
  | .boundary _ => true
  | .groupLaunch _ => true
  | .shotRowProcess _ x ecc _ _ => x.ok && decide ((ecc.map (·.1)).Pairwise (· < ·))
  | .zoneEventRecord => true
  | .bandClose _ => true
  | .finingTile _ _ _ => true
  | .pressRecord _ _ => true
  | .streamRecordDelivery _ => true
  | .ramanShotAccumulate _ x => x.pair.ok
  | .subintervalFold _ _ => true
  | .intervalComplete _ => true
  | .ramanRecord _ => true
  | .fusionEpoch _ => true
  | .fusedRecord _ => true
  | .harvestElementWrite _ r => [r.x, r.y].all fun v => decide (-32768 ≤ v) && decide (v ≤ 32767)
  | .harvestSeqEvent _ => true
  | .harvestSeqTimer _ => true
  | .harvestArmTimeout _ => true
  | .captureRecordDelivery _ _ => true
  | .tapWindowFill _ _ => true
  | .postDataRead _ _ => true
  | .cooperTimer _ => true
  | .interruptTake _ => true
  | .nop _ _ _ => true
  | .add _ => true
  | .sub _ => true
  | .adds _ => true
  | .subs _ => true
  | .and _ => true
  | .or _ => true
  | .xor _ => true
  | .shl _ => true
  | .shli _ => true
  | .sra _ => true
  | .srai _ => true
  | .srl _ => true
  | .srli _ => true
  | .mov _ => true
  | .addi _ => true
  | .min _ => true
  | .max _ => true
  | .abs _ => true
  | .cmpeq _ => true
  | .cmplt _ => true
  | .add2 _ => true
  | .sub2 _ => true
  | .pack _ => true
  | .mul _ => true
  | .norm _ => true
  | .exp _ => true
  | .mac _ => true
  | .msu _ => true
  | .mpy _ => true
  | .mac2 _ => true
  | .msu2 _ => true
  | .mpy2 _ => true
  | .rnd _ => true
  | .rndh _ => true
  | .expa _ => true
  | .ash _ => true
  | .clra _ => true
  | .moval _ => true
  | .movah _ => true
  | .movag _ => true
  | .ldw _ _ => true
  | .ldh _ _ => true
  | .ldhu _ _ => true
  | .ldd _ _ => true
  | .stw _ => true
  | .sth _ => true
  | .std _ => true
  | .movp _ => true
  | .movg _ => true
  | .movm _ => true
  | .modp _ => true
  | .br _ => true
  | .brl _ => true
  | .jr _ => true
  | .reti _ => true
  | .loop _ => true
  | .repeat_ _ => true
  | .mvc _ => true
  | .movi _ => true
  | .movhi _ => true
  | .halt _ => true
  | .wait _ => true
  | .post _ => true
  | .taprel _ => true
  | .descriptorFetch _ descs => 1 ≤ descs.length
  | .dataBurst _ _ => true
  | .descriptorCompletion _ => true
  | .readCompletion _ _ _ => true
  | .burstFailure _ _ => true
  | .holdoffExpiry _ => true
  | .ringCommitApply _ => true
  | .refLost _ => true
  | .refInEdgeReturn _ => true
  | .refGateEnd _ _ => true
  | .relocked _ => true
  | .ppsInEdge _ _ => true
  | .ppsLost => true
  | .ptmDialogue tSent tRecv _ t32 _ => tSent ≤ tRecv && t32 < 2 ^ 32
  | .tiuStartEdge _ _ _ => true
  | .tiuStopEdge _ _ => true
  | .tiuClose _ => true
  | .tiuRearm _ => true
  | .tiuArmTimeout _ => true
  | .tiuGateEnd _ single period _ => decide (single.Pairwise (· < ·)) && 0 < period
  | .trigInEdge _ _ _ => true
  | .gpioEdge _ => true
  | .sysrefEdge _ _ => true
  | .linkInitComplete _ _ _ => true
  | .crc12Failure _ _ fromT toT => fromT ≤ toT
  | .linkDown _ _ _ => true
  | .linkRetry _ _ _ _ => true
  | .rateMismatch _ _ => true
  | .peerLaneUp _ _ _ _ => true
  | .peerLaneSilence _ => true
  | .idle _ => true
  | .linkHello _ => true
  | .syncReq _ => true
  | .syncResp _ => true
  | .syncReqTimer => true
  | .zoneEvent _ => true
  | .prepare _ => true
  | .accept _ => true
  | .refuse _ => true
  | .withdraw _ => true
  | .marginSample _ => true
  | .sheddingStep => true
  | .sheddingRestore => true
  | .guardedModeChange _ _ => true
  | .regionIsolation _ => true
  | .regulatorPoll _ _ => true
  | .admissionGrant => true
  | .admissionTimeout => true
  | .autoIdle => true
  | .wakeEvent _ _ => true
  | .wakeAt _ => true
  | .watchdogBite _ => true
  | .cpRestartComplete => true
  | .cpRestartTimeout => true
  | .l3NotReady => true
  | .heartbeatTimeout => true
  | .thermtrip => true
  | .vintageRecompute _ => true
  | .cellarRefresh _ => true
  | .cellarTempRead _ _ => true
  | .writeDrain _ => true
  | .auxCycleStart => true
  | .auxConvstEdge _ => true
  | .auxConversionEnd _ => true
  | .auxResultRelease _ => true
  | .excitationBreak _ => true
  | .excitationBreakClear _ => true
  | .powerDown => true
  | .perstNRelease => true
  | .commitTimeTargetReached => true
  | .operationTimeLimit _ _ => true
  | .cellarTrainStepComplete res => res.lines.length ≤ 36
  | .powerStateEntryComplete => true
  | .peerLaneLockLoss _ => true
  | .peerFrameCrcError _ => true
  | .rawStreamLevelCrossing _ _ _ _ => true

end Sys2Proof
end

