-- ==== Sys2Proof/Tests/Slice0.lean ====
section
/-! SUPPORT. Tests of the model on small states, and for every statement with hypotheses a state and operands that meet them. -/

set_option Elab.async false
set_option autoImplicit false

namespace Sys2Proof.Tests
open Sys2Proof Sys2Proof.Machine

/-! ## Helpers: small changes to a state -/

def setF (b : List Word) (w lo width v : Nat) : List Word :=
  b.set w (BitVec.ofNat 32 ((wordAt b w).toNat - wbits (wordAt b w) lo width * 2 ^ lo + v * 2 ^ lo))
def flds (b : List Word) (l : List (Nat × Nat × Nat × Nat)) : List Word := l.foldl (fun b f => setF b f.1 f.2.1 f.2.2.1 f.2.2.2) b
/-- set bits of an active block -/
def aset (s : State) (code inst : Nat) (l : List (Nat × Nat × Nat × Nat)) : State := s.setAct (bid code inst) (flds (s.act code inst) l)
def sset (s : State) (code inst : Nat) (l : List (Nat × Nat × Nat × Nat)) : State := s.setShad (bid code inst) (flds (s.shad code inst) l)
def mP (s : State) (f : Pcie → Pcie) : State := { s with pcie := f s.pcie }
def mL (s : State) (f : Life → Life) : State := { s with life := f s.life }
def mW (s : State) (f : Power → Power) : State := { s with power := f s.power }
def mPr (s : State) (f : Proto → Proto) : State := { s with proto := f s.proto }
def mT (s : State) (f : TimeBase → TimeBase) : State := { s with time := f s.time }
def mV (s : State) (f : Vint → Vint) : State := { s with vint := f s.vint }
def mX (s : State) (f : Taster → Taster) : State := { s with taster := f s.taster }
def mZ (s : State) (f : Zones → Zones) : State := { s with zones := f s.zones }
def mC (s : State) (f : Cellar → Cellar) : State := { s with cellar := f s.cellar }
def mPe (s : State) (f : Peer → Peer) : State := { s with peer := f s.peer }
def mCm (s : State) (f : List Commit → List Commit) : State := { s with commits := f s.commits }
def img (k : Nat) : Image := ⟨BitVec.ofNat 32 k, 0, 0, false, 0, 0⟩
def up (b : State) : State := { b with
  life :=
    { b.life with powered := true, inReset := false, phase := 3, thermtrip := false, pwrCycle := false, straps := { b.life.straps with testMode := false }, running := some (img 7, 0) }
  pcie := { b.pcie with up := true, d3hot := false, busStopped := false, perst := false }
  power := { b.power with state := 0, entering := none } }
def ringOn (b : State) (n : RingId) (kind : Nat) : State := aset b 0x80 n.val [(0,0,1,1),(0,1,3,kind),(0,4,4,4)]
def req (code : Nat) (pl : List Word) : Req := ⟨.smbus, 1, 5, BitVec.ofNat 16 code, 0, pl⟩
def reqR (code : Nat) (pl : List Word) : Req := ⟨.ring 5, 1, 5, BitVec.ofNat 16 code, 0, pl⟩
def ready (r : Req) (b : State) : State := { up b with
  proto := { b.proto with
    sessions := ⟨r.sess, r.via, 2, 3, BitVec.allOnes 64, some r.seq, [⟨r.seq, r.opcode, r.crc, none⟩]⟩ :: b.proto.sessions.filter (fun x => x.id ≠
      r.sess)
    waiting := r :: b.proto.waiting } }
def plain (c : Core) : Core := { c with st := .running, jump := none, rep := none, loops := Vector.replicate 2 {}, stopReq := false, pauseReq := false, flight := [], asm := {}, imBad := [], dmBad := [], ext := [] }
def imgWords : List Word := [0x71801A6E, 0x1, 0x7, 0x0, 0x1, 0x0, 0x0, 0x0, 0x17AFA01D, 0x8511A306, 0xB3373876, 0x78901D3F, 0xBB780A2C, 0x9CA544E6, 0xFFB37A98, 0x6E340B9C, 0xD898C296, 0xF4A13945, 0x2DEB33A0, 0x77037D81, 0x63A440F2, 0xF8BCE6E5, 0xE12C4247, 0x6B17D1F2, 0x27AE47D9, 0xA436F94E, 0x7DB36E91, 0x14D00565, 0x7B58D334, 0x607C084F, 0xBCB8228E, 0x7286818]
def imgMfg : List Word := [0x71801A6E, 0x701, 0x7, 0x0, 0x1, 0x0, 0x0, 0x0, 0x17AFA01D, 0x8511A306, 0xB3373876, 0x78901D3F, 0xBB780A2C, 0x9CA544E6, 0xFFB37A98, 0x6E340B9C, 0xD898C296, 0xF4A13945, 0x2DEB33A0, 0x77037D81, 0x63A440F2, 0xF8BCE6E5, 0xE12C4247, 0x6B17D1F2, 0xF4016025, 0xB86B8864, 0x9888C9B2, 0x53A0B8D2, 0x259D9B3C, 0xD9BD3E0F, 0x191C805A, 0x9CFA53B0]
def imgMem (ws : List Word) : Mem := Mem.writeN [] 0 (wordsBytes ws)
def keyG : Nat × Nat := p256G
def fire0 : Fire := ⟨5, 40000, 12, 99, [], [], [], [], [], false⟩
def sum0 : RamanSum := ⟨[(5, 6), (7, 8)], 3, 0, 1, false, 5, 12, 99, 40000, fire0, false⟩
def frm (lane : Fin 4) (seq : BitVec 16) (w : List Word) : Frame := ⟨lane, 2, seq, Vector.ofFn fun i => wordAt w i.val, 700000⟩
def slot0 : AuxSlot := ⟨2, flds (State.reset.act 0x90 2) [(0,0,1,1)], 0, 1, 1000, false, 0, 0, false, false, false, false⟩
def core1 : Core :=
  { st := .running, pc := 7
    g := (((Vector.replicate 32 0).set 4 3).set 5 4).set 20 0x00FF0FFF, p := ((Vector.replicate 8 0).set 4 32).set 5 33
    a := ((Vector.replicate 4 0).set 1 15).set 2 (BitVec.ofInt 72 (2 ^ 71 - 1)), aOld := (Vector.replicate 4 0).set 1 9 }
def onC (b : State) (n : CoreId) (c : Core) : State := { b with core := b.core.set n c }
def shot (g : Nat) : Shot := ⟨5, g, 40000, 12, State.reset.act 0x10 0, State.reset.act 0x11 0, State.reset.act 0x12 0, [], 0, false, none, false, false, 3, true, [⟨2, State.reset.act 0x14 2, State.reset.act 0x50 2⟩], 0⟩

/-- `Ready` as a computation. -/
def readyB (code : Nat) (feats : List Nat) (lo hi : Nat) (r : Req) (s : State) : Bool :=
  decide (r.opcode = BitVec.ofNat 16 code) && s.proto.waiting.contains r && isHead s r && isTurn s r &&
    s.proto.waiting.all (fun q => knownOps.contains q.opcode.toNat) && cpRuns s && decide (s.life.phase = 3) && sessionFree s r &&
    sessionValid s r && feats.all (hasFeature s r.sess) && decide (lo ≤ r.payload.length) && decide (r.payload.length ≤ hi)

theorem ready_of {code : Nat} {feats : List Nat} {lo hi : Nat} {r : Req} {s : State} (h : readyB code feats lo hi r s = true) :
    Ready code feats lo hi r s := by
  simp only [readyB, Bool.and_eq_true, decide_eq_true_eq] at h
  obtain ⟨⟨⟨⟨⟨⟨⟨⟨⟨⟨⟨a, b⟩, c⟩, d⟩, e⟩, f⟩, g⟩, i⟩, j⟩, k⟩, l⟩, m⟩ := h
  exact ⟨a, b, c, d, e, f, g, i, j, k, l, m⟩

theorem plain_core1 : Plain core1 := ⟨rfl, rfl, rfl, by decide, rfl, rfl, rfl, rfl, ⟨rfl, rfl⟩, rfl⟩

/-! ## Ill-formed commands are refused by the check -/

/-- A word list of a given length. -/
def zeros (n : Nat) : List Word := List.replicate n 0
/-- A byte list of a given length. -/
def noBytes (n : Nat) : List (Option Byte) := List.replicate n none
def noMet : WriteMet := ⟨false, Vector.replicate 32 0, 0⟩
def plainReq : Req := ⟨.ring 5, 1, 5, 0, 0, []⟩

theorem test_wf_register_write : (Instr.registerWrite 0 16 0 false noMet).wf = false := by decide
theorem test_wf_register_write_wide : (Instr.registerWrite 0 16 0 true noMet).wf = true := by decide
theorem test_wf_rc_read : (Instr.rcRegisterRead (.bar0 2) false 0).wf = false := by decide
theorem test_wf_bar2_read : (Instr.rcRegisterRead (.bar2 2 0 .clean) false 0).wf = false := by decide
theorem test_wf_time_latch : (Instr.timeLatchRead 4 true).wf = false := by decide
theorem test_wf_bar2_empty : (Instr.bar2Write 0 [] false).wf = false := by decide
theorem test_wf_bar2_long : (Instr.bar2Write 0 (noBytes 513) false).wf = false := by decide +kernel
theorem test_wf_bar2_past_end : (Instr.bar2Write 0xFFFFFFF [none, none] false).wf = false := by decide
theorem test_wf_bit_set_empty : (Instr.vatBitSetWrite 0 0 []).wf = false := by decide
theorem test_wf_bit_set_past_end : (Instr.vatBitSetWrite 0 0x3FFFFFF [none, none]).wf = false := by decide
theorem test_wf_bit_clear_empty : (Instr.vatBitClearWrite 0 0 []).wf = false := by decide
theorem test_wf_bit_clear_past_end : (Instr.vatBitClearWrite 0 0x3FFFFFF [none, none]).wf = false := by decide
theorem test_wf_packet_in : (Instr.packetIn (List.replicate 256 0) true).wf = false := by decide +kernel
theorem test_wf_arrival : (Instr.commandPacketArrival .smbus (List.replicate 65553 0)).wf = false := by decide +kernel
theorem test_wf_ring_payload : (Instr.hello { plainReq with payload := zeros 16385 }).wf = false := by decide +kernel
theorem test_wf_smbus_payload : (Instr.hello { plainReq with via := .smbus, payload := zeros 60 }).wf = false := by decide +kernel
theorem test_wf_train_results : (Instr.cellarTrainComplete (List.replicate 13 ⟨0, 0, 0, 0, 0⟩)).wf = false := by decide
theorem test_wf_compare : (Instr.cellarCompare plainReq (Vector.replicate 36 (2 ^ 32))).wf = false := by decide +kernel
theorem test_wf_taster : (Instr.tasterScheduledRun 4 4).wf = false := by decide
theorem test_wf_scrub : (Instr.vatScrub false 3 .clean).wf = false := by decide
theorem test_wf_shot : (Instr.shotRowProcess 0 ⟨[1], [], []⟩ [] false 0).wf = false ∧ (Instr.shotRowProcess 0 ⟨[32768], [0], []⟩ [] false 0).wf = false ∧
    (Instr.shotRowProcess 0 ⟨[], [], []⟩ [(3, .clean), (3, .corrected)] false 0).wf = false := by decide
theorem test_wf_raman : (Instr.ramanShotAccumulate 0 ⟨⟨[], [1], []⟩, false⟩).wf = false := by decide
theorem test_wf_fetch : (Instr.descriptorFetch 0 []).wf = false := by decide
theorem test_wf_ptm_order : (Instr.ptmDialogue 5 4 0 0 true).wf = false := by decide
theorem test_wf_ptm_width : (Instr.ptmDialogue 4 5 0 (2 ^ 32) true).wf = false := by decide
theorem test_wf_raw : (Instr.harvestElementWrite 0 ⟨32768, 0, 0, false⟩).wf = false := by decide
theorem test_wf_gate : (Instr.tiuGateEnd 0 [3, 3] 1 0).wf = false ∧ (Instr.tiuGateEnd 0 [3, 4] 0 0).wf = false := by decide
theorem test_wf_crc12 : (Instr.crc12Failure 0 0 6 5).wf = false := by decide
theorem test_wf_step_result : (Instr.cellarTrainStepComplete ⟨true, zeros 37⟩).wf = false := by decide

/-! ## The spec's worked examples -/

/-- R38: the check value of CRC-32C over "123456789". -/
theorem test_crc32c : crc32c ([0x31, 0x32, 0x33, 0x34, 0x35, 0x36, 0x37, 0x38, 0x39] : List Byte) = 0xE3069283 := by decide +kernel

/-- 2.4, Worked example: negotiation. -/
theorem test_negotiation :
    (agree 1 2 5, agree 2 2 1, agree 1 3 2, agree 1 1 9, agree 3 3 0) = (some (2, 3), some (2, 1), some (2, 3), some (1, 4), none) := by
  decide +kernel

/-- The PROBE block of the 80 km plan (4.9). -/
def probe80 : List Word :=
  flds (dfltBlock 0x1000) ([(0, 0, 1, 1), (0, 1, 2, 2), (0, 3, 2, 1), (1, 0, 18, 98304), (2, 0, 5, 16), (3, 0, 16, 4096), (4, 0, 17, 100000),
    (0, 8, 3, 7), (2, 16, 12, 600)] ++
    (List.range 8).flatMap fun k => [(16 + 2 * k, 0, 1, 1), (16 + 2 * k, 1, 3, k % 4), (16 + 2 * k, 16, 16, 16000), (17 + 2 * k, 0, 21, 100000 + 110000 * k)])
/-- Its RECV block (5.11). -/
def recv80 : List Word :=
  flds (dfltBlock 0x1100) [(0, 16, 1, 1), (0, 20, 2, 1), (1, 0, 5, 16), (4, 0, 21, 1539519), (5, 0, 8, 10), (5, 8, 5, 20), (6, 0, 32, 2500), (7, 0, 18, 78359)]
/-- Its PHASE block (6.10), stream 0 (7.8) and the stream's PRESS block (11.8). -/
def phase80 : List Word := flds (dfltBlock 0x1200) [(1, 0, 17, 10000)]
def stream80 : List Word := flds (dfltBlock 0x1400) [(0, 0, 1, 1), (0, 4, 3, 3), (0, 8, 4, 3), (2, 0, 18, 78359)]
def press80 : List Word := flds (dfltBlock 0x5000) [(0, 0, 1, 1), (0, 3, 1, 1)]

/-- 4.9: P = 786.432 µs with G = 4. -/
theorem test_plan_period : (groupsOf probe80, periodPs probe80) = (4, 786432000) := by decide +kernel
/-- 5.11: 256 taps, the first channel at s = 3.0625, a window of 98 210 samples, 785.680 µs. -/
theorem test_plan_window :
    (refTaps probe80 recv80, s0of recv80, window probe80 recv80, windowPs probe80 recv80) = (256, 196, 98210, 785680000) := by decide +kernel
/-- 6.10: M = 10, effective gauge 10 210 mm. -/
theorem test_plan_gauge : (gaugeM phase80 recv80, gaugeEff phase80 recv80) = (10, 10210) := by decide +kernel
/-- 17.8: the engine's budget with THERM is 3 738 mW. -/
theorem test_plan_budget : engineBudget probe80 recv80 (flds (dfltBlock 0x3000) [(0, 0, 1, 1)]) = 3738 := by decide +kernel
/-- 17.8: dynamic Press on stream 0 adds 214 mW. -/
theorem test_press_budget : pressBudget probe80 stream80 press80 = 214 := by decide +kernel
/-- 11.6, Worked example: a flushed block at ratio 8. -/
theorem test_press_block :
    (encodeBlock 3 none [100, 102, 101, 101]).bytes = [0x43, 0x81, 0x77, 0x89, 0x92, 1, 0, 0, 0, 0, 0, 0, 0, 0, 0, 0] := by decide +kernel
/-- 6.10: FQ of the combined branches is 233. -/
theorem test_fq : fqOf 2838 3100 = 233 := by decide +kernel
/-- 8.9: the zone's word 0x0046_301F is EN, PIN_EN, EVENT_EN, LATCH, SETTLE_HOLD, FE 0, PIN 3, K 6, TH_EXP 4. -/
theorem test_zone_word :
    let e : List Word := [0x0046301F]
    zEn e ∧ zPinEn e ∧ zEventEn e ∧ zLatch e ∧ zSettleHold e ∧ zFe e = 0 ∧ zPin e = 3 ∧ zK e = 6 ∧ zExp e = 4 := by decide +kernel
/-- 15.11: the RTD's conversion ratio at 25.000 °C, and the code of 100.000 mV at ×16. -/
theorem test_rtd : (ptTemp 1097347 1000000, auxCode 2 100000000) = (some 25000, (3648, false)) := by decide +kernel
/-- 16.6: halfway between the sets at 40 °C and 85 °C. -/
theorem test_trim : interpAt [(40000, 143900), (85000, 146600)] 62500 = 145250 := by decide +kernel
/-- 12.12: the bundle at 0x0041 holds LDH g16, MPY a0, g17, g0 and MAC a0, g18, g1. -/
theorem test_bundle :
    decodeBundle 0x0A01022044100241 =
      { ls := lsSlot 2 16 0 1 0, a1 := arSlot 0x22 0 17 0, a2 := arSlot 0x20 0 18 1 } := by decide +kernel
/-- 12.12: the LOOP bundle. -/
theorem test_loop_bundle : decodeBundle 0x4569000008800000 = { ctl := some (5, 0x348000044) } := by decide +kernel
/-- FIPS 180-4: the digest of "abc" (used by R448). -/
theorem test_sha256 : sha256 [0x61, 0x62, 0x63] = 0xba7816bf8f01cfea414140de5dae2223b00361a396177a9cb410ff61f20015ad := by decide +kernel

/-! ## One step each -/

/-- R293: a product accumulates in bundle n and the accumulator reads as it was one bundle before. -/
theorem test_mac_exact : accExact core1 [arSlot 0x22 1 4 5] 15 = 12 := by decide +kernel
/-- R293: ADDS saturates, ADD wraps. -/
theorem test_add_wraps :
    (aluResult 1 0x7FFFFFFF 1 0, aluResult 3 0x7FFFFFFF 1 0, aluResult 4 0x80000000 1 0) = (0x80000000, 0x7FFFFFFF, 0x80000000) := by decide +kernel
/-- R294: EXP of 0 and −1 is 31. -/
theorem test_exp : (expOf 32 0, expOf 32 0xFFFFFFFF, expOf 32 1, expOf 32 0x80000000) = (31, 31, 30, 0) := by decide +kernel
/-- R295: a bit-reversed index. -/
theorem test_bitrev : bitrev 4 1 = 8 := by decide +kernel
/-- R301: an enabled pending interrupt wakes a waiting core. -/
theorem test_wait_ends : (setIpend 2 { core1 with st := .waiting, ien := 4 }).st = .running := by decide +kernel
/-- R31: unmasking a pended vector sends its message. -/
theorem test_unmask :
    (match exec (.msixUnmask 3) (mP (up State.reset) fun p => { p with msixEn := true, pba := 8 }) with
      | .next t => t.out
      | _ => []) = [.msix 3] := by decide +kernel
/-- R320: the bit-set alias sets bits and the bit-clear alias clears them. -/
theorem test_vat_bits :
    (match exec (.vatBitSetWrite 0 5 [some 0x0F]) (mL State.reset fun l => { l with phase := 3 }) with
      | .next s => (match exec (.vatBitClearWrite 0 5 [some 0x03]) s with | .next t => t.vat.mem.read 5 | _ => 0)
      | _ => 0) = 0x0C := by decide +kernel
/-- An empty queue idles: the clock moves on by 8 ns. -/
theorem test_idle : (match step State.reset with | .next t => t.time.clk | _ => 0) = 8000 := by decide +kernel


/-! ## Every statement with hypotheses has a state and operands that meet them, clause by clause -/

theorem witness_QueueUntouched :
    ∃ c : Instr, ∃ s : State, ∃ t : State, exec c s = .next t :=
    ⟨(.d0Resume), (State.reset), (State.reset.noteIdle), rfl⟩

theorem witness_SessionsStay :
    ∃ s : State, ∃ t : State, sessionsOk s = true ∧ step s = .next t :=
    ⟨(State.reset), ((idleTick State.reset).noteIdle), by decide +kernel, rfl⟩

theorem witness_MemsStay :
    ∃ s : State, ∃ t : State, memsWf s = true ∧ step s = .next t :=
    ⟨(State.reset), ((idleTick State.reset).noteIdle), by decide +kernel, rfl⟩

theorem witness_RegisterReads :
    (∃ n : RingId, ∃ off : BitVec 20, ∃ s : State, hostLive s = true ∧ inWarmReset s = false ∧ off.toNat = 0x10010 + 64 * n.val) ∧
    (∃ s : State, hostLive s = true ∧ inWarmReset s = false) ∧
    (∃ s : State, hostLive s = true ∧ inWarmReset s = false) ∧
    (∃ a : BitVec 28, ∃ s : State, hostLive s = true ∧ inWarmReset s = false ∧ 0xC800000 ≤ a.toNat) ∧
    (∃ a : BitVec 28, ∃ s : State, hostLive s = true ∧ inWarmReset s = false ∧ a.toNat < vatBytes ∧ vatBad s a.toNat = false) :=
    ⟨⟨(3), (0x100D0), (up State.reset), by decide +kernel, by decide +kernel, by decide +kernel⟩,
     ⟨(up State.reset), by decide +kernel, by decide +kernel⟩,
     ⟨(up State.reset), by decide +kernel, by decide +kernel⟩,
     ⟨(0xC800000), (up State.reset), by decide +kernel, by decide +kernel, by decide +kernel⟩,
     ⟨(0x123456), (up State.reset), by decide +kernel, by decide +kernel, by decide +kernel, by decide +kernel⟩⟩

theorem witness_RegisterWrites :
    (∃ met : WriteMet, ∃ s : State, hostLive s = true ∧ inWarmReset s = false ∧ met.badTlp = false) ∧
    (∃ met : WriteMet, ∃ s : State, ∃ n : RingId, ∃ off : BitVec 20, hostLive s = true ∧ inWarmReset s = false ∧ met.badTlp = false ∧ off.toNat =
      0x10000 + 64 * n.val ∧ s.pcie.up = true) ∧
    (∃ met : WriteMet, ∃ s : State, hostLive s = true ∧ met.badTlp = true) ∧
    (∃ met : WriteMet, ∃ s : State, hostLive s = true ∧ inWarmReset s = false ∧ met.badTlp = false) ∧
    (∃ s : State, hostLive s = false) :=
    ⟨⟨(⟨false, Vector.replicate 32 3, 0x21⟩), (mP (up State.reset) fun p => { p with irqSum := 0xFFFFFFFFFF }), by decide +kernel,
      by decide +kernel, by decide +kernel⟩,
     ⟨(⟨false, Vector.replicate 32 3, 0x21⟩), (up State.reset), (3), (0x100C0), by decide +kernel, by decide +kernel, by decide +kernel,
       by decide +kernel, by decide +kernel⟩,
     ⟨(⟨true, Vector.replicate 32 3, 0⟩), (up State.reset), by decide +kernel, by decide +kernel⟩,
     ⟨(⟨false, Vector.replicate 32 3, 0x21⟩), (up State.reset), by decide +kernel, by decide +kernel, by decide +kernel⟩,
     ⟨(mP State.reset fun p => { p with up := false }), by decide +kernel⟩⟩

theorem witness_VatRegisters :
    (∃ m : Master, ∃ a : BitVec 26, ∃ s : State, vatAllowed s.life.phase m a.toNat = true ∧ vatBad s a.toNat = false ∧ s.vat.mem.wf = true ∧ a.toNat
      < vatBytes) ∧
    (∃ m : Master, ∃ a : BitVec 26, ∃ s : State, vatAllowed s.life.phase m a.toNat = true ∧ vatBad s a.toNat = false ∧ s.vat.mem.wf = true ∧ a.toNat
      < vatBytes) :=
    ⟨⟨(0), (5), (mL State.reset fun l => { l with phase := 3 }), by decide +kernel, by decide +kernel, by decide +kernel, by decide +kernel⟩,
     ⟨(0), (5), (mL State.reset fun l => { l with phase := 3 }), by decide +kernel, by decide +kernel, by decide +kernel, by decide +kernel⟩⟩

theorem witness_ProducerIndices :
    (∃ n : RingId, ∃ v : Word, ∃ s : State, s.pcie.up = true ∧ fwd s.rings[n].cons v ≤ rgSlots (ringBlk s n) ∧ fwd s.rings[n].cons s.rings[n].prod ≤
      fwd s.rings[n].cons v) ∧
    (∃ n : RingId, ∃ v : Word, ∃ s : State, s.pcie.up = true ∧ (rgSlots (ringBlk s n) < fwd s.rings[n].cons v ∨ fwd s.rings[n].cons v < fwd
      s.rings[n].cons s.rings[n].prod)) ∧
    (∃ s : State, hostLive s = true ∧ inWarmReset s = false ∧ 2 ≤ s.life.phase.val ∧ busLive s = true) ∧
    (∃ n : RingId, ∃ s : State, chanLive s n = true ∧ s.power.entering = none ∧ fwd s.rings[n].cons s.rings[n].prod ≤ s.rings[n].descs.length) ∧
    (∃ n : RingId, ∃ s : State, chanLive s n = true ∧ s.power.entering = none ∧ s.rings[n].descs.length < fwd s.rings[n].cons s.rings[n].prod) :=
    ⟨⟨(4), (29), (((ringOn (up State.reset) 4 0).updRing 4 fun r => { r with cons := 20, prod := 25 })), by decide +kernel, by decide +kernel,
      by decide +kernel⟩,
     ⟨(4), (40), (((ringOn (up State.reset) 4 0).updRing 4 fun r => { r with cons := 20, prod := 25 })), by decide +kernel, by decide +kernel⟩,
     ⟨(((aset (ringOn (up State.reset) 4 0) 0x80 4 [(8,6,26,1)]).updRing 4 fun r => { r with cons := 20, prod := 25 })), by decide +kernel,
       by decide +kernel, by decide +kernel, by decide +kernel⟩,
     ⟨(4), (((aset (ringOn (up State.reset) 4 0) 0x80 4 [(8,6,26,1)]).updRing 4 fun r => { r with cons := 20, prod := 20 })), by decide +kernel,
       by decide +kernel, by decide +kernel⟩,
     ⟨(4), (((aset (ringOn (up State.reset) 4 0) 0x80 4 [(8,6,26,1)]).updRing 4 fun r => { r with cons := 20, prod := 25 })), by decide +kernel,
       by decide +kernel, by decide +kernel⟩⟩

theorem witness_RingControl :
    (∃ n : RingId, ∃ s : State, s.rings[n].halted = true ∧ s.rings[n].reads = []) ∧
    (∃ n : RingId, ∃ x : ReadBurst, ∃ l : List ReadBurst, ∃ s : State, s.rings[n].halted = true ∧ s.rings[n].reads = x :: l) ∧
    (∃ n : RingId, ∃ d : Vector Word 8, ∃ l : List (Vector Word 8), ∃ s : State, s.rings[n].halted = true ∧ s.rings[n].cur = none ∧ s.rings[n].descs
      = d :: l) ∧
    (∃ n : RingId, ∃ s : State, s.rings[n].halted = false) ∧
    (∃ v : Fin 64, ∃ s : State, hostLive s = true ∧ s.pcie.msixEn = true ∧ s.pcie.pba.getLsbD v.val = true) ∧
    (∃ v : Fin 64, ∃ s : State, hostLive s = true ∧ s.pcie.pba.getLsbD v.val = false) ∧
    (∃ n : CoreId, ∃ o : Nat, ∃ a : BitVec 28, ∃ s : State, hostLive s = true ∧ inWarmReset s = false ∧ 2 ≤ s.life.phase.val ∧ s.taster.run = none ∧
      s.power.isolated.getLsbD 4 = false ∧ o < 0x40000 ∧ a.toNat = 0xC040000 + 0x100000 * n.val + o) :=
    ⟨⟨(4), (State.reset.updRing 4 fun r => { r with halted := true, tries := 3, reads := [] }), by decide +kernel, by decide +kernel⟩,
     ⟨(4), (⟨3, 0x1000, 16, none⟩), ([]), (State.reset.updRing 4 fun r => { r with halted := true, tries := 3, reads := [⟨3, 0x1000, 16, none⟩] }),
       by decide +kernel, by decide +kernel⟩,
     ⟨(4), (#v[1,2,3,4,5,6,7,8]), ([#v[1,2,3,4,5,6,7,9]]), (State.reset.updRing 4 fun r =>
       { r with halted := true, cur := none, descs := [#v[1,2,3,4,5,6,7,8], #v[1,2,3,4,5,6,7,9]] }), by decide +kernel, by decide +kernel,
       by decide +kernel⟩,
     ⟨(4), (State.reset), by decide +kernel⟩,
     ⟨(9), (mP (up State.reset) fun p => { p with msixEn := true, pba := 0x200 }), by decide +kernel, by decide +kernel, by decide +kernel⟩,
     ⟨(9), (mP (up State.reset) fun p => { p with pba := 0x400 }), by decide +kernel, by decide +kernel⟩,
     ⟨(3), (0x44), (0xC340044), (mX (mW (up State.reset) fun p => { p with isolated := 0 }) fun t => { t with run := none }), by decide +kernel,
       by decide +kernel, by decide +kernel, by decide +kernel, by decide +kernel, by decide +kernel, by decide +kernel⟩⟩

theorem witness_DescriptorsAndBursts :
    (∃ n : RingId, ∃ s : State, chanLive s n = true ∧ s.power.entering = none ∧ unfetched s n = 1 ∧ 0 < rgSlots (ringBlk s n)) ∧
    (∃ n : RingId, ∃ d : Vector Word 8, ∃ l : List (Vector Word 8), ∃ s : State, chanLive s n = true ∧ rgKind (ringBlk s n) = 0 ∧ s.rings[n].descs =
      d :: l ∧ s.rings[n].reads = [] ∧ s.rings[n].done = 0 ∧ s.rings[n].gathered = [] ∧ dsBad 0 d = false ∧ 16 ≤ burstOf (dsHost d) (dsLen d) ∧
      readsOut s < 32) ∧
    (∃ n : RingId, ∃ d : Vector Word 8, ∃ l : List (Vector Word 8), ∃ s : State, chanLive s n = true ∧ rgKind (ringBlk s n) = 5 ∧ s.rings[n].descs =
      d :: l ∧ s.rings[n].reads = [] ∧ s.rings[n].done = dsLen d ∧ 0 < dsLen d ∧ dsBad 5 d = false) ∧
    (∃ n : RingId, ∃ d : Vector Word 8, ∃ l : List (Vector Word 8), ∃ no : Nat, ∃ a : BitVec 64, ∃ data : List Byte, ∃ s : State, busLive s = true ∧
      s.rings[n].halted = false ∧ rgKind (ringBlk s n) = 0 ∧ s.rings[n].descs = d :: l ∧ s.rings[n].reads = [⟨no, a, data.length, none⟩]) ∧
    (∃ n : RingId, ∃ x : ReadBurst, ∃ l : List ReadBurst, ∃ s : State, chanLive s n = true ∧ s.rings[n].reads = x :: l ∧ s.rings[n].tries < rgRetry
      (ringBlk s n)) ∧
    (∃ n : RingId, ∃ x : ReadBurst, ∃ l : List ReadBurst, ∃ s : State, chanLive s n = true ∧ s.rings[n].reads = x :: l ∧ rgRetry (ringBlk s n) ≤
      s.rings[n].tries) :=
    ⟨⟨(4), ((ringOn (up State.reset) 4 1).updRing 4 fun r => { r with prod := 8, cons := 7, descs := [] }), by decide +kernel, by decide +kernel,
      by decide +kernel, by decide +kernel⟩,
     ⟨(4), (#v[0x1000,0,0x40,0,0,0,0,0]), ([]), ((ringOn (up State.reset) 4 0).updRing 4 fun r =>
       { r with prod := 8, cons := 7, descs := [#v[0x1000,0,0x40,0,0,0,0,0]], reads := [], done := 0, gathered := [] }), by decide +kernel,
       by decide +kernel, by decide +kernel, by decide +kernel, by decide +kernel, by decide +kernel, by decide +kernel, by decide +kernel,
       by decide +kernel⟩,
     ⟨(4), (#v[0x1000,0,0x40,0,0,0,0,0]), ([]), ((ringOn (up State.reset) 4 5).updRing 4 fun r =>
       { r with prod := 8, cons := 7, descs := [#v[0x1000,0,0x40,0,0,0,0,0]], reads := [], done := 0x40, gathered := [] }), by decide +kernel,
       by decide +kernel, by decide +kernel, by decide +kernel, by decide +kernel, by decide +kernel, by decide +kernel⟩,
     ⟨(4), (#v[0x1000,0,0x40,0,0,0,0,0]), ([]), (7), (0x1000), ([1,2,3]), ((ringOn (up State.reset) 4 0).updRing 4 fun r =>
       { r with prod := 8, cons := 7, descs := [#v[0x1000,0,0x40,0,0,0,0,0]], reads := [⟨7, 0x1000, 3, none⟩], done := 0, gathered := [] }),
       by decide +kernel, by decide +kernel, by decide +kernel, by decide +kernel, by decide +kernel⟩,
     ⟨(4), (⟨7, 0x1000, 3, none⟩), ([]), ((aset (ringOn (up State.reset) 4 0) 0x80 4 [(0,12,3,4)]).updRing 4 fun r =>
       { r with prod := 8, cons := 7, descs := [#v[0x1000,0,0x40,0,0,0,0,0]], reads := [⟨7, 0x1000, 3, none⟩], tries := 3 }), by decide +kernel,
       by decide +kernel, by decide +kernel⟩,
     ⟨(4), (⟨7, 0x1000, 3, none⟩), ([]), ((aset (ringOn (up State.reset) 4 0) 0x80 4 [(0,12,3,4)]).updRing 4 fun r =>
       { r with prod := 8, cons := 7, descs := [#v[0x1000,0,0x40,0,0,0,0,0]], reads := [⟨7, 0x1000, 3, none⟩], tries := 4 }), by decide +kernel,
       by decide +kernel, by decide +kernel⟩⟩

theorem witness_RingTimers :
    (∃ n : RingId, ∃ e : Nat, ∃ s : State, s.rings[n].holdoff = some e ∧ s.rings[n].merged = true ∧ s.pcie.msixEn = true ∧ s.pcie.table[vecRing
      n].masked = false) ∧
    (∃ n : RingId, ∃ e : Nat, ∃ s : State, s.rings[n].holdoff = some e ∧ s.rings[n].merged = false) ∧
    (∃ n : RingId, ∃ s : State, (∃ c ∈ s.commits, localDue c s.now = true ∧ bid 0x80 n.val ∈ c.left) ∧ rgEn (ringBlk s n) = true ∧ rgEn (s.shad 0x80
      n.val) = true) :=
    ⟨⟨(4), (500), (mP (State.reset.updRing 4 fun r => { r with holdoff := some 500, merged := true }) fun p =>
      { p with msixEn := true, table := p.table.set 4 ⟨0x1000, 3, false⟩ }), by decide +kernel, by decide +kernel, by decide +kernel,
      by decide +kernel⟩,
     ⟨(4), (500), (State.reset.updRing 4 fun r => { r with holdoff := some 500, merged := false }), by decide +kernel, by decide +kernel⟩,
     ⟨(4), (sset
       { ringOn State.reset 4 0 with commits := ⟨2, 9, 0x20, 0, 0, false, 0, 0, [], true, [bid 0x80 4, bid 0x01 0], 0, 0, 0⟩ :: State.reset.commits }
       0x80 4 [(0,0,1,1),(0,1,3,2)]), by decide +kernel, by decide +kernel, by decide +kernel⟩⟩

theorem witness_Deliveries :
    (∃ n : RingId, ∃ d : Vector Word 8, ∃ i : Item, ∃ s : State, chanLive s n = true ∧ rgKind (ringBlk s n) = 1 ∧ dsBad 1 d = false ∧
      s.rings[n].descs = [d] ∧ s.rings[n].cur = none ∧ s.rings[n].queue = [i] ∧ i.tag = 0 ∧ s.rings[n].done = 0 ∧ s.rings[n].reads = [] ∧ 0 <
      i.bytes.length ∧ i.bytes.length ≤ burstOf (dsHost d) (dsLen d) ∧ s.life.phase = 3 ∧ s.power.entering = none) ∧
    (∃ st : StreamId, ∃ x : Rec, ∃ l : List Rec, ∃ s : State, s.stream[st].queue = x :: l ∧ (∀ y ∈ x :: l, y.begun = false) ∧ canBegin s (stRing
      (s.act 0x14 st.val)) (convertRec (rgFmt (ringBlk s (stRing (s.act 0x14 st.val)))) (recordBytes s x)).1.length = true) ∧
    (∃ u : Fin 4, ∃ s : State, s.harv[u].st = .reading ∧ (∀ n : RingId, s.rings[n].cur = none) ∧ canBegin s (hvRing s.harv[u].set) (convertRec
      (rgFmt (ringBlk s (hvRing s.harv[u].set))) (captureRecord s u s.harv[u].sent [])).1.length = true) ∧
    (∃ n : CoreId, ∃ p : Post, ∃ l : List Post, ∃ k : RingId, ∃ s : State, s.core[n].posts = p :: l ∧ p.ring = some k ∧ rgFmt (ringBlk s k) = 0 ∧
      s.core[n].dmBad = [] ∧ canBegin s k (32 + (pad32 (s.core[n].dm.readN (wordAt p.desc 0).toNat (wordAt p.desc 1).toNat)).length) = true) :=
    ⟨⟨(4), (#v[0x1000,0,0x80,0,0,0,0,0]), (⟨[1,2,3,4], 1, 0, 0⟩), ((ringOn (up State.reset) 4 1).updRing 4 fun r =>
      { r with prod := 8, cons := 7, cur := none, descs := [#v[0x1000,0,0x80,0,0,0,0,0]], reads := [], done := 0, queue := [⟨[1,2,3,4], 1, 0, 0⟩], halted := false }),
      by decide +kernel, by decide +kernel, by decide +kernel, by decide +kernel, by decide +kernel, by decide +kernel, by decide +kernel,
      by decide +kernel, by decide +kernel, by decide +kernel, by decide +kernel, by decide +kernel, by decide +kernel⟩,
     ⟨(3), (⟨[1,2,3], [1,2,3,4], 0, none, false, false⟩), ([]), ((ringOn (up State.reset) (stRing (State.reset.act 0x14 3)) 2 |>.updRing (stRing
       (State.reset.act 0x14 3)) fun r =>
       { r with prod := 8, cons := 7, cur := none, halted := false, descs := [#v[0x1000,0,0x80,0,0,0,0,0]], queue := [] }).updStream 3 fun y =>
       { y with queue := [⟨[1,2,3], [1,2,3,4], 0, none, false, false⟩] }), by decide +kernel, by decide +kernel, by decide +kernel⟩,
     ⟨(2), (((ringOn (up State.reset) (hvRing State.reset.harv[2].set) 4).updHarv 2 fun h => { h with st := .reading }).updRing (hvRing
       State.reset.harv[2].set) fun r => { r with prod := 8, cons := 7, cur := none, descs := [#v[0x1000,0,0x800,0,0,0,0,0]] }), by decide +kernel,
       by decide +kernel, by decide +kernel⟩,
     ⟨(2), (⟨[0x100, 0x40, 3, 0,0,0,0,0,0,0,0,0,0,0,0,0], some 4⟩), ([]), (4), (((ringOn (up State.reset) 4 3).updCore 2 fun c =>
       { c with posts := [⟨[0x100, 0x40, 3, 0,0,0,0,0,0,0,0,0,0,0,0,0], some 4⟩] }).updRing 4 fun r =>
       { r with prod := 8, cons := 7, cur := none, halted := false, descs := [#v[0x1000,0,0x80,0,0,0,0,0]] }), by decide +kernel, by decide +kernel,
       by decide +kernel, by decide +kernel, by decide +kernel⟩⟩

theorem witness_EndpointResets :
    (∃ s : State, s.pcie.up = true ∧ s.power.entering = none ∧ s.power.state.val ≤ 1 ∧ (∀ n : RingId, s.rings[n].cur = none) ∧ s.commits = []) ∧
    (∃ s : State, s.pcie.up = true) ∧
    (∃ s : State, s.pcie.up = true ∧ s.pcie.d3hot = false ∧ s.pcie.pba = 0 ∧ (∀ n : RingId, ringWork s n = false)) ∧
    (∃ s : State, s.life.powered = true ∧ s.life.inReset = false ∧ s.life.straps.testMode = false ∧ s.life.thermtrip = false ∧ s.power.state ≠ 5 ∧
      s.pcie.wakeN = false) :=
    ⟨⟨({ up State.reset with commits := [] }), by decide +kernel, by decide +kernel, by decide +kernel, by decide +kernel, by decide +kernel⟩,
     ⟨(up State.reset), by decide +kernel⟩,
     ⟨(mP (up State.reset) fun p => { p with pba := 0 }), by decide +kernel, by decide +kernel, by decide +kernel, by decide +kernel⟩,
     ⟨(mP (up State.reset) fun p => { p with up := false, perst := true }), by decide +kernel, by decide +kernel, by decide +kernel,
       by decide +kernel, by decide +kernel, by decide +kernel⟩⟩

theorem witness_PacketsIn :
    (∃ i : SmbItem, ∃ j : SmbItem, ∃ l : List SmbItem, ∃ s : State, smbusLive s = true ∧ s.proto.smb = i :: j :: l) ∧
    (∃ i : SmbItem, ∃ s : State, smbusLive s = true ∧ s.proto.smb = [i]) ∧
    (∃ s : State, smbusLive s = true) ∧
    (∃ i : SmbItem, ∃ l : List SmbItem, ∃ s : State, smbusLive s = true ∧ s.proto.smb = i :: l) ∧
    (∃ b : List Byte, ∃ s : State, smbusLive s = true ∧ 3 ≤ s.life.phase.val ∧ s.life.running ≠ none ∧ s.proto.smb = [] ∧ b.length ≤ 255 ∧ cpRuns s
      = false) ∧
    (∃ s : State, smbusLive s = true ∧ 3 ≤ s.life.phase.val ∧ s.life.running ≠ none) ∧
    (∃ n : RingId, ∃ buf : List Byte, ∃ r : Req, ∃ len : Nat, ∃ ver : Nat, ∃ w2 : Word, ∃ s : State, cpRuns s = true ∧ rgEn (ringBlk s n) = true ∧
      rgKind (ringBlk s n) = 0 ∧ parseReq (.ring n) buf = (r, len, ver, w2) ∧ len ≤ 16384 ∧ 16 + 4 * len ≤ buf.length ∧ crc32c (wordsBytes
      r.payload) ≠ r.crc ∧ s.proto.waiting.all (fun q => knownOps.contains q.opcode.toNat) = true) ∧
    (∃ n : RingId, ∃ buf : List Byte, ∃ r : Req, ∃ len : Nat, ∃ ver : Nat, ∃ w2 : Word, ∃ x : Session, ∃ s : State, cpRuns s = true ∧ rgEn (ringBlk
      s n) = true ∧ rgKind (ringBlk s n) = 0 ∧ parseReq (.ring n) buf = (r, len, ver, w2) ∧ len ≤ 16384 ∧ 16 + 4 * len ≤ buf.length ∧ crc32c
      (wordsBytes r.payload) = r.crc ∧ r.sess ≠ 0 ∧ s.session r.sess = some x ∧ x.via = r.via ∧ wbits w2 16 2 = 0 ∧ wbits w2 19 5 = 0 ∧ ver =
      x.minor + x.major * 256 ∧ judgeSeq x r = .new ∧ s.proto.waiting.all (fun q => knownOps.contains q.opcode.toNat) = true ∧ knownOps.contains
      r.opcode.toNat = true) ∧
    (∃ n : RingId, ∃ buf : List Byte, ∃ r : Req, ∃ len : Nat, ∃ ver : Nat, ∃ w2 : Word, ∃ x : Session, ∃ s : State, cpRuns s = true ∧ rgEn (ringBlk
      s n) = true ∧ rgKind (ringBlk s n) = 0 ∧ parseReq (.ring n) buf = (r, len, ver, w2) ∧ len ≤ 16384 ∧ 16 + 4 * len ≤ buf.length ∧ crc32c
      (wordsBytes r.payload) = r.crc ∧ r.sess ≠ 0 ∧ s.session r.sess = some x ∧ x.via = r.via ∧ wbits w2 16 2 = 0 ∧ wbits w2 19 5 = 0 ∧ ver =
      x.minor + x.major * 256 ∧ judgeSeq x r = .new ∧ s.proto.waiting = [] ∧ knownOps.contains r.opcode.toNat = false ∧ heldItems s x < 64 ∧
      s.life.phase = 3) ∧
    (∃ n : RingId, ∃ s : State, cpRuns s = false ∧ rgEn (ringBlk s n) = true ∧ rgKind (ringBlk s n) = 0) :=
    ⟨⟨(⟨[1,2,3], true⟩), (⟨[4], false⟩), ([]), (mPr (up State.reset) fun p => { p with smb := [⟨[1,2,3], true⟩, ⟨[4], false⟩] }), by decide +kernel,
      by decide +kernel⟩,
     ⟨(⟨[1,2,3], true⟩), (mPr (up State.reset) fun p => { p with smb := [⟨[1,2,3], true⟩] }), by decide +kernel, by decide +kernel⟩,
     ⟨(mPr (up State.reset) fun p => { p with smb := [⟨[1,2,3], true⟩], smbDiscard := true }), by decide +kernel⟩,
     ⟨(⟨[1,2,3], true⟩), ([]), (mPr (up State.reset) fun p => { p with smb := [⟨[1,2,3], true⟩] }), by decide +kernel, by decide +kernel⟩,
     ⟨([1,2,3]), (mL (mPr (up State.reset) fun p => { p with smb := [] }) fun l => { l with phase := 4 }), by decide +kernel, by decide +kernel,
       by decide +kernel, by decide +kernel, by decide +kernel, by decide +kernel⟩,
     ⟨(up State.reset), by decide +kernel, by decide +kernel, by decide +kernel⟩,
     ⟨(4), ((packetBytes 2 3 0x802 6 false 1 []).set 12 0x55), ((parseReq (.ring 4) ((packetBytes 2 3 0x802 6 false 1 []).set 12 0x55)).1), (0),
       (0x203), ((parseReq (.ring 4) ((packetBytes 2 3 0x802 6 false 1 []).set 12 0x55)).2.2.2), (ringOn (up State.reset) 4 0), by decide +kernel,
       by decide +kernel, by decide +kernel, by decide +kernel, by decide +kernel, by decide +kernel, by decide +kernel, by decide +kernel⟩,
     ⟨(4), ((packetBytes 2 3 0x802 6 false 1 []).set 10 0), ((parseReq (.ring 4) ((packetBytes 2 3 0x802 6 false 1 []).set 10 0)).1), (0), (0x203),
       ((parseReq (.ring 4) ((packetBytes 2 3 0x802 6 false 1 []).set 10 0)).2.2.2), (⟨1, .ring 4, 2, 3, 0xFFFF, some 5, []⟩), (mPr (ringOn (up
       State.reset) 4 0) fun p => { p with sessions := ⟨1, .ring 4, 2, 3, 0xFFFF, some 5, []⟩ :: p.sessions }), by decide +kernel,
       by decide +kernel, by decide +kernel, by decide +kernel, by decide +kernel, by decide +kernel, by decide +kernel, by decide +kernel,
       by decide +kernel, by decide +kernel, by decide +kernel, by decide +kernel, by decide +kernel, by decide +kernel, by decide +kernel,
       by decide +kernel⟩,
     ⟨(4), (((packetBytes 2 3 0x999 6 false 1 []).set 10 0)), ((parseReq (.ring 4) (((packetBytes 2 3 0x999 6 false 1 []).set 10 0))).1), (0),
       (0x203), ((parseReq (.ring 4) (((packetBytes 2 3 0x999 6 false 1 []).set 10 0))).2.2.2), (⟨1, .ring 4, 2, 3, 0xFFFF, some 5, []⟩), (mPr
       (ringOn (up State.reset) 4 0) fun p => { p with sessions := ⟨1, .ring 4, 2, 3, 0xFFFF, some 5, []⟩ :: p.sessions, waiting := [] }),
       by decide +kernel, by decide +kernel, by decide +kernel, by decide +kernel, by decide +kernel, by decide +kernel, by decide +kernel,
       by decide +kernel, by decide +kernel, by decide +kernel, by decide +kernel, by decide +kernel, by decide +kernel, by decide +kernel,
       by decide +kernel, by decide +kernel, by decide +kernel, by decide +kernel⟩,
     ⟨(4), (mL (ringOn (up State.reset) 4 0) fun l => { l with phase := 2 }), by decide +kernel, by decide +kernel, by decide +kernel⟩⟩

theorem witness_PowerAndResetPins :
    (∃ s : State, s.life.powered = false) ∧
    (∃ s : State, s.life.powered = true ∧ s.life.inReset = false) ∧
    (∃ st : Straps, ∃ s : State, s.life.powered = true ∧ s.life.inReset = true ∧ s.life.straps.testMode = false ∧ s.life.pwrCycle = false ∧
      st.bootSel = 0 ∧ (∀ k : Fin 2, s.life.slots[k].st = .empty)) ∧
    (∃ st : Straps, ∃ i : Image, ∃ s : State, s.life.powered = true ∧ s.life.inReset = true ∧ s.life.straps.testMode = false ∧ s.life.pwrCycle =
      false ∧ st.bootSel = 0 ∧ s.life.slots[0].st = .valid ∧ s.life.slots[1].st = .empty ∧ validImage s.life false s.life.slots[0].data slotBytes =
      some i) ∧
    (∃ st : Straps, ∃ s : State, s.life.powered = true ∧ s.life.inReset = true ∧ s.life.straps.testMode = false ∧ s.life.pwrCycle = false ∧
      st.bootSel = 1) ∧
    (∃ s : State, s.life.powered = true ∧ s.life.thermtrip = false) :=
    ⟨⟨(mL State.reset fun l => { l with powered := false, slots := #v[⟨.valid, 3, [⟨5, 1⟩]⟩, ⟨.empty, 0, []⟩] }), by decide +kernel⟩,
     ⟨(mL (up State.reset) fun l => { l with slots := #v[⟨.valid, 3, [⟨5, 1⟩]⟩, ⟨.empty, 0, []⟩], fuseRollback := 3 }), by decide +kernel,
       by decide +kernel⟩,
     ⟨(⟨0, 1, false⟩), (mL (up State.reset) fun l => { l with inReset := true, phase := 0, running := none, slots := Vector.replicate 2 {} }),
       by decide +kernel, by decide +kernel, by decide +kernel, by decide +kernel, by decide +kernel, by decide +kernel⟩,
     ⟨(⟨0, 1, false⟩), (img 7), (mL (up State.reset) fun l =>
       { l with inReset := true, phase := 0, running := none, keys := #v[keyG,(0,0),(0,0),(0,0)], slots := #v[⟨.valid, 3, imgMem imgWords⟩, ⟨.empty, 0, []⟩] }),
       by decide +kernel, by decide +kernel, by decide +kernel, by decide +kernel, by decide +kernel, by decide +kernel, by decide +kernel,
       by decide +kernel⟩,
     ⟨(⟨1, 1, false⟩), (mL (up State.reset) fun l => { l with inReset := true, phase := 0, running := none }), by decide +kernel, by decide +kernel,
       by decide +kernel, by decide +kernel, by decide +kernel⟩,
     ⟨(up State.reset), by decide +kernel, by decide +kernel⟩⟩

theorem witness_StartUp :
    (∃ i : Image, ∃ s : State, s.life.hostWait = true ∧ hostLive s = true ∧ validImage s.life (s.life.straps.bootSel = 3) s.vat.mem
      s.pcie.scratch.toNat = some i) ∧
    (∃ s : State, s.life.hostWait = true ∧ hostLive s = true ∧ validImage s.life (s.life.straps.bootSel = 3) s.vat.mem s.pcie.scratch.toNat = none)
      ∧
    (∃ e : StartEnv, ∃ s : State, s.life.phase = 1 ∧ s.life.hostWait = false ∧ s.life.running.isSome = true ∧ densityOk e.densityMib = true) ∧
    (∃ s : State, s.life.phase = 2) :=
    ⟨⟨(img 7),
      ({ mL (mP (up State.reset) fun p => { p with scratch := 257 }) fun l => { l with hostWait := true, running := none, phase := 1, keys := #v[keyG,(0,0),(0,0),(0,0)], straps := ⟨1, 0, false⟩ } with vat := { State.reset.vat with mem := imgMem imgWords } }),
      by decide +kernel, by decide +kernel, by decide +kernel⟩,
     ⟨(mL (mP (up State.reset) fun p => { p with scratch := 257 }) fun l =>
       { l with hostWait := true, running := none, phase := 1, straps := ⟨1, 0, false⟩ }), by decide +kernel, by decide +kernel, by decide +kernel⟩,
     ⟨(⟨[], Vector.replicate 4 2048, false⟩), (mL (up State.reset) fun l => { l with phase := 1, hostWait := false }), by decide +kernel,
       by decide +kernel, by decide +kernel, by decide +kernel⟩,
     ⟨(mL (up State.reset) fun l => { l with phase := 2 }), by decide +kernel⟩⟩

theorem witness_RecoveryLadder :
    (∃ s : State, 3 ≤ s.life.phase.val ∧ s.life.running.isSome = true ∧ s.life.pwrCycle = false ∧ s.life.pendReset = none ∧ s.power.state.val ≤ 1 ∧
      s.life.previous = none ∧ liveOp s = none ∧ s.life.lastBite = none) ∧
    (∃ w : Nat, ∃ b : Nat, ∃ s : State, 3 ≤ s.life.phase.val ∧ s.life.running.isSome = true ∧ s.life.pwrCycle = false ∧ s.life.pendReset = none ∧
      s.power.state.val ≤ 1 ∧ s.life.previous = none ∧ liveOp s = none ∧ s.life.lastBite = some b ∧ max s.time.clk w < b + 10 ^ 13) ∧
    (∃ w : Nat, ∃ s : State, s.life.phase = 4 ∧ s.life.cpRestart = some w ∧ s.life.backTo5 = false ∧ s.power.state.val ≤ 1 ∧ liveOp s = none ∧
      s.life.activating = none ∧ s.proto.heldIn = [] ∧ s.proto.smbLater = []) ∧
    (∃ w : Nat, ∃ s : State, s.life.phase = 4 ∧ s.life.cpRestart = some w ∧ liveOp s = none ∧ s.life.pendReset = none) ∧
    (∃ w : Nat, ∃ s : State, s.life.l3Since = some w ∧ s.life.phase.val < 3 ∧ s.life.autoL4 = true ∧ s.life.pwrCycle = false) ∧
    (∃ w : Nat, ∃ s : State, s.life.l3Since = some w ∧ s.life.phase.val < 3 ∧ s.life.autoL4 = false) ∧
    (∃ w : Nat, ∃ s : State, s.life.heartbeat = some w ∧ syTimeout (syBlk s) ≠ 0 ∧ s.life.pendReset = none ∧ syAction (syBlk s) = 0) ∧
    (∃ w : Nat, ∃ s : State, s.life.heartbeat = some w ∧ syTimeout (syBlk s) ≠ 0 ∧ s.life.pendReset = none ∧ syAction (syBlk s) = 1) ∧
    (∃ s : State, hostLive s = true ∧ inWarmReset s = false ∧ s.life.phase = 3 ∧ syTimeout (syBlk s) ≠ 0) ∧
    (∃ w : Nat, ∃ s : State, s.life.heartbeat = some w ∧ syTimeout (syBlk s) ≠ 0 ∧ s.life.pendReset = none ∧ syAction (syBlk s) = 2 ∧
      s.life.pwrCycle = false) :=
    ⟨⟨(mL (up State.reset) fun l => { l with pendReset := none, previous := none, lastBite := none }), by decide +kernel, by decide +kernel,
      by decide +kernel, by decide +kernel, by decide +kernel, by decide +kernel, by decide +kernel, by decide +kernel⟩,
     ⟨(5000), (77), (mL (up State.reset) fun l => { l with pendReset := none, previous := none, lastBite := some 77 }), by decide +kernel,
       by decide +kernel, by decide +kernel, by decide +kernel, by decide +kernel, by decide +kernel, by decide +kernel, by decide +kernel,
       by decide +kernel⟩,
     ⟨(44), (mL (mPr (up State.reset) fun p => { p with heldIn := [] }) fun l =>
       { l with phase := 4, cpRestart := some 44, activating := none, backTo5 := false }), by decide +kernel, by decide +kernel, by decide +kernel,
       by decide +kernel, by decide +kernel, by decide +kernel, by decide +kernel, by decide +kernel⟩,
     ⟨(44), (mL (up State.reset) fun l => { l with phase := 4, cpRestart := some 44, pendReset := none }), by decide +kernel, by decide +kernel,
       by decide +kernel, by decide +kernel⟩,
     ⟨(44), (mL (up State.reset) fun l => { l with phase := 2, l3Since := some 44, autoL4 := true }), by decide +kernel, by decide +kernel,
       by decide +kernel, by decide +kernel⟩,
     ⟨(44), (mL (up State.reset) fun l => { l with phase := 2, l3Since := some 44, autoL4 := false }), by decide +kernel, by decide +kernel,
       by decide +kernel⟩,
     ⟨(44), (aset (mL (up State.reset) fun l => { l with heartbeat := some 44, pendReset := none }) 0x01 0 [(0,0,16,100),(0,16,2,0)]),
       by decide +kernel, by decide +kernel, by decide +kernel, by decide +kernel⟩,
     ⟨(44), (aset (mL (up State.reset) fun l => { l with heartbeat := some 44, pendReset := none }) 0x01 0 [(0,0,16,100),(0,16,2,1)]),
       by decide +kernel, by decide +kernel, by decide +kernel, by decide +kernel⟩,
     ⟨(aset (up State.reset) 0x01 0 [(0,0,16,100)]), by decide +kernel, by decide +kernel, by decide +kernel, by decide +kernel⟩,
     ⟨(44), (aset (mL (up State.reset) fun l => { l with heartbeat := some 44, pendReset := none, pwrCycle := false }) 0x01 0
       [(0,0,16,100),(0,16,2,2)]), by decide +kernel, by decide +kernel, by decide +kernel, by decide +kernel, by decide +kernel⟩⟩

theorem witness_CommandedResets :
    (∃ r : Req, ∃ s : State, Ready 0x0C03 [] 1 1 r s ∧ (wordAt r.payload 0).toNat ≤ 1 ∧ s.life.pendReset = none) ∧
    (∃ r : Req, ∃ s : State, Ready 0x0C04 [] 0 0 r s ∧ s.life.pendCycle = none) ∧
    (∃ p : PendReset, ∃ s : State, s.life.pendReset = some p ∧ s.life.l3Times.length < syLimit (syBlk s) ∧ s.life.pwrCycle = false ∧
      s.life.straps.testMode = false) ∧
    (∃ p : PendReset, ∃ s : State, s.life.pendReset = some p ∧ (∀ x ∈ s.life.l3Times, s.life.before + max s.time.clk p.due ≤ x + 6 * 10 ^ 14) ∧
      s.life.l3Times.length < 256 ∧ syLimit (syBlk s) ≤ s.life.l3Times.length ∧ syAuto (syBlk s) = false) ∧
    (∃ r : Req, ∃ n : RingId, ∃ s : State, Ready 0x0C02 [] 1 1 r s ∧ (wordAt r.payload 0).toNat = 2 + 4 * n.val ∧ rgEn (ringBlk s n) = true) ∧
    (∃ r : Req, ∃ f : Fe, ∃ s : State, Ready 0x0C02 [] 1 1 r s ∧ (wordAt r.payload 0).toNat = 4 * f.val ∧ s.power.isolated.getLsbD f.val = false) ∧
    (∃ r : Req, ∃ s : State, Ready 0x0C02 [] 1 1 r s ∧ (wordAt r.payload 0).toNat = 1 + 4 * 8) ∧
    (∃ r : Req, ∃ s : State, Ready 0x0C01 [] 0 0 r s) :=
    ⟨⟨(req 0x0C03 [1]), (mL (ready (req 0x0C03 [1]) State.reset) fun l => { l with pendReset := none }), ready_of (by decide +kernel),
      by decide +kernel, by decide +kernel⟩,
     ⟨(req 0x0C04 []), (mL (ready (req 0x0C04 []) State.reset) fun l => { l with pendCycle := none }), ready_of (by decide +kernel),
       by decide +kernel⟩,
     ⟨(⟨1000, true, 2⟩), (mL (up State.reset) fun l =>
       { l with pendReset := some ⟨1000, true, 2⟩, l3Times := [], slots := #v[⟨.valid, 3, [⟨5, 1⟩]⟩, ⟨.empty, 0, []⟩] }), by decide +kernel,
       by decide +kernel, by decide +kernel, by decide +kernel⟩,
     ⟨(⟨1000, true, 2⟩), (mL (up State.reset) fun l =>
       { l with pendReset := some ⟨1000, true, 2⟩, l3Times := List.replicate 200 (State.reset.time.clk + l.before + 5), slots := #v[⟨.valid, 3, [⟨5, 1⟩]⟩, ⟨.empty, 0, []⟩] }),
       by decide +kernel, by decide +kernel, by decide +kernel, by decide +kernel, by decide +kernel⟩,
     ⟨(req 0x0C02 [18]), (4), (ready (req 0x0C02 [18]) (ringOn State.reset 4 2)), ready_of (by decide +kernel), by decide +kernel,
       by decide +kernel⟩,
     ⟨(req 0x0C02 [8]), (2), (mW (ready (req 0x0C02 [8]) State.reset) fun p => { p with isolated := 0 }), ready_of (by decide +kernel),
       by decide +kernel, by decide +kernel⟩,
     ⟨(req 0x0C02 [33]), (ready (req 0x0C02 [33]) State.reset), ready_of (by decide +kernel), by decide +kernel⟩,
     ⟨(req 0x0C01 []), (ready (req 0x0C01 []) State.reset), ready_of (by decide +kernel)⟩⟩

theorem witness_FirmwareChange :
    (∃ r : Req, ∃ s : State, Ready 0x0C05 [] 2 16384 r s ∧ rsvdBad r 0 0x7FFFFC = false ∧ wbits (wordAt r.payload 0) 0 23 + 4 * (r.payload.length -
      1) ≤ slotBytes ∧ liveOp s = none ∧ inTrial s = false ∧ storeRuns s = false ∧ wbits (wordAt r.payload 0) 0 23 ≠ 0) ∧
    (∃ o : Op, ∃ off : Nat, ∃ dat : List Word, ∃ i : Image, ∃ s : State, s.opWhere (fun k => match k with | .fwWrite _ _ => true | _ => false) =
      some o ∧ o.kind = .fwWrite off dat ∧ s.life.running = some (i, 0)) ∧
    (∃ o : Op, ∃ off : Nat, ∃ dat : List Word, ∃ s : State, s.opWhere (fun k => match k with | .fwWrite _ _ => true | _ => false) = some o ∧ o.kind
      = .fwWrite off dat) ∧
    (∃ r : Req, ∃ i : Image, ∃ s : State, Ready 0x0C06 [] 1 1 r s ∧ wordAt r.payload 0 = 1 ∧ trainingRuns s = false ∧ calRuns s = false ∧
      s.life.running = some (i, 0)) ∧
    (∃ r : Req, ∃ i : Image, ∃ s : State, Ready 0x0C07 [] 0 0 r s ∧ s.life.running = some (i, 1) ∧ s.life.slots[1].st = .trialTried ∧
      s.life.fuseRollback.toNat < i.rollback.toNat) ∧
    (∃ i : Image, ∃ j : Image, ∃ s : State, liveOp s = none ∧ s.life.activating = none ∧ s.life.running = some (i, 1) ∧ s.life.previous = some (j,
      0)) ∧
    (∃ o : Op, ∃ i : Image, ∃ j : Image, ∃ s : State, liveOp s = some o ∧ s.life.activating = some (i, 1) ∧ s.life.running = some (j, 0)) :=
    ⟨⟨(req 0x0C05 [64, 1, 2]), (ready (req 0x0C05 [64, 1, 2]) State.reset), ready_of (by decide +kernel), by decide +kernel, by decide +kernel,
      by decide +kernel, by decide +kernel, by decide +kernel, by decide +kernel⟩,
     ⟨(⟨1, 5, 0x0C05, .fwWrite 64 [1,2], true, 3⟩), (64), ([1,2]), (img 7), (mPr (up State.reset) fun p =>
       { p with ops := ⟨1, 5, 0x0C05, .fwWrite 64 [1,2], true, 3⟩ :: p.ops }), by decide +kernel, by decide +kernel, by decide +kernel⟩,
     ⟨(⟨1, 5, 0x0C05, .fwWrite 64 [1,2], true, 3⟩), (64), ([1,2]), (mPr (up State.reset) fun p =>
       { p with ops := ⟨1, 5, 0x0C05, .fwWrite 64 [1,2], true, 3⟩ :: p.ops }), by decide +kernel, by decide +kernel⟩,
     ⟨(req 0x0C06 [1]), (img 7), (ready (req 0x0C06 [1]) State.reset), ready_of (by decide +kernel), by decide +kernel, by decide +kernel,
       by decide +kernel, by decide +kernel⟩,
     ⟨(req 0x0C07 []), ({ img 7 with rollback := 4 }), (mL (ready (req 0x0C07 []) State.reset) fun l =>
       { l with running := some ({ img 7 with rollback := 4 }, 1), slots := #v[⟨.valid, 3, []⟩, ⟨.trialTried, 4, []⟩], fuseRollback := 1 }),
       ready_of (by decide +kernel), by decide +kernel, by decide +kernel, by decide +kernel⟩,
     ⟨(img 7), (img 6), (mL (up State.reset) fun l =>
       { l with running := some (img 7, 1), previous := some (img 6, 0), activating := none, slots := #v[⟨.valid, 3, []⟩, ⟨.trialTried, 4, []⟩] }),
       by decide +kernel, by decide +kernel, by decide +kernel, by decide +kernel⟩,
     ⟨(⟨1, 5, 0x0C06, .fwActivate true, true, 3⟩), (img 7), (img 6), (mL (mPr (up State.reset) fun p =>
       { p with ops := ⟨1, 5, 0x0C06, .fwActivate true, true, 3⟩ :: p.ops }) fun l =>
       { l with running := some (img 6, 0), activating := some (img 7, 1), slots := #v[⟨.valid, 3, []⟩, ⟨.trialTried, 4, []⟩] }), by decide +kernel,
       by decide +kernel, by decide +kernel⟩⟩

theorem witness_PowerOpcodes :
    (∃ r : Req, ∃ s : State, Ready 0x0B01 [] 0 0 r s) ∧
    (∃ r : Req, ∃ n : Fin 6, ∃ s : State, Ready 0x0B02 [] 3 3 r s ∧ 2 ≤ n.val ∧ (wordAt r.payload 0).toNat = n.val ∧ (word64 r.payload 1 = 0 ∨ s.now
      < word64 r.payload 1) ∧ notIdle s = false) ∧
    (∃ r : Req, ∃ n : Fin 6, ∃ s : State, Ready 0x0B02 [] 3 3 r s ∧ 2 ≤ n.val ∧ (wordAt r.payload 0).toNat = n.val ∧ (word64 r.payload 1 = 0 ∨ s.now
      < word64 r.payload 1) ∧ notIdle s = true) ∧
    (∃ r : Req, ∃ s : State, Ready 0x0B03 [] 0 0 r s ∧ r.via ≠ .smbus) ∧
    (∃ r : Req, ∃ k : Nat, ∃ s : State, Ready 0x0B04 [] 1 1 r s ∧ (wordAt r.payload 0).toNat = k ∧ k ≤ 4 ∧ (∀ c ∈ crossings k, crossApart s c 120 =
      false)) ∧
    (∃ r : Req, ∃ k : Nat, ∃ s : State, Ready 0x0B04 [] 1 1 r s ∧ (wordAt r.payload 0).toNat = k ∧ k ≤ 4 ∧ (∃ c ∈ crossings k, crossApart s c 120 =
      true)) :=
    ⟨⟨(req 0x0B01 []), (mW (ready (req 0x0B01 []) State.reset) fun p => { p with shedCount := 4 }), ready_of (by decide +kernel)⟩,
     ⟨(req 0x0B02 [3, 0, 0]), (3), (mPr (mW { ready (req 0x0B02 [3, 0, 0]) State.reset with commits := [], core := State.reset.core } fun p =>
       { p with state := 1, queue := [] }) fun p => { p with ops := [] }), ready_of (by decide +kernel), by decide +kernel, by decide +kernel,
       by decide +kernel, by decide +kernel⟩,
     ⟨(req 0x0B02 [3, 0, 0]), (3), (ready (req 0x0B02 [3, 0, 0]) State.reset), ready_of (by decide +kernel), by decide +kernel, by decide +kernel,
       by decide +kernel, by decide +kernel⟩,
     ⟨(reqR 0x0B03 []), (ready (reqR 0x0B03 []) State.reset), ready_of (by decide +kernel), by decide +kernel⟩,
     ⟨(req 0x0B04 [2]), (2), (mW (ready (req 0x0B04 [2]) State.reset) fun p => { p with isolated := 5 }), ready_of (by decide +kernel),
       by decide +kernel, by decide +kernel, by decide +kernel⟩,
     ⟨(req 0x0B04 [2]), (2), (mW (ready (req 0x0B04 [2]) State.reset) fun p => { p with isolated := 5, volts := #v[640,800,800,800] }), ready_of
       (by decide +kernel), by decide +kernel, by decide +kernel, by decide +kernel⟩⟩

theorem witness_PowerMonitoring :
    (∃ m : MarginSample, ∃ s : State, cpRuns s = true ∧ (∀ k : Fin 7, 250 ≤ m.margin[k] ∧ m.margin[k] < 300) ∧ dspHeld s = false ∧ (∀ k : Fin 4,
      s.power.rails[k].mv ≤ vmaxOf s k)) ∧
    (∃ p : RegPoll, ∃ s : State, cpRuns s = true ∧ p.noAck = false ∧ p.outputFault = false ∧ p.settled = false) ∧
    (∃ k : Fin 4, ∃ p : RegPoll, ∃ s : State, cpRuns s = true ∧ p.noAck = true ∧ s.power.rails[k].naks = 2 ∧ s.power.rails[k].faulted = false) ∧
    (∃ c : Fin 11, ∃ s : State, railsUp s = true ∧ s.power.guarded.getLsbD c.val = false) ∧
    (∃ c : Fin 11, ∃ s : State, railsUp s = true ∧ s.power.guarded.getLsbD c.val = true) :=
    ⟨⟨(⟨Vector.replicate 7 260, Vector.replicate 16 30000, Vector.replicate 4 790⟩),
      ({ mW (up State.reset) fun p => { p with rails := Vector.replicate 4 {} } with core := Vector.replicate 8 {} }), by decide +kernel,
      by decide +kernel, by decide +kernel, by decide +kernel⟩,
     ⟨(⟨false, false, 790, 1000, false⟩), ((up State.reset).updRail 2 fun r => { r with naks := 2 }), by decide +kernel, by decide +kernel,
       by decide +kernel, by decide +kernel⟩,
     ⟨(2), (⟨false, true, 790, 1000, false⟩), ((up State.reset).updRail 2 fun r => { r with naks := 2, faulted := false }), by decide +kernel,
       by decide +kernel, by decide +kernel, by decide +kernel⟩,
     ⟨(3), (mW (up State.reset) fun p => { p with guarded := 0 }), by decide +kernel, by decide +kernel⟩,
     ⟨(3), (mW (up State.reset) fun p => { p with guarded := 15 }), by decide +kernel, by decide +kernel⟩⟩

theorem witness_SheddingAndIsolation :
    (∃ s : State, cpRuns s = true ∧ mustShed s = true ∧ s.power.shed1 = false) ∧
    (∃ s : State, cpRuns s = true ∧ mustShed s = true ∧ s.power.shed1 = true ∧ s.power.shed2 = false) ∧
    (∃ s : State, cpRuns s = true ∧ mustShed s = true ∧ s.power.shed1 = true ∧ s.power.shed2 = true ∧ canShedTone s = true) ∧
    (∃ e : Nat, ∃ s : State, s.power.easySince = some e ∧ cpRuns s = true ∧ 0 < s.power.shed3) ∧
    (∃ e : Nat, ∃ s : State, s.power.easySince = some e ∧ cpRuns s = true ∧ s.power.shed3 = 0 ∧ s.power.shed2 = false ∧ s.power.shed1 = true) ∧
    (∃ f : Fe, ∃ s : State, railsUp s = true ∧ s.power.isolated.getLsbD f.val = false) ∧
    (∃ s : State, railsUp s = true ∧ s.power.isolated.getLsbD 4 = false ∧ (∀ n : CoreId, s.core[n].st = .stopped) ∧ s.taster.run = none ∧
      s.proto.ops = []) ∧
    (∃ k : Fin 7, ∃ s : State, 5 ≤ k.val ∧ railsUp s = true ∧ s.power.isolated.getLsbD k.val = false ∧ s.life.pendReset = none) ∧
    (∃ k : Fin 7, ∃ s : State, s.power.isolated.getLsbD k.val = true) :=
    ⟨⟨(mW (up State.reset) fun p => { p with short := Vector.replicate 7 3, shed1 := false, rails := Vector.replicate 4 { mv := 5000 } }),
      by decide +kernel, by decide +kernel, by decide +kernel⟩,
     ⟨(mW
       { up State.reset with core := if State.reset.core[0].st = .stopped then (State.reset.core.set 1 { st := .running }).set 2 { st := .waiting } else State.reset.core }
       fun p => { p with short := Vector.replicate 7 3, shed1 := true, shed2 := false, rails := Vector.replicate 4 { mv := 5000 } }),
       by decide +kernel, by decide +kernel, by decide +kernel, by decide +kernel⟩,
     ⟨(aset (mW (up State.reset) fun p =>
       { p with short := Vector.replicate 7 3, shed1 := true, shed2 := true, shed3 := 0, rails := Vector.replicate 4 { mv := 5000 } }) 0x10 1
       [(0,0,1,1),(16,0,1,1),(18,0,1,1)]), by decide +kernel, by decide +kernel, by decide +kernel, by decide +kernel, by decide +kernel⟩,
     ⟨(33), (mW (up State.reset) fun p => { p with easySince := some 33, shed3 := 2, shed2 := true, shed1 := true }), by decide +kernel,
       by decide +kernel, by decide +kernel⟩,
     ⟨(33), (mW (up State.reset) fun p => { p with easySince := some 33, shed3 := 0, shed2 := false, shed1 := true }), by decide +kernel,
       by decide +kernel, by decide +kernel, by decide +kernel, by decide +kernel⟩,
     ⟨(2), (mW (up State.reset) fun p => { p with isolated := 1 }), by decide +kernel, by decide +kernel⟩,
     ⟨(mX (mPr { mW (up State.reset) fun p => { p with isolated := 1 } with core := Vector.replicate 8 { im := [⟨4, 4⟩], dm := [⟨4,5⟩] } } fun p =>
       { p with ops := [] }) fun t => { t with run := none }), by decide +kernel, by decide +kernel, by decide +kernel, by decide +kernel,
       by decide +kernel⟩,
     ⟨(5), (mL (mW (up State.reset) fun p => { p with isolated := 1 }) fun l => { l with pendReset := none }), by decide +kernel, by decide +kernel,
       by decide +kernel, by decide +kernel⟩,
     ⟨(5), (mW (up State.reset) fun p => { p with isolated := 33 }), by decide +kernel⟩⟩

theorem witness_Admission :
    (∃ q : QReq, ∃ l : List QReq, ∃ s : State, s.power.queue = q :: l ∧ s.life.phase = 3 ∧ cpRuns s = true ∧ fits s q.budget = true ∧ q.req.opcode =
      0x0701 ∧ rsvdBad q.req 0 0x7F = false ∧ trainBusy s = none) ∧
    (∃ q : QReq, ∃ l : List QReq, ∃ s : State, s.power.queue = q :: l ∧ fits s q.budget = false) ∧
    (∃ q : QReq, ∃ l : List QReq, ∃ s : State, s.power.queue = q :: l ∧ s.life.phase = 3 ∧ cpRuns s = true ∧ fits s q.budget = false ∧ q.req.opcode
      = 0x0701) :=
    ⟨⟨(⟨⟨.smbus, 1, 9, 0x0701, 0, [0x11]⟩, 1500, 33⟩), ([]), (mPr
      { mW (up State.reset) fun p => { p with queue := [⟨⟨.smbus, 1, 9, 0x0701, 0, [0x11]⟩, 1500, 33⟩], shed1 := false, shed2 := false, shed3 := 0, grants := [] } with fe := State.reset.fe, harv := State.reset.harv, rings := State.reset.rings }
      fun p => { p with ops := [] }), by decide +kernel, by decide +kernel, by decide +kernel, by decide +kernel, by decide +kernel,
      by decide +kernel, by decide +kernel⟩,
     ⟨(⟨⟨.smbus, 1, 9, 0x0701, 0, [0x11]⟩, 1500, 33⟩), ([]), (mW (up State.reset) fun p =>
       { p with queue := [⟨⟨.smbus, 1, 9, 0x0701, 0, [0x11]⟩, 1500, 33⟩], shed1 := true }), by decide +kernel, by decide +kernel⟩,
     ⟨(⟨⟨.smbus, 1, 9, 0x0701, 0, [0x11]⟩, 1500, 33⟩), ([]), (mPr (mW (up State.reset) fun p =>
       { p with queue := [⟨⟨.smbus, 1, 9, 0x0701, 0, [0x11]⟩, 1500, 33⟩], shed1 := true }) fun p =>
       { p with sessions := ⟨1, .ring 4, 2, 3, 0xFFFF, some 9, []⟩ :: p.sessions }), by decide +kernel, by decide +kernel, by decide +kernel,
       by decide +kernel, by decide +kernel⟩⟩

theorem witness_PowerStates :
    (∃ w : Nat, ∃ s : State, s.power.idleSince = some w ∧ cpRuns s = true ∧ s.power.state = 0 ∧ isIdle s = true) ∧
    (∃ st : Fin 6, ∃ s : State, s.power.entering = some st ∧ 2 ≤ st.val ∧ s.power.wakeSeen = 0) ∧
    (∃ st : Fin 6, ∃ src : Fin 6, ∃ s : State, s.power.entering = some st ∧ src ≠ 4 ∧ wakeEnabled s st src = true ∧ s.power.state.val < 2) ∧
    (∃ src : Fin 6, ∃ s : State, s.power.entering = none ∧ 2 ≤ s.power.state.val ∧ src.val < 4 ∧ wakeEnabled s s.power.state src = true ∧
      s.proto.heldIn = [] ∧ s.proto.smbLater = []) ∧
    (∃ v : BitVec 64, ∃ s : State, s.power.entering = none ∧ s.power.state = 2 ∧ s.power.wakeAt = some v ∧ s.proto.heldIn = [] ∧ s.proto.smbLater =
      []) :=
    ⟨⟨(55),
      ({ mX (mPr { mW (up State.reset) fun p => { p with idleSince := some 55 } with core := State.reset.core, tiu := State.reset.tiu, harv := State.reset.harv, rings := State.reset.rings } fun p => { p with ops := [] }) fun t => { t with run := none } with params := State.reset.params }),
      by decide +kernel, by decide +kernel, by decide +kernel, by decide +kernel⟩,
     ⟨(3), (mW (up State.reset) fun p => { p with state := 1, entering := some 3, wakeSeen := 0 }), by decide +kernel, by decide +kernel,
       by decide +kernel⟩,
     ⟨(2), (1), (aset (mW (up State.reset) fun p => { p with state := 1, entering := some 2, wakeSeen := 0 }) 0xC0 0 [(8,20,1,1)]),
       by decide +kernel, by decide +kernel, by decide +kernel, by decide +kernel⟩,
     ⟨(1), (aset (mPr (mW (up State.reset) fun p => { p with state := 3, entering := none, wakeSeen := 0 }) fun p => { p with heldIn := [] }) 0xC0 0
       [(8,20,1,1)]), by decide +kernel, by decide +kernel, by decide +kernel, by decide +kernel, by decide +kernel, by decide +kernel⟩,
     ⟨(0x5000000000000000), (mPr (mW (up State.reset) fun p =>
       { p with state := 2, entering := none, wakeSeen := 0, wakeAt := some 0x5000000000000000 }) fun p => { p with heldIn := [] }),
       by decide +kernel, by decide +kernel, by decide +kernel, by decide +kernel, by decide +kernel⟩⟩

theorem witness_PinsAndLimits :
    (∃ s : State, s.power.state.val < 4 ∧ bf (s.act 0xC0 0) 8 16 4 = 0) ∧
    (∃ p : Fin 16, ∃ s : State, (bf (s.act 0xC0 0) 8 0 16).testBit p.val = false) ∧
    (∃ p : Fin 16, ∃ st : Fin 6, ∃ s : State, (bf (s.act 0xC0 0) 8 0 16).testBit p.val = true ∧ s.power.entering = some st) ∧
    (∃ o : Op, ∃ off : Nat, ∃ dat : List Word, ∃ s : State, s.findOp o.sess o.seq = some o ∧ o.kind = .fwWrite off dat ∧ cpRuns s = true) :=
    ⟨⟨(up State.reset), by decide +kernel, by decide +kernel⟩,
     ⟨(2), (up State.reset), by decide +kernel⟩,
     ⟨(2), (3), (aset (mW (up State.reset) fun p => { p with state := 1, entering := some 3, wakeSeen := 0 }) 0xC0 0 [(8,0,16,4)]),
       by decide +kernel, by decide +kernel⟩,
     ⟨(⟨1, 5, 0x0C05, .fwWrite 64 [1,2], true, 3⟩), (64), ([1,2]), (mPr (up State.reset) fun p =>
       { p with ops := ⟨1, 5, 0x0C05, .fwWrite 64 [1,2], true, 3⟩ :: p.ops }), by decide +kernel, by decide +kernel, by decide +kernel⟩⟩

theorem witness_TimeSources :
    (∃ s : State, s.time.refLost = false) ∧
    (∃ s : State, s.time.refLost = true) ∧
    (∃ n : Nat, ∃ s : State, s.time.lostInGate = false ∧ s.time.refLost = false ∧ s.time.refBad = false ∧ (n < 99980 ∨ 100020 < n)) ∧
    (∃ n : Nat, ∃ s : State, s.time.lostInGate = false ∧ s.time.refLost = false ∧ 99980 ≤ n ∧ n ≤ 100020) ∧
    (∃ w : Nat, ∃ g : Nat, ∃ s : State, s.time.refLocked = false ∧ s.time.refLost = false ∧ s.time.refBad = false ∧ s.time.goodSince = some g ∧ g +
      10 ^ 10 ≤ max s.time.clk w) ∧
    (∃ s : State, ppsEn s = true ∧ follower s = false ∧ s.time.ppsLost = false) ∧
    (∃ e : Bool, ∃ s : State, e ≠ bfb (timeSetOf s) 0 1) ∧
    (∃ e : Bool, ∃ s : State, e = bfb (timeSetOf s) 0 1 ∧ (bfb (timeSetOf s) 0 3 = true ∨ (bfb (timeSetOf s) 0 0 = false ∧ s.time.pendSet = none)))
      ∧
    (∃ e : Bool, ∃ s : State, e = bfb (timeSetOf s) 0 1 ∧ bfb (timeSetOf s) 0 3 = false ∧ bfb (timeSetOf s) 0 0 = true ∧ s.time.pendSet = none ∧
      (s.time.ppsFirst = true ∨ s.time.pps = false)) ∧
    (∃ e : Bool, ∃ p : PendSet, ∃ o : Op, ∃ s : State, bfb (timeSetOf s) 0 3 = false ∧ e = bfb (timeSetOf s) 0 1 ∧ s.time.pendSet = some p ∧
      s.findOp p.sess p.seq = some o) ∧
    (∃ s : State, bfb (timeSetOf s) 0 6 = true ∧ s.pcie.ptmEn = true) :=
    ⟨⟨(mT State.reset fun t => { t with refLost := false }), by decide +kernel⟩,
     ⟨(mT State.reset fun t => { t with refLost := true }), by decide +kernel⟩,
     ⟨(99000), (mT State.reset fun t => { t with lostInGate := false, refLost := false, refBad := false }), by decide +kernel, by decide +kernel,
       by decide +kernel, by decide +kernel⟩,
     ⟨(100000), (mT State.reset fun t => { t with lostInGate := false, refLost := false, refBad := true }), by decide +kernel, by decide +kernel,
       by decide +kernel, by decide +kernel⟩,
     ⟨(500000000000000), (77), (mT State.reset fun t => { t with refLocked := false, refLost := false, refBad := false, goodSince := some 77 }),
       by decide +kernel, by decide +kernel, by decide +kernel, by decide +kernel, by decide +kernel⟩,
     ⟨(mT State.reset fun t => { t with ppsLost := false, pps := true, src := false }), by decide +kernel, by decide +kernel, by decide +kernel⟩,
     ⟨(true), (aset State.reset 0x02 0 [(0,0,1,1),(0,3,1,0)]), by decide +kernel⟩,
     ⟨(false), (mT (aset State.reset 0x02 0 [(0,0,1,0),(0,3,1,0)]) fun t => { t with pendSet := none }), by decide +kernel, by decide +kernel⟩,
     ⟨(false), (mT (aset State.reset 0x02 0 [(0,0,1,1),(0,3,1,0),(2,0,32,0x12345)]) fun t => { t with ppsFirst := true }), by decide +kernel,
       by decide +kernel, by decide +kernel, by decide +kernel, by decide +kernel⟩,
     ⟨(false), (⟨1, 5, 0x77777777777777, 3⟩), (⟨1, 5, 0x0801, .timeSet, true, 3⟩), (mPr (mT (aset State.reset 0x02 0 [(0,0,1,1),(0,3,1,0)]) fun t =>
       { t with pendSet := some ⟨1, 5, 0x77777777777777, 3⟩ }) fun p =>
       { p with ops := ⟨1, 5, 0x0801, .timeSet, true, 3⟩ :: p.ops, sessions := ⟨1, .ring 4, 2, 3, 0xFFFF, some 9, []⟩ :: p.sessions }),
       by decide +kernel, by decide +kernel, by decide +kernel, by decide +kernel⟩,
     ⟨(mP (aset State.reset 0x02 0 [(0,6,1,1)]) fun p => { p with ptmEn := true }), by decide +kernel, by decide +kernel⟩⟩

theorem witness_TimeOpcodes :
    (∃ r : Req, ∃ s : State, Ready 0x0802 [] 0 0 r s) ∧
    (∃ r : Req, ∃ s : State, Ready 0x0801 [] 3 3 r s ∧ wordAt r.payload 2 = 0 ∧ follower s = false ∧ s.time.pendSet = none) ∧
    (∃ r : Req, ∃ s : State, Ready 0x0801 [] 3 3 r s ∧ wordAt r.payload 2 = 1 ∧ follower s = false ∧ refGone s = false ∧ s.time.pendSet = none) ∧
    (∃ r : Req, ∃ s : State, Ready 0x0801 [] 3 3 r s ∧ (wordAt r.payload 2).toNat ≤ 1 ∧ follower s = true) ∧
    (∃ p : PendSet, ∃ o : Op, ∃ s : State, s.time.pendSet = some p ∧ s.findOp p.sess p.seq = some o) :=
    ⟨⟨(req 0x0802 []), (ready (req 0x0802 []) State.reset), ready_of (by decide +kernel)⟩,
     ⟨(req 0x0801 [5, 6, 0]), (mT (aset (ready (req 0x0801 [5, 6, 0]) State.reset) 0x02 0 [(0,3,1,0)]) fun t => { t with pendSet := none }),
       ready_of (by decide +kernel), by decide +kernel, by decide +kernel, by decide +kernel⟩,
     ⟨(req 0x0801 [5, 6, 1]), (mT (aset (ready (req 0x0801 [5, 6, 1]) State.reset) 0x02 0 [(0,3,1,0)]) fun t =>
       { t with pendSet := none, refLost := false, refBad := false }), ready_of (by decide +kernel), by decide +kernel, by decide +kernel,
       by decide +kernel, by decide +kernel⟩,
     ⟨(req 0x0801 [5, 6, 1]), (mT (aset (ready (req 0x0801 [5, 6, 1]) State.reset) 0x02 0 [(0,3,1,1)]) fun t =>
       { t with pendSet := none, src := true }), ready_of (by decide +kernel), by decide +kernel, by decide +kernel⟩,
     ⟨(⟨1, 5, 0x77777777777777, 3⟩), (⟨1, 5, 0x0801, .timeSet, true, 3⟩), (mPr (mT State.reset fun t =>
       { t with pendSet := some ⟨1, 5, 0x77777777777777, 3⟩ }) fun p =>
       { p with ops := ⟨1, 5, 0x0801, .timeSet, true, 3⟩ :: p.ops, sessions := ⟨1, .ring 4, 2, 3, 0xFFFF, some 9, []⟩ :: p.sessions }),
       by decide +kernel, by decide +kernel⟩⟩

theorem witness_TiuStartAndStop :
    (∃ c : Fin 4, ∃ r : Req, ∃ s : State, Ready 0x0803 [] 1 1 r s ∧ (wordAt r.payload 0).toNat = 2 ^ c.val ∧ tiuMode s c = 1 ∧ s.tiu[c].ph = .idle ∧
      s.tiu[c].result = none ∧ tiuInCal s c = false ∧ refGone s = false ∧ s.taster.run = none) ∧
    (∃ c : Fin 4, ∃ r : Req, ∃ s : State, Ready 0x0804 [] 1 1 r s ∧ (wordAt r.payload 0).toNat = 2 ^ c.val ∧ tiuMode s c = 1 ∧ s.tiu[c].ph = .armed
      ∧ s.commits = [] ∧ s.proto.ops = []) ∧
    (∃ c : Fin 4, ∃ r : Req, ∃ s : State, Ready 0x0804 [] 1 1 r s ∧ (wordAt r.payload 0).toNat = 2 ^ c.val ∧ tiuMode s c = 1 ∧ s.tiu[c].ph = .idle)
      ∧
    (∃ c : Fin 4, ∃ w : Nat, ∃ f : Bool, ∃ s : State, s.tiu[c].ph = .armed ∧ s.tiu[c].armClk < max s.time.clk w ∧ bf (tiuSet s c) 0 4 3 = 0 ∧ f =
      bfb (tiuSet s c) 0 2) ∧
    (∃ c : Fin 4, ∃ f : Bool, ∃ s : State, (f ≠ bfb (tiuSet s c) 0 2 ∨ bf (tiuSet s c) 0 4 3 ≠ 0)) ∧
    (∃ c : Fin 4, ∃ w : Nat, ∃ s : State, s.tiu[c].ph = .gating ∧ s.tiu[c].armClk < max s.time.clk w ∧ bf (tiuSet s c) 0 4 3 = 0) ∧
    (∃ c : Fin 4, ∃ f : Bool, ∃ s : State, f ≠ bfb (tiuSet s c) 0 3) ∧
    (∃ c : Fin 4, ∃ x : Nat, ∃ s : State, s.tiu[c].ph = .open ∧ 2 ^ 40 ≤ x * 10 ^ 9 ∧ bf (tiuSet s c) 1 0 32 ≤ x ∧ x ≤ bf (tiuSet s c) 2 0 32 ∧
      s.tiu[c].stops = [] ∧ 1 ≤ bf (tiuSet s c) 0 14 5) ∧
    (∃ c : Fin 4, ∃ x : Nat, ∃ s : State, s.tiu[c].ph = .open ∧ x * 10 ^ 9 < 2 ^ 40) ∧
    (∃ c : Fin 4, ∃ x : Nat, ∃ s : State, s.tiu[c].ph = .open ∧ 2 ^ 40 ≤ x * 10 ^ 9 ∧ x < bf (tiuSet s c) 1 0 32) ∧
    (∃ c : Fin 4, ∃ x : Nat, ∃ y : Nat, ∃ l : List Nat, ∃ s : State, s.tiu[c].ph = .open ∧ 2 ^ 40 ≤ x * 10 ^ 9 ∧ bf (tiuSet s c) 1 0 32 ≤ x ∧ x ≤ bf
      (tiuSet s c) 2 0 32 ∧ s.tiu[c].stops = l ++ [y] ∧ 15 * 2 ^ 40 < (x - y) * 10 ^ 10 ∧ bf (tiuSet s c) 0 14 5 ≤ l.length + 1) :=
    ⟨⟨(2), (req 0x0803 [4]), (mX (aset (mT (ready (req 0x0803 [4]) State.reset) fun t => { t with refLost := false }) 0xA0 2 [(0,0,2,1)]) fun t =>
      { t with run := none }), ready_of (by decide +kernel), by decide +kernel, by decide +kernel, by decide +kernel, by decide +kernel,
      by decide +kernel, by decide +kernel, by decide +kernel⟩,
     ⟨(2), (req 0x0804 [4]),
       ({ mPr (aset (ready (req 0x0804 [4]) State.reset) 0xA0 2 [(0,0,2,1)]) (fun p => { p with ops := [] }) with commits := [], tiu := State.reset.tiu.set 2 { ph := .armed, armAt := 6 } }),
       ready_of (by decide +kernel), by decide +kernel, by decide +kernel, by decide +kernel, by decide +kernel, by decide +kernel⟩,
     ⟨(2), (req 0x0804 [4]),
       ({ (aset (ready (req 0x0804 [4]) State.reset) 0xA0 2 [(0,0,2,1)])  with tiu := State.reset.tiu.set 2 { ph := .idle } }), ready_of
       (by decide +kernel), by decide +kernel, by decide +kernel, by decide +kernel⟩,
     ⟨(2), (5000), (false), ({ State.reset with tiu := State.reset.tiu.set 2 { ph := .armed, armClk := 3 } }), by decide +kernel, by decide +kernel,
       by decide +kernel, by decide +kernel⟩,
     ⟨(2), (true), ({ State.reset with tiu := State.reset.tiu.set 2 { ph := .armed, armClk := 3 } }), by decide +kernel⟩,
     ⟨(2), (5000), ({ aset State.reset 0xA0 2 [(0,8,6,1)] with tiu := State.reset.tiu.set 2 { ph := .gating, armClk := 3 } }), by decide +kernel,
       by decide +kernel, by decide +kernel⟩,
     ⟨(2), (true), (State.reset), by decide +kernel⟩,
     ⟨(2), (1100), ({ aset State.reset 0xA0 2 [(0,14,5,3), (1,0,32,5), (2,0,32,1100)] with tiu := State.reset.tiu.set 2 { ph := .open } }),
       by decide +kernel, by decide +kernel, by decide +kernel, by decide +kernel, by decide +kernel, by decide +kernel⟩,
     ⟨(2), (1099), ({ aset State.reset 0xA0 2 [(0,14,5,3), (1,0,32,5), (2,0,32,1100)] with tiu := State.reset.tiu.set 2 { ph := .open } }),
       by decide +kernel, by decide +kernel⟩,
     ⟨(2), (1100), ({ aset State.reset 0xA0 2 [(0,14,5,3), (1,0,32,1101), (2,0,32,11000)] with tiu := State.reset.tiu.set 2 { ph := .open } }),
       by decide +kernel, by decide +kernel, by decide +kernel⟩,
     ⟨(2), (4000), (1100), ([]),
       ({ aset State.reset 0xA0 2 [(0,14,5,1), (1,0,32,5), (2,0,32,11000)] with tiu := State.reset.tiu.set 2 { ph := .open, stops := [1100] } }),
       by decide +kernel, by decide +kernel, by decide +kernel, by decide +kernel, by decide +kernel, by decide +kernel, by decide +kernel⟩⟩

theorem witness_TiuEnds :
    (∃ c : Fin 4, ∃ s : State, s.tiu[c].ph = .open ∧ tiuMode s c = 2) ∧
    (∃ c : Fin 4, ∃ s : State, s.tiu[c].ph = .closed ∧ tiuMode s c = 2 ∧ s.commits = []) ∧
    (∃ c : Fin 4, ∃ s : State, s.tiu[c].ph = .open ∧ tiuMode s c = 1 ∧ s.commits = [] ∧ s.proto.ops = []) ∧
    (∃ c : Fin 4, ∃ s : State, s.tiu[c].ph = .armed ∧ tiuMode s c = 1 ∧ bf (tiuSet s c) 5 8 24 ≠ 0 ∧ s.commits = [] ∧ s.proto.ops = []) ∧
    (∃ c : Fin 4, ∃ s : State, s.tiu[c].ph = .gating ∧ s.commits = [] ∧ s.proto.ops = []) :=
    ⟨⟨(2), ({ aset (ringOn (up State.reset) 3 5) 0xA0 2 [(0,0,2,2),(5,0,8,3)] with tiu := State.reset.tiu.set 2 { ph := .open, stops := [1100] } }),
      by decide +kernel, by decide +kernel⟩,
     ⟨(2),
       ({ aset (ringOn (up State.reset) 3 5) 0xA0 2 [(0,0,2,2),(5,0,8,3)] with tiu := State.reset.tiu.set 2 { ph := .closed, stops := [1100] }, commits := [] }),
       by decide +kernel, by decide +kernel, by decide +kernel⟩,
     ⟨(2), (mPr { aset State.reset 0xA0 2 [(0,0,2,1)] with tiu := State.reset.tiu.set 2 { ph := .open, stops := [1100] }, commits := [] } fun p =>
       { p with ops := [] }), by decide +kernel, by decide +kernel, by decide +kernel, by decide +kernel⟩,
     ⟨(2), (mPr { aset State.reset 0xA0 2 [(0,0,2,1),(5,8,24,9)] with tiu := State.reset.tiu.set 2 { ph := .armed }, commits := [] } fun p =>
       { p with ops := [] }), by decide +kernel, by decide +kernel, by decide +kernel, by decide +kernel, by decide +kernel⟩,
     ⟨(2), (mPr { aset State.reset 0xA0 2 [(0,0,2,3)] with tiu := State.reset.tiu.set 2 { ph := .gating }, commits := [] } fun p =>
       { p with ops := [] }), by decide +kernel, by decide +kernel, by decide +kernel⟩⟩

theorem witness_SessionOpcodes :
    (∃ r : Req, ∃ maj : Nat, ∃ mnr : Nat, ∃ s : State, r.opcode = 1 ∧ r.sess = 0 ∧ s.proto.waiting.contains r = true ∧ isHead s r = true ∧ isTurn s
      r = true ∧ s.proto.waiting.all (fun q => knownOps.contains q.opcode.toNat) = true ∧ cpRuns s = true ∧ sessionFree s r = true ∧ s.life.phase =
      3 ∧ r.payload.length = 3 ∧ rsvdBad r 0 0xFFFFFF = false ∧ agree (wbits (wordAt r.payload 0) 16 8) (wbits (wordAt r.payload 0) 8 8) (wbits
      (wordAt r.payload 0) 0 8) = some (maj, mnr) ∧ (∀ x ∈ s.proto.sessions, x.via ≠ r.via) ∧ s.proto.sessions.length < 4) ∧
    (∃ r : Req, ∃ x : Session, ∃ e : CacheEntry, ∃ s : State, Ready 0x0004 [] 0 0 r s ∧ s.session r.sess = some x ∧ r.sess ≠ 0 ∧ e ∈ x.cache ∧ e.seq
      = r.seq ∧ e.opcode = 4) ∧
    (∃ r : Req, ∃ s : State, Ready 0x0002 [] 0 0 r s) ∧
    (∃ r : Req, ∃ s : State, Ready 0x0003 [] 0 (payloadLimit r.via) r s ∧ r.via ≠ .smbus) :=
    ⟨⟨(⟨.ring 9, 0, 5, 1, 0, [0x020300, 0xFFFFFFFF, 0xFFFFFFFF]⟩), (2), (3), (mPr (up State.reset) fun p =>
      { p with waiting := ⟨.ring 9, 0, 5, 1, 0, [0x020300, 0xFFFFFFFF, 0xFFFFFFFF]⟩ :: p.waiting }), by decide +kernel, by decide +kernel,
      by decide +kernel, by decide +kernel, by decide +kernel, by decide +kernel, by decide +kernel, by decide +kernel, by decide +kernel,
      by decide +kernel, by decide +kernel, by decide +kernel, by decide +kernel, by decide +kernel⟩,
     ⟨(req 4 []), (⟨1, .smbus, 2, 3, BitVec.allOnes 64, some 5, [⟨5, 4, 0, none⟩]⟩), (⟨5, 4, 0, none⟩), (ready (req 4 []) State.reset), ready_of
       (by decide +kernel), by decide +kernel, by decide +kernel, by decide +kernel, by decide +kernel, by decide +kernel⟩,
     ⟨(req 2 []), (ready (req 2 []) State.reset), ready_of (by decide +kernel)⟩,
     ⟨(reqR 3 [5,6]), (ready (reqR 3 [5,6]) State.reset), ready_of (by decide +kernel), by decide +kernel⟩⟩

theorem witness_ParametersAndBanks :
    (∃ r : Req, ∃ b : BlockId, ∃ c : Cls, ∃ off : Nat, ∃ n : Nat, ∃ s : State, Ready 0x0101 [] 3 16384 r s ∧ (wordAt r.payload 0).toNat = b.toNat +
      65536 ∧ (wordAt r.payload 1).toNat = off + n * 65536 ∧ off < 65536 ∧ n < 4096 ∧ 0 < n ∧ r.payload.length = 2 + n ∧ blockCls b = some c ∧ off +
      n ≤ c.len ∧ firstBad (c.fldsIn s) (overlay (getBlk s.params.shadow b) off (r.payload.drop 2)) off n = none ∧ locked s (domBits s b) = false) ∧
    (∃ r : Req, ∃ b : BlockId, ∃ c : Cls, ∃ off : Nat, ∃ n : Nat, ∃ i : Nat, ∃ s : State, Ready 0x0101 [] 3 16384 r s ∧ (wordAt r.payload 0).toNat =
      b.toNat + 65536 ∧ (wordAt r.payload 1).toNat = off + n * 65536 ∧ off < 65536 ∧ n < 4096 ∧ 0 < n ∧ r.payload.length = 2 + n ∧ blockCls b = some
      c ∧ off + n ≤ c.len ∧ firstBad (c.fldsIn s) (overlay (getBlk s.params.shadow b) off (r.payload.drop 2)) off n = some i) ∧
    (∃ r : Req, ∃ b : BlockId, ∃ c : Cls, ∃ off : Nat, ∃ n : Nat, ∃ s : State, Ready 0x0101 [] 3 16384 r s ∧ (wordAt r.payload 0).toNat = b.toNat +
      65536 ∧ (wordAt r.payload 1).toNat = off + n * 65536 ∧ off < 65536 ∧ n < 4096 ∧ 0 < n ∧ r.payload.length = 2 + n ∧ blockCls b = some c ∧ off +
      n ≤ c.len ∧ firstBad (c.fldsIn s) (overlay (getBlk s.params.shadow b) off (r.payload.drop 2)) off n = none ∧ locked s (domBits s b) = true) ∧
    (∃ r : Req, ∃ b : BlockId, ∃ c : Cls, ∃ off : Nat, ∃ n : Nat, ∃ sel : Nat, ∃ s : State, Ready 0x0102 [] 2 2 r s ∧ r.via ≠ .smbus ∧ (wordAt
      r.payload 0).toNat = b.toNat + 65536 ∧ (wordAt r.payload 1).toNat = off + n * 65536 + sel * 2 ^ 28 ∧ off < 65536 ∧ n < 4096 ∧ 0 < n ∧ sel < 3
      ∧ blockCls b = some c ∧ off + n ≤ c.len) ∧
    (∃ r : Req, ∃ b : BlockId, ∃ c : Cls, ∃ s : State, Ready 0x0105 [] 1 1 r s ∧ (wordAt r.payload 0).toNat = b.toNat ∧ blockCls b = some c ∧ b.inst
      ≠ 0xFF ∧ locked s (domBits s b) = false) ∧
    (∃ r : Req, ∃ n : Nat, ∃ s : State, Ready 0x0202 [] 3 514 r s ∧ rsvdBad r 0 0x01FF003F = false ∧ (wordAt r.payload 1).toNat = n ∧ 1 ≤ n ∧
      r.payload.length = 2 + n ∧ wbits (wordAt r.payload 0) 16 9 + n ≤ 512 ∧ locked s ((1 : BitVec 6) <<< (feOf r).val) = false) ∧
    (∃ r : Req, ∃ n : Nat, ∃ s : State, Ready 0x0203 [] 2 2 r s ∧ rsvdBad r 0 0x01FF803F = false ∧ (wordAt r.payload 1).toNat = n ∧ 1 ≤ n ∧ wbits
      (wordAt r.payload 0) 16 9 + n ≤ 512 ∧ r.via ≠ .smbus) :=
    ⟨⟨(req 0x0101 [0x10200, 0x10001, 2000]), (0x0200), (⟨0x02, 1, .local, 5, fldTime⟩), (1), (1),
      ({ ready (req 0x0101 [0x10200, 0x10001, 2000]) State.reset with commits := [] }), ready_of (by decide +kernel), by decide +kernel,
      by decide +kernel, by decide +kernel, by decide +kernel, by decide +kernel, by decide +kernel, by decide +kernel, by decide +kernel,
      by decide +kernel, by decide +kernel⟩,
     ⟨(req 0x0101 [0x10200, 0x20001, 2000, 0xFFFFFF]), (0x0200), (⟨0x02, 1, .local, 5, fldTime⟩), (1), (2), (1), (ready (req 0x0101 [0x10200,
       0x20001, 2000, 0xFFFFFF]) State.reset), ready_of (by decide +kernel), by decide +kernel, by decide +kernel, by decide +kernel,
       by decide +kernel, by decide +kernel, by decide +kernel, by decide +kernel, by decide +kernel, by decide +kernel⟩,
     ⟨(req 0x0101 [0x10200, 0x10001, 2000]), (0x0200), (⟨0x02, 1, .local, 5, fldTime⟩), (1), (1), (mCm (ready (req 0x0101 [0x10200, 0x10001, 2000])
       State.reset) fun l => ⟨2, 9, 0x20, 0, 0, false, 0, 0, [], true, [bid 0x01 0], 0, 0, 0⟩ :: l), ready_of (by decide +kernel),
       by decide +kernel, by decide +kernel, by decide +kernel, by decide +kernel, by decide +kernel, by decide +kernel, by decide +kernel,
       by decide +kernel, by decide +kernel, by decide +kernel⟩,
     ⟨(reqR 0x0102 [0x10200, 0x20001]), (0x0200), (⟨0x02, 1, .local, 5, fldTime⟩), (1), (2), (0), (ready (reqR 0x0102 [0x10200, 0x20001])
       State.reset), ready_of (by decide +kernel), by decide +kernel, by decide +kernel, by decide +kernel, by decide +kernel, by decide +kernel,
       by decide +kernel, by decide +kernel, by decide +kernel, by decide +kernel⟩,
     ⟨(req 0x0105 [0x0200]), (0x0200), (⟨0x02, 1, .local, 5, fldTime⟩), ({ ready (req 0x0105 [0x0200]) State.reset with commits := [] }), ready_of
       (by decide +kernel), by decide +kernel, by decide +kernel, by decide +kernel, by decide +kernel⟩,
     ⟨(req 0x0202 [0x30012, 2, 7, 8]), (2), ({ ready (req 0x0202 [0x30012, 2, 7, 8]) State.reset with commits := [] }), ready_of
       (by decide +kernel), by decide +kernel, by decide +kernel, by decide +kernel, by decide +kernel, by decide +kernel, by decide +kernel⟩,
     ⟨(reqR 0x0203 [0x30012, 2]), (2), (ready (reqR 0x0203 [0x30012, 2]) State.reset), ready_of (by decide +kernel), by decide +kernel,
       by decide +kernel, by decide +kernel, by decide +kernel, by decide +kernel⟩⟩

theorem witness_Commits :
    (∃ r : Req, ∃ f : Fe, ∃ s : State, Ready 0x0103 (commitFeats r) 3 3 r s ∧ (wordAt r.payload 0).toNat = 2 ^ f.val + 256 ∧ wbits (wordAt r.payload
      2) 16 16 = 0 ∧ tooSoon s (commitDoms (wordAt r.payload 0)) 1 (word64 r.payload 1) = false ∧ commitRefusal (sweepAreas (taken r s)) (commitDoms
      (wordAt r.payload 0)) r.via = none ∧ commitRise (taken r s) (commitDoms (wordAt r.payload 0)) = 0 ∧ s.commits = []) ∧
    (∃ r : Req, ∃ f : Fe, ∃ s : State, Ready 0x0103 (commitFeats r) 3 3 r s ∧ (wordAt r.payload 0).toNat = 2 ^ f.val + 256 ∧ wbits (wordAt r.payload
      2) 16 16 = 0 ∧ tooSoon s (commitDoms (wordAt r.payload 0)) 1 (word64 r.payload 1) = true) ∧
    (∃ r : Req, ∃ f : Fe, ∃ s : State, Ready 0x0103 (commitFeats r) 3 3 r s ∧ (wordAt r.payload 0).toNat = 2 ^ f.val + 256 ∧ wbits (wordAt r.payload
      2) 16 16 = 0 ∧ tooSoon s (commitDoms (wordAt r.payload 0)) 1 (word64 r.payload 1) = false ∧ shadowFault (sweepAreas (taken r s)) (commitDoms
      (wordAt r.payload 0)) r.via = none ∧ locked s (commitDoms (wordAt r.payload 0)) = true) ∧
    (∃ r : Req, ∃ c : Commit, ∃ s : State, Ready 0x0104 [] 1 1 r s ∧ queuedReq s r.sess (wordAt r.payload 0) = none ∧ s.peer.shared = [] ∧
      s.peer.armed = [] ∧ s.commits.find? (fun c => c.sess = r.sess && c.seq = wordAt r.payload 0) = some c ∧ c.begun = false) ∧
    (∃ r : Req, ∃ c : Commit, ∃ s : State, Ready 0x0104 [] 1 1 r s ∧ queuedReq s r.sess (wordAt r.payload 0) = none ∧ s.peer.shared = [] ∧
      s.peer.armed = [] ∧ s.commits.find? (fun c => c.sess = r.sess && c.seq = wordAt r.payload 0) = some c ∧ c.begun = true) ∧
    (∃ c : Commit, ∃ s : State, s.commits = [c] ∧ c.queued = false ∧ c.target = 2 ∧ c.doms = 0x20 ∧ c.left = [bid 0x01 0] ∧ c.kind = 0 ∧ s.now <
      c.value ∧ c.value ≤ (s.goTo (s.time.clkOf c.value)).now) :=
    ⟨⟨(req 0x0103 [0x102, 10, 0]), (1),
      ({ ready (req 0x0103 [0x102, 10, 0]) State.reset with commits := [], fe := State.reset.fe.set 1 { State.reset.fe[1] with ppn := 3 } }),
      ready_of (by decide +kernel), by decide +kernel, by decide +kernel, by decide +kernel, by decide +kernel, by decide +kernel,
      by decide +kernel⟩,
     ⟨(req 0x0103 [0x102, 10, 0]), (1),
       ({ ready (req 0x0103 [0x102, 10, 0]) State.reset with commits := [], fe := State.reset.fe.set 1 { State.reset.fe[1] with ppn := 9 } }),
       ready_of (by decide +kernel), by decide +kernel, by decide +kernel, by decide +kernel⟩,
     ⟨(req 0x0103 [0x102, 10, 0]), (1), (mCm
       { ready (req 0x0103 [0x102, 10, 0]) State.reset with fe := State.reset.fe.set 1 { State.reset.fe[1] with ppn := 3 } } fun l => ⟨2, 9, 2, 0,
       0, false, 0, 0, [], false, [], 0, 0, 0⟩ :: l), ready_of (by decide +kernel), by decide +kernel, by decide +kernel, by decide +kernel,
       by decide +kernel, by decide +kernel⟩,
     ⟨(req 0x0104 [9]), (⟨1, 9, 2, 0, 0, false, 0, 0, [], false, [], 0, 0, 0⟩), (mPe (mCm (ready (req 0x0104 [9]) State.reset) fun l => l ++ [⟨1, 9,
       2, 0, 0, false, 0, 0, [], false, [], 0, 0, 0⟩]) fun p => { p with armed := [], shared := [] }), ready_of (by decide +kernel),
       by decide +kernel, by decide +kernel, by decide +kernel, by decide +kernel, by decide +kernel⟩,
     ⟨(req 0x0104 [9]), (⟨1, 9, 2, 0, 0, false, 0, 0, [], true, [], 0, 0, 0⟩), (mPe (mCm (ready (req 0x0104 [9]) State.reset) fun l => l ++ [⟨1, 9,
       2, 0, 0, false, 0, 0, [], true, [], 0, 0, 0⟩]) fun p => { p with armed := [], shared := [] }), ready_of (by decide +kernel),
       by decide +kernel, by decide +kernel, by decide +kernel, by decide +kernel, by decide +kernel⟩,
     ⟨(⟨1, 9, 0x20, 2, State.reset.now + 0x100000000, false, 0, 0, [], false, [bid 0x01 0], 0, 0, 0⟩), (sset (mPr
       { State.reset with commits := [⟨1, 9, 0x20, 2, State.reset.now + 0x100000000, false, 0, 0, [], false, [bid 0x01 0], 0, 0, 0⟩] } fun p =>
       { p with ops := ⟨1, 9, 0x103, .commit, false, 3⟩ :: p.ops }) 0x01 0 [(0,0,16,99)]), by decide +kernel, by decide +kernel, by decide +kernel,
       by decide +kernel, by decide +kernel, by decide +kernel, by decide +kernel, by decide +kernel⟩⟩

theorem witness_BoundariesAndShots :
    (∃ f : Fe, ∃ s : State, s.power.state.val < 4 ∧ s.life.inReset = false ∧ runOf (s.act 0x10 f.val) = false ∧ s.commits = [] ∧ s.fe[f].reinit =
      false) ∧
    (∃ f : Fe, ∃ s : State, runOf (s.act 0x10 f.val) = true ∧ s.fe[f].launched < groupsOf (s.act 0x10 f.val)) ∧
    (∃ f : Fe, ∃ s : State, groupsOf (s.act 0x10 f.val) ≤ s.fe[f].launched) ∧
    (∃ f : Fe, ∃ sh : Shot, ∃ l : List Shot, ∃ s : State, s.fe[f].shots = sh :: l) ∧
    (∃ f : Fe, ∃ s : State, s.fe[f].shots = []) :=
    ⟨⟨(2), ((fun y : State => y.updFe 2 fun x => { x with reinit := false }) { aset (up State.reset) 0x10 2 [(0,0,1,0)] with commits := [] }),
      by decide +kernel, by decide +kernel, by decide +kernel, by decide +kernel, by decide +kernel⟩,
     ⟨(2), ((aset (up State.reset) 0x10 2 [(0,0,1,1),(0,1,2,1)]).updFe 2 fun x => { x with launched := 1 }), by decide +kernel, by decide +kernel⟩,
     ⟨(2), ((aset (up State.reset) 0x10 2 [(0,0,1,1),(0,1,2,1)]).updFe 2 fun x => { x with launched := 2 }), by decide +kernel⟩,
     ⟨(2), (shot 0), ([shot 1]), (State.reset.updFe 2 fun x => { x with shots := [shot 0, shot 1] }), by decide +kernel⟩,
     ⟨(2), (State.reset.updFe 2 fun x => { x with shots := [] }), by decide +kernel⟩⟩

theorem witness_JesdLinks :
    (∃ f : Fe, ∃ s : State, (∀ k : Fin 3, s.fe[f].links[k] = .training)) ∧
    (∃ f : Fe, ∃ k : Fin 3, ∃ s : State, s.life.thermtrip = false ∧ s.fe[f].lemc.getLsbD k.val = true ∧ (s.fe[f].links[k] = .aligning ∨
      s.fe[f].links[k] = .training) ∧ s.fe[f].fell.getLsbD k.val = false ∧ s.proto.ops = []) ∧
    (∃ f : Fe, ∃ k : Fin 3, ∃ s : State, s.fe[f].lemc.getLsbD k.val = false) ∧
    (∃ f : Fe, ∃ k : Fin 3, ∃ s : State, s.fe[f].links[k] = .data ∧ runOf (s.act 0x10 f.val) = true) ∧
    (∃ f : Fe, ∃ k : Fin 3, ∃ o : Nat, ∃ n : Nat, ∃ s : State, s.fe[f].outage[k] = some o ∧ s.life.thermtrip = false ∧ s.proto.ops = [] ∧
      s.fe[f].lemc.getLsbD k.val = true ∧ (s.fe[f].links[k] = .aligning ∨ s.fe[f].links[k] = .training) ∧ n ≤ rbdOf (s.act 0x11 f.val) k) :=
    ⟨⟨(2), (State.reset.updFe 2 fun x => { x with links := Vector.replicate 3 .training }), by decide +kernel⟩,
     ⟨(2), (1), (mPr (up (State.reset.updFe 2 fun x => { x with links := Vector.replicate 3 .training, lemc := 2, fell := 1 })) fun p =>
       { p with ops := [] }), by decide +kernel, by decide +kernel, by decide +kernel, by decide +kernel, by decide +kernel⟩,
     ⟨(2), (1), (up (State.reset.updFe 2 fun x => { x with links := Vector.replicate 3 .training, lemc := 5 })), by decide +kernel⟩,
     ⟨(2), (1), (aset (State.reset.updFe 2 fun x => { x with links := Vector.replicate 3 .data }) 0x10 2 [(0,0,1,1)]), by decide +kernel,
       by decide +kernel⟩,
     ⟨(2), (1), (4000), (3), (mPr (up (State.reset.updFe 2 fun x =>
       { x with links := Vector.replicate 3 .training, lemc := 2, fell := 2, outage := Vector.replicate 3 (some 4000) })) fun p =>
       { p with ops := [] }), by decide +kernel, by decide +kernel, by decide +kernel, by decide +kernel, by decide +kernel, by decide +kernel⟩⟩

theorem witness_StatusOpcodes :
    (∃ r : Req, ∃ s : State, Ready 0x0201 [] 1 1 r s ∧ (wordAt r.payload 0).toNat ≤ 3) ∧
    (∃ r : Req, ∃ s : State, Ready 0x0204 [] 1 1 r s ∧ (wordAt r.payload 0).toNat ≤ 3) ∧
    (∃ r : Req, ∃ s : State, Ready 0x0205 [] 1 1 r s ∧ (wordAt r.payload 0).toNat ≤ 3) ∧
    (∃ r : Req, ∃ n : StreamId, ∃ s : State, Ready 0x0206 [] 1 1 r s ∧ (wordAt r.payload 0).toNat = n.val) ∧
    (∃ r : Req, ∃ n : StreamId, ∃ s : State, Ready 0x0209 [] 1 1 r s ∧ (wordAt r.payload 0).toNat = n.val) ∧
    (∃ r : Req, ∃ s : State, Ready 0x0207 [] 1 1 r s ∧ (wordAt r.payload 0).toNat = 16) ∧
    (∃ r : Req, ∃ f : Nat, ∃ s : State, Ready 0x0207 [] 1 1 r s ∧ (wordAt r.payload 0).toNat = f ∧ 1 ≤ f ∧ f ≤ 15) ∧
    (∃ r : Req, ∃ s : State, Ready 0x0207 [] 1 1 r s ∧ 16 < (wordAt r.payload 0).toNat) ∧
    (∃ r : Req, ∃ z : Nat, ∃ s : State, Ready 0x0302 [] 1 1 r s ∧ (wordAt r.payload 0).toNat = z ∧ z < 2048) ∧
    (∃ r : Req, ∃ s : State, Ready 0x0303 [] 0 0 r s) :=
    ⟨⟨(req 0x0201 [2]), (ready (req 0x0201 [2]) State.reset), ready_of (by decide +kernel), by decide +kernel⟩,
     ⟨(req 0x0204 [2]), (ready (req 0x0204 [2]) State.reset), ready_of (by decide +kernel), by decide +kernel⟩,
     ⟨(req 0x0205 [2]), (ready (req 0x0205 [2]) State.reset), ready_of (by decide +kernel), by decide +kernel⟩,
     ⟨(req 0x0206 [5]), (5), (ready (req 0x0206 [5]) State.reset), ready_of (by decide +kernel), by decide +kernel⟩,
     ⟨(req 0x0209 [5]), (5), (ready (req 0x0209 [5]) State.reset), ready_of (by decide +kernel), by decide +kernel⟩,
     ⟨(req 0x0207 [16]), (ready (req 0x0207 [16]) State.reset), ready_of (by decide +kernel), by decide +kernel⟩,
     ⟨(req 0x0207 [7]), (7), (ready (req 0x0207 [7]) State.reset), ready_of (by decide +kernel), by decide +kernel, by decide +kernel,
       by decide +kernel⟩,
     ⟨(req 0x0207 [17]), (ready (req 0x0207 [17]) State.reset), ready_of (by decide +kernel), by decide +kernel⟩,
     ⟨(req 0x0302 [5]), (5), (ready (req 0x0302 [5]) State.reset), ready_of (by decide +kernel), by decide +kernel, by decide +kernel⟩,
     ⟨(req 0x0303 []), (ready (req 0x0303 []) State.reset), ready_of (by decide +kernel)⟩⟩

theorem witness_FiningAndPress :
    (∃ f : Fe, ∃ b : Band, ∃ s : State, feEnded s f = false ∧ s.fe[f].band = some b ∧ 1024 ≤ b.rows.length) ∧
    (∃ f : Fe, ∃ b : Band, ∃ l : List Band, ∃ s : State, s.fe[f].closed = b :: l) ∧
    (∃ f : Fe, ∃ s : State, s.fe[f].closed = []) ∧
    (∃ n : StreamId, ∃ i : PressIn, ∃ l : List PressIn, ∃ s : State, s.stream[n].toPress = i :: l) ∧
    (∃ n : StreamId, ∃ s : State, s.stream[n].toPress = []) ∧
    (∃ r : Req, ∃ s : State, Ready 0x0208 [] 1 1 r s ∧ (wordAt r.payload 0).toNat < 65536 ∧ (∀ n : StreamId, pressRuns s n = false)) ∧
    (∃ r : Req, ∃ n : StreamId, ∃ s : State, Ready 0x0208 [] 1 1 r s ∧ (wordAt r.payload 0).toNat = 2 ^ n.val ∧ pressRuns s n = true) :=
    ⟨⟨(2), (⟨0, 0, 32, 1, 0, 0, List.replicate 1024 ⟨0, 5, 0, 9⟩, [], [], false⟩), ((aset State.reset 0x10 2 [(0,0,1,1)]).updFe 2 fun x =>
      { x with lastStop := none, band := some ⟨0, 0, 32, 1, 0, 0, List.replicate 1024 ⟨0, 5, 0, 9⟩, [], [], false⟩ }), by decide +kernel,
      by decide +kernel, by decide +kernel⟩,
     ⟨(2), (⟨0, 0, 32, 1, 0, 0, List.replicate 4 ⟨0, 5, 0, 9⟩, [], [], false⟩), ([]), (State.reset.updFe 2 fun x =>
       { x with closed := [⟨0, 0, 32, 1, 0, 0, List.replicate 4 ⟨0, 5, 0, 9⟩, [], [], false⟩] }), by decide +kernel⟩,
     ⟨(2), (State.reset.updFe 2 fun x => { x with closed := [] }), by decide +kernel⟩,
     ⟨(5), (⟨0, 0, [[1,2],[3,4]], [⟨0, 5, 0, 9⟩, ⟨0, 6, 0, 9⟩], false, false, false, State.reset.act 0x14 5, State.reset.act 0x50 5, 0⟩), ([]),
       (State.reset.updStream 5 fun x =>
       { x with toPress := [⟨0, 0, [[1,2],[3,4]], [⟨0, 5, 0, 9⟩, ⟨0, 6, 0, 9⟩], false, false, false, State.reset.act 0x14 5, State.reset.act 0x50 5, 0⟩] }),
       by decide +kernel⟩,
     ⟨(5), (State.reset.updStream 5 fun x => { x with toPress := [] }), by decide +kernel⟩,
     ⟨(req 0x0208 [5]), (ready (req 0x0208 [5]) State.reset), ready_of (by decide +kernel), by decide +kernel, by decide +kernel⟩,
     ⟨(req 0x0208 [8]), (3), (aset ((ready (req 0x0208 [8]) State.reset).updFe 2 fun x =>
       { x with lastStop := none, curStreams := [⟨3, State.reset.act 0x14 3, flds (State.reset.act 0x50 3) [(0,0,1,1)]⟩] }) 0x10 2 [(0,0,1,1)]),
       ready_of (by decide +kernel), by decide +kernel, by decide +kernel⟩⟩

theorem witness_ZoneEvents :
    (∃ r : Req, ∃ z : Nat, ∃ s : State, Ready 0x0301 [] 1 1 r s ∧ z < 2048 ∧ (wordAt r.payload 0).toNat = z + 65536 ∧ zoneIdle s z = true ∧
      s.proto.ops = []) ∧
    (∃ o : Op, ∃ z : Nat, ∃ n : Nat, ∃ s : State, s.proto.ops = [o] ∧ o.kind = .zoneAck [z] n) ∧
    (∃ e : ZoneEv, ∃ l : List ZoneEv, ∃ s : State, s.zones.events = e :: l ∧ ringRoom s (ringOf (bf (s.act 0x20 0) 2 0 5)) = true) ∧
    (∃ n : RingId, ∃ d : Vector Word 8, ∃ i : Item, ∃ s : State, chanLive s n = true ∧ rgKind (ringBlk s n) = 2 ∧ dsBad 2 d = false ∧
      s.rings[n].descs = [d] ∧ s.rings[n].cur = none ∧ s.rings[n].queue = [i] ∧ i.tag = 2 ∧ s.rings[n].done = 0 ∧ s.rings[n].reads = [] ∧ 0 <
      i.bytes.length ∧ i.bytes.length ≤ burstOf (dsHost d) (dsLen d) ∧ s.power.entering = none) ∧
    (∃ e : ZoneEv, ∃ l : List ZoneEv, ∃ s : State, s.zones.events = e :: l ∧ ringRoom s (ringOf (bf (s.act 0x20 0) 2 0 5)) = false) :=
    ⟨⟨(req 0x0301 [0x10005]), (5), (mPr { ready (req 0x0301 [0x10005]) State.reset with fe := State.reset.fe } fun p => { p with ops := [] }),
      ready_of (by decide +kernel), by decide +kernel, by decide +kernel, by decide +kernel, by decide +kernel⟩,
     ⟨(⟨1, 9, 0x301, .zoneAck [5] 0, false, 33⟩), (5), (0), (mPr (up State.reset) fun p =>
       { p with ops := [⟨1, 9, 0x301, .zoneAck [5] 0, false, 33⟩], sessions := ⟨1, .ring 4, 2, 3, 0xFFFF, some 9, []⟩ :: p.sessions }),
       by decide +kernel, by decide +kernel⟩,
     ⟨(⟨false, true, true, false, 1, 5, 0, 0, 5, 0, 9, 4⟩), ([]), (mZ ((aset (ringOn State.reset 3 2) 0x20 0 [(2,0,5,3)]).updRing 3 fun r =>
       { r with prod := 9, cons := 2, queue := [], halted := false }) fun z =>
       { z with events := [⟨false, true, true, false, 1, 5, 0, 0, 5, 0, 9, 4⟩] }), by decide +kernel, by decide +kernel⟩,
     ⟨(4), (#v[0x1000,0,0x80,0,0,0,0,0]), (⟨[1,2,3,4], 0, 2, 0⟩), ((ringOn (up State.reset) 4 2).updRing 4 fun r =>
       { r with prod := 8, cons := 7, cur := none, descs := [#v[0x1000,0,0x80,0,0,0,0,0]], reads := [], done := 0, queue := [⟨[1,2,3,4], 0, 2, 0⟩], halted := false }),
       by decide +kernel, by decide +kernel, by decide +kernel, by decide +kernel, by decide +kernel, by decide +kernel, by decide +kernel,
       by decide +kernel, by decide +kernel, by decide +kernel, by decide +kernel, by decide +kernel⟩,
     ⟨(⟨false, true, true, false, 1, 5, 0, 0, 5, 0, 9, 4⟩), ([]), (mZ ((aset (ringOn State.reset 3 2) 0x20 0 [(2,0,5,3)]).updRing 3 fun r =>
       { r with prod := 9, cons := 9, queue := [], halted := false }) fun z =>
       { z with events := [⟨false, true, true, false, 1, 5, 0, 0, 5, 0, 9, 4⟩] }), by decide +kernel, by decide +kernel⟩⟩

theorem witness_ThermalChain :
    (∃ f : Fe, ∃ a : Fire, ∃ l : List Fire, ∃ s : State, s.therm[f].fires = a :: l) ∧
    (∃ f : Fe, ∃ d : RamanSum, ∃ last : Bool, ∃ s : State, s.therm[f].done = some (d, last)) ∧
    (∃ f : Fe, ∃ m : RamanSum, ∃ l : List RamanSum, ∃ s : State, s.therm[f].complete = m :: l) ∧
    (∃ f : Fe, ∃ k : Nat, ∃ h : List Word, ∃ b : List Byte, ∃ fl : BitVec 16, ∃ l : List (Nat × List Word × List Byte × BitVec 16), ∃ s : State,
      s.therm[f].recs = (k, h, b, fl) :: l) ∧
    (∃ f : Fe, ∃ e : Epoch, ∃ l : List Epoch, ∃ s : State, s.therm[f].epochs = e :: l) ∧
    (∃ f : Fe, ∃ s : State, thEn (s.act 0x30 f.val) = true ∧ bfb (s.act 0x30 f.val) 0 3 = true) :=
    ⟨⟨(2), (fire0), ([]), (State.reset.updTherm 2 fun t => { t with fires := [fire0] }), by decide +kernel⟩,
     ⟨(2), (sum0), (true), (State.reset.updTherm 2 fun t => { t with done := some (sum0, true) }), by decide +kernel⟩,
     ⟨(2), (sum0), ([]), (State.reset.updTherm 2 fun t => { t with complete := [sum0] }), by decide +kernel⟩,
     ⟨(2), (1), ([1,2,3,4,5,6,7,8]), ([1,2,3,4]), (0), ([]), (State.reset.updTherm 2 fun t =>
       { t with recs := [(1, [1,2,3,4,5,6,7,8], [1,2,3,4], 0)] }), by decide +kernel⟩,
     ⟨(2), (⟨5, [(3, 4, true), (7, 9, false)], false ⟩), ([]), (State.reset.updTherm 2 fun t =>
       { t with epochs := [⟨5, [(3, 4, true), (7, 9, false)], false ⟩] }), by decide +kernel⟩,
     ⟨(2), (aset (State.reset.updTherm 2 fun t => { t with second := 4 }) 0x30 2 [(0,0,1,1),(0,3,1,1)]), by decide +kernel, by decide +kernel⟩⟩

theorem witness_ThermalOpcodes :
    (∃ r : Req, ∃ s : State, Ready 0x0401 [] 1 1 r s ∧ (wordAt r.payload 0).toNat ≤ 3) ∧
    (∃ r : Req, ∃ s : State, Ready 0x0402 [] 2 2 r s ∧ rsvdBad r 0 0x1FF = false ∧ wbits (wordAt r.payload 0) 2 2 ≠ 3 ∧ wordAt r.payload 1 ≠ 0 ∧
      calOp s (feOf r) = none) ∧
    (∃ r : Req, ∃ s : State, Ready 0x0402 [] 2 2 r s ∧ rsvdBad r 0 0x1FF = false ∧ wbits (wordAt r.payload 0) 2 2 ≠ 3 ∧ wordAt r.payload 1 ≠ 0 ∧
      (calOp s (feOf r)).isSome = true) ∧
    (∃ f : Fe, ∃ o : Op, ∃ s : State, calOp s f = some o) ∧
    (∃ r : Req, ∃ o : Op, ∃ f : Fe, ∃ a : Word, ∃ b : Word, ∃ s : State, Ready 0x0403 [] 1 1 r s ∧ s.findOp r.sess (wordAt r.payload 0) = some o ∧
      o.kind = .thermCal f a b) ∧
    (∃ r : Req, ∃ s : State, Ready 0x0404 [5] 2 2 r s ∧ (wordAt r.payload 0).toNat ≤ 3) :=
    ⟨⟨(req 0x0401 [2]), (ready (req 0x0401 [2]) State.reset), ready_of (by decide +kernel), by decide +kernel⟩,
     ⟨(req 0x0402 [0x15, 9]), (ready (req 0x0402 [0x15, 9]) State.reset), ready_of (by decide +kernel), by decide +kernel, by decide +kernel,
       by decide +kernel, by decide +kernel⟩,
     ⟨(req 0x0402 [0x15, 9]), (mPr (ready (req 0x0402 [0x15, 9]) State.reset) fun p =>
       { p with ops := ⟨3, 9, 0x402, .thermCal 1 3 4, true, 33⟩ :: p.ops }), ready_of (by decide +kernel), by decide +kernel, by decide +kernel,
       by decide +kernel, by decide +kernel⟩,
     ⟨(1), (⟨1, 9, 0x402, .thermCal 1 3 4, true, 33⟩), (mPr (up State.reset) fun p =>
       { p with ops := ⟨1, 9, 0x402, .thermCal 1 3 4, true, 33⟩ :: p.ops, sessions := ⟨1, .ring 4, 2, 3, 0xFFFF, some 9, []⟩ :: p.sessions }),
       by decide +kernel⟩,
     ⟨(req 0x0403 [9]), (⟨1, 9, 0x402, .thermCal 1 3 4, true, 33⟩), (1), (3), (4), (mPr (ready (req 0x0403 [9]) State.reset) fun p =>
       { p with ops := ⟨1, 9, 0x402, .thermCal 1 3 4, true, 33⟩ :: p.ops }), ready_of (by decide +kernel), by decide +kernel, by decide +kernel⟩,
     ⟨(req 0x0404 [2, 0]), (ready (req 0x0404 [2, 0]) State.reset), ready_of (by decide +kernel), by decide +kernel⟩⟩

theorem witness_HarvestOpcodes :
    (∃ r : Req, ∃ b : List Word, ∃ s : State, Ready 0x0501 (harvFeats r s) 1 1 r s ∧ (wordAt r.payload 0).toNat < 8 ∧ b = s.act 0x40 (unitOf r).val
      ∧ (s.harv[unitOf r].st = .idle ∨ (s.harv[unitOf r].st = .held ∧ (wordAt r.payload 0).getLsbD 2 = true)) ∧ (hvSrc b ≤ 1 → s.fe[hvFe b].links[if
      hvSrc b = 0 then (0 : Fin 3) else 1] = .data ∧ judgeAdmit (taken r s) (if hvSrc b = 0 then 900 else 300) = .granted) ∧ armCross s b = true ∧
      hvPost b ≤ capElems b (eszOf s b) ∧ reservedNow s + harvRate s b ≤ capOf s s.cellar.fsp) ∧
    (∃ r : Req, ∃ s : State, Ready 0x0501 (harvFeats r s) 1 1 r s ∧ (wordAt r.payload 0).toNat < 8 ∧ s.harv[unitOf r].st = .armed ∧ 2 ≤ hvSrc (s.act
      0x40 (unitOf r).val)) ∧
    (∃ r : Req, ∃ v : Fin 4, ∃ s : State, Ready 0x0502 [] 1 1 r s ∧ (wordAt r.payload 0).toNat = 2 ^ v.val ∧ s.harv[v].st = .armed ∧ s.commits = []
      ∧ s.proto.ops = []) ∧
    (∃ r : Req, ∃ v : Fin 4, ∃ s : State, Ready 0x0502 [] 1 1 r s ∧ (wordAt r.payload 0).toNat = 2 ^ v.val ∧ s.harv[v].st = .idle) ∧
    (∃ r : Req, ∃ v : Fin 4, ∃ s : State, Ready 0x0503 [] 1 1 r s ∧ (wordAt r.payload 0).toNat = 2 ^ v.val + 16 ∧ s.harv[v].st = .armed ∧
      s.harv[v].elems = [] ∧ s.harv[v].trigAt = none) ∧
    (∃ r : Req, ∃ s : State, Ready 0x0504 [] 1 1 r s ∧ (wordAt r.payload 0).toNat ≤ 3 ∧ s.harv[unitOf r].st = .held) ∧
    (∃ r : Req, ∃ s : State, Ready 0x0504 [] 1 1 r s ∧ (wordAt r.payload 0).toNat ≤ 3 ∧ s.harv[unitOf r].st = .idle) ∧
    (∃ r : Req, ∃ v : Fin 4, ∃ s : State, Ready 0x0505 [] 1 1 r s ∧ (wordAt r.payload 0).toNat = 2 ^ v.val ∧ s.harv[v].st = .held ∧ s.commits = [])
      ∧
    (∃ r : Req, ∃ s : State, Ready 0x0506 [] 1 1 r s ∧ (wordAt r.payload 0).toNat ≤ 3) :=
    ⟨⟨(req 0x0501 [2]), (flds (State.reset.act 0x40 2) [(0,0,3,3),(0,12,5,3),(4,0,32,100)]),
      ({ aset (aset (ringOn (ready (req 0x0501 [2]) State.reset) 3 4) 0x40 2 [(0,0,3,3),(0,12,5,3),(4,0,32,100)]) 0x70 0 [] with fe := State.reset.fe, harv := State.reset.harv.set 2 { set := State.reset.act 0x40 2 } }),
      ready_of (by decide +kernel), by decide +kernel, by decide +kernel, by decide +kernel, by decide +kernel, by decide +kernel,
      by decide +kernel, by decide +kernel⟩,
     ⟨(req 0x0501 [2]),
       ({ aset (ringOn (ready (req 0x0501 [2]) State.reset) 3 4) 0x40 2 [(0,0,3,3),(0,12,5,3)] with harv := State.reset.harv.set 2 { st := .armed, set := State.reset.act 0x40 2 } }),
       ready_of (by decide +kernel), by decide +kernel, by decide +kernel, by decide +kernel⟩,
     ⟨(req 0x0502 [4]), (2), (mPr
       { ready (req 0x0502 [4]) State.reset with harv := State.reset.harv.set 2 { st := .armed, set := State.reset.act 0x40 2, rate := 5 }, commits := [] }
       fun p => { p with ops := [] }), ready_of (by decide +kernel), by decide +kernel, by decide +kernel, by decide +kernel, by decide +kernel⟩,
     ⟨(req 0x0502 [4]), (2),
       ({ ready (req 0x0502 [4]) State.reset with harv := State.reset.harv.set 2 { st := .idle, set := State.reset.act 0x40 2 } }), ready_of
       (by decide +kernel), by decide +kernel, by decide +kernel⟩,
     ⟨(req 0x0503 [0x14]), (2),
       ({ ready (req 0x0503 [0x14]) State.reset with harv := State.reset.harv.set 2 { st := .armed, set := State.reset.act 0x40 2, rate := 5 } }),
       ready_of (by decide +kernel), by decide +kernel, by decide +kernel, by decide +kernel, by decide +kernel⟩,
     ⟨(req 0x0504 [2]),
       ({ ready (req 0x0504 [2]) State.reset with harv := State.reset.harv.set 2 { st := .held, set := State.reset.act 0x40 2, rate := 5 } }),
       ready_of (by decide +kernel), by decide +kernel, by decide +kernel⟩,
     ⟨(req 0x0504 [2]),
       ({ ready (req 0x0504 [2]) State.reset with harv := State.reset.harv.set 2 { st := .idle, set := State.reset.act 0x40 2, rate := 5 } }),
       ready_of (by decide +kernel), by decide +kernel, by decide +kernel⟩,
     ⟨(req 0x0505 [4]), (2),
       ({ ready (req 0x0505 [4]) State.reset with harv := State.reset.harv.set 2 { st := .held, set := State.reset.act 0x40 2, rate := 5 }, commits := [] }),
       ready_of (by decide +kernel), by decide +kernel, by decide +kernel, by decide +kernel⟩,
     ⟨(req 0x0506 [2]),
       ({ ready (req 0x0506 [2]) State.reset with harv := State.reset.harv.set 2 { st := .held, set := State.reset.act 0x40 2, ignored := 5 } }),
       ready_of (by decide +kernel), by decide +kernel⟩⟩

theorem witness_HarvestRuns :
    (∃ u : Fin 4, ∃ s : State, s.harv[u].st = .armed ∧ hvSrc s.harv[u].set ≤ 1 ∧ hvAvg s.harv[u].set = 0 ∧ s.harv[u].trig = none) ∧
    (∃ u : Fin 4, ∃ i : HarvestInput, ∃ l : List HarvestInput, ∃ s : State, s.harv[u].st = .armed ∧ 2 ≤ hvSrc s.harv[u].set ∧ hvAvg s.harv[u].set =
      0 ∧ s.harv[u].trig = none ∧ s.harv[u].inputs = i :: l) ∧
    (∃ u : Fin 4, ∃ e : SeqEvent, ∃ s : State, nextEvent s.harv[u].inbox = some e ∧ s.harv[u].st = .armed ∧ (∀ k, timerAt s u = some k → seqSlot
      e.clk ≤ seqSlot k) ∧ (watches s.harv[u].set s.harv[u].seq e = true → hvHit s.harv[u].set s.harv[u].seq < 8)) ∧
    (∃ u : Fin 4, ∃ e : SeqEvent, ∃ s : State, nextEvent s.harv[u].inbox = some e ∧ s.harv[u].st = .armed ∧ (∀ k, timerAt s u = some k → seqSlot
      e.clk ≤ seqSlot k) ∧ watches s.harv[u].set s.harv[u].seq e = true ∧ s.harv[u].entered ≤ e.clk ∧ hvNeed s.harv[u].set s.harv[u].seq ≤
      s.harv[u].cnt + 1 ∧ hvHit s.harv[u].set s.harv[u].seq = 8 ∧ s.harv[u].elems = [] ∧ s.harv[u].trigAt = none) ∧
    (∃ u : Fin 4, ∃ e : SeqEvent, ∃ s : State, nextEvent s.harv[u].inbox = some e ∧ s.harv[u].st = .post) ∧
    (∃ u : Fin 4, ∃ k : Nat, ∃ s : State, s.harv[u].st = .armed ∧ timerAt s u = some k ∧ (∀ e, nextEvent s.harv[u].inbox = some e → seqSlot k <
      seqSlot e.clk) ∧ hvTmo s.harv[u].set s.harv[u].seq < 8) ∧
    (∃ u : Fin 4, ∃ s : State, hvUnit s.harv[u].set s.harv[u].seq = 2) ∧
    (∃ u : Fin 4, ∃ s : State, (s.harv[u].st ≠ .armed ∨ timerAt s u = none)) ∧
    (∃ u : Fin 4, ∃ s : State, s.harv[u].st = .armed ∧ hvTimeout s.harv[u].set ≠ 0 ∧ s.commits = [] ∧ s.proto.ops = []) ∧
    (∃ u : Fin 4, ∃ s : State, s.harv[u].st = .armed ∧ 2 ≤ hvLvlKind s.harv[u].set ∧ hvLvlKind s.harv[u].set ≤ 5 ∧ s.harv[u].last = none) :=
    ⟨⟨(2),
      ({ State.reset with harv := State.reset.harv.set 2 { st := .armed, set := flds (State.reset.act 0x40 2) [(0,0,3,0),(0,8,4,0)], cap := 99, esz := 4 } }),
      by decide +kernel, by decide +kernel, by decide +kernel, by decide +kernel⟩,
     ⟨(2), (⟨[5, -6], 99, 3, 5, 0⟩), ([]),
       ({ State.reset with harv := State.reset.harv.set 2 { st := .armed, inputs := [⟨[5, -6], 99, 3, 5, 0⟩], set := flds (State.reset.act 0x40 2) [(0,0,3,3),(0,8,4,0)], cap := 99, esz := 4 } }),
       by decide +kernel, by decide +kernel, by decide +kernel, by decide +kernel, by decide +kernel⟩,
     ⟨(2), (⟨5, 1, 7, 0, 0, 77777⟩),
       ({ State.reset with harv := State.reset.harv.set 2 { st := .armed, set := flds (State.reset.act 0x40 2) [(16,0,4,3)], inbox := [⟨5, 1, 7, 0, 0, 77777⟩, ⟨2, 3, 8, 0, 0, 77777777⟩] } }),
       by decide +kernel, by decide +kernel, by decide +kernel, by decide +kernel⟩,
     ⟨(2), (⟨1, 5, 7, 0, 0, 77777⟩),
       ({ State.reset with harv := State.reset.harv.set 2 { st := .armed, entered := 5, set := flds (State.reset.act 0x40 2) [(16,0,4,1),(16,4,4,8),(17,0,13,5),(16,16,16,1)], inbox := [⟨5, 1, 7, 0, 0, 77777⟩, ⟨1, 5, 7, 0, 0, 77777⟩] } }),
       by decide +kernel, by decide +kernel, by decide +kernel, by decide +kernel, by decide +kernel, by decide +kernel, by decide +kernel,
       by decide +kernel, by decide +kernel⟩,
     ⟨(2), (⟨5, 1, 7, 0, 0, 77777⟩),
       ({ State.reset with harv := State.reset.harv.set 2 { st := .post, set := flds (State.reset.act 0x40 2) [(16,0,4,3)], inbox := [⟨5, 1, 7, 0, 0, 77777⟩, ⟨2, 3, 8, 0, 0, 77777777⟩] } }),
       by decide +kernel, by decide +kernel⟩,
     ⟨(2), (80005),
       ({ State.reset with harv := State.reset.harv.set 2 { st := .armed, entered := 5, set := flds (State.reset.act 0x40 2) [(16,12,2,2),(16,8,4,2),(18,0,32,77)] } }),
       by decide +kernel, by decide +kernel, by decide +kernel, by decide +kernel⟩,
     ⟨(2),
       ({ State.reset with harv := State.reset.harv.set 2 { st := .armed, entered := 5, set := flds (State.reset.act 0x40 2) [(16,12,2,2),(16,8,4,2),(18,0,32,77)] } }),
       by decide +kernel⟩,
     ⟨(2), ({ State.reset with harv := State.reset.harv.set 2 { st := .armed, set := flds (State.reset.act 0x40 2) [(16,12,2,0)] } }),
       by decide +kernel⟩,
     ⟨(2), (mPr
       { State.reset with harv := State.reset.harv.set 2 { st := .armed, set := flds (State.reset.act 0x40 2) [(11,0,24,200)] }, commits := [] }
       fun p => { p with ops := [] }), by decide +kernel, by decide +kernel, by decide +kernel, by decide +kernel⟩,
     ⟨(2),
       ({ State.reset with harv := State.reset.harv.set 2 { st := .armed, set := flds (State.reset.act 0x40 2) [(8,0,3,2),(9,0,32,100),(10,0,16,20)] } }),
       by decide +kernel, by decide +kernel, by decide +kernel, by decide +kernel⟩⟩

theorem witness_CooperArithmetic :
    (∃ n : CoreId, ∃ s : State, Plain s.core[n]) ∧
    (∃ n : CoreId, ∃ s : State, Plain s.core[n]) ∧
    (∃ n : CoreId, ∃ s : State, Plain s.core[n]) ∧
    (∃ n : CoreId, ∃ s : State, Plain s.core[n]) ∧
    (∃ n : CoreId, ∃ s : State, Plain s.core[n]) :=
    ⟨⟨(2), (onC State.reset 2 core1), ⟨rfl, rfl, rfl, by decide, rfl, rfl, rfl, rfl, ⟨rfl, rfl⟩, rfl⟩⟩,
     ⟨(2), (onC State.reset 2 core1), ⟨rfl, rfl, rfl, by decide, rfl, rfl, rfl, rfl, ⟨rfl, rfl⟩, rfl⟩⟩,
     ⟨(2), (onC State.reset 2 core1), ⟨rfl, rfl, rfl, by decide, rfl, rfl, rfl, rfl, ⟨rfl, rfl⟩, rfl⟩⟩,
     ⟨(2), (onC State.reset 2 core1), ⟨rfl, rfl, rfl, by decide, rfl, rfl, rfl, rfl, ⟨rfl, rfl⟩, rfl⟩⟩,
     ⟨(2), (onC State.reset 2 core1), ⟨rfl, rfl, rfl, by decide, rfl, rfl, rfl, rfl, ⟨rfl, rfl⟩, rfl⟩⟩⟩

theorem witness_CooperAccumulators :
    (∃ p ∈ [(Instr.mac, fun (a x y : Int) => a + x * y), (Instr.msu, fun a x y => a - x * y), (Instr.mpy, fun _ x y => x * y)], ∃ n : CoreId, ∃ k :
      Fin 4, ∃ sa : BitVec 5, ∃ sb : BitVec 5, ∃ s : State, ∃ v : Int, Plain s.core[n] ∧ s.core[n].inHandler = false ∧ v = p.2 s.core[n].a[k].toInt
      (greg s.core[n] sa).toInt (greg s.core[n] sb).toInt ∧ -2 ^ 71 ≤ v ∧ v < 2 ^ 71) ∧
    (∃ p ∈ [(Instr.mac2, fun (a x y : Int) => a + (x + y)), (Instr.msu2, fun a x y => a - (x + y)), (Instr.mpy2, fun _ x y => x + y)], ∃ n : CoreId,
      ∃ k : Fin 4, ∃ sa : BitVec 5, ∃ sb : BitVec 5, ∃ s : State, ∃ v : Int, Plain s.core[n] ∧ s.core[n].inHandler = false ∧ v = p.2
      s.core[n].a[k].toInt (((greg s.core[n] sa).extractLsb' 0 16).toInt * ((greg s.core[n] sb).extractLsb' 0 16).toInt) (((greg s.core[n]
      sa).extractLsb' 16 16).toInt * ((greg s.core[n] sb).extractLsb' 16 16).toInt) ∧ -2 ^ 71 ≤ v ∧ v < 2 ^ 71) ∧
    (∃ n : CoreId, ∃ k : Fin 4, ∃ sa : BitVec 5, ∃ sb : BitVec 5, ∃ s : State, Plain s.core[n] ∧ s.core[n].inHandler = false ∧ 2 ^ 71 ≤
      s.core[n].a[k].toInt + (greg s.core[n] sa).toInt * (greg s.core[n] sb).toInt ∧ s.core[n].ovfTrap = false) ∧
    (∃ n : CoreId, ∃ k : Fin 4, ∃ i : BitVec 5, ∃ s : State, ∃ v : Int, Plain s.core[n] ∧ s.core[n].inHandler = false ∧ v = (if i.toInt < 0 then
      Int.fdiv s.core[n].a[k].toInt (2 ^ i.toInt.natAbs) else s.core[n].a[k].toInt * 2 ^ i.toInt.natAbs) ∧ -2 ^ 71 ≤ v ∧ v < 2 ^ 71) ∧
    (∃ n : CoreId, ∃ s : State, Plain s.core[n] ∧ s.core[n].inHandler = false) ∧
    (∃ n : CoreId, ∃ s : State, Plain s.core[n] ∧ s.core[n].inHandler = false) ∧
    (∃ n : CoreId, ∃ i : BitVec 5, ∃ k : Fin 4, ∃ s : State, ∃ v : Int, Plain s.core[n] ∧ s.core[n].inHandler = false ∧ v = (if i = 0 then
      s.core[n].aOld[k].toInt else Int.fdiv (s.core[n].aOld[k].toInt + 2 ^ (i.toNat - 1)) (2 ^ i.toNat))) :=
    ⟨⟨_, .head _, (2), (1), (4), (5), (onC State.reset 2 core1), (27), ⟨rfl, rfl, rfl, by decide, rfl, rfl, rfl, rfl, ⟨rfl, rfl⟩, rfl⟩,
      by decide +kernel, by decide +kernel, by decide +kernel, by decide +kernel⟩,
     ⟨_, .head _, (2), (1), (4), (5), (onC State.reset 2 core1), (27), ⟨rfl, rfl, rfl, by decide, rfl, rfl, rfl, rfl, ⟨rfl, rfl⟩, rfl⟩,
       by decide +kernel, by decide +kernel, by decide +kernel, by decide +kernel⟩,
     ⟨(2), (2), (4), (5), (onC State.reset 2 core1), ⟨rfl, rfl, rfl, by decide, rfl, rfl, rfl, rfl, ⟨rfl, rfl⟩, rfl⟩, by decide +kernel,
       by decide +kernel, by decide +kernel⟩,
     ⟨(2), (1), (31), (onC State.reset 2 core1), (7), ⟨rfl, rfl, rfl, by decide, rfl, rfl, rfl, rfl, ⟨rfl, rfl⟩, rfl⟩, by decide +kernel,
       by decide +kernel, by decide +kernel, by decide +kernel⟩,
     ⟨(2), (onC State.reset 2 core1), ⟨rfl, rfl, rfl, by decide, rfl, rfl, rfl, rfl, ⟨rfl, rfl⟩, rfl⟩, by decide +kernel⟩,
     ⟨(2), (onC State.reset 2 core1), ⟨rfl, rfl, rfl, by decide, rfl, rfl, rfl, rfl, ⟨rfl, rfl⟩, rfl⟩, by decide +kernel⟩,
     ⟨(2), (1), (1), (onC State.reset 2 core1), (5), ⟨rfl, rfl, rfl, by decide, rfl, rfl, rfl, rfl, ⟨rfl, rfl⟩, rfl⟩, by decide +kernel,
       by decide +kernel⟩⟩

theorem witness_CooperMemory :
    (∃ p ∈ [(Instr.ldw, (1 : BitVec 4), 4, fun (m : Mem) (x : Nat) => bytesWord (m.readN x 4)), (Instr.ldh, 2, 2, fun m x => (m.read (x + 1) ++
      m.read x).signExtend 32), (Instr.ldhu, 3, 2, fun m x => (m.read (x + 1) ++ m.read x).zeroExtend 32)], ∃ n : CoreId, ∃ g : BitVec 5, ∃ b :
      BitVec 3, ∃ md : BitVec 2, ∃ off : BitVec 6, ∃ e : EccRead, ∃ s : State, ∃ x : Nat, Plain s.core[n] ∧ lsForm s.core[n] b md off ∧ e ≠
      .uncorrectable ∧ x = (lsAddr s.core[n] (lsSlot p.2.1 g b md off)).toNat ∧ x % p.2.2.1 = 0) ∧
    (∃ n : CoreId, ∃ g : BitVec 5, ∃ b : BitVec 3, ∃ md : BitVec 2, ∃ off : BitVec 6, ∃ e : EccRead, ∃ s : State, ∃ x : Nat, Plain s.core[n] ∧
      lsForm s.core[n] b md off ∧ g.getLsbD 0 = false ∧ e ≠ .uncorrectable ∧ x = (lsAddr s.core[n] (lsSlot 4 g b md off)).toNat ∧ x % 8 = 0) ∧
    (∃ p ∈ [(Instr.stw, (5 : BitVec 4), 4), (Instr.sth, 6, 2), (Instr.std, 7, 8)], ∃ n : CoreId, ∃ g : BitVec 5, ∃ b : BitVec 3, ∃ md : BitVec 2, ∃
      off : BitVec 6, ∃ s : State, ∃ x : Nat, Plain s.core[n] ∧ lsForm s.core[n] b md off ∧ (p.2.2 = 8 → g.getLsbD 0 = false) ∧ x = (lsAddr
      s.core[n] (lsSlot p.2.1 g b md off)).toNat ∧ x % p.2.2 = 0 ∧ s.core[n].dm.wf = true) ∧
    (∃ n : CoreId, ∃ s : State, Plain s.core[n]) ∧
    (∃ n : CoreId, ∃ b : BitVec 3, ∃ s : State, Plain s.core[n] ∧ wbits s.core[n].m[b.toFin] 16 2 ≠ 3) ∧
    (∃ m : Word, wbits m 16 2 = 0) ∧
    (∃ m : Word, wbits m 16 2 = 1 ∧ wbits m 18 14 ≠ 0) ∧
    (∃ m : Word, wbits m 16 2 = 2 ∧ wbits m 0 4 ≤ 3 ∧ 1 ≤ wbits m 4 5 ∧ wbits m 4 5 ≤ 15 ∧ wbits m 9 7 = 0 ∧ wbits m 18 14 = 0) ∧
    (∃ e : EccRead, ∃ p ∈ [((Instr.ldw · e), (1 : BitVec 4), 4), ((Instr.ldh · e), 2, 2), ((Instr.ldhu · e), 3, 2), ((Instr.ldd · e), 4, 8),
      (Instr.stw, 5, 4), (Instr.sth, 6, 2), (Instr.std, 7, 8)], ∃ n : CoreId, ∃ g : BitVec 5, ∃ b : BitVec 3, ∃ md : BitVec 2, ∃ off : BitVec 6, ∃ s
      : State, Plain s.core[n] ∧ reinitOps 1 n.val s = [] ∧ lsForm s.core[n] b md off ∧ (p.2.2 = 8 → g.getLsbD 0 = false) ∧ (lsAddr s.core[n]
      (lsSlot p.2.1 g b md off)).toNat % p.2.2 ≠ 0) ∧
    (∃ p ∈ [(Instr.ldw, (1 : BitVec 4), 4), (Instr.ldh, 2, 2), (Instr.ldhu, 3, 2), (Instr.ldd, 4, 8)], ∃ n : CoreId, ∃ g : BitVec 5, ∃ b : BitVec 3,
      ∃ md : BitVec 2, ∃ off : BitVec 6, ∃ s : State, ∃ x : Nat, Plain s.core[n] ∧ reinitOps 1 n.val s = [] ∧ lsForm s.core[n] b md off ∧ (p.2.2 = 8
      → g.getLsbD 0 = false) ∧ x = (lsAddr s.core[n] (lsSlot p.2.1 g b md off)).toNat ∧ x % p.2.2 = 0) ∧
    (∃ e : EccRead, ∃ p ∈ [((Instr.ldw · e), false), ((Instr.ldh · e), false), ((Instr.ldhu · e), false), ((Instr.ldd · e), true), (Instr.stw,
      false), (Instr.sth, false), (Instr.std, true)], ∃ n : CoreId, ∃ g : BitVec 5, ∃ b : BitVec 3, ∃ md : BitVec 2, ∃ off : BitVec 6, ∃ s : State,
      Plain s.core[n] ∧ reinitOps 1 n.val s = [] ∧ (¬ lsForm s.core[n] b md off ∨ (p.2 && g.getLsbD 0) = true)) ∧
    (∃ n : CoreId, ∃ md : BitVec 2, ∃ off : BitVec 6, ∃ s : State, Plain s.core[n] ∧ reinitOps 1 n.val s = [] ∧ (md ≠ 0 ∨ off ≠ 0)) ∧
    (∃ n : CoreId, ∃ g : BitVec 5, ∃ b : BitVec 3, ∃ md : BitVec 2, ∃ off : BitVec 6, ∃ s : State, Plain s.core[n] ∧ reinitOps 1 n.val s = [] ∧ (md
      ≠ 1 ∨ off ≠ 0 ∨ g ≠ 0 ∨ wbits s.core[n].m[b.toFin] 16 2 = 3)) :=
    ⟨⟨_, .head _, (2), (3), (4), (2), (1), (.corrected), (onC State.reset 2 core1), ((lsAddr core1 (lsSlot ([1,2,3].getD 0 1) 3 4 2 1)).toNat),
      ⟨rfl, rfl, rfl, by decide, rfl, rfl, rfl, rfl, ⟨rfl, rfl⟩, rfl⟩, by decide +kernel, by decide +kernel, by decide +kernel, by decide +kernel⟩,
     ⟨(2), (6), (4), (2), (1), (.clean), (onC State.reset 2 core1), (40), ⟨rfl, rfl, rfl, by decide, rfl, rfl, rfl, rfl, ⟨rfl, rfl⟩, rfl⟩,
       by decide +kernel, by decide +kernel, by decide +kernel, by decide +kernel, by decide +kernel⟩,
     ⟨_, .head _, (2), (4), (4), (2), (2), (onC State.reset 2 core1), ((lsAddr core1 (lsSlot ([5,6,7].getD 0 5) 4 4 2 2)).toNat), ⟨rfl, rfl, rfl,
       by decide, rfl, rfl, rfl, rfl, ⟨rfl, rfl⟩, rfl⟩, by decide +kernel, by decide +kernel, by decide +kernel, by decide +kernel,
       by decide +kernel⟩,
     ⟨(2), (onC State.reset 2 core1), ⟨rfl, rfl, rfl, by decide, rfl, rfl, rfl, rfl, ⟨rfl, rfl⟩, rfl⟩⟩,
     ⟨(2), (4), (onC State.reset 2 core1), ⟨rfl, rfl, rfl, by decide, rfl, rfl, rfl, rfl, ⟨rfl, rfl⟩, rfl⟩, by decide +kernel⟩,
     ⟨(0x00000004), by decide +kernel⟩,
     ⟨(0x00410004), by decide +kernel, by decide +kernel⟩,
     ⟨(0x000200A1), by decide +kernel, by decide +kernel, by decide +kernel, by decide +kernel, by decide +kernel, by decide +kernel⟩,
     ⟨(.clean), _, .head _, (2), (6), (5), (0), (0), (onC (mPr State.reset fun p => { p with ops := [] }) 2 core1), ⟨rfl, rfl, rfl, by decide, rfl,
       rfl, rfl, rfl, ⟨rfl, rfl⟩, rfl⟩, by decide +kernel, by decide +kernel, by decide +kernel, by decide +kernel⟩,
     ⟨_, .head _, (2), (6), (4), (2), (2), (onC (mPr State.reset fun p => { p with ops := [] }) 2 core1), ((lsAddr core1 (lsSlot ([1,2,3,4].getD 0
       1) 6 4 2 2)).toNat), ⟨rfl, rfl, rfl, by decide, rfl, rfl, rfl, rfl, ⟨rfl, rfl⟩, rfl⟩, by decide +kernel, by decide +kernel,
       by decide +kernel, by decide +kernel, by decide +kernel⟩,
     ⟨(.clean), _, .head _, (2), (6), (4), (3), (0), (onC (mPr State.reset fun p => { p with ops := [] }) 2 core1), ⟨rfl, rfl, rfl, by decide, rfl,
       rfl, rfl, rfl, ⟨rfl, rfl⟩, rfl⟩, by decide +kernel, by decide +kernel⟩,
     ⟨(2), (1), (0), (onC (mPr State.reset fun p => { p with ops := [] }) 2 core1), ⟨rfl, rfl, rfl, by decide, rfl, rfl, rfl, rfl, ⟨rfl, rfl⟩, rfl⟩,
       by decide +kernel, by decide +kernel⟩,
     ⟨(2), (6), (4), (1), (0), (onC (mPr State.reset fun p => { p with ops := [] }) 2 core1), ⟨rfl, rfl, rfl, by decide, rfl, rfl, rfl, rfl, ⟨rfl,
       rfl⟩, rfl⟩, by decide +kernel, by decide +kernel⟩⟩

theorem witness_CooperControlRows :
    (∃ n : CoreId, ∃ cond : BitVec 3, ∃ s : State, Plain s.core[n] ∧ cond.toNat ≤ 4) ∧
    (∃ n : CoreId, ∃ s : State, Plain s.core[n]) ∧
    (∃ n : CoreId, ∃ reg : Bool, ∃ g : BitVec 5, ∃ cnt : BitVec 14, ∃ last : BitVec 13, ∃ v : Word, ∃ s : State, Plain s.core[n] ∧
      s.core[n].inHandler = false ∧ s.core[n].pc.toNat < last.toNat ∧ v = (if reg then greg s.core[n] g else cnt.zeroExtend 32)) ∧
    (∃ n : CoreId, ∃ reg : Bool, ∃ g : BitVec 5, ∃ cnt : BitVec 13, ∃ k : Nat, ∃ s : State, Plain s.core[n] ∧ k = (if reg then (greg s.core[n]
      g).toNat else cnt.toNat)) ∧
    (∃ n : CoreId, ∃ s : State, Plain s.core[n]) ∧
    (∃ n : CoreId, ∃ s : State, Plain s.core[n]) ∧
    (∃ n : CoreId, ∃ k : BitVec 5, ∃ s : State, Plain s.core[n] ∧ (8 ≤ k.toNat ∧ k.toNat ≤ 14 ∨ 24 ≤ k.toNat)) ∧
    (∃ n : CoreId, ∃ s : State, Plain s.core[n]) ∧
    (∃ n : CoreId, ∃ k : BitVec 5, ∃ s : State, Plain s.core[n] ∧ (k = 15 ∨ 24 ≤ k.toNat)) ∧
    (∃ n : CoreId, ∃ s : State, Plain s.core[n]) ∧
    (∃ n : CoreId, ∃ s : State, Plain s.core[n]) ∧
    (∃ n : CoreId, ∃ s : State, Plain s.core[n] ∧ reinitOps 1 n.val s = []) ∧
    (∃ n : CoreId, ∃ s : State, Plain s.core[n]) ∧
    (∃ n : CoreId, ∃ s : State, Plain s.core[n] ∧ 4 ≤ s.core[n].posts.length) ∧
    (∃ n : CoreId, ∃ g : BitVec 5, ∃ s : State, ∃ d : List Word, Plain s.core[n] ∧ s.core[n].posts.length < 4 ∧ d = bytesWords 16
      (s.core[n].dm.readN ((greg s.core[n] g).toNat % 2 ^ 18) 64)) ∧
    (∃ n : CoreId, ∃ s : State, Plain s.core[n]) ∧
    (∃ p ∈ [(Instr.br, 0x7F8001FFF), (Instr.brl, 0xF8001FFF), (Instr.jr, 0xF8000000), (Instr.reti, 0), (Instr.repeat_, 0x1F8001FFF), (Instr.mvc,
      0x4F800001F), (Instr.movi, 0xF800FFFF), (Instr.movhi, 0xF800FFFF), (Instr.halt, 0), (Instr.wait, 0), (Instr.post, 0xF8000000), (Instr.taprel,
      0xF)], ∃ n : CoreId, ∃ o : BitVec 35, ∃ s : State, Plain s.core[n] ∧ reinitOps 1 n.val s = [] ∧ o &&& ~~~(BitVec.ofNat 35 p.2) ≠ 0) ∧
    (∃ n : CoreId, ∃ o : BitVec 35, ∃ s : State, Plain s.core[n] ∧ reinitOps 1 n.val s = [] ∧ 5 ≤ (o.extractLsb' 32 3).toNat) ∧
    (∃ n : CoreId, ∃ o : BitVec 35, ∃ s : State, Flows s.core[n] ∧ s.core[n].jump = none ∧ s.core[n].rep = none ∧ reinitOps 1 n.val s = [] ∧
      ((o.extractLsb' 0 13).toNat ≤ s.core[n].pc.toNat ∨ s.core[n].loops[if o.getLsbD 34 then (1 : Fin 2) else 0].on = true ∨ s.core[n].inHandler =
      true ∨ (o.getLsbD 34 = true ∧ s.core[n].loops[(0 : Fin 2)].on = true ∧ s.core[n].loops[(0 : Fin 2)].last.toNat < (o.extractLsb' 0 13).toNat)))
      ∧
    (∃ p ∈ [(Instr.br, 0xF8001FFF), (Instr.brl, 0xF8001FFF), (Instr.jr, 0xF8000000), (Instr.reti, 0)], ∃ n : CoreId, ∃ o : BitVec 35, ∃ l : Fin 2, ∃
      s : State, Flows s.core[n] ∧ s.core[n].jump = none ∧ s.core[n].rep = none ∧ reinitOps 1 n.val s = [] ∧ o &&& ~~~(BitVec.ofNat 35 p.2) = 0 ∧
      s.core[n].loops[l].on = true ∧ s.core[n].loops[l].first.toNat ≤ s.core[n].pc.toNat ∧ s.core[n].pc.toNat ≤ s.core[n].loops[l].last.toNat ∧
      s.core[n].loops[l].last.toNat ≤ s.core[n].pc.toNat + 2) ∧
    (∃ n : CoreId, ∃ l : Fin 2, ∃ s : State, Flows s.core[n] ∧ s.core[n].jump = none ∧ s.core[n].rep = none ∧ s.core[n].loops[l].on = true ∧
      s.core[n].loops[l].last = s.core[n].pc ∧ (∀ k : Fin 2, k ≠ l → s.core[n].loops[k].on = false)) ∧
    (∃ n : CoreId, ∃ k : Nat, ∃ s : State, Flows s.core[n] ∧ s.core[n].jump = none ∧ s.core[n].rep = some k ∧ (∀ l : Fin 2, s.core[n].loops[l].on =
      false)) ∧
    (∃ n : CoreId, ∃ k : Nat, ∃ j : Jump, ∃ s : State, Flows s.core[n] ∧ s.core[n].jump = some (k, j) ∧ s.core[n].rep = none ∧ (∀ l : Fin 2,
      s.core[n].loops[l].on = false)) ∧
    (∃ n : CoreId, ∃ s : State, Flows s.core[n] ∧ reinitOps 1 n.val s = [] ∧ (s.core[n].jump.isSome = true ∨ s.core[n].rep.isSome = true)) :=
    ⟨⟨(2), (3), (onC State.reset 2 core1), ⟨rfl, rfl, rfl, by decide, rfl, rfl, rfl, rfl, ⟨rfl, rfl⟩, rfl⟩, by decide +kernel⟩,
     ⟨(2), (onC State.reset 2 core1), ⟨rfl, rfl, rfl, by decide, rfl, rfl, rfl, rfl, ⟨rfl, rfl⟩, rfl⟩⟩,
     ⟨(2), (false), (4), (6), (20), (6), (onC State.reset 2 core1), ⟨rfl, rfl, rfl, by decide, rfl, rfl, rfl, rfl, ⟨rfl, rfl⟩, rfl⟩,
       by decide +kernel, by decide +kernel, by decide +kernel⟩,
     ⟨(2), (false), (0), (9), (9), (onC State.reset 2 core1), ⟨rfl, rfl, rfl, by decide, rfl, rfl, rfl, rfl, ⟨rfl, rfl⟩, rfl⟩, by decide +kernel⟩,
     ⟨(2), (onC State.reset 2 core1), ⟨rfl, rfl, rfl, by decide, rfl, rfl, rfl, rfl, ⟨rfl, rfl⟩, rfl⟩⟩,
     ⟨(2), (onC State.reset 2 { core1 with av := 15, rsat := true, ipend := 63 }), ⟨rfl, rfl, rfl, by decide, rfl, rfl, rfl, rfl, ⟨rfl, rfl⟩, rfl⟩⟩,
     ⟨(2), (9), (onC State.reset 2 core1), ⟨rfl, rfl, rfl, by decide, rfl, rfl, rfl, rfl, ⟨rfl, rfl⟩, rfl⟩, by decide +kernel⟩,
     ⟨(2), (onC State.reset 2 core1), ⟨rfl, rfl, rfl, by decide, rfl, rfl, rfl, rfl, ⟨rfl, rfl⟩, rfl⟩⟩,
     ⟨(2), (24), (onC State.reset 2 core1), ⟨rfl, rfl, rfl, by decide, rfl, rfl, rfl, rfl, ⟨rfl, rfl⟩, rfl⟩, by decide +kernel⟩,
     ⟨(2), (onC State.reset 2
       { core1 with av := 9, rsat := true, ipend := 63, ie := true, ovfTrap := true, msgValid := true, ivec := 77, ien := 3, iret := 99, lb := 7, lc := #v[5, 6], latBundles := 8, latTime := 9, base := #v[1,2,3,4,5,6,7,8], tapst := 3 }),
       ⟨rfl, rfl, rfl, by decide, rfl, rfl, rfl, rfl, ⟨rfl, rfl⟩, rfl⟩⟩,
     ⟨(2), (onC State.reset 2 { core1 with bundles := 0x500000006, msgIn := 7, msgValid := true }), ⟨rfl, rfl, rfl, by decide, rfl, rfl, rfl, rfl,
       ⟨rfl, rfl⟩, rfl⟩⟩,
     ⟨(2), (onC (mPr State.reset fun p => { p with ops := [] }) 2 core1), ⟨rfl, rfl, rfl, by decide, rfl, rfl, rfl, rfl, ⟨rfl, rfl⟩, rfl⟩,
       by decide +kernel⟩,
     ⟨(2), (onC State.reset 2 core1), ⟨rfl, rfl, rfl, by decide, rfl, rfl, rfl, rfl, ⟨rfl, rfl⟩, rfl⟩⟩,
     ⟨(2), (onC State.reset 2 { core1 with posts := List.replicate 4 ⟨[], none⟩ }), ⟨rfl, rfl, rfl, by decide, rfl, rfl, rfl, rfl, ⟨rfl, rfl⟩, rfl⟩,
       by decide +kernel⟩,
     ⟨(2), (4), (onC State.reset 2 { core1 with g := core1.g.set 4 64, dm := Mem.writeN [] 64 (wordsBytes [0x100, 0x40, 3]) }), (0x100 :: 0x40 :: 3
       :: List.replicate 13 0), ⟨rfl, rfl, rfl, by decide, rfl, rfl, rfl, rfl, ⟨rfl, rfl⟩, rfl⟩, by decide +kernel, by decide +kernel⟩,
     ⟨(2), (onC State.reset 2 { core1 with tapst := 15 }), ⟨rfl, rfl, rfl, by decide, rfl, rfl, rfl, rfl, ⟨rfl, rfl⟩, rfl⟩⟩,
     ⟨_, .head _, (2), (0x2000), (onC (mPr State.reset fun p => { p with ops := [] }) 2 core1), ⟨rfl, rfl, rfl, by decide, rfl, rfl, rfl, rfl, ⟨rfl,
       rfl⟩, rfl⟩, by decide +kernel, by decide +kernel⟩,
     ⟨(2), (0x500000000), (onC (mPr State.reset fun p => { p with ops := [] }) 2 core1), ⟨rfl, rfl, rfl, by decide, rfl, rfl, rfl, rfl, ⟨rfl, rfl⟩,
       rfl⟩, by decide +kernel, by decide +kernel⟩,
     ⟨(2), (7), (onC (mPr State.reset fun p => { p with ops := [] }) 2 core1), ⟨rfl, rfl, rfl, by decide, rfl, rfl, rfl, rfl, ⟨rfl, rfl⟩, rfl⟩,
       by decide +kernel, by decide +kernel, by decide +kernel, by decide +kernel⟩,
     ⟨_, .head _, (2), (0), (1), (onC (mPr State.reset fun p => { p with ops := [] }) 2 { core1 with loops := #v[{}, ⟨true, 5, 9, true⟩] }), ⟨rfl,
       rfl, rfl, by decide, rfl, rfl, rfl, rfl, ⟨rfl, rfl⟩, rfl⟩, by decide +kernel, by decide +kernel, by decide +kernel, by decide +kernel,
       by decide +kernel, by decide +kernel, by decide +kernel, by decide +kernel⟩,
     ⟨(2), (1), (onC State.reset 2 { core1 with loops := #v[{}, ⟨true, 5, 7, true⟩], lc := #v[0, 2] }), ⟨rfl, rfl, rfl, by decide, rfl, rfl, rfl,
       rfl, ⟨rfl, rfl⟩, rfl⟩, by decide +kernel, by decide +kernel, by decide +kernel, by decide +kernel, by decide +kernel⟩,
     ⟨(2), (3), (onC State.reset 2 { core1 with rep := some 3 }), ⟨rfl, rfl, rfl, by decide, rfl, rfl, rfl, rfl, ⟨rfl, rfl⟩, rfl⟩,
       by decide +kernel, by decide +kernel, by decide +kernel⟩,
     ⟨(2), (1), (.to 99), (onC State.reset 2 { core1 with jump := some (1, .to 99) }), ⟨rfl, rfl, rfl, by decide, rfl, rfl, rfl, rfl, ⟨rfl, rfl⟩,
       rfl⟩, by decide +kernel, by decide +kernel, by decide +kernel⟩,
     ⟨(2), (onC (mPr State.reset fun p => { p with ops := [] }) 2 { core1 with rep := some 3 }), ⟨rfl, rfl, rfl, by decide, rfl, rfl, rfl, rfl,
       ⟨rfl, rfl⟩, rfl⟩, by decide +kernel, by decide +kernel⟩⟩

theorem witness_CooperSlots :
    (∃ n : CoreId, ∃ s : State, s.core[n].st = .running) ∧
    (∃ n : CoreId, ∃ s : State, s.core[n].st = .running) ∧
    (∃ n : CoreId, ∃ s : State, s.core[n].st = .running) ∧
    (∃ n : CoreId, ∃ s : State, s.core[n].st = .running) ∧
    (∃ n : CoreId, ∃ s : State, s.core[n].st = .running) ∧
    (∃ n : CoreId, ∃ s : State, Plain s.core[n]) ∧
    (∃ n : CoreId, ∃ s : State, Plain s.core[n] ∧ reinitOps 1 n.val s = []) ∧
    (∃ n : CoreId, ∃ s : State, s.core[n].st ≠ .running) :=
    ⟨⟨(2), (onC State.reset 2 core1), by decide +kernel⟩,
     ⟨(2), (onC State.reset 2 core1), by decide +kernel⟩,
     ⟨(2), (onC State.reset 2 core1), by decide +kernel⟩,
     ⟨(2), (onC State.reset 2 core1), by decide +kernel⟩,
     ⟨(2), (onC State.reset 2 { core1 with asm := { a1 := 5 } }), by decide +kernel⟩,
     ⟨(2), (onC State.reset 2 core1), ⟨rfl, rfl, rfl, by decide, rfl, rfl, rfl, rfl, ⟨rfl, rfl⟩, rfl⟩⟩,
     ⟨(2), (onC (mPr State.reset fun p => { p with ops := [] }) 2 core1), ⟨rfl, rfl, rfl, by decide, rfl, rfl, rfl, rfl, ⟨rfl, rfl⟩, rfl⟩,
       by decide +kernel⟩,
     ⟨(2), (State.reset), by decide +kernel⟩⟩

theorem witness_CooperControl :
    (∃ r : Req, ∃ n : CoreId, ∃ off : Nat, ∃ s : State, Ready 0x0601 [4] 3 16384 r s ∧ wordAt r.payload 0 = BitVec.ofNat 32 (n.val + 8) ∧ wordAt
      r.payload 1 = BitVec.ofNat 32 off ∧ off % 4 = 0 ∧ off + 4 * (r.payload.length - 2) ≤ 0x40000 ∧ s.power.isolated.getLsbD 4 = false) ∧
    (∃ r : Req, ∃ n : CoreId, ∃ off : Nat, ∃ s : State, Ready 0x0601 [4] 3 16384 r s ∧ wordAt r.payload 0 = BitVec.ofNat 32 n.val ∧ wordAt r.payload
      1 = BitVec.ofNat 32 off ∧ off % 8 = 0 ∧ off + 4 * (r.payload.length - 2) ≤ 0x10000 ∧ r.payload.length % 2 = 0 ∧ s.power.isolated.getLsbD 4 =
      false ∧ coreActive s.core[n] = false) ∧
    (∃ r : Req, ∃ n : CoreId, ∃ off : Nat, ∃ s : State, Ready 0x0601 [4] 3 16384 r s ∧ wordAt r.payload 0 = BitVec.ofNat 32 n.val ∧ wordAt r.payload
      1 = BitVec.ofNat 32 off ∧ off % 8 = 0 ∧ off + 4 * (r.payload.length - 2) ≤ 0x10000 ∧ r.payload.length % 2 = 0 ∧ s.power.isolated.getLsbD 4 =
      false ∧ coreActive s.core[n] = true) ∧
    (∃ r : Req, ∃ n : CoreId, ∃ s : State, Ready 0x0602 [4] 1 1 r s ∧ wordAt r.payload 0 = BitVec.ofNat 32 n.val ∧ ringIs s (bf (s.act 0x60 n.val) 0
      0 5) 3 = true ∧ s.power.isolated.getLsbD 4 = false ∧ coreActive s.core[n] = false ∧ judgeAdmit (endCoreTest n.val (taken r s)) 600 = .granted)
      ∧
    (∃ r : Req, ∃ n : CoreId, ∃ s : State, Ready 0x0602 [4] 1 1 r s ∧ wordAt r.payload 0 = BitVec.ofNat 32 n.val ∧ ringIs s (bf (s.act 0x60 n.val) 0
      0 5) 3 = true ∧ s.power.isolated.getLsbD 4 = false ∧ coreActive s.core[n] = false ∧ judgeAdmit (endCoreTest n.val (taken r s)) 600 = .queued)
      ∧
    (∃ r : Req, ∃ n : CoreId, ∃ d : Nat, ∃ s : State, Ready 0x0602 [4] 1 1 r s ∧ wordAt r.payload 0 = BitVec.ofNat 32 n.val ∧ ringIs s (bf (s.act
      0x60 n.val) 0 0 5) 3 = true ∧ s.power.isolated.getLsbD 4 = false ∧ coreActive s.core[n] = false ∧ judgeAdmit (endCoreTest n.val (taken r s))
      600 = .denied d) ∧
    (∃ r : Req, ∃ n : CoreId, ∃ s : State, Ready 0x0602 [4] 1 1 r s ∧ wordAt r.payload 0 = BitVec.ofNat 32 n.val ∧ ringIs s (bf (s.act 0x60 n.val) 0
      0 5) 3 = true ∧ s.power.isolated.getLsbD 4 = false ∧ coreActive s.core[n] = true) ∧
    (∃ r : Req, ∃ m : BitVec 8, ∃ s : State, Ready 0x0603 [4] 1 1 r s ∧ wordAt r.payload 0 = m.zeroExtend 32 ∧ (∀ n : CoreId, m.getLsbD n.val = true
      → s.core[n].st ≠ .queued ∧ reinitOps 1 n.val s = [] ∧ (s.core[n].st = .running → interruptible s.core[n] = true))) ∧
    (∃ r : Req, ∃ n : CoreId, ∃ s : State, Ready 0x0603 [4] 1 1 r s ∧ wordAt r.payload 0 = BitVec.ofNat 32 (2 ^ n.val) ∧ s.core[n].st = .running ∧
      interruptible s.core[n] = false) ∧
    (∃ r : Req, ∃ n : CoreId, ∃ s : State, Ready 0x0604 [4] 2 2 r s ∧ wordAt r.payload 0 = BitVec.ofNat 32 n.val) ∧
    (∃ r : Req, ∃ n : CoreId, ∃ s : State, Ready 0x0605 [4] 1 1 r s ∧ wordAt r.payload 0 = BitVec.ofNat 32 n.val) ∧
    (∃ n : CoreId, ∃ k : Fin 2, ∃ x : Tap, ∃ a : Nat, ∃ h : List Byte, ∃ d : List Byte, ∃ s : State, tapLive s.core[n] = true ∧ s.core[n].taps[k] =
      x ∧ x.rows ≠ [] ∧ (tapFull x || x.short) = true ∧ a = tpBuf x.flds + (if x.half then tpHalf x.flds else 0) ∧ d = (x.rows.flatMap
      (·.bytes)).take (if tpKind x.flds = 3 then tpHalf x.flds - 32 else (x.rows.flatMap (·.bytes)).length) ∧ h = wordsBytes (tapHeader x x.flds
      (tpKind x.flds = 3 && decide (tpHalf x.flds - 32 < (x.rows.flatMap (·.bytes)).length)))) ∧
    (∃ n : CoreId, ∃ k : Fin 2, ∃ s : State, (tapLive s.core[n] = false ∨ (tapFull s.core[n].taps[k] || s.core[n].taps[k].short) = false)) ∧
    (∃ n : CoreId, ∃ d : Nat, ∃ s : State, (s.core[n].st = .running ∨ s.core[n].st = .waiting ∨ s.core[n].st = .paused) ∧ bf (s.act 0x60 n.val) 2 0
      24 ≠ 0 ∧ d = s.core[n].timerAt + bf (s.act 0x60 n.val) 2 0 24 * 10 ^ 6) ∧
    (∃ n : CoreId, ∃ s : State, (bf (s.act 0x60 n.val) 2 0 24 = 0 ∨ coreActive s.core[n] = false ∨ s.core[n].st = .queued)) ∧
    (∃ n : CoreId, ∃ s : State, s.core[n].st = .running ∧ s.core[n].ie = true ∧ s.core[n].inHandler = false ∧ s.core[n].ipend &&& s.core[n].ien ≠ 0
      ∧ s.core[n].jump = none ∧ s.core[n].rep = none) ∧
    (∃ n : CoreId, ∃ s : State, (s.core[n].st ≠ .running ∨ s.core[n].ie = false ∨ s.core[n].inHandler = true ∨ s.core[n].ipend &&& s.core[n].ien = 0
      ∨ s.core[n].jump.isSome = true ∨ s.core[n].rep.isSome = true)) :=
    ⟨⟨(req 0x0601 [11, 8, 1, 2]), (3), (8), ((mW (ready (req 0x0601 [11, 8, 1, 2]) State.reset) fun p => { p with isolated := 0 })), ready_of
      (by decide +kernel), by decide +kernel, by decide +kernel, by decide +kernel, by decide +kernel, by decide +kernel⟩,
     ⟨(req 0x0601 [3, 8, 1, 2]), (3), (8), ((mW { ready (req 0x0601 [3, 8, 1, 2]) State.reset with core := State.reset.core.set 3 {} } fun p =>
       { p with isolated := 0 })), ready_of (by decide +kernel), by decide +kernel, by decide +kernel, by decide +kernel, by decide +kernel,
       by decide +kernel, by decide +kernel, by decide +kernel⟩,
     ⟨(req 0x0601 [3, 8, 1, 2]), (3), (8), ((mW
       { ready (req 0x0601 [3, 8, 1, 2]) State.reset with core := State.reset.core.set 3 { st := .paused } } fun p => { p with isolated := 0 })),
       ready_of (by decide +kernel), by decide +kernel, by decide +kernel, by decide +kernel, by decide +kernel, by decide +kernel,
       by decide +kernel, by decide +kernel⟩,
     ⟨(req 0x0602 [3]), (3), ((mW
       { aset (ringOn (ready (req 0x0602 [3]) State.reset) 4 3) 0x60 3 [(0,0,5,4),(1,0,13,8)] with core := State.reset.core.set 3 { st := .halted, pc := 9, bundles := 7 } }
       fun p => { p with isolated := 0, queue := [], grants := [], shed1 := false, shed2 := false, shed3 := 0 })), ready_of (by decide +kernel),
       by decide +kernel, by decide +kernel, by decide +kernel, by decide +kernel, by decide +kernel⟩,
     ⟨(req 0x0602 [3]), (3), ((mW
       { aset (ringOn (ready (req 0x0602 [3]) State.reset) 4 3) 0x60 3 [(0,0,5,4),(1,0,13,8)] with core := State.reset.core.set 3 {} } fun p =>
       { p with isolated := 0, shed1 := true })), ready_of (by decide +kernel), by decide +kernel, by decide +kernel, by decide +kernel,
       by decide +kernel, by decide +kernel⟩,
     ⟨(req 0x0602 [3]), (3), (0xFFC1), (aset (mW
       { aset (ringOn (ready (req 0x0602 [3]) State.reset) 4 3) 0x60 3 [(0,0,5,4),(1,0,13,8)] with core := State.reset.core.set 3 {} } fun p =>
       { p with isolated := 0 }) 0xC0 0 [(0,0,9,105)]), ready_of (by decide +kernel), by decide +kernel, by decide +kernel, by decide +kernel,
       by decide +kernel, by decide +kernel⟩,
     ⟨(req 0x0602 [3]), (3), ((mW
       { aset (ringOn (ready (req 0x0602 [3]) State.reset) 4 3) 0x60 3 [(0,0,5,4),(1,0,13,8)] with core := State.reset.core.set 3 { st := .running } }
       fun p => { p with isolated := 0 })), ready_of (by decide +kernel), by decide +kernel, by decide +kernel, by decide +kernel,
       by decide +kernel⟩,
     ⟨(req 0x0603 [0x18]), (0x18), (mPr
       { ready (req 0x0603 [0x18]) State.reset with core := (State.reset.core.set 3 { st := .paused }).set 4 { core1 with flight := [⟨2, .m 3, 7⟩] } }
       fun p => { p with ops := p.ops.filter fun o => o.kind ≠ .funcReinit 0 1 }), ready_of (by decide +kernel), by decide +kernel,
       by decide +kernel⟩,
     ⟨(req 0x0603 [8]), (3), ({ ready (req 0x0603 [8]) State.reset with core := State.reset.core.set 3 { core1 with rep := some 3 } }), ready_of
       (by decide +kernel), by decide +kernel, by decide +kernel, by decide +kernel⟩,
     ⟨(req 0x0604 [3, 99]), (3), (ready (req 0x0604 [3, 99]) State.reset), ready_of (by decide +kernel), by decide +kernel⟩,
     ⟨(req 0x0605 [3]), (3), (ready (req 0x0605 [3]) State.reset), ready_of (by decide +kernel), by decide +kernel⟩,
     ⟨(3), (1),
       ({ rows := [⟨[1,2,3,4], 0, 5, 0, 9⟩], flds := flds (List.replicate 6 0) [(0,0,2,2),(4,0,18,64),(5,0,18,256)], half := true, count := 1 }),
       (320), (wordsBytes (tapHeader
       { rows := [⟨[1,2,3,4], 0, 5, 0, 9⟩], flds := flds (List.replicate 6 0) [(0,0,2,2),(4,0,18,64),(5,0,18,256)], half := true, count := 1 } (flds
       (List.replicate 6 0) [(0,0,2,2),(4,0,18,64),(5,0,18,256)]) false)), ([1,2,3,4]),
       ({ State.reset with core := State.reset.core.set 3 { st := .running, taps := Vector.replicate 2 { rows := [⟨[1,2,3,4], 0, 5, 0, 9⟩], flds := flds (List.replicate 6 0) [(0,0,2,2),(4,0,18,64),(5,0,18,256)], half := true, count := 1 } } }),
       by decide +kernel, by decide +kernel, by decide +kernel, by decide +kernel, by decide +kernel, by decide +kernel, by decide +kernel⟩,
     ⟨(3), (1), ({ State.reset with core := State.reset.core.set 3 { st := .stopped } }), by decide +kernel⟩,
     ⟨(3), (100000007), (aset { State.reset with core := State.reset.core.set 3 { st := .waiting, ien := 16, timerAt := 7 } } 0x60 3
       [(2,0,24,100)]), by decide +kernel, by decide +kernel, by decide +kernel⟩,
     ⟨(3), (aset { State.reset with core := State.reset.core.set 3 { st := .running } } 0x60 3 [(2,0,24,0)]), by decide +kernel⟩,
     ⟨(3),
       ({ State.reset with core := State.reset.core.set 3 { st := .running, ie := true, ipend := 3, ien := 2, pc := 33, ivec := 7, flight := [⟨1, .m 3, 7⟩, ⟨2, .g true 3, 7⟩] } }),
       by decide +kernel, by decide +kernel, by decide +kernel, by decide +kernel, by decide +kernel, by decide +kernel⟩,
     ⟨(3), ({ State.reset with core := State.reset.core.set 3 { st := .running, ie := false, ipend := 3, ien := 2, pc := 33, ivec := 7 } }),
       by decide +kernel⟩⟩

theorem witness_CellarTraining :
    (∃ r : Req, ∃ s : State, Ready 0x0701 [] 1 1 r s ∧ rsvdBad r 0 0x7F = false ∧ trainingRuns s = false ∧ s.cellar.gathering = false ∧ reservedNow
      s = 0 ∧ cellarMoving s = false ∧ judgeAdmit s 1500 = .granted) ∧
    (∃ r : Req, ∃ s : State, Ready 0x0701 [] 1 1 r s ∧ rsvdBad r 0 0x7F = false ∧ trainingRuns s = false ∧ s.cellar.gathering = false ∧ 0 <
      reservedNow s) ∧
    (∃ r : Req, ∃ s : State, ∃ k : Fin 8, Ready 0x0702 [8] 1 1 r s ∧ rsvdBad r 0 0x7F = false ∧ wbits (wordAt r.payload 0) 2 4 = k.val + 1 ∧
      trainingRuns s = false ∧ s.cellar.gathering = false ∧ reservedNow s = 0 ∧ cellarMoving s = false ∧ judgeAdmit s 1500 = .granted) ∧
    (∃ o : Op, ∃ chans : BitVec 4, ∃ fsps : BitVec 3, ∃ results : List TrainResult, ∃ s : State, s.proto.ops = [o] ∧ o.kind = .cellarTrain chans
      fsps ∧ (∀ p ∈ trainPairs chans fsps, ∃ x ∈ results, x.channel = p.1 ∧ x.fsp = p.2) ∧ (∀ x ∈ results, x.failedStep = 0)) ∧
    (∃ o : Op, ∃ chans : BitVec 4, ∃ fsps : BitVec 3, ∃ results : List TrainResult, ∃ s : State, s.proto.ops = [o] ∧ o.kind = .cellarTrain chans
      fsps ∧ trainPairs chans fsps ≠ [] ∧ (∀ p ∈ trainPairs chans fsps, ∃ x ∈ results, x.channel = p.1 ∧ x.fsp = p.2) ∧ (∀ x ∈ results, x.failedStep
      ≠ 0)) ∧
    (∃ r : Req, ∃ o : Op, ∃ chans : BitVec 4, ∃ fsps : BitVec 3, ∃ s : State, Ready 0x0707 [] 1 1 r s ∧ s.power.queue = [] ∧ s.findOp r.sess (wordAt
      r.payload 0) = some o ∧ o.kind = .cellarTrain chans fsps) ∧
    (∃ o : Op, ∃ c : Fin 4, ∃ k : BitVec 4, ∃ keep : Bool, ∃ s : State, s.proto.ops = [o] ∧ o.kind = .cellarStep c k keep) :=
    ⟨⟨(req 0x0701 [0x11]), (mPr (mC
      { (mW (ready (req 0x0701 [0x11]) State.reset) fun p => { p with queue := [], shed1 := false, shed2 := false, shed3 := 0, grants := [] }) with fe := State.reset.fe, harv := State.reset.harv, rings := State.reset.rings }
      fun c => { c with gathering := false }) fun p => { p with ops := [] }), ready_of (by decide +kernel), by decide +kernel, by decide +kernel,
      by decide +kernel, by decide +kernel, by decide +kernel, by decide +kernel⟩,
     ⟨(req 0x0701 [0x11]), (mPr (mC
       { ready (req 0x0701 [0x11]) State.reset with harv := State.reset.harv.set 2 { st := .armed, set := State.reset.act 0x40 2, rate := 5 } }
       fun c => { c with gathering := false }) fun p => { p with ops := [] }), ready_of (by decide +kernel), by decide +kernel, by decide +kernel,
       by decide +kernel, by decide +kernel⟩,
     ⟨(req 0x0702 [0xC]), (mPr (mC
       { (mW (ready (req 0x0702 [0xC]) State.reset) fun p => { p with queue := [], shed1 := false, shed2 := false, shed3 := 0, grants := [] }) with fe := State.reset.fe, harv := State.reset.harv, rings := State.reset.rings }
       fun c => { c with gathering := false }) fun p => { p with ops := [] }), (2), ready_of (by decide +kernel), by decide +kernel,
       by decide +kernel, by decide +kernel, by decide +kernel, by decide +kernel, by decide +kernel, by decide +kernel⟩,
     ⟨(⟨1, 9, 0x701, .cellarTrain 3 1, true, 33⟩), (3), (1), ([⟨0, 0, 0, 9, 8⟩, ⟨1, 0, 0, 9, 8⟩]), (mPr (up State.reset) fun p =>
       { p with ops := [⟨1, 9, 0x701, .cellarTrain 3 1, true, 33⟩], sessions := ⟨1, .ring 4, 2, 3, 0xFFFF, some 9, []⟩ :: p.sessions }),
       by decide +kernel, by decide +kernel, by decide +kernel, by decide +kernel⟩,
     ⟨(⟨1, 9, 0x701, .cellarTrain 3 1, true, 33⟩), (3), (1), ([⟨0, 0, 4, 9, 8⟩, ⟨1, 0, 2, 9, 8⟩]), (mPr (up State.reset) fun p =>
       { p with ops := [⟨1, 9, 0x701, .cellarTrain 3 1, true, 33⟩], sessions := ⟨1, .ring 4, 2, 3, 0xFFFF, some 9, []⟩ :: p.sessions }),
       by decide +kernel, by decide +kernel, by decide +kernel, by decide +kernel, by decide +kernel⟩,
     ⟨(req 0x0707 [9]), (⟨1, 9, 0x701, .cellarTrain 3 1, true, 33⟩), (3), (1), (mW (mPr (ready (req 0x0707 [9]) State.reset) fun p =>
       { p with ops := ⟨1, 9, 0x701, .cellarTrain 3 1, true, 33⟩ :: p.ops }) fun p => { p with queue := [] }), ready_of (by decide +kernel),
       by decide +kernel, by decide +kernel, by decide +kernel⟩,
     ⟨(⟨1, 9, 0x702, .cellarStep 2 3 true, true, 33⟩), (2), (3), (true), (mPr (up State.reset) fun p =>
       { p with ops := [⟨1, 9, 0x702, .cellarStep 2 3 true, true, 33⟩], sessions := ⟨1, .ring 4, 2, 3, 0xFFFF, some 9, []⟩ :: p.sessions }),
       by decide +kernel, by decide +kernel⟩⟩

theorem witness_CellarOpcodes :
    (∃ r : Req, ∃ c : Fin 4, ∃ s : State, Ready 0x0703 [8] 17 17 r s ∧ wordAt r.payload 0 = BitVec.ofNat 32 c.val ∧ s.cellar.gathering = false) ∧
    (∃ r : Req, ∃ s : State, Ready 0x0704 [8] 2 2 r s ∧ rsvdBad r 0 0xF = false ∧ wordAt r.payload 1 ≠ 0 ∧ (wordAt r.payload 1).toNat ≤ 65536 ∧
      s.cellar.gathering = false) ∧
    (∃ r : Req, ∃ f : Fin 3, ∃ s : State, Ready 0x0705 [] 1 1 r s ∧ wordAt r.payload 0 = BitVec.ofNat 32 f.val ∧ s.cellar.gathering = false ∧ (∀ c :
      Fin 4, s.cellar.ch[c].trained.getLsbD f.val = true) ∧ reservedNow s ≤ capOf s f.val) ∧
    (∃ r : Req, ∃ f : Fin 3, ∃ c : Fin 4, ∃ s : State, Ready 0x0705 [] 1 1 r s ∧ wordAt r.payload 0 = BitVec.ofNat 32 f.val ∧ s.cellar.gathering =
      false ∧ s.cellar.ch[c].trained.getLsbD f.val = false) ∧
    (∃ r : Req, ∃ c : Fin 4, ∃ s : State, Ready 0x0706 [] 1 1 r s ∧ wordAt r.payload 0 = BitVec.ofNat 32 c.val) :=
    ⟨⟨(req 0x0703 (2 :: List.replicate 16 77)), (2), (mC (ready (req 0x0703 (2 :: List.replicate 16 77)) State.reset) fun c =>
      { c with gathering := false }), ready_of (by decide +kernel), by decide +kernel, by decide +kernel⟩,
     ⟨(req 0x0704 [2, 100]), (mC (ready (req 0x0704 [2, 100]) State.reset) fun c => { c with gathering := false }), ready_of (by decide +kernel),
       by decide +kernel, by decide +kernel, by decide +kernel, by decide +kernel⟩,
     ⟨(req 0x0705 [1]), (1), (mC { ready (req 0x0705 [1]) State.reset with fe := State.reset.fe, harv := State.reset.harv } fun c =>
       { c with gathering := false, ch := Vector.replicate 4 { trained := 7 } }), ready_of (by decide +kernel), by decide +kernel,
       by decide +kernel, by decide +kernel, by decide +kernel⟩,
     ⟨(req 0x0705 [1]), (1), (2), (mC (ready (req 0x0705 [1]) State.reset) fun c =>
       { c with gathering := false, ch := Vector.replicate 4 { trained := 5 } }), ready_of (by decide +kernel), by decide +kernel,
       by decide +kernel, by decide +kernel⟩,
     ⟨(req 0x0706 [1]), (1), (ready (req 0x0706 [1]) State.reset), ready_of (by decide +kernel), by decide +kernel⟩⟩

theorem witness_CellarUpkeep :
    (∃ s : State, s.cellar.selfRefresh = false) ∧
    (∃ c : Fin 4, ∃ s : State, s.cellar.ch[c].wq ≠ [] ∧ bf (s.act 0x70 c.val) 0 8 6 ≤ s.cellar.ch[c].wq.length) :=
    ⟨⟨(mC State.reset fun c => { c with selfRefresh := false }), by decide +kernel⟩,
     ⟨(1), (State.reset.updCel 1 fun x => { x with wq := (List.range 60) }), by decide +kernel, by decide +kernel⟩⟩

theorem witness_PeerLanes :
    (∃ l : Fin 4, ∃ num : Fin 4, ∃ s : State, lnEn (peerSet s l) = true ∧ s.life.thermtrip = false ∧ s.peer.lanes[l].st = .down ∧ num.val ≠
      deviceNum s) ∧
    (∃ l : Fin 4, ∃ ma : Byte, ∃ num : Fin 4, ∃ s : State, lnEn (peerSet s l) = true ∧ s.life.thermtrip = false ∧ s.peer.lanes[l].st = .down ∧ (ma ≠
      1 ∨ num.val = deviceNum s)) ∧
    (∃ l : Fin 4, ∃ s : State, s.peer.lanes[l].st = .up ∧ s.peer.armed = [] ∧ s.peer.shared = [] ∧ follower s = false) ∧
    (∃ l : Fin 4, ∃ s : State, s.peer.lanes[l].st ≠ .down) :=
    ⟨⟨(2), (3), ((aset (up State.reset) 0xE0 2 [(0,0,1,1)]).updLane 2 fun x => { x with st := .down }), by decide +kernel, by decide +kernel,
      by decide +kernel, by decide +kernel⟩,
     ⟨(2), (2), (3), ((aset (up State.reset) 0xE0 2 [(0,0,1,1)]).updLane 2 fun x => { x with st := .down }), by decide +kernel, by decide +kernel,
       by decide +kernel, by decide +kernel⟩,
     ⟨(2), ((aset (mPe (up State.reset) fun p => { p with armed := [], shared := [] }) 0x02 0 [(0,3,1,0)]).updLane 2 fun x =>
       { x with st := .up, ver := 0x11 }), by decide +kernel, by decide +kernel, by decide +kernel, by decide +kernel⟩,
     ⟨(2), ((up State.reset).updLane 2 fun x => { x with st := .training }), by decide +kernel⟩⟩

theorem witness_PeerFrames :
    (∃ f : Frame, ∃ s : State, ¬ Fresh f s) ∧
    (∃ f : Frame, ∃ s : State, ((s.peer.lanes[f.lane].st ≠ .training ∧ s.peer.lanes[f.lane].st ≠ .negotiating) ∨
      s.peer.lanes[f.lane].rxSeqs.contains f.fseq = true)) ∧
    (∃ f : Frame, ∃ s : State, Fresh f s) ∧
    (∃ f : Frame, ∃ s : State, s.peer.lanes[f.lane].st = .training ∧ s.peer.lanes[f.lane].rxSeqs.contains f.fseq = false) ∧
    (∃ f : Frame, ∃ s : State, s.peer.lanes[f.lane].st = .negotiating ∧ s.peer.lanes[f.lane].rxSeqs.contains f.fseq = false) ∧
    (∃ f : Frame, ∃ s : State, Fresh f s) ∧
    (∃ f : Frame, ∃ s : State, Fresh f s ∧ ((follower s = false ∧ bfb (s.act 0x02 0) 0 3 = false) ∨ lnTimePath (peerSet s f.lane) = false)) ∧
    (∃ f : Frame, ∃ o : BitVec 96, ∃ ps : Int, ∃ s : State, Fresh f s ∧ bfb (s.act 0x02 0) 0 3 = true ∧ lnTimePath (peerSet s f.lane) = true ∧ o =
      peerOffset96 (fw f 2 ++ fw f 1) (fw f 4 ++ fw f 3) (fw f 6 ++ fw f 5) (s.goTo f.t).now (bfs (peerSet s f.lane) 1 0 32) ∧ ps = roundEven
      (o.toInt * 10 ^ 12) (2 ^ 64)) ∧
    (∃ f : Frame, ∃ s : State, Fresh f s ∧ follower s = true ∧ bfb (s.act 0x02 0) 0 3 = false ∧ lnTimePath (peerSet s f.lane) = true) ∧
    (∃ s : State, follower s = false ∧ bfb (s.act 0x02 0) 0 3 = false) ∧
    (∃ s : State, (follower s = true ∨ bfb (s.act 0x02 0) 0 3 = true)) ∧
    (∃ f : Frame, ∃ s : State, Fresh f s) :=
    ⟨⟨(frm 2 8 [5,6,7,8,9,10]), ((up State.reset).updLane 2 fun x => { x with st := .up, ver := 0x11, rxSeqs := [8] }), by decide +kernel⟩,
     ⟨(frm 2 7 [5,6,7,8,9,10]), ((up State.reset).updLane 2 fun x => { x with st := .up, ver := 0x11, rxSeqs := [8] }), by decide +kernel⟩,
     ⟨(frm 2 7 [5,6,7,8,9,10]), ((up State.reset).updLane 2 fun x => { x with st := .up, ver := 0x11, rxSeqs := [8] }), by decide +kernel⟩,
     ⟨(frm 2 7 [0x30101,6,7,8,9,10]), ((up State.reset).updLane 2 fun x => { x with st := .training, rxSeqs := [8] }), by decide +kernel,
       by decide +kernel⟩,
     ⟨(frm 2 7 [0x30101,6,7,8,9,10]), ((up State.reset).updLane 2 fun x => { x with st := .negotiating, rxSeqs := [8] }), by decide +kernel,
       by decide +kernel⟩,
     ⟨(frm 2 7 [5,6,7,8,9,10]), ((up State.reset).updLane 2 fun x => { x with st := .up, ver := 0x11, rxSeqs := [8] }), by decide +kernel⟩,
     ⟨(frm 2 7 [5,6,7,8,9,10]), ((mT (aset (up State.reset) 0x02 0 [(0,3,1,0)]) fun t => { t with src := false }).updLane 2 fun x =>
       { x with st := .up, ver := 0x11, rxSeqs := [8] }), by decide +kernel, by decide +kernel⟩,
     ⟨(frm 2 7 [5,6,7,8,9,10]), (peerOffset96 0x600000005 0x800000007 0xA00000009 ((up State.reset).goTo 700000).now 0), (roundEven ((peerOffset96
       0x600000005 0x800000007 0xA00000009 ((up State.reset).goTo 700000).now 0).toInt * 10 ^ 12) (2 ^ 64)), ((aset (aset (mT (up State.reset) fun t
       => { t with peerSynced := false }) 0x02 0 [(0,3,1,1)]) 0xE0 2 [(0,1,1,1),(1,0,32,0)]).updLane 2 fun x =>
       { x with st := .up, ver := 0x11, rxSeqs := [8] }), by decide +kernel, by decide +kernel, by decide +kernel, by decide +kernel,
       by decide +kernel⟩,
     ⟨(frm 2 7 [5,6,7,8,9,10]), ((aset (aset (mT (up State.reset) fun t => { t with src := true }) 0x02 0 [(0,3,1,0)]) 0xE0 2 [(0,1,1,1)]).updLane 2
       fun x => { x with st := .up, ver := 0x11, rxSeqs := [8] }), by decide +kernel, by decide +kernel, by decide +kernel, by decide +kernel⟩,
     ⟨(aset (mT (up State.reset) fun t => { t with src := false }) 0x02 0 [(0,3,1,0)]), by decide +kernel, by decide +kernel⟩,
     ⟨(aset (aset (up State.reset) 0x02 0 [(0,3,1,1)]) 0xE0 2 [(0,1,1,1)]), by decide +kernel⟩,
     ⟨(frm 2 7 [0x30905,6,7,8,9,10]), ((aset (up State.reset) 0xE0 2 [(0,3,1,1)]).updLane 2 fun x =>
       { x with st := .up, ver := 0x11, rxSeqs := [8] }), by decide +kernel⟩⟩

theorem witness_SharedCommits :
    (∃ r : Req, ∃ s : State, Ready 0x0D02 (sharedFeats r) 1 1 r s ∧ commitDoms (wordAt r.payload 0) = 0 ∧ rsvdBad r 0 0xFFFF003F = false ∧ (∀ a ∈
      s.peer.armed, a.prep ≠ none)) ∧
    (∃ r : Req, ∃ a : Armed, ∃ s : State, Ready 0x0D02 (sharedFeats r) 1 1 r s ∧ commitDoms (wordAt r.payload 0) = 0 ∧ rsvdBad r 0 0xFFFF003F =
      false ∧ (s.peer.armed.find? fun a => a.prep.isNone) = some a) ∧
    (∃ r : Req, ∃ d : BitVec 6, ∃ s : State, Ready 0x0D02 (sharedFeats r) 1 1 r s ∧ d = commitDoms (wordAt r.payload 0) ∧ d ≠ 0 ∧ rsvdBad r 0
      0xFFFF003F = false ∧ commitRefusal (sweepAreas (taken r s)) d r.via = none ∧ (commitRise (taken r s) d = 0 ∨ judgeAdmit (taken r s)
      (commitRise (taken r s) d) = .granted)) ∧
    (∃ r : Req, ∃ d : BitVec 6, ∃ st : Nat, ∃ det : Nat, ∃ s : State, Ready 0x0D02 (sharedFeats r) 1 1 r s ∧ d = commitDoms (wordAt r.payload 0) ∧ d
      ≠ 0 ∧ rsvdBad r 0 0xFFFF003F = false ∧ commitRefusal (sweepAreas (taken r s)) d r.via = some (st, det)) ∧
    (∃ r : Req, ∃ d : BitVec 6, ∃ s : State, Ready 0x0D02 (sharedFeats r) 1 1 r s ∧ d = commitDoms (wordAt r.payload 0) ∧ d ≠ 0 ∧ rsvdBad r 0
      0xFFFF003F = false ∧ commitRefusal (sweepAreas (taken r s)) d r.via = none ∧ commitRise (taken r s) d ≠ 0 ∧ judgeAdmit (taken r s) (commitRise
      (taken r s) d) = .queued) ∧
    (∃ f : Frame, ∃ st : Nat, ∃ s : State, Fresh f s ∧ judgePrepare (heard f s) f.lane ((fw f 1).extractLsb' 0 16) (fw f 3 ++ fw f 2) = .inr st) ∧
    (∃ f : Frame, ∃ s : State, (∀ a ∈ s.peer.armed, a.prep = none → a.tag ≠ (fw f 1).extractLsb' 0 16)) ∧
    (∃ f : Frame, ∃ a : Armed, ∃ s : State, Fresh f s ∧ s.peer.armed.Nodup ∧ (∀ c ∈ s.commits, localDue c (s.goTo f.t).now = false) ∧ judgePrepare
      (heard f s) f.lane ((fw f 1).extractLsb' 0 16) (fw f 3 ++ fw f 2) = .inl a) ∧
    (∃ f : Frame, ∃ s : State, Fresh f s ∧ (∀ a ∈ s.peer.armed, a.tag = (fw f 1).extractLsb' 0 16 → a.prep.all (fun p => p.1 ≠ f.lane || sharedPast
      (heard f s) p.2 a.stands) = true)) ∧
    (∃ f : Frame, ∃ a : Armed, ∃ c : Commit, ∃ t : BitVec 64, ∃ s : State, Fresh f s ∧ s.peer.armed = [a] ∧ a.tag = (fw f 1).extractLsb' 0 16 ∧
      a.prep = some (f.lane, t) ∧ sharedPast (heard f s) t a.stands = false ∧ sharedCommit s a.sess a.seq 1 = some c ∧ s.commits = [c]) ∧
    (∃ r : Req, ∃ s : State, Ready 0x0D01 [1] 0 0 r s) ∧
    (∃ r : Req, ∃ d : BitVec 6, ∃ s : State, Ready 0x0D03 (sharedFeats r) 3 3 r s ∧ rsvdBad r 0 0xFFFF003F = false ∧ d = commitDoms (wordAt
      r.payload 0) ∧ d ≠ 0 ∧ rsvdBad r 1 0xF = false ∧ wordAt r.payload 1 ≠ 0 ∧ 500 ≤ (wordAt r.payload 2).toNat ∧ (wordAt r.payload 2).toNat ≤
      10000000 ∧ commitRefusal (sweepAreas (taken r s)) d r.via = none ∧ (commitRise (taken r s) d = 0 ∨ judgeAdmit (taken r s) (commitRise (taken r
      s) d) = .granted)) ∧
    (∃ r : Req, ∃ d : BitVec 6, ∃ s : State, Ready 0x0D03 (sharedFeats r) 3 3 r s ∧ rsvdBad r 0 0xFFFF003F = false ∧ d = commitDoms (wordAt
      r.payload 0) ∧ d ≠ 0 ∧ wordAt r.payload 1 = 0 ∧ 500 ≤ (wordAt r.payload 2).toNat ∧ (wordAt r.payload 2).toNat ≤ 10000000 ∧ commitRefusal
      (sweepAreas (taken r s)) d r.via = none ∧ (commitRise (taken r s) d = 0 ∨ judgeAdmit (taken r s) (commitRise (taken r s) d) = .granted) ∧
      sharedCommit s r.sess r.seq 2 = none ∧ (∀ c ∈ s.commits, localDue c s.now = false) ∧ s.now < s.now + BitVec.ofNat 64 ((wordAt r.payload
      2).toNat * 2 ^ 32 / 10 ^ 6)) ∧
    (∃ r : Req, ∃ d : BitVec 6, ∃ st : Nat, ∃ det : Nat, ∃ s : State, Ready 0x0D03 (sharedFeats r) 3 3 r s ∧ rsvdBad r 0 0xFFFF003F = false ∧ d =
      commitDoms (wordAt r.payload 0) ∧ d ≠ 0 ∧ rsvdBad r 1 0xF = false ∧ 500 ≤ (wordAt r.payload 2).toNat ∧ (wordAt r.payload 2).toNat ≤ 10000000 ∧
      commitRefusal (sweepAreas (taken r s)) d r.via = some (st, det)) ∧
    (∃ f : Frame, ∃ s : State, Fresh f s ∧ (∀ x ∈ s.peer.shared, x.tag = (fw f 1).extractLsb' 0 16 → x.scheduled = true ∨ x.peers.getLsbD f.src.val
      = false ∨ ∃ a ∈ x.answers, a.1 = f.src)) ∧
    (∃ f : Frame, ∃ s : State, ∃ x : Shared, Fresh f s ∧ s.peer.shared = [x] ∧ x.tag = (fw f 1).extractLsb' 0 16 ∧ x.scheduled = false ∧
      x.peers.getLsbD f.src.val = true ∧ (∀ a ∈ x.answers, a.1 ≠ f.src) ∧ (x.prepareAt + 100000000 < max s.time.clk f.t ∨ ∃ d : Fin 4, d ≠ f.src ∧
      x.peers.getLsbD d.val = true ∧ (d, 0) ∉ x.answers)) ∧
    (∃ f : Frame, ∃ s : State, ∃ x : Shared, Fresh f s ∧ s.peer.shared = [x] ∧ x.tag = (fw f 1).extractLsb' 0 16 ∧ x.scheduled = false ∧
      x.peers.getLsbD f.src.val = true ∧ (∀ a ∈ x.answers, a.1 ≠ f.src) ∧ (fw f 1).extractLsb' 16 8 ≠ 0) ∧
    (∃ f : Frame, ∃ s : State, ∃ x : Shared, ∃ c : Commit, Fresh f s ∧ s.peer.shared = [x] ∧ x.tag = (fw f 1).extractLsb' 0 16 ∧ x.scheduled = false
      ∧ x.peers.getLsbD f.src.val = true ∧ (∀ a ∈ x.answers, a.1 ≠ f.src) ∧ max s.time.clk f.t ≤ x.prepareAt + 100000000 ∧ (∀ d : Fin 4, d ≠ f.src →
      x.peers.getLsbD d.val = true → (d, 0) ∈ x.answers) ∧ s.commits = [c] ∧ sharedCommit s x.sess x.seq 2 = some c ∧ c.target = 2 ∧ (s.goTo
      f.t).now < c.value) ∧
    (∃ s : State, (∀ x ∈ s.peer.shared, x.scheduled = true)) ∧
    (∃ s : State, ∃ x : Shared, ∃ c : Commit, s.peer.shared = [x] ∧ x.scheduled = false ∧ s.commits = [c] ∧ c.sess = x.sess ∧ c.seq = x.seq ∧ c.kind
      = 2) ∧
    (∃ s : State, ∃ x : Shared, s.peer.shared = [x] ∧ x.scheduled = true ∧ x.stands = false ∧ s.peer.armed = []) ∧
    (∃ s : State, (∀ x ∈ s.peer.shared, x.scheduled = false ∨ x.stands = true) ∧ (∀ a ∈ s.peer.armed, a.prep = none ∨ a.stands = true)) :=
    ⟨⟨(req 0x0D02 [0x40000]), (mPe (ready (req 0x0D02 [0x40000]) State.reset) fun p =>
      { p with armed := [⟨2, 11, 4, 0x10, 0, some (2, 9), false⟩] }), ready_of (by decide +kernel), by decide +kernel, by decide +kernel,
      by decide +kernel⟩,
     ⟨(req 0x0D02 [0x40000]), (⟨1, 9, 5, 0x10, 0, none, false⟩), (mPe (ready (req 0x0D02 [0x40000]) State.reset) fun p =>
       { p with armed := [⟨2, 11, 4, 0x10, 0, some (2, 9), false⟩, ⟨1, 9, 5, 0x10, 0, none, false⟩] }), ready_of (by decide +kernel),
       by decide +kernel, by decide +kernel, by decide +kernel⟩,
     ⟨(req 0x0D02 [0x40010]), (0x10), ({ mPe (ready (req 0x0D02 [0x40010]) State.reset) fun p => { p with armed := [] } with commits := [] }),
       ready_of (by decide +kernel), by decide +kernel, by decide +kernel, by decide +kernel, by decide +kernel, by decide +kernel⟩,
     ⟨(req 0x0D02 [0x40001]), (1), (0x21), (0),
       ({ ready (req 0x0D02 [0x40001]) State.reset with commits := [⟨2, 9, 0x11, 0, 0, false, 0, 0, [], false, [], 0, 0, 0⟩] }), ready_of
       (by decide +kernel), by decide +kernel, by decide +kernel, by decide +kernel, by decide +kernel⟩,
     ⟨(req 0x0D02 [0x40001]), (1),
       ({ mW (sset (mPe (ready (req 0x0D02 [0x40001]) State.reset) fun p => { p with armed := [] }) 0x10 0 [(0,0,1,1)]) (fun p => { p with shed1 := true }) with commits := [], fe := State.reset.fe.set 0 { State.reset.fe[0] with links := Vector.replicate 3 .data } }),
       ready_of (by decide +kernel), by decide +kernel, by decide +kernel, by decide +kernel, by decide +kernel, by decide +kernel,
       by decide +kernel⟩,
     ⟨(frm 2 7 [5,6,7,8,9,10]), (0x12), (mPe ((up State.reset).updLane 2 fun x => { x with st := .up, ver := 0x11, rxSeqs := [8] }) fun p =>
       { p with armed := [] }), by decide +kernel, by decide +kernel⟩,
     ⟨(frm 2 7 [5,6,7,8,9,10]), (mPe ((up State.reset).updLane 2 fun x => { x with st := .up, ver := 0x11, rxSeqs := [8] }) fun p =>
       { p with armed := [⟨2, 11, 4, 0x10, 0, some (2, 9), false⟩] }), by decide +kernel⟩,
     ⟨(frm 2 7 [5,6,0x77777777,8,9,10]), (⟨1, 9, 5, 0x10, 0, none, false⟩),
       ({ mPr (mPe ((up State.reset).updLane 2 fun x => { x with st := .up, ver := 0x11, rxSeqs := [8] }) fun p => { p with armed := [⟨1, 9, 5, 0x10, 0, none, false⟩] }) fun p => { p with sessions := ⟨1, .ring 4, 2, 3, 0xFFFF, some 9, []⟩ :: p.sessions, ops := ⟨1, 9, 0xD02, .commitArm, true, 33⟩ :: p.ops } with commits := [] }),
       by decide +kernel, by decide +kernel, by decide +kernel, by decide +kernel⟩,
     ⟨(frm 2 7 [5,6,7,8,9,10]), (mPe ((up State.reset).updLane 2 fun x => { x with st := .up, ver := 0x11, rxSeqs := [8] }) fun p =>
       { p with armed := [⟨2, 11, 5, 0x10, 0, some (1, 9), false⟩] }), by decide +kernel, by decide +kernel⟩,
     ⟨(frm 2 7 [5,6,7,8,9,10]), (⟨1, 9, 5, 0x10, 7, some (2, 0x7777777777777777), false⟩), (⟨1, 9, 0x10, 2, 0x7777777777777777, false, 0, 0, [],
       false, [], 0, 0, 1⟩), (0x7777777777777777),
       ({ mPr (mPe ((up State.reset).updLane 2 fun x => { x with st := .up, ver := 0x11, rxSeqs := [8] }) fun p => { p with armed := [⟨1, 9, 5, 0x10, 7, some (2, 0x7777777777777777), false⟩] }) fun p => { p with sessions := ⟨1, .ring 4, 2, 3, 0xFFFF, some 9, []⟩ :: p.sessions, ops := ⟨1, 9, 0xD02, .commitArm, true, 33⟩ :: p.ops } with commits := [⟨1, 9, 0x10, 2, 0x7777777777777777, false, 0, 0, [], false, [], 0, 0, 1⟩] }),
       by decide +kernel, by decide +kernel, by decide +kernel, by decide +kernel, by decide +kernel, by decide +kernel, by decide +kernel⟩,
     ⟨(req 0x0D01 []), (ready (req 0x0D01 []) State.reset), ready_of (by decide +kernel)⟩,
     ⟨(req 0x0D03 [0x40010, 6, 1000]), (0x10), ({ ready (req 0x0D03 [0x40010, 6, 1000]) State.reset with commits := [] }), ready_of
       (by decide +kernel), by decide +kernel, by decide +kernel, by decide +kernel, by decide +kernel, by decide +kernel, by decide +kernel,
       by decide +kernel, by decide +kernel, by decide +kernel⟩,
     ⟨(req 0x0D03 [0x40010, 0, 1000]), (0x10), ({ ready (req 0x0D03 [0x40010, 0, 1000]) State.reset with commits := [] }), ready_of
       (by decide +kernel), by decide +kernel, by decide +kernel, by decide +kernel, by decide +kernel, by decide +kernel, by decide +kernel,
       by decide +kernel, by decide +kernel, by decide +kernel, by decide +kernel, by decide +kernel⟩,
     ⟨(req 0x0D03 [0x40001, 6, 1000]), (1), (0x21), (0),
       ({ ready (req 0x0D03 [0x40001, 6, 1000]) State.reset with commits := [⟨2, 9, 0x11, 0, 0, false, 0, 0, [], false, [], 0, 0, 0⟩] }), ready_of
       (by decide +kernel), by decide +kernel, by decide +kernel, by decide +kernel, by decide +kernel, by decide +kernel, by decide +kernel,
       by decide +kernel⟩,
     ⟨(frm 2 7 [5,6,7,8,9,10]), (mPe ((up State.reset).updLane 2 fun x => { x with st := .up, ver := 0x11, rxSeqs := [8] }) fun p =>
       { p with shared := [⟨1, 9, 5, 0x10, 4, 999, 3, 4, [(2, 7)], false, false, 0⟩] }), by decide +kernel, by decide +kernel⟩,
     ⟨(frm 2 7 [5,6,7,8,9,10]), (mPe ((up State.reset).updLane 2 fun x => { x with st := .up, ver := 0x11, rxSeqs := [8] }) fun p =>
       { p with shared := [⟨1, 9, 5, 0x10, 6, 0x999999999999, 3, State.reset.time.clk, [], false, false, 0⟩] }), (⟨1, 9, 5, 0x10, 6, 0x999999999999,
       3, State.reset.time.clk, [], false, false, 0⟩), by decide +kernel, by decide +kernel, by decide +kernel, by decide +kernel,
       by decide +kernel, by decide +kernel, by decide +kernel⟩,
     ⟨(frm 2 7 [0x210005,6,7,8,9,10]), (mPe ((up State.reset).updLane 2 fun x => { x with st := .up, ver := 0x11, rxSeqs := [8] }) fun p =>
       { p with shared := [⟨1, 9, 5, 0x10, 6, 0x999999999999, 3, State.reset.time.clk, [], false, false, 0⟩] }), (⟨1, 9, 5, 0x10, 6, 0x999999999999,
       3, State.reset.time.clk, [], false, false, 0⟩), by decide +kernel, by decide +kernel, by decide +kernel, by decide +kernel,
       by decide +kernel, by decide +kernel, by decide +kernel⟩,
     ⟨(frm 2 7 [5,6,7,8,9,10]),
       ({ mPr (mPe ((up State.reset).updLane 2 fun x => { x with st := .up, ver := 0x11, rxSeqs := [8] }) fun p => { p with shared := [⟨1, 9, 5, 0x10, 6, 0x999999999999, 3, State.reset.time.clk, [(1, 0)], false, false, 0⟩] }) fun p => { p with sessions := ⟨1, .ring 4, 2, 3, 0xFFFF, some 9, []⟩ :: p.sessions, ops := ⟨1, 9, 0xD03, .commitShared, false, 33⟩ :: p.ops } with commits := [⟨1, 9, 0x10, 2, 0x999999999999, true, 0, 0, [], false, [], 0, 0, 2⟩] }),
       (⟨1, 9, 5, 0x10, 6, 0x999999999999, 3, State.reset.time.clk, [(1, 0)], false, false, 0⟩), (⟨1, 9, 0x10, 2, 0x999999999999, true, 0, 0, [],
       false, [], 0, 0, 2⟩), by decide +kernel, by decide +kernel, by decide +kernel, by decide +kernel, by decide +kernel, by decide +kernel,
       by decide +kernel, by decide +kernel, by decide +kernel, by decide +kernel, by decide +kernel, by decide +kernel⟩,
     ⟨(mPe (up State.reset) fun p => { p with shared := [⟨1, 9, 5, 0x10, 6, 999, 3, 4, [], true, false, 0⟩] }), by decide +kernel⟩,
     ⟨({ mPr (mPe (up State.reset) fun p => { p with shared := [⟨1, 9, 5, 0x10, 6, 0x999999999999, 3, State.reset.time.clk, [(1, 0)], false, false, 0⟩] }) fun p => { p with sessions := ⟨1, .ring 4, 2, 3, 0xFFFF, some 9, []⟩ :: p.sessions, ops := ⟨1, 9, 0xD03, .commitShared, false, 33⟩ :: p.ops } with commits := [⟨1, 9, 0x10, 2, 0x999999999999, true, 0, 0, [], false, [], 0, 0, 2⟩] }),
       (⟨1, 9, 5, 0x10, 6, 0x999999999999, 3, State.reset.time.clk, [(1, 0)], false, false, 0⟩), (⟨1, 9, 0x10, 2, 0x999999999999, true, 0, 0, [],
       false, [], 0, 0, 2⟩), by decide +kernel, by decide +kernel, by decide +kernel, by decide +kernel, by decide +kernel, by decide +kernel⟩,
     ⟨(mPe (up State.reset) fun p => { p with shared := [⟨1, 9, 5, 0x10, 6, 999, 3, 4, [], true, false, 0⟩], armed := [] }), (⟨1, 9, 5, 0x10, 6,
       999, 3, 4, [], true, false, 0⟩), by decide +kernel, by decide +kernel, by decide +kernel, by decide +kernel⟩,
     ⟨(mPe (up State.reset) fun p =>
       { p with shared := [⟨1, 9, 5, 0x10, 6, 999, 3, 4, [], true, true, 0⟩], armed := [⟨1, 9, 5, 0x10, 0, none, false⟩] }), by decide +kernel,
       by decide +kernel⟩⟩

theorem witness_AuxOpcodes :
    (∃ r : Req, ∃ s : State, Ready 0x0901 [] 1 1 r s ∧ rsvdBad r 0 0xFFFF = false ∧ (∀ i : Fin 16, (wordAt r.payload 0).getLsbD i.val = true → bfb
      (s.act 0x90 i.val) 0 0 = true) ∧ r.via ≠ .smbus) ∧
    (∃ r : Req, ∃ i : AuxId, ∃ s : State, Ready 0x0901 [] 1 1 r s ∧ wordAt r.payload 0 = BitVec.ofNat 32 (2 ^ i.val + 65536) ∧ bfb (s.act 0x90
      i.val) 0 0 = true ∧ sqStart (s.act 0x91 0) ≠ 0 ∧ syscalRuns s = false ∧ s.aux.cur = none ∧ s.aux.ins = []) ∧
    (∃ r : Req, ∃ s : State, Ready 0x0902 [] 0 0 r s ∧ auxBusy s = false ∧ syscalRuns s = false) ∧
    (∃ r : Req, ∃ s : State, Ready 0x0902 [] 0 0 r s ∧ auxBusy s = true) ∧
    (∃ r : Req, ∃ s : State, Ready 0x0903 [] 2 2 r s ∧ syscalBad r = none ∧ auxBusy s = false) ∧
    (∃ r : Req, ∃ s : State, Ready 0x0904 [] 1 1 r s ∧ rsvdBad r 0 0xF = false ∧ auxBusy s = false) ∧
    (∃ o : Op, ∃ s : State, s.proto.ops = [o] ∧ o.kind = .auxCal 0x0902 0 0) ∧
    (∃ o : Op, ∃ w0 : Word, ∃ w1 : Word, ∃ s : State, s.proto.ops = [o] ∧ o.kind = .auxCal 0x0904 w0 w1) ∧
    (∃ r : Req, ∃ o : Op, ∃ w0 : Word, ∃ w1 : Word, ∃ k : BitVec 16, ∃ s : State, Ready 0x0907 [] 1 1 r s ∧ s.findOp r.sess (wordAt r.payload 0) =
      some o ∧ o.kind = .auxCal k w0 w1) ∧
    (∃ r : Req, ∃ s : State, Ready 0x0905 [] 1 1 r s ∧ rsvdBad r 0 0xF = false) ∧
    (∃ r : Req, ∃ s : State, Ready 0x0906 [] 0 0 r s) :=
    ⟨⟨(reqR 0x0901 [5]), (aset (aset (ready (reqR 0x0901 [5]) State.reset) 0x90 0 [(0,0,1,1)]) 0x90 2 [(0,0,1,1)]), ready_of (by decide +kernel),
      by decide +kernel, by decide +kernel, by decide +kernel⟩,
     ⟨(req 0x0901 [0x10004]), (2),
       ({ aset (aset (ready (req 0x0901 [0x10004]) State.reset) 0x91 0 [(0,0,3,1)]) 0x90 2 [(0,0,1,1)] with aux := { State.reset.aux with cur := none, ins := [] } }),
       ready_of (by decide +kernel), by decide +kernel, by decide +kernel, by decide +kernel, by decide +kernel, by decide +kernel,
       by decide +kernel⟩,
     ⟨(req 0x0902 []), (mX (ready (req 0x0902 []) State.reset) fun t => { t with run := none }), ready_of (by decide +kernel), by decide +kernel,
       by decide +kernel⟩,
     ⟨(req 0x0902 []), (mPr (ready (req 0x0902 []) State.reset) fun p => { p with ops := ⟨3, 9, 0x902, .auxCal 0x902 0 0, true, 33⟩ :: p.ops }),
       ready_of (by decide +kernel), by decide +kernel⟩,
     ⟨(req 0x0903 [0, 0]), (ready (req 0x0903 [0, 0]) State.reset), ready_of (by decide +kernel), by decide +kernel, by decide +kernel⟩,
     ⟨(req 0x0904 [3]), (ready (req 0x0904 [3]) State.reset), ready_of (by decide +kernel), by decide +kernel, by decide +kernel⟩,
     ⟨(⟨1, 9, 0x902, .auxCal 0x902 0 0, true, 33⟩), (mPr (up State.reset) fun p =>
       { p with ops := [⟨1, 9, 0x902, .auxCal 0x902 0 0, true, 33⟩], sessions := ⟨1, .ring 4, 2, 3, 0xFFFF, some 9, []⟩ :: p.sessions }),
       by decide +kernel, by decide +kernel⟩,
     ⟨(⟨1, 9, 0x904, .auxCal 0x904 3 0, true, 33⟩), (3), (0), (mPr (up State.reset) fun p =>
       { p with ops := [⟨1, 9, 0x904, .auxCal 0x904 3 0, true, 33⟩], sessions := ⟨1, .ring 4, 2, 3, 0xFFFF, some 9, []⟩ :: p.sessions }),
       by decide +kernel, by decide +kernel⟩,
     ⟨(req 0x0907 [9]), (⟨1, 9, 0x904, .auxCal 0x904 3 0, true, 33⟩), (3), (0), (0x904), (mPr (ready (req 0x0907 [9]) State.reset) fun p =>
       { p with ops := ⟨1, 9, 0x904, .auxCal 0x904 3 0, true, 33⟩ :: p.ops }), ready_of (by decide +kernel), by decide +kernel, by decide +kernel⟩,
     ⟨(req 0x0905 [3]), (aset (ready (req 0x0905 [3]) State.reset) 0x90 2 [(3,0,1,1),(3,1,2,1)]), ready_of (by decide +kernel), by decide +kernel⟩,
     ⟨(req 0x0906 []), (ready (req 0x0906 []) State.reset), ready_of (by decide +kernel)⟩⟩

theorem witness_AuxSequence :
    (∃ s : State, ∃ i : AuxId, ∃ l : List AuxId, seqRuns s = true ∧ sqStart (s.act 0x91 0) = 1 ∧ sqInputs (s.act 0x91 0) = i :: l ∧ s.aux.cycle =
      false ∧ s.aux.cur = none ∧ s.aux.ins = []) ∧
    (∃ s : State, seqRuns s = true ∧ sqStart (s.act 0x91 0) = 2 ∧ s.aux.cycle = true) ∧
    (∃ s : State, ∃ i : AuxId, ∃ l : List AuxId, seqRuns s = true ∧ sqStart (s.act 0x91 0) = 3 ∧ sqInputs (s.act 0x91 0) = i :: l ∧ s.aux.cycle =
      false ∧ s.aux.cur = none ∧ s.aux.ins = []) ∧
    (∃ s : State, seqRuns s = true ∧ sqStart (s.act 0x91 0) = 3 ∧ s.aux.cycle = true) ∧
    (∃ w : Nat, ∃ l : List Nat, ∃ s : State, seqRuns s = true ∧ sqStart (s.act 0x91 0) = 4 ∧ s.aux.cycle = true ∧ s.aux.probeDue = w :: l) ∧
    (∃ c : AuxSlot, ∃ s : State, s.aux.cur = some c ∧ syscalRuns s = false ∧ c.discard = true) ∧
    (∃ c : AuxSlot, ∃ s : State, s.aux.cur = some c ∧ syscalRuns s = false ∧ c.discard = false ∧ c.n + 1 < 2 ^ axOver c.set ∧ axOver c.set < 6) ∧
    (∃ i : AuxId, ∃ x : AuxRes, ∃ l : List AuxRes, ∃ s : State, s.aux.inp[i].wait = x :: l ∧ axMux x.set ≠ 2 ∧ axIntlk x.set = false ∧ x.inserted =
      false) ∧
    (∃ j : Fin 4, ∃ s : State, s.aux.brk[j] = none) ∧
    (∃ j : Fin 4, ∃ t0 : Nat, ∃ s : State, s.aux.brk[j] = some t0) :=
    ⟨⟨({ aset (aset (up State.reset) 0x91 0 [(0,0,3,1),(0,8,6,2),(8,0,4,2),(8,8,4,3)]) 0x90 2 [(0,0,1,1)] with aux := { State.reset.aux with cur := none, ins := [], cycle := false } }),
      (2), ([3]), by decide +kernel, by decide +kernel, by decide +kernel, by decide +kernel, by decide +kernel, by decide +kernel⟩,
     ⟨({ aset (up State.reset) 0x91 0 [(0,0,3,2),(0,8,6,2),(8,0,4,2),(8,8,4,3)] with aux := { State.reset.aux with cycle := true } }),
       by decide +kernel, by decide +kernel, by decide +kernel⟩,
     ⟨({ aset (aset (up State.reset) 0x91 0 [(0,0,3,3),(0,8,6,2),(8,0,4,2),(8,8,4,3)]) 0x90 2 [(0,0,1,1)] with aux := { State.reset.aux with cur := none, ins := [], cycle := false } }),
       (2), ([3]), by decide +kernel, by decide +kernel, by decide +kernel, by decide +kernel, by decide +kernel, by decide +kernel⟩,
     ⟨({ aset (up State.reset) 0x91 0 [(0,0,3,3),(0,8,6,2),(8,0,4,2),(8,8,4,3)] with aux := { State.reset.aux with cycle := true } }),
       by decide +kernel, by decide +kernel, by decide +kernel⟩,
     ⟨(77), ([88]),
       ({ aset (up State.reset) 0x91 0 [(0,0,3,4),(0,8,6,2),(8,0,4,2),(8,8,4,3)] with aux := { State.reset.aux with cycle := true, probeDue := [77,88] } }),
       by decide +kernel, by decide +kernel, by decide +kernel, by decide +kernel⟩,
     ⟨({ slot0 with discard := true }), ({ up State.reset with aux := { State.reset.aux with cur := some { slot0 with discard := true } } }),
       by decide +kernel, by decide +kernel, by decide +kernel⟩,
     ⟨({ slot0 with set := flds (State.reset.act 0x90 2) [(0,0,1,1),(0,8,4,3)] }),
       ({ up State.reset with aux := { State.reset.aux with cur := some { slot0 with set := flds (State.reset.act 0x90 2) [(0,0,1,1),(0,8,4,3)] } } }),
       by decide +kernel, by decide +kernel, by decide +kernel, by decide +kernel, by decide +kernel⟩,
     ⟨(2), (⟨5000, 40, 30, flds (State.reset.act 0x90 2) [(0,0,1,1)], 0, 7, true, false, some 6, 8, false, false, false⟩), ([]), ((up
       State.reset).updInp 2 fun y =>
       { y with wait := [⟨5000, 40, 30, flds (State.reset.act 0x90 2) [(0,0,1,1)], 0, 7, true, false, some 6, 8, false, false, false⟩] }),
       by decide +kernel, by decide +kernel, by decide +kernel, by decide +kernel⟩,
     ⟨(2), ((up State.reset).updAux fun a => { a with brk := Vector.replicate 4 none }), by decide +kernel⟩,
     ⟨(2), (77), ((up State.reset).updAux fun a => { a with brk := Vector.replicate 4 (some 77) }), by decide +kernel⟩⟩

theorem witness_Calibrations :
    (∃ r : Req, ∃ s : State, Ready 0x0A01 [] 1 1 r s ∧ rsvdBad r 0 0xF = false ∧ wordAt r.payload 0 ≠ 0 ∧ calRuns s = false ∧ s.taster.run = none ∧
      (∀ c : Fin 4, s.tiu[c].ph = .idle) ∧ refGone s = false) ∧
    (∃ r : Req, ∃ s : State, Ready 0x0A01 [] 1 1 r s ∧ rsvdBad r 0 0xF = false ∧ wordAt r.payload 0 ≠ 0 ∧ calRuns s = true) ∧
    (∃ r : Req, ∃ s : State, Ready 0x0A02 [] 2 2 r s ∧ syscalBad r = none ∧ (wordAt r.payload 0).getLsbD 8 = false ∧ auxBusy s = false) ∧
    (∃ r : Req, ∃ s : State, Ready 0x0A03 [] 2 2 r s ∧ -40000 ≤ (wordAt r.payload 0).toInt ∧ (wordAt r.payload 0).toInt ≤ 125000 ∧ wordAt r.payload
      1 = 0 ∧ calRuns s = false ∧ (∀ f : Fin 4, runOf (s.act 0x10 f.val) = false) ∧ (∀ c : CoreId, s.core[c].st = .stopped)) ∧
    (∃ m : CalMeasure, ∃ o : Op, ∃ w0 : Word, ∃ s : State, s.proto.ops = [o] ∧ o.kind = .devCal 0x0A03 w0 0 ∧ (∀ i : Fin 16, (w0.toInt -
      m.die[i]).natAbs ≤ 10000)) ∧
    (∃ m : CalMeasure, ∃ o : Op, ∃ w0 : Word, ∃ i : Fin 16, ∃ s : State, s.proto.ops = [o] ∧ o.kind = .devCal 0x0A03 w0 0 ∧ 10000 < (w0.toInt -
      m.die[i]).natAbs) ∧
    (∃ o : Op, ∃ w0 : Word, ∃ w1 : Word, ∃ s : State, s.proto.ops = [o] ∧ o.kind = .devCal 0x0A03 w0 w1) ∧
    (∃ r : Req, ∃ o : Op, ∃ k : BitVec 16, ∃ w0 : Word, ∃ w1 : Word, ∃ s : State, Ready 0x0A07 [] 1 1 r s ∧ s.findOp r.sess (wordAt r.payload 0) =
      some o ∧ o.kind = .devCal k w0 w1) :=
    ⟨⟨(req 0x0A01 [5]), (mX (mT { ready (req 0x0A01 [5]) State.reset with tiu := State.reset.tiu } fun t =>
      { t with refLost := false, refBad := false }) fun t => { t with run := none }), ready_of (by decide +kernel), by decide +kernel,
      by decide +kernel, by decide +kernel, by decide +kernel, by decide +kernel, by decide +kernel⟩,
     ⟨(req 0x0A01 [5]), (mPr (ready (req 0x0A01 [5]) State.reset) fun p => { p with ops := ⟨3, 9, 0x902, .auxCal 0x902 0 0, true, 33⟩ :: p.ops }),
       ready_of (by decide +kernel), by decide +kernel, by decide +kernel, by decide +kernel⟩,
     ⟨(req 0x0A02 [0, 0]), (ready (req 0x0A02 [0, 0]) State.reset), ready_of (by decide +kernel), by decide +kernel, by decide +kernel,
       by decide +kernel⟩,
     ⟨(req 0x0A03 [25000, 0]),
       ({ aset (aset (aset (aset (ready (req 0x0A03 [25000, 0]) State.reset) 0x10 0 [(0,0,1,0)]) 0x10 1 [(0,0,1,0)]) 0x10 2 [(0,0,1,0)]) 0x10 3 [(0,0,1,0)] with core := State.reset.core }),
       ready_of (by decide +kernel), by decide +kernel, by decide +kernel, by decide +kernel, by decide +kernel, by decide +kernel,
       by decide +kernel⟩,
     ⟨(⟨Vector.replicate 4 5, Vector.replicate 4 5, ⟨Vector.replicate 4 5, Vector.replicate 4 6, 100, Vector.replicate 4 7⟩, Vector.replicate 16
       24000⟩), (⟨1, 9, 0xA03, .devCal 0xA03 25000 0, true, 33⟩), (25000), (mPr (up State.reset) fun p =>
       { p with ops := [⟨1, 9, 0xA03, .devCal 0xA03 25000 0, true, 33⟩], sessions := ⟨1, .ring 4, 2, 3, 0xFFFF, some 9, []⟩ :: p.sessions }),
       by decide +kernel, by decide +kernel, by decide +kernel⟩,
     ⟨(⟨Vector.replicate 4 5, Vector.replicate 4 5, ⟨Vector.replicate 4 5, Vector.replicate 4 6, 100, Vector.replicate 4 7⟩, (Vector.replicate 16
       24000).set 3 14999⟩), (⟨1, 9, 0xA03, .devCal 0xA03 25000 0, true, 33⟩), (25000), (3), (mPr (up State.reset) fun p =>
       { p with ops := [⟨1, 9, 0xA03, .devCal 0xA03 25000 0, true, 33⟩], sessions := ⟨1, .ring 4, 2, 3, 0xFFFF, some 9, []⟩ :: p.sessions }),
       by decide +kernel, by decide +kernel, by decide +kernel⟩,
     ⟨(⟨1, 9, 0xA03, .devCal 0xA03 25000 0, true, 33⟩), (25000), (0), (mPr (up State.reset) fun p =>
       { p with ops := [⟨1, 9, 0xA03, .devCal 0xA03 25000 0, true, 33⟩], sessions := ⟨1, .ring 4, 2, 3, 0xFFFF, some 9, []⟩ :: p.sessions }),
       by decide +kernel, by decide +kernel⟩,
     ⟨(req 0x0A07 [9]), (⟨1, 9, 0xA03, .devCal 0xA03 25000 0, true, 33⟩), (0xA03), (25000), (0), (mPr (ready (req 0x0A07 [9]) State.reset) fun p =>
       { p with ops := ⟨1, 9, 0xA03, .devCal 0xA03 25000 0, true, 33⟩ :: p.ops }), ready_of (by decide +kernel), by decide +kernel,
       by decide +kernel⟩⟩

theorem witness_VintageStoreAndUse :
    (∃ r : Req, ∃ s : State, Ready 0x0A04 [] 1 1 r s ∧ rsvdBad r 0 1 = false ∧ calRuns s = false) ∧
    (∃ o : Op, ∃ sys : Bool, ∃ s : State, s.proto.ops = [o] ∧ o.kind = .vintageStore sys) ∧
    (∃ o : Op, ∃ sys : Bool, ∃ s : State, s.proto.ops = [o] ∧ o.kind = .vintageStore sys) ∧
    (∃ r : Req, ∃ s : State, Ready 0x0A05 [] 0 0 r s) ∧
    (∃ r : Req, ∃ s : State, Ready 0x0A06 [] 1 1 r s ∧ wordAt r.payload 0 = 2) ∧
    (∃ s : State, s.commits = []) :=
    ⟨⟨(req 0x0A04 [1]), (ready (req 0x0A04 [1]) State.reset), ready_of (by decide +kernel), by decide +kernel, by decide +kernel⟩,
     ⟨(⟨1, 9, 0xA04, .vintageStore true, true, 33⟩), (true), (mPr (up State.reset) fun p =>
       { p with ops := [⟨1, 9, 0xA04, .vintageStore true, true, 33⟩], sessions := ⟨1, .ring 4, 2, 3, 0xFFFF, some 9, []⟩ :: p.sessions }),
       by decide +kernel, by decide +kernel⟩,
     ⟨(⟨1, 9, 0xA04, .vintageStore true, true, 33⟩), (true), (mPr (up State.reset) fun p =>
       { p with ops := [⟨1, 9, 0xA04, .vintageStore true, true, 33⟩], sessions := ⟨1, .ring 4, 2, 3, 0xFFFF, some 9, []⟩ :: p.sessions }),
       by decide +kernel, by decide +kernel⟩,
     ⟨(req 0x0A05 []), (ready (req 0x0A05 []) State.reset), ready_of (by decide +kernel)⟩,
     ⟨(req 0x0A06 [2]), (ready (req 0x0A06 [2]) State.reset), ready_of (by decide +kernel), by decide +kernel⟩,
     ⟨({ up State.reset with commits := [] }), by decide +kernel⟩⟩

theorem witness_TasterRuns :
    (∃ r : Req, ∃ t : Fin 6, ∃ i : Nat, ∃ s : State, Ready 0x0C08 [] 1 1 r s ∧ wordAt r.payload 0 = BitVec.ofNat 32 (t.val + 256 * i) ∧ i <
      testCount t.val ∧ tasterHeld s t.val i = false ∧ judgeAdmit s 400 = .granted) ∧
    (∃ r : Req, ∃ t : Fin 6, ∃ i : Nat, ∃ s : State, Ready 0x0C08 [] 1 1 r s ∧ wordAt r.payload 0 = BitVec.ofNat 32 (t.val + 256 * i) ∧ i <
      testCount t.val ∧ s.taster.run.isSome = true) ∧
    (∃ run : TastRun, ∃ s : State, s.taster.run = some run ∧ run.test ≠ 0 ∧ run.cmd = none) ∧
    (∃ run : TastRun, ∃ s : State, s.taster.run = some run ∧ run.test ≠ 0 ∧ run.test ≠ 3 ∧ run.cmd = none) ∧
    (∃ r : Req, ∃ o : Op, ∃ i : Nat, ∃ run : TastRun, ∃ s : State, Ready 0x0C0A [] 1 1 r s ∧ s.power.queue = [] ∧ s.proto.ops = [o] ∧ o.sess =
      r.sess ∧ o.seq = wordAt r.payload 0 ∧ (∃ t : Fin 8, o.kind = .tasterRun t i) ∧ s.taster.run = some run) ∧
    (∃ s : State, s.taster.run.isSome = true) ∧
    (∃ t : Fin 6, ∃ i : Nat, ∃ s : State, s.life.phase = 3 ∧ tsEn (tsBlk s) = true ∧ tsInterval (tsBlk s) t.val ≠ 0 ∧ s.taster.run = none ∧ i <
      testCount t.val ∧ s.power.state.val < 2 ∧ (∃ k : Fin 7, s.power.margins[k] < 250) ∧ t.val = 3 ∧ runOf (s.act 0x10 i) = true) ∧
    (∃ r : Req, ∃ s : State, Ready 0x0C09 [] 0 0 r s) :=
    ⟨⟨(req 0x0C08 [0x204]), (4), (2), (mX (mW (mPr (aset { ready (req 0x0C08 [0x204]) State.reset with tiu := State.reset.tiu } 0xD0 0 [(0,0,1,1)])
      fun p => { p with ops := [] }) fun p =>
      { p with queue := [], grants := [], shed1 := false, shed2 := false, shed3 := 0, margins := Vector.replicate 7 500 }) fun t =>
      { t with run := none }), ready_of (by decide +kernel), by decide +kernel, by decide +kernel, by decide +kernel, by decide +kernel⟩,
     ⟨(req 0x0C08 [0x201]), (1), (2), (mX (ready (req 0x0C08 [0x201]) State.reset) fun t => { t with run := some ⟨3, 1, none⟩ }), ready_of
       (by decide +kernel), by decide +kernel, by decide +kernel, by decide +kernel⟩,
     ⟨(⟨2, 1, none⟩), (mX (up State.reset) fun t => { t with run := some ⟨2, 1, none⟩ }), by decide +kernel, by decide +kernel, by decide +kernel⟩,
     ⟨(⟨2, 1, none⟩), (mX (up State.reset) fun t => { t with run := some ⟨2, 1, none⟩ }), by decide +kernel, by decide +kernel, by decide +kernel,
       by decide +kernel⟩,
     ⟨(req 0x0C0A [9]), (⟨1, 9, 0xC08, .tasterRun 2 1, true, 33⟩), (1), (⟨2, 1, some (1, 9)⟩), (mW (mX (mPr (ready (req 0x0C0A [9]) State.reset)
       fun p => { p with ops := [⟨1, 9, 0xC08, .tasterRun 2 1, true, 33⟩] }) fun t => { t with run := some ⟨2, 1, some (1, 9)⟩ }) fun p =>
       { p with queue := [] }), ready_of (by decide +kernel), by decide +kernel, by decide +kernel, by decide +kernel, by decide +kernel,
       by decide +kernel, by decide +kernel⟩,
     ⟨(mX (up State.reset) fun t => { t with run := some ⟨2, 1, none⟩ }), by decide +kernel⟩,
     ⟨(3), (1), (mX (mW (aset (aset (up State.reset) 0xD0 0 [(0,0,1,1)]) 0x10 1 [(0,0,1,1)]) fun p => { p with margins := Vector.replicate 7 200 })
       fun t => { t with run := none }), by decide +kernel, by decide +kernel, by decide +kernel, by decide +kernel, by decide +kernel,
       by decide +kernel, by decide +kernel, by decide +kernel, by decide +kernel⟩,
     ⟨(req 0x0C09 []), (ready (req 0x0C09 []) State.reset), ready_of (by decide +kernel)⟩⟩

theorem witness_RestartKeepsReplies :
    (∃ s : State, liveOp s = none) ∧
    (∃ s : State, liveOp s = none ∧ s.proto.heldIn = [] ∧ s.proto.smbLater = []) ∧
    (∃ s : State, s.life.powered = true ∧ s.life.inReset = false) ∧
    (∃ p : PendReset, ∃ s : State, s.life.pendReset = some p ∧ s.life.l3Times.length < syLimit (syBlk s)) :=
    ⟨⟨(mL (up State.reset) fun l => { l with previous := none }), by decide +kernel⟩,
     ⟨(mL (up State.reset) fun l => { l with phase := 4, cpRestart := some 4 }), by decide +kernel, by decide +kernel, by decide +kernel⟩,
     ⟨(mL (up State.reset) fun l => { l with powered := true, inReset := false }), by decide +kernel, by decide +kernel⟩,
     ⟨(⟨1000, true, 2⟩), (mL (up State.reset) fun l => { l with pendReset := some ⟨1000, true, 2⟩, l3Times := [] }), by decide +kernel,
       by decide +kernel⟩⟩

end Sys2Proof.Tests
end

section
/-! Register reads: frames of the updates a read makes, what a read of each block of BAR0 and of BAR2 is, and the statement about them. -/

namespace Sys2Proof.Machine

/-! ## Frames -/

/-- Every part of a state is the same as itself. -/
theorem Part.same_refl (p : Part) (s : State) : p.same s s := by
  cases p with
  | activity => exact ⟨rfl, rfl⟩
  | _ => rfl

theorem frame_refl (l : List Part) (s : State) : Frame l s s := fun p _ _ => p.same_refl s

/-- A frame that lists what goes out stays when something more is sent. -/
theorem frame_emit {l : List Part} {s t : State} (o : Out) (hl : .out ∈ l) (h : Frame l s t) :
    Frame l s (t.emit o) := by
  intro p ha hp
  have hsame := h p ha hp
  cases p with
  | out => exact absurd hl hp
  | _ => exact hsame

/-- A frame that lists the rings stays when a ring is updated. -/
theorem frame_updRing {l : List Part} {s t : State} (n : RingId) (f : Ring → Ring) (hl : .rings ∈ l) (h : Frame l s t) :
    Frame l s (t.updRing n f) := by
  intro p ha hp
  have hsame := h p ha hp
  cases p with
  | rings => exact absurd hl hp
  | _ => exact hsame

/-- A frame that lists the time stays when the time base is replaced. -/
theorem frame_withTime {l : List Part} {s t : State} (x : TimeBase) (hl : .time ∈ l) (h : Frame l s t) :
    Frame l s { t with time := x } := by
  intro p ha hp
  have hsame := h p ha hp
  cases p with
  | time => exact absurd hl hp
  | _ => exact hsame

/-! ## Words of BAR0 -/

/-- A read of an aligned word answers it on a live endpoint and leaves what its block's read leaves. -/
theorem barRead_word {off : Nat} {s : State} (during : Nat) (hl : hostLive s = true) (ha : off % 4 = 0) :
    barRead off false during s =
      (read32 false during s off).2.emit (.readData ((read32 false during s off).1.zeroExtend 64)) := by
  simp [barRead, hl, ha]

/-- Offset `o` of ring `n`'s set lies at 0x10000 + 64 n + o (Table 1.6). -/
theorem read32_ring {n : RingId} {o : Nat} {s : State} (wide : Bool) (during : Nat) (hw : inWarmReset s = false) (ho : o < 64) :
    read32 wide during s (0x10000 + 64 * n.val + o) =
      ((ringRead during s n o).1, s.updRing n fun _ => (ringRead during s n o).2) := by
  have hn : ringOf ((0x10000 + 64 * n.val + o - 0x10000) / 64) = n := Fin.ext (by simp only [ringOf]; omega)
  have hm : (0x10000 + 64 * n.val + o - 0x10000) % 64 = o := by omega
  have h1 : ¬ 0x10000 + 64 * n.val + o < 0x1000 := by omega
  have h2 : ¬ 0x10000 + 64 * n.val + o < 0x2000 := by omega
  have h3 : ¬ 0x10000 + 64 * n.val + o < 0x2100 := by omega
  have h4 : (decide (0x10000 ≤ 0x10000 + 64 * n.val + o) && decide (0x10000 + 64 * n.val + o < 0x10800)) = true := by
    simp only [Bool.and_eq_true, decide_eq_true_eq]; omega
  simp only [read32, hw, h1, h2, h3, h4, hn, hm, Bool.false_eq_true, if_false, if_true]

/-- Offset `o` of the TIME block lies at 0x1000 + o (Table 1.6). -/
theorem read32_time {o : Nat} {s : State} (wide : Bool) (during : Nat) (hw : inWarmReset s = false) (ho : o < 0x1000) :
    read32 wide during s (0x1000 + o) = ((timeRead wide s o).1, { s with time := (timeRead wide s o).2 }) := by
  have h1 : ¬ 0x1000 + o < 0x1000 := by omega
  have h2 : 0x1000 + o < 0x2000 := by omega
  have hs : 0x1000 + o - 0x1000 = o := by omega
  simp only [read32, hw, h1, h2, hs, Bool.false_eq_true, if_false, if_true]

/-- An aligned word of a ring's set, read by the host. -/
theorem barRead_ring {n : RingId} {o : Nat} {s : State} (during : Nat) (hl : hostLive s = true) (hw : inWarmReset s = false)
    (ho : o < 64) (ha : o % 4 = 0) :
    barRead (0x10000 + 64 * n.val + o) false during s =
      (s.updRing n fun _ => (ringRead during s n o).2).emit (.readData ((ringRead during s n o).1.zeroExtend 64)) := by
  rw [barRead_word during hl (by omega), read32_ring false during hw ho]

/-- TIME_LATCH_READ of an aligned word (R86). -/
theorem execTimeLatchRead_word {off : BitVec 12} {s : State} (hl : hostLive s = true) (hw : inWarmReset s = false)
    (ha : off.toNat % 4 = 0) :
    execTimeLatchRead off false s =
      ok (({ s with time := (timeRead false s off.toNat).2 } : State).emit
        (.readData ((timeRead false s off.toNat).1.zeroExtend 64))) := by
  rw [execTimeLatchRead, barRead_word 0 hl (by omega), read32_time false 0 hw off.isLt]

/-! ## Bytes of BAR2 -/

/-- Above the cores' windows every address is reserved and reads 0 (Table 1.7, R26). -/
theorem bar2Byte_reserved {a : Nat} (s : State) (h : 0xC800000 ≤ a) : bar2Byte s a = 0 := by
  have h1 : ¬ a < vatBytes := by unfold vatBytes; omega
  have h2 : ¬ a < 0x4000000 + vatBytes := by unfold vatBytes; omega
  have h3 : ¬ a < 0x8000000 + vatBytes := by unfold vatBytes; omega
  have h4 : ¬ a < 0xC800000 := by omega
  simp [bar2Byte, h1, h2, h3, h4]

/-- The linear vats are read in every phase. -/
theorem bar2Byte_vat {a : Nat} (s : State) (h : a < vatBytes) : bar2Byte s a = s.vatByte a := if_pos h

/-- The aliases end below the cores' windows. -/
theorem bar2Vat_above {a : Nat} (s : State) (h : 0xC000000 ≤ a) : bar2Vat s a = none := by
  have h1 : ¬ a < 0xC000000 := by omega
  simp [bar2Vat, h1]

/-- An address of the linear vats is its own offset in them. -/
theorem bar2Vat_vat {a : Nat} (s : State) (h : a < vatBytes) : bar2Vat s a = some a := by
  have hv : a < 0x3000000 := h
  have h1 : a % 0x4000000 = a := Nat.mod_eq_of_lt (by omega)
  have h2 : a < 0xC000000 := by omega
  simp [bar2Vat, h, h1, h2]

/-- A read outside the vats and their aliases answers the bytes and does nothing else. -/
theorem bar2Read_outside {a : Nat} {s : State} (len : Nat) (found : EccRead) (hl : hostLive s = true) (hw : inWarmReset s = false)
    (hv : bar2Vat s a = none) :
    bar2Read a len found s = s.emit (.readBytes ((List.range len).map fun i => bar2Byte s (a + i)) false) := by
  simp [bar2Read, hl, hw, hv]

/-- A read of vat words in which the ECC finds nothing answers the bytes and does nothing else. -/
theorem bar2Read_clean {a v len : Nat} {s : State} (hl : hostLive s = true) (hw : inWarmReset s = false) (hv : bar2Vat s a = some v)
    (hb : ∀ i < len, vatBad s (v + i) = false) :
    bar2Read a len .clean s = s.emit (.readBytes ((List.range len).map fun i => bar2Byte s (a + i)) false) := by
  have hany : ((List.range len).any fun i => vatBad s (v + i)) = false := by
    simpa using hb
  simp [bar2Read, hl, hw, hv, hany, vatEcc]

/-- The zeros a read of reserved addresses answers. -/
theorem map_bar2Byte_reserved {a : Nat} (s : State) (len : Nat) (h : 0xC800000 ≤ a) :
    ((List.range len).map fun i => bar2Byte s (a + i)) = List.replicate len 0 :=
  List.eq_replicate_iff.2 ⟨by simp, by simp +contextual [bar2Byte_reserved s (Nat.le_add_right_of_le h)]⟩

/-! ## The commands -/

theorem exec_rcRegisterRead (addr : BarAddr) (wide : Bool) (during : Nat) (s : State) :
    exec (.rcRegisterRead addr wide during) s = execRcRegisterRead addr wide during s := rfl

theorem exec_timeLatchRead (off : BitVec 12) (wide : Bool) (s : State) :
    exec (.timeLatchRead off wide) s = execTimeLatchRead off wide s := rfl

/-- Reading a ring's ITEMS answers the counter and leaves what arrived meanwhile (R6). -/
theorem exec_read_items {n : RingId} {off : BitVec 20} {s : State} (during : Nat) (hl : hostLive s = true) (hw : inWarmReset s = false)
    (ho : off.toNat = 0x10010 + 64 * n.val) :
    exec (.rcRegisterRead (.bar0 off) false during) s =
      ok ((s.updRing n fun r => { r with items := satWord during }).emit (.readData (s.rings[n].items.zeroExtend 64))) := by
  have ho' : off.toNat = 0x10000 + 64 * n.val + 0x10 := by omega
  rw [exec_rcRegisterRead, execRcRegisterRead, ho', barRead_ring during hl hw (by decide) (by decide)]
  rfl

/-- Reading NOW's low word answers device time and latches it whole (R86). -/
theorem exec_read_nowLow {s : State} (hl : hostLive s = true) (hw : inWarmReset s = false) :
    exec (.timeLatchRead 0x008 false) s =
      ok (({ s with time := { s.time with latNow := s.now } } : State).emit (.readData ((s.now.extractLsb' 0 32).zeroExtend 64))) := by
  rw [exec_timeLatchRead, execTimeLatchRead_word hl hw (by decide)]
  rfl

/-- Reading NOW's high word answers the latch (R86). -/
theorem exec_read_nowHigh {s : State} (hl : hostLive s = true) (hw : inWarmReset s = false) :
    exec (.timeLatchRead 0x00C false) s = ok (s.emit (.readData ((s.time.latNow.extractLsb' 32 32).zeroExtend 64))) := by
  rw [exec_timeLatchRead, execTimeLatchRead_word hl hw (by decide)]
  rfl

/-- Reading reserved addresses of BAR2 answers zeros (R26). -/
theorem exec_read_reserved {a : BitVec 28} {s : State} (len : Nat) (found : EccRead) (hl : hostLive s = true)
    (hw : inWarmReset s = false) (ha : 0xC800000 ≤ a.toNat) :
    exec (.rcRegisterRead (.bar2 a len found) false 0) s = ok (s.emit (.readBytes (List.replicate len 0) false)) := by
  rw [exec_rcRegisterRead, execRcRegisterRead, bar2Read_outside len found hl hw (bar2Vat_above s (by omega)),
    map_bar2Byte_reserved s len ha]

/-- Reading a good byte of the linear vats answers it (R26). -/
theorem exec_read_vatByte {a : BitVec 28} {s : State} (hl : hostLive s = true) (hw : inWarmReset s = false)
    (ha : a.toNat < vatBytes) (hb : vatBad s a.toNat = false) :
    exec (.rcRegisterRead (.bar2 a 1 .clean) false 0) s = ok (s.emit (.readBytes [s.vatByte a.toNat] false)) := by
  have hgood : ∀ i < 1, vatBad s (a.toNat + i) = false := by
    intro i hi
    obtain rfl : i = 0 := by omega
    exact hb
  rw [exec_rcRegisterRead, execRcRegisterRead, bar2Read_clean hl hw (bar2Vat_vat s ha) hgood]
  simp [bar2Byte_vat s ha]

/-- Settles O6: each clause is what `exec` makes of the read, with the frame of the updates it makes. -/
theorem registerReads : Obligations.RegisterReads := by
  unfold Obligations.RegisterReads
  refine ⟨?items, ?nowLow, ?nowHigh, ?reserved, ?vat⟩
  case items =>
    intro n off d s hl hw ho
    exact ⟨_, exec_read_items d hl hw ho, rfl, rfl, frame_emit _ (by decide) (frame_updRing n _ (by decide) (frame_refl _ s))⟩
  case nowLow =>
    intro s hl hw
    exact ⟨_, exec_read_nowLow hl hw, rfl, rfl, frame_emit _ (by decide) (frame_withTime _ (by decide) (frame_refl _ s))⟩
  case nowHigh =>
    intro s hl hw
    exact ⟨_, exec_read_nowHigh hl hw, rfl, frame_emit _ (by decide) (frame_refl _ s)⟩
  case reserved => exact fun a n e s hl hw ha => exec_read_reserved n e hl hw ha
  case vat => exact fun a s hl hw ha hb => exec_read_vatByte hl hw ha hb

end Sys2Proof.Machine
end

section
/-! Shedding step 2: when the pause it asks of an active core comes about, and the core for which a stop asked for before wins. -/

namespace Sys2Proof.Machine

/-! ## Pausing cores -/

theorem updCore_core_same (s : State) (n : CoreId) (f : Core → Core) : (s.updCore n f).core[n] = f s.core[n] := by
  simp [State.updCore]

theorem updCore_core_ne {m n : CoreId} (h : m ≠ n) (s : State) (f : Core → Core) : (s.updCore m f).core[n] = s.core[n] := by
  simp [State.updCore, Vector.getElem_set_ne, Fin.val_ne_of_ne h]

@[simp] theorem pauseTaps_st (was : CoreSt) (c : Core) : (pauseTaps was c).st = c.st := by
  unfold pauseTaps; split <;> rfl

@[simp] theorem pauseTaps_pauseReq (was : CoreSt) (c : Core) : (pauseTaps was c).pauseReq = c.pauseReq := by
  unfold pauseTaps; split <;> rfl

/-- A core with a pause asked for is paused here or keeps the request (R310), except where a stop has been asked for too and it stands at an
interruptible bundle: there it stops (R308). -/
theorem stopPoint_asks_iff {c : Core} (clk : Nat) (h : c.pauseReq = true) :
    ((stopPoint clk c).st = .paused ∨ (stopPoint clk c).pauseReq = true) ↔ ¬ (c.stopReq = true ∧ interruptible c = true) := by
  unfold stopPoint
  cases hint : interruptible c with
  | false => simp [h]
  | true => cases hstop : c.stopReq <;> simp [h]

theorem pauseCore_asks_iff {n : CoreId} {s : State} (h : s.core[n].st = .running ∨ s.core[n].st = .waiting) :
    ((pauseCore n s).core[n].st = .paused ∨ (pauseCore n s).core[n].pauseReq = true) ↔
      ¬ (s.core[n].stopReq = true ∧ interruptible s.core[n] = true) := by
  have hactive : (decide (s.core[n].st = .running) || decide (s.core[n].st = .waiting)) = true := by simpa using h
  rw [pauseCore, updCore_core_same, if_pos hactive, pauseTaps_st, pauseTaps_pauseReq]
  exact stopPoint_asks_iff _ rfl

theorem foldl_pauseCore_core_notMem {n : CoreId} {l : List CoreId} (h : n ∉ l) (s : State) :
    (l.foldl (fun s m => pauseCore m s) s).core[n] = s.core[n] := by
  induction l generalizing s with
  | nil => rfl
  | cons m l ih =>
    obtain ⟨hm, hl⟩ := not_or.1 (mt List.mem_cons.2 h)
    rw [List.foldl_cons, ih hl, pauseCore, updCore_core_ne (Ne.symm hm)]

/-- Of several cores asked to pause each is as if it alone had been asked. -/
theorem foldl_pauseCore_asks_iff {n : CoreId} {l : List CoreId} {s : State} (hl : l.Nodup) (hn : n ∈ l)
    (h : s.core[n].st = .running ∨ s.core[n].st = .waiting) :
    ((l.foldl (fun s m => pauseCore m s) s).core[n].st = .paused ∨ (l.foldl (fun s m => pauseCore m s) s).core[n].pauseReq = true) ↔
      ¬ (s.core[n].stopReq = true ∧ interruptible s.core[n] = true) := by
  obtain ⟨l₁, l₂, rfl⟩ := List.append_of_mem hn
  obtain ⟨-, hright, hdisjoint⟩ := List.nodup_append.1 hl
  have h₁ : n ∉ l₁ := fun h => hdisjoint n h n List.mem_cons_self rfl
  have h₂ : n ∉ l₂ := (List.nodup_cons.1 hright).1
  have hbefore := foldl_pauseCore_core_notMem h₁ s
  rw [List.foldl_append, List.foldl_cons, foldl_pauseCore_core_notMem h₂, pauseCore_asks_iff (hbefore ▸ h), hbefore]

/-! ## SHEDDING_STEP -/

theorem core_eq_of_ok {s t : State} (h : ok s = ok t) : s.core = t.core := by
  simpa using congrArg State.core (Host.Outcome.next.inj h)

@[simp] theorem shedMark_core (step : Bool) (s : State) : (shedMark step s).core = s.core := by simp [shedMark]

/-- Step 2 leaves the cores as asking each of them to pause leaves them. -/
theorem execSheddingStep_core {s t : State} (hr : cpRuns s = true) (hm : mustShed s = true) (h1 : s.power.shed1 = true)
    (h2 : s.power.shed2 = false) (ht : execSheddingStep s = ok t) :
    ∃ u : State, u.core = s.core ∧ t.core = ((List.finRange 8).foldl (fun s n => pauseCore n s) u).core := by
  cases hat : s.power.shedAt
  all_goals
    simp only [execSheddingStep, hr, hm, hat, h1, h2, State.goTo_power, Bool.not_true, Bool.not_false, Bool.or_self, Bool.false_eq_true,
      reduceIte] at ht
    refine ⟨_, ?_, (core_eq_of_ok ht).symm.trans (shedMark_core _ _)⟩
    rfl

/-- Step 2 leaves an active core paused or asked to pause exactly where it does not stop it. -/
theorem execSheddingStep_asks_iff {n : CoreId} {s t : State} (hr : cpRuns s = true) (hm : mustShed s = true)
    (h1 : s.power.shed1 = true) (h2 : s.power.shed2 = false) (h : s.core[n].st = .running ∨ s.core[n].st = .waiting)
    (ht : execSheddingStep s = ok t) :
    (t.core[n].st = .paused ∨ t.core[n].pauseReq = true) ↔ ¬ (s.core[n].stopReq = true ∧ interruptible s.core[n] = true) := by
  obtain ⟨u, hu, htu⟩ := execSheddingStep_core hr hm h1 h2 ht
  rw [← hu] at h ⊢
  rw [htu]
  exact foldl_pauseCore_asks_iff (List.nodup_finRange 8) (List.mem_finRange n) h

/-- Shedding step 2 is due, every region being short and every rail above what it may be raised to, while every core runs, is asked to stop, and
stands at an interruptible bundle. -/
def shedWhileStopping : State := { State.reset with
  life := { State.reset.life with inReset := false, phase := 3 }
  power := { State.reset.power with
    state := 0, entering := none, short := Vector.replicate 7 2, rails := Vector.replicate 4 { mv := 5000 }, shed1 := true, shed2 := false }
  core := Vector.replicate 8 { st := .running, stopReq := true } }

/-- Refutes O23: its clause about step 2 has every RUNNING core paused or asked to pause, and in `shedWhileStopping` a stop has been asked of core 0
before, so that step 2 leaves it STOPPED with no pause to come (R308 before R310). -/
theorem not_sheddingAndIsolation : ¬ Obligations.SheddingAndIsolation := by
  unfold Obligations.SheddingAndIsolation
  rintro ⟨⟨-, hstep2, -⟩, -⟩
  have hrun : cpRuns shedWhileStopping = true := rfl
  have hshed : mustShed shedWhileStopping = true := rfl
  obtain ⟨t, ht, -, -, -, hasked, -⟩ := hstep2 shedWhileStopping hrun hshed rfl rfl
  exact (execSheddingStep_asks_iff hrun hshed rfl rfl (.inl rfl) ht).1 (hasked 0 (.inl rfl)) ⟨rfl, rfl⟩

end Sys2Proof.Machine
end

section
/-! What the update of an engine and the raising of a vector do, and the frames that go with them. -/

namespace Sys2Proof.Machine

/-! ## Updates -/

@[simp] theorem updFe_fe_val (s : State) (f : Fe) (g : FeSt → FeSt) : (s.updFe f g).fe[f.val] = g s.fe[f.val] := by
  simp [State.updFe]

theorem updFe_fe_same (s : State) (f : Fe) (g : FeSt → FeSt) : (s.updFe f g).fe[f] = g s.fe[f] := updFe_fe_val s f g

theorem updFe_fe_ne {f g : Fe} (h : g ≠ f) (s : State) (u : FeSt → FeSt) : (s.updFe f u).fe[g] = s.fe[g] := by
  simp [State.updFe, Vector.getElem_set_ne, Fin.val_ne_of_ne h.symm]

@[simp] theorem message_irqSum (s : State) (v : Fin 64) : (s.message v).pcie.irqSum = s.pcie.irqSum := by
  unfold State.message; (repeat' split) <;> rfl

/-- Raising a vector sets its bit of IRQ_SUM. -/
theorem raise_irqSum_same (s : State) (v : Fin 64) : (s.raise v).pcie.irqSum.getLsbD v.val = true := by
  simp [State.raise, State.setSum]

/-! ## Frames -/

/-- A frame that lists the protocol stays when a command is taken from those that wait. -/
theorem frame_taken {l : List Part} (r : Req) (s : State) (hl : .proto ∈ l) : Frame l s (taken r s) := by
  intro p _ hp
  cases p with
  | proto => exact absurd hl hp
  | activity => exact ⟨rfl, rfl⟩
  | _ => rfl

/-- A frame that lists the engines stays when an engine is updated. -/
theorem frame_updFe {l : List Part} {s t : State} (f : Fe) (g : FeSt → FeSt) (hl : .fe ∈ l) (h : Frame l s t) :
    Frame l s (t.updFe f g) := by
  intro p ha hp
  have hsame := h p ha hp
  cases p with
  | fe => exact absurd hl hp
  | _ => exact hsame

/-- A frame that lists the zone detector stays when its state is replaced. -/
theorem frame_withZones {l : List Part} {s t : State} (x : Zones) (hl : .zones ∈ l) (h : Frame l s t) :
    Frame l s { t with zones := x } := by
  intro p ha hp
  have hsame := h p ha hp
  cases p with
  | zones => exact absurd hl hp
  | _ => exact hsame

/-- A frame that lists the capture units stays when they are replaced. -/
theorem frame_withHarv {l : List Part} {s t : State} (x : Vector HarvSt 4) (hl : .harv ∈ l) (h : Frame l s t) :
    Frame l s { t with harv := x } := by
  intro p ha hp
  have hsame := h p ha hp
  cases p with
  | harv => exact absurd hl hp
  | _ => exact hsame

/-- A frame that lists the endpoint and what goes out stays when a vector is raised. -/
theorem frame_raise {l : List Part} {s t : State} (v : Fin 64) (hl : .pcie ∈ l) (ho : .out ∈ l) (h : Frame l s t) :
    Frame l s (t.raise v) := by
  intro p ha hp
  have hsame := h p ha hp
  cases p with
  | pcie => exact absurd hl hp
  | out => exact absurd ho hp
  | activity => exact absurd rfl ha
  | _ => simpa [Part.same] using hsame

end Sys2Proof.Machine
end

section
/-! Status reads: what a ready command answers, the words each status read reports, and the statement about them. -/

namespace Sys2Proof.Machine

/-! ## Answers of a ready command -/

/-- A ready command whose handler answers at once is answered so. -/
theorem answers_of_ready {c : Instr} {code : Nat} {feats : List Nat} {lo hi : Nat} {ahead : Bool} {h : Req → State → Res} {r : Req} {s u : State}
    {st det : Nat} {ws : List Word} (hexec : exec c s = ok (runOp code feats lo hi ahead h r s)) (hr : Ready code feats lo hi r s)
    (hans : h r (taken r s) = Res.rep st det ws u) : Answers c r st det ws u s := by
  rw [Answers, hexec, runOp_ready ahead h hr, hans, deliver_rep]
  rfl

/-! ## Selectors -/

/-- A selector below 2^k uses none of the bits reserved above its low `k`. -/
theorem rsvdBad_eq_false {r : Req} {i k : Nat} (mask : Nat) (hmask : mask = 2 ^ k - 1) (h : (wordAt r.payload i).toNat < 2 ^ k) :
    rsvdBad r i mask = false := by
  simp [rsvdBad, hmask, Nat.and_two_pow_sub_one_of_lt_two_pow h]

/-- The low `k` bits of a word below 2^k are the word. -/
theorem wbits_of_lt {w : Word} {k : Nat} (h : w.toNat < 2 ^ k) : wbits w 0 k = w.toNat := by
  simp [wbits, bitsOf, Nat.mod_eq_of_lt h]

/-! ## Status of an engine -/

theorem doFeStatus_eq {r : Req} (s : State) (h : (wordAt r.payload 0).toNat ≤ 3) :
    ∃ ws, ws.length = 15 ∧ wordAt ws 1 = (s.fe[feOf r].ppn.zeroExtend 64).extractLsb' 0 32 ∧ doFeStatus r s = Res.ok ws s := by
  rw [doFeStatus, if_neg (ne_true_of_eq_false (rsvdBad_eq_false (k := 2) 3 rfl (by omega)))]
  exact ⟨_, by simp [split64], rfl, rfl⟩

theorem doRecvStatus_eq {r : Req} (s : State) (h : (wordAt r.payload 0).toNat ≤ 3) :
    ∃ ws, ws.length = 11 ∧ (ws.drop 2).take 6 = s.fe[feOf r].crcErr.toList ∧ doRecvStatus r s = Res.ok ws (s.updFe (feOf r) fun y =>
      { y with sysrefMis := false, rateMis := false, linkDowns := 0, crcErr := Vector.replicate 6 0, clips := Vector.replicate 4 0
               satDdc := 0, satPc := 0 }) := by
  rw [doRecvStatus, if_neg (ne_true_of_eq_false (rsvdBad_eq_false (k := 2) 3 rfl (by omega)))]
  exact ⟨_, by simp, by simp, rfl⟩

theorem doPhaseStatus_eq {r : Req} (s : State) (h : (wordAt r.payload 0).toNat ≤ 3) :
    ∃ ws, ws.length = 9 ∧ wordAt ws 4 = s.fe[feOf r].faded ∧ wordAt ws 5 = s.fe[feOf r].bridged ∧
      doPhaseStatus r s = Res.ok ws (s.updFe (feOf r) fun y => { y with resets := 0, faded := 0, bridged := 0, eccResets := 0 }) := by
  rw [doPhaseStatus, if_neg (ne_true_of_eq_false (rsvdBad_eq_false (k := 2) 3 rfl (by omega)))]
  exact ⟨_, by simp [split64], rfl, rfl, rfl⟩

/-! ## Status of a stream and the Fining ROM -/

theorem doStreamStatus_eq {r : Req} {n : StreamId} (s : State) (h : (wordAt r.payload 0).toNat = n.val) :
    ∃ ws, ws.length = 7 ∧ wordAt ws 2 = s.stream[n].dropped ∧ wordAt ws 3 = s.stream[n].sat ∧
      doStreamStatus r s = Res.ok ws (s.updStream n fun y => { y with dropped := 0, sat := 0 }) := by
  have hlt : (wordAt r.payload 0).toNat < 2 ^ 4 := by omega
  obtain rfl : n = ⟨wbits (wordAt r.payload 0) 0 4, by rwa [wbits_of_lt hlt]⟩ := Fin.ext (h.symm.trans (wbits_of_lt hlt).symm)
  rw [doStreamStatus, if_neg (ne_true_of_eq_false (rsvdBad_eq_false 0xF rfl hlt))]
  exact ⟨_, by simp [split64], rfl, rfl, rfl⟩

theorem doPressStatus_eq {r : Req} {n : StreamId} (s : State) (h : (wordAt r.payload 0).toNat = n.val) :
    ∃ ws, ws.length = 5 ∧ ws.drop 1 = [s.stream[n].blocks, s.stream[n].exacts, s.stream[n].raws, s.stream[n].flushes] ∧
      doPressStatus r s = Res.ok ws (s.updStream n fun y => { y with maxShift := 0, blocks := 0, exacts := 0, raws := 0, flushes := 0 }) := by
  have hlt : (wordAt r.payload 0).toNat < 2 ^ 4 := by omega
  obtain rfl : n = ⟨wbits (wordAt r.payload 0) 0 4, by rwa [wbits_of_lt hlt]⟩ := Fin.ext (h.symm.trans (wbits_of_lt hlt).symm)
  rw [doPressStatus, if_neg (ne_true_of_eq_false (rsvdBad_eq_false 0xF rfl hlt))]
  exact ⟨_, rfl, rfl, rfl⟩

/-- A filter is answered with as many taps as it has. -/
theorem doFiningRomGet_eq {r : Req} {f : Nat} (s : State) (h : (wordAt r.payload 0).toNat = f) (hf : f ≤ 16) :
    doFiningRomGet r s =
      let t := if f = 0 then 0 else if f = 16 then 15 else 31
      Res.ok (BitVec.ofNat 32 t :: (List.range t).map fun k => (Config.finingRom f k).signExtend 32) s := by
  have hlt : (wordAt r.payload 0).toNat < 2 ^ 5 := by omega
  have hnot : ¬ 16 < (wordAt r.payload 0).toNat := by omega
  subst h
  simp [doFiningRomGet, rsvdBad_eq_false 0x1F rfl hlt, wbits_of_lt hlt, hnot]

/-- A filter above 16 is refused, by its value or by the reserved bits it uses. -/
theorem doFiningRomGet_bad {r : Req} (s : State) (h : 16 < (wordAt r.payload 0).toNat) : doFiningRomGet r s = Res.bad 0 s := by
  refine if_pos ?_
  by_cases hlt : (wordAt r.payload 0).toNat < 2 ^ 5
  · simp [wbits_of_lt hlt, h]
  · have hand : (wordAt r.payload 0).toNat &&& 31 ≤ 31 := Nat.and_le_right
    have hne : (wordAt r.payload 0).toNat &&& 31 ≠ (wordAt r.payload 0).toNat := by omega
    simp [rsvdBad, hne]

/-! ## Zones -/

theorem assocGet_assocSet_same {α β : Type} [DecidableEq α] (l : List (α × β)) (k : α) (v : β) :
    assocGet (assocSet l k v) k = some v := by
  induction l with
  | nil => simp [assocSet, assocGet]
  | cons p l ih =>
    obtain ⟨a, b⟩ := p
    by_cases h : a = k
    · simp [assocSet, assocGet, h]
    · simpa [assocSet, assocGet, h] using ih

theorem assocGet_assocSet_ne {α β : Type} [DecidableEq α] {k j : α} (hj : j ≠ k) (l : List (α × β)) (v : β) :
    assocGet (assocSet l k v) j = assocGet l j := by
  induction l with
  | nil => simp [assocSet, assocGet, hj.symm]
  | cons p l ih =>
    obtain ⟨a, b⟩ := p
    by_cases h : a = k
    · subst h; simp [assocSet, assocGet, hj.symm]
    · by_cases ha : a = j
      · subst ha; simp [assocSet, assocGet, h]
      · simpa [assocSet, assocGet, h, ha] using ih

@[simp] theorem setZone_zone_same (s : State) (z : Nat) (v : ZoneSt) : (s.setZone z v).zone z = v := by
  simp [State.zone, State.setZone, assocGet_assocSet_same]

theorem setZone_zone_ne {z y : Nat} (h : y ≠ z) (s : State) (v : ZoneSt) : (s.setZone z v).zone y = s.zone y := by
  simp [State.zone, State.setZone, assocGet_assocSet_ne h]

/-- ZONE_STATUS's clearing of a zone's transitions; a zone that is not listed is reset and has none. -/
def clearTrans (z : Nat) (s : State) : State :=
  if (assocGet s.zones.zs z).isSome then s.setZone z { s.zone z with trans := 0 } else s

theorem clearTrans_zone_same (z : Nat) (s : State) : ((clearTrans z s).zone z).trans = 0 := by
  cases h : assocGet s.zones.zs z with
  | none => simp [clearTrans, h, State.zone, zoneInit]
  | some v => simp [clearTrans, h]

theorem clearTrans_zone_ne {z y : Nat} (h : y ≠ z) (s : State) : (clearTrans z s).zone y = s.zone y := by
  unfold clearTrans
  split
  · exact setZone_zone_ne h s _
  · rfl

theorem frame_clearTrans {l : List Part} {s t : State} (z : Nat) (hl : .zones ∈ l) (h : Frame l s t) : Frame l s (clearTrans z t) := by
  unfold clearTrans
  split
  · exact frame_withZones _ hl h
  · exact h

/-- Bits 0 and 1 of the word that packs four flags. -/
theorem flagWord_getLsbD (a b c d : Bool) :
    (BitVec.ofNat 32 (a.toNat + 2 * b.toNat + 4 * c.toNat + 8 * d.toNat)).getLsbD 0 = a ∧
      (BitVec.ofNat 32 (a.toNat + 2 * b.toNat + 4 * c.toNat + 8 * d.toNat)).getLsbD 1 = b := by
  cases a <;> cases b <;> cases c <;> cases d <;> decide

theorem doZoneStatus_eq {r : Req} {z : Nat} (s : State) (h : (wordAt r.payload 0).toNat = z) (hz : z < 2048) :
    ∃ ws, ws.length = 7 ∧ (wordAt ws 0).getLsbD 0 = (s.zone z).on ∧ (wordAt ws 0).getLsbD 1 = (s.zone z).latched ∧
      wordAt ws 6 = (s.zone z).trans ∧ doZoneStatus r s = Res.ok ws (clearTrans z s) := by
  have hlt : (wordAt r.payload 0).toNat < 2 ^ 11 := by omega
  rw [doZoneStatus, if_neg (ne_true_of_eq_false (rsvdBad_eq_false 0x7FF rfl hlt))]
  simp only [wbits_of_lt hlt, h]
  refine ⟨_, ?_, ?_, ?_, ?_, rfl⟩
  · rfl
  · exact (flagWord_getLsbD ..).1
  · exact (flagWord_getLsbD ..).2
  · rfl

theorem doZoneSummary_eq (r : Req) (s : State) :
    ∃ ws, ws.length = 5 ∧ wordAt ws 3 = s.zones.dropped ∧ wordAt ws 4 = s.zones.locals ∧
      doZoneSummary r s = Res.ok ws { s with zones := { s.zones with dropped := 0, locals := 0 } } :=
  ⟨_, rfl, rfl, rfl, rfl⟩

/-- Settles O36: each clause is what the read's handler answers, for a command that is ready. -/
theorem statusOpcodes : Obligations.StatusOpcodes := by
  unfold Obligations.StatusOpcodes
  refine ⟨⟨?fe, ?recv, ?phase⟩, ⟨?stream, ?press, ?halfBand, ?response, ?noFilter⟩, ?zone, ?summary⟩
  case fe =>
    intro r s hr hsel
    obtain ⟨ws, hlen, hppn, hans⟩ := doFeStatus_eq (taken r s) hsel
    exact ⟨ws, hlen, hppn, answers_of_ready rfl hr hans⟩
  case recv =>
    intro r s hr hsel
    obtain ⟨ws, hlen, hcrc, hans⟩ := doRecvStatus_eq (taken r s) hsel
    refine ⟨ws, _, hlen, hcrc, answers_of_ready rfl hr hans, ?_⟩
    simp only [updFe_fe_same, true_and]
    exact ⟨rfl, fun g hg => updFe_fe_ne hg _ _, frame_updFe _ _ (by decide) (frame_taken r s (by decide))⟩
  case phase =>
    intro r s hr hsel
    obtain ⟨ws, hlen, hfaded, hbridged, hans⟩ := doPhaseStatus_eq (taken r s) hsel
    exact ⟨ws, _, hlen, hfaded, hbridged, answers_of_ready rfl hr hans, updFe_fe_same _ _ _, fun g hg => updFe_fe_ne hg _ _,
      frame_updFe _ _ (by decide) (frame_taken r s (by decide))⟩
  case stream =>
    intro r n s hr hsel
    obtain ⟨ws, hlen, hdropped, hsat, hans⟩ := doStreamStatus_eq (taken r s) hsel
    exact ⟨ws, hlen, hdropped, hsat, answers_of_ready rfl hr hans⟩
  case press =>
    intro r n s hr hsel
    obtain ⟨ws, hlen, hcounts, hans⟩ := doPressStatus_eq (taken r s) hsel
    exact ⟨ws, hlen, hcounts, answers_of_ready rfl hr hans⟩
  case halfBand => exact fun r s hr hsel => answers_of_ready rfl hr (doFiningRomGet_eq _ hsel (by decide))
  case response =>
    intro r f s hr hsel hlo hhi
    have hans := doFiningRomGet_eq (taken r s) hsel (by omega)
    rw [if_neg (by omega), if_neg (by omega)] at hans
    exact answers_of_ready rfl hr hans
  case noFilter => exact fun r s hr hsel => answers_of_ready rfl hr (doFiningRomGet_bad _ hsel)
  case zone =>
    intro r z s hr hsel hz
    obtain ⟨ws, hlen, hon, hlatched, htrans, hans⟩ := doZoneStatus_eq (taken r s) hsel hz
    exact ⟨ws, _, hlen, hon, hlatched, htrans, answers_of_ready rfl hr hans, clearTrans_zone_same z _,
      fun y hy => clearTrans_zone_ne hy _, frame_clearTrans z (by decide) (frame_taken r s (by decide))⟩
  case summary =>
    intro r s hr
    obtain ⟨ws, hlen, hdropped, hlocals, hans⟩ := doZoneSummary_eq r (taken r s)
    exact ⟨ws, hlen, hdropped, hlocals, answers_of_ready rfl hr hans⟩

end Sys2Proof.Machine
end

section
/-! JESD204C links: what the stages of a link's recovery do, and the statement about links. -/

namespace Sys2Proof.Machine

/-! ## A link that comes up -/

section
variable (f : Fe) (l : Fin 3) (n : Nat) (s : State)

/-- Of the links of an engine the one that has trained is in the data state and has no outage, unless a lane came after its release point (R132). -/
theorem linkUp_fe_same :
    (linkUp f l n s).fe[f].links = s.fe[f].links.set l (if rbdOf (s.act 0x11 f.val) l < n then .rbdViolation else .data) ∧
      (n ≤ rbdOf (s.act 0x11 f.val) l → (linkUp f l n s).fe[f].outage[l] = none) ∧ (linkUp f l n s).fe[f].fell = s.fe[f].fell := by
  unfold linkUp
  extract_lets s1 bad s2
  have hbad : bad = (rbdOf (s.act 0x11 f.val) l < n) := by
    simp only [bad, s1]
    split <;> rfl
  have hfe : s2.fe = s1.fe := by
    simp only [s2]
    split <;> rfl
  have hsame : s1.fe[f].links = s.fe[f].links ∧ s1.fe[f].fell = s.fe[f].fell := by
    simp only [s1]
    split <;> simp only [updFe_fe_same, and_self]
  refine ⟨?_, fun hn => ?_, ?_⟩
  · simp only [updFe_fe_same, hfe, hsame, hbad]
  · simp only [updFe_fe_same]
    simp [hbad, Nat.not_lt.2 hn]
  · simp only [updFe_fe_same, hfe, hsame]

theorem linkUp_fe_ne {g : Fe} (h : g ≠ f) : (linkUp f l n s).fe[g] = s.fe[g] := by
  unfold linkUp
  extract_lets s1 bad s2
  have h1 : s1.fe[g] = s.fe[g] := by
    simp only [s1]
    split
    · exact updFe_fe_ne h _ _
    · rfl
  have h2 : s2.fe = s1.fe := by
    simp only [s2]
    split <;> rfl
  rw [updFe_fe_ne h, h2, h1]

theorem frame_linkUp {p : List Part} {t : State} (hf : .fe ∈ p) (hh : .harv ∈ p) (h : Frame p t s) : Frame p t (linkUp f l n s) := by
  unfold linkUp
  extract_lets s1 bad s2
  have h1 : Frame p t s1 := by
    unfold s1; split
    · exact frame_updFe _ _ hf h
    · exact h
  have h2 : Frame p t s2 := by
    unfold s2; split
    · exact h1
    · exact frame_withHarv _ hh h1
  exact frame_updFe _ _ hf h2

end

theorem linkUp_time (f : Fe) (l : Fin 3) (n : Nat) (s : State) : (linkUp f l n s).time = s.time :=
  frame_linkUp (p := [.fe, .harv]) f l n s (by decide) (by decide) (frame_refl _ s) .time (by decide) (by decide)

theorem linkUp_proto (f : Fe) (l : Fin 3) (n : Nat) (s : State) : (linkUp f l n s).proto = s.proto :=
  frame_linkUp (p := [.fe, .harv]) f l n s (by decide) (by decide) (frame_refl _ s) .proto (by decide) (by decide)

/-- Without a FUNC_REINIT under way the links' recovery ends none. -/
theorem linksReinit_noOps {f : Fe} {s : State} (h : s.proto.ops = []) : linksReinit f s = s := by
  simp [linksReinit, reinitDone, reinitOps, h]

theorem linkUpEvent_of_not_fell {f : Fe} {l : Fin 3} {s : State} (h : s.fe[f].fell.getLsbD l.val = false) : linkUpEvent f l s = s :=
  if_neg (by simp only [h, Bool.false_and, Bool.false_eq_true, not_false_eq_true])

theorem linkUpEvent_links (f : Fe) (l : Fin 3) (s : State) : (linkUpEvent f l s).fe[f].links = s.fe[f].links := by
  unfold linkUpEvent; split <;> simp only [State.raise_fe, updFe_fe_same]

theorem linkUpEvent_outage (f : Fe) (l : Fin 3) (s : State) : (linkUpEvent f l s).fe[f].outage = s.fe[f].outage := by
  unfold linkUpEvent; split <;> simp only [State.raise_fe, updFe_fe_same]

theorem linkUpEvent_time (f : Fe) (l : Fin 3) (s : State) : (linkUpEvent f l s).time = s.time := by
  unfold linkUpEvent; split <;> simp

theorem linkUpEvent_fe_ne {f g : Fe} (h : g ≠ f) (l : Fin 3) (s : State) : (linkUpEvent f l s).fe[g] = s.fe[g] := by
  unfold linkUpEvent; split
  · simp only [State.raise_fe, updFe_fe_ne h]
  · rfl

/-- LINK_UP is raised where the fall of the link was (R136). -/
theorem linkUpEvent_irqSum {f : Fe} {l : Fin 3} {s : State} (hfell : s.fe[f].fell.getLsbD l.val = true) (hdata : s.fe[f].links[l] = .data) :
    (linkUpEvent f l s).pcie.irqSum.getLsbD (32 + f.val) = true := by
  rw [linkUpEvent, if_pos (by simp only [hfell, hdata, decide_true, Bool.and_self])]
  exact raise_irqSum_same _ (vecEngine f)

theorem frame_linkUpEvent {p : List Part} {s t : State} (f : Fe) (l : Fin 3) (hf : .fe ∈ p) (hp : .pcie ∈ p) (ho : .out ∈ p) (h : Frame p s t) :
    Frame p s (linkUpEvent f l t) := by
  unfold linkUpEvent
  split
  · exact frame_raise _ hp ho (frame_updFe _ _ hf h)
  · exact h

/-! ## The events of a link -/

theorem linkAligned_of {f : Fe} {l : Fin 3} {s : State} (hedge : s.fe[f].lemc.getLsbD l.val = true)
    (hst : s.fe[f].links[l] = .aligning ∨ s.fe[f].links[l] = .training) : linkAligned s f l = true := by
  simp only [linkAligned, hedge, Bool.true_and, Bool.or_eq_true, decide_eq_true_eq]
  exact hst

/-- No link of an engine is in the data state while all of them train. -/
theorem links_not_contains_data {v : Vector LinkSt 3} (h : ∀ k : Fin 3, v[k] = .training) : v.toList.contains .data = false := by
  rw [Bool.eq_false_iff, Ne, List.contains_iff_mem, Vector.mem_toList_iff]
  intro hmem
  obtain ⟨i, hi, hdata⟩ := Vector.getElem_of_mem hmem
  cases hdata.symm.trans (h ⟨i, hi⟩)

/-- A SYSREF edge aligns links that train and checks none of them (R132). -/
theorem execSysrefEdge_training {f : Fe} {s : State} (d : Int) (h : ∀ k : Fin 3, s.fe[f].links[k] = .training) :
    ∃ t, execSysrefEdge f d s = ok t ∧ (∀ k : Fin 3, t.fe[f].links[k] = .aligning) ∧ t.fe[f].sysrefMis = s.fe[f].sysrefMis ∧
      (∀ g : Fe, g ≠ f → t.fe[g] = s.fe[g]) ∧ Frame [.fe] s t := by
  unfold execSysrefEdge
  extract_lets cont up mis s1
  have hmis : mis = false := by
    simp only [mis, up, links_not_contains_data h, Bool.and_false, Bool.false_and]
  rw [if_neg (by simp only [hmis, Bool.false_eq_true, not_false_eq_true])]
  refine ⟨s1, rfl, fun k => ?_, ?_, fun g hg => updFe_fe_ne hg _ _, frame_updFe _ _ (by decide) (frame_refl _ s)⟩
  · simpa [s1] using fun hk => absurd (h k) hk
  · simp [s1, hmis]

/-- With no FUNC_REINIT under way a link that completes comes up, and says so where its fall was raised. -/
theorem linkRecovers_noOps (f : Fe) (l : Fin 3) (n : Nat) {s : State} (h : s.proto.ops = []) :
    linkUpEvent f l (linksReinit f (linkUp f l n s)) = linkUpEvent f l (linkUp f l n s) := by
  rw [linksReinit_noOps ((congrArg Proto.ops (linkUp_proto f l n s)).trans h)]

theorem execLinkInitComplete_aligned {f : Fe} {l : Fin 3} {s : State} (n : Nat) (hon : s.life.thermtrip = false)
    (halign : linkAligned s f l = true) (hops : s.proto.ops = []) :
    execLinkInitComplete f l n s = ok (linkUpEvent f l (linkUp f l n s)) := by
  rw [execLinkInitComplete, if_neg (ne_true_of_eq_false hon), if_pos halign, linkRecovers_noOps f l n hops]

/-- A link that no SYSREF edge has aligned does not complete. -/
theorem execLinkInitComplete_unaligned {f : Fe} {l : Fin 3} {s : State} (n : Nat) (h : s.fe[f].lemc.getLsbD l.val = false) :
    execLinkInitComplete f l n s = ok s := by
  have halign : linkAligned s f l = false := by simp only [linkAligned, h, Bool.false_and]
  simp only [execLinkInitComplete, halign, Bool.false_eq_true, if_false, ite_self]

/-- A multiblock that fails its CRC counts on its lane alone (R135). -/
theorem execCrc12Failure_counts (f : Fe) (l : Fin 6) (a b : Nat) (s : State) :
    ∃ t, execCrc12Failure f l a b s = ok t ∧ t.fe[f].crcErr[l] = addSat s.fe[f].crcErr[l] 1 ∧
      (∀ m : Fin 6, m ≠ l → t.fe[f].crcErr[m] = s.fe[f].crcErr[m]) ∧ (∀ g : Fe, g ≠ f → t.fe[g] = s.fe[g]) ∧ Frame [.time, .fe] s t := by
  refine ⟨_, rfl, ?_, fun m hm => ?_, fun g hg => updFe_fe_ne hg _ _,
    frame_updFe _ _ (by decide) (frame_withTime _ (by decide) (frame_refl _ s))⟩
  · simp
  · simp [Vector.getElem_set_ne _ _ (Fin.val_ne_of_ne hm.symm)]

/-- The fall of a link of an engine that runs is counted and raised, and its outage begins (R136). -/
theorem execLinkDown_running {f : Fe} {l : Fin 3} {s : State} (w : Nat) (hdata : s.fe[f].links[l] = .data)
    (hrun : runOf (s.act 0x10 f.val) = true) :
    ∃ t, execLinkDown f l w s = ok t ∧ t.fe[f].links[l] = .training ∧ t.fe[f].linkDowns = min 65535 (s.fe[f].linkDowns + 1) ∧
      t.fe[f].outage[l] = some (max s.time.clk w) ∧ t.pcie.irqSum.getLsbD (32 + f.val) = true ∧
      (∀ g : Fe, g ≠ f → t.fe[g] = s.fe[g]) ∧ Frame [.time, .fe, .pcie, .out] s t := by
  rw [execLinkDown, if_pos hdata]
  extract_lets arrived run fallen
  have hruns : run = true := hrun
  rw [if_pos hruns]
  refine ⟨_, rfl, ?_, ?_, ?_, raise_irqSum_same _ (vecEngine f), fun g hg => ?_,
    frame_raise _ (by decide) (by decide) (frame_updFe _ _ (by decide) (frame_withTime _ (by decide) (frame_refl _ s)))⟩
  · simp [fallen]
  · simp [fallen, arrived]
  · simp [fallen, arrived]
  · simp only [State.raise_fe, fallen, updFe_fe_ne hg, arrived, State.goTo_fe]

/-- Retries come at whole multiples of 10 ms from the outage (R136). -/
theorem retryInstant_sub_mod (clk o : Nat) : (max clk (o + ((clk - o) / 10 ^ 10 + 1) * 10 ^ 10) - o) % 10 ^ 10 = 0 := by
  have hlater : clk ≤ o + ((clk - o) / 10 ^ 10 + 1) * 10 ^ 10 := by omega
  rw [Nat.max_eq_right hlater, Nat.add_sub_cancel_left, Nat.mul_mod_left]

/-- A retry that succeeds brings the link up at its instant. -/
theorem execLinkRetry_succeeds {f : Fe} {l : Fin 3} {o : Nat} {s : State} (n : Nat) (hout : s.fe[f].outage[l] = some o)
    (hon : s.life.thermtrip = false) (halign : linkAligned s f l = true) (hops : s.proto.ops = []) :
    execLinkRetry f l true n s =
      ok (linkUpEvent f l (linkUp f l n (s.goTo (o + ((s.time.clk - o) / 10 ^ 10 + 1) * 10 ^ 10)))) := by
  simp only [execLinkRetry, hout]
  rw [if_pos, linkRecovers_noOps f l n (by exact hops)]
  simp only [State.goTo_life, hon, Bool.not_false, Bool.and_self, Bool.true_and]
  exact halign

/-- Settles O35: each clause is what the event does to its link, with the frames of the updates it makes. -/
theorem jesdLinks : Obligations.JesdLinks := by
  unfold Obligations.JesdLinks
  refine ⟨?sysref, ?complete, ?unaligned, ?crc, ?down, ?retry, ?mismatch⟩
  case sysref => exact fun f d s h => execSysrefEdge_training d h
  case complete =>
    intro f k n s hon hedge hst hfell hops
    obtain ⟨hlinks, -, hfell'⟩ := linkUp_fe_same f k n s
    refine ⟨linkUp f k n s, ?_, ?_, fun j hj => ?_, fun g hg => linkUp_fe_ne f k n s hg,
      frame_linkUp f k n s (by decide) (by decide) (frame_refl _ s)⟩
    · exact (execLinkInitComplete_aligned n hon (linkAligned_of hedge hst) hops).trans
        (congrArg ok (linkUpEvent_of_not_fell (by rw [hfell', hfell])))
    · rw [hlinks, Fin.getElem_fin, Vector.getElem_set_self]
    · rw [hlinks, Fin.getElem_fin, Vector.getElem_set_ne _ _ (Fin.val_ne_of_ne hj.symm)]; rfl
  case unaligned => exact fun f k n s h => execLinkInitComplete_unaligned n h
  case crc => exact execCrc12Failure_counts
  case down => exact fun f k w s hdata hrun => execLinkDown_running w hdata hrun
  case retry =>
    intro f k o n s hout hon hops hedge hst hn
    have hexec := execLinkRetry_succeeds n hout hon (linkAligned_of hedge hst) hops
    have hinstant := retryInstant_sub_mod s.time.clk o
    have hframe : Frame [.time, .fe, .harv, .pcie, .out] s (s.goTo (o + ((s.time.clk - o) / 10 ^ 10 + 1) * 10 ^ 10)) :=
      frame_withTime _ (by decide) (frame_refl _ s)
    generalize o + ((s.time.clk - o) / 10 ^ 10 + 1) * 10 ^ 10 = instant at hexec hinstant hframe
    obtain ⟨hlinks, hnone, hfell⟩ := linkUp_fe_same f k n (s.goTo instant)
    have hintime : n ≤ rbdOf ((s.goTo instant).act 0x11 f.val) k := hn
    have hdata : (linkUp f k n (s.goTo instant)).fe[f].links[k] = .data := by
      rw [hlinks, if_neg (Nat.not_lt.2 hintime), Fin.getElem_fin, Vector.getElem_set_self]
    refine ⟨_, hexec, ?_, ?_, ?_, fun h => linkUpEvent_irqSum (by rw [hfell]; exact h) hdata, fun g hg => ?_,
      frame_linkUpEvent f k (by decide) (by decide) (by decide) (frame_linkUp f k n _ (by decide) (by decide) hframe)⟩
    · rw [linkUpEvent_links, hdata]
    · rw [linkUpEvent_outage, hnone hintime]
    · rw [linkUpEvent_time, linkUp_time, State.goTo_clk, hinstant]
    · rw [linkUpEvent_fe_ne hg, linkUp_fe_ne f k n _ hg, State.goTo_fe]
  case mismatch =>
    exact fun f k s => ⟨_, rfl, by simp only [State.raise_fe, updFe_fe_same], raise_irqSum_same _ (vecEngine f),
      fun g hg => by simp only [State.raise_fe, updFe_fe_ne hg],
      frame_raise _ (by decide) (by decide) (frame_updFe _ _ (by decide) (frame_refl _ s))⟩

end Sys2Proof.Machine
end

section
/-! The boundary of a stopped engine, which ends drift epochs too, and the statement about boundaries and shots. -/

namespace Sys2Proof.Machine

/-! ## What a boundary passes through -/

theorem launchNext_stopped {f : Fe} {s : State} (h : runOf (s.act 0x10 f.val) = false) : launchNext f s = s := by
  simp [launchNext, h]

/-- A stopped engine has no period to launch in full. -/
theorem launchRest_stopped {f : Fe} {s : State} (h : runOf (s.act 0x10 f.val) = false) (n : Nat) : launchRest f n s = s := by
  induction n with
  | zero => rfl
  | succ n ih => rw [launchRest, launchNext_stopped h, ih]

theorem dueCommit_none {s : State} (h : s.commits = []) (f : Fe) (b : Nat) (ppn : BitVec 48) : dueCommit s f b ppn = none := by
  simp [dueCommit, h]

/-- The Raman laser of a stopped engine is silent. -/
theorem fireRaman_stopped {f : Fe} {s : State} (h : runOf (s.act 0x10 f.val) = false) (b : Nat) (ppn : BitVec 48) :
    fireRaman f b ppn s = s := by
  simp [fireRaman, ramanFires, h]

/-- A strobe only sends edges out. -/
theorem strobe_sends (p : List Word) (fn rise fall : Nat) (s : State) : ∃ o, strobe p fn rise fall s = { s with out := o } := by
  unfold strobe
  split
  · exact ⟨s.out, rfl⟩
  · refine List.foldlRecOn (motive := fun t : State => ∃ o, t = { s with out := o }) _ _ ⟨s.out, rfl⟩ ?_
    rintro _ ⟨o, rfl⟩ n -
    split
    · exact ⟨_, rfl⟩
    · exact ⟨o, rfl⟩

@[simp] theorem strobe_params (p : List Word) (fn rise fall : Nat) (s : State) : (strobe p fn rise fall s).params = s.params := by
  obtain ⟨o, h⟩ := strobe_sends p fn rise fall s
  rw [h]

@[simp] theorem strobe_therm (p : List Word) (fn rise fall : Nat) (s : State) : (strobe p fn rise fall s).therm = s.therm := by
  obtain ⟨o, h⟩ := strobe_sends p fn rise fall s
  rw [h]

@[simp] theorem probeAux_therm (f : Fe) (b : Nat) (ppn : BitVec 48) (s : State) : (probeAux f b ppn s).therm = s.therm := by
  simp only [probeAux]; split <;> rfl

@[simp] theorem tiuStart_therm (c : Fin 4) (sub : Byte) (s : State) : (tiuStart c sub s).therm = s.therm := by
  unfold tiuStart; (repeat' split) <;> rfl

@[simp] theorem tiuSource_therm (src : Nat) (s : State) : (tiuSource src s).therm = s.therm := by
  refine List.foldlRecOn (motive := fun t : State => t.therm = s.therm) _ _ rfl fun t ht c _ => ?_
  split
  · rw [tiuStart_therm, ht]
  · exact ht

/-- The end of a drift epoch is noted with the engine's thermal profiler. -/
theorem markEpochEnd_ends_length (f : Fe) (ppn : BitVec 48) (old now : State) :
    (markEpochEnd f ppn old now).therm[f].ends.length = now.therm[f].ends.length + 1 := by
  simp [markEpochEnd, State.updTherm]

theorem therm_eq_of_ok {s t : State} (h : ok s = ok t) : t.therm = s.therm := by
  simpa using (congrArg State.therm (Host.Outcome.next.inj h)).symm

/-- The boundary timer runs while its engine is stopped (R103), and so do its drift epochs: a boundary that begins one notes the end of the one before
with the engine's profiler. Stage by stage: nothing is launched, no commit is due, nothing re-initialises, and no shedding is reported. -/
theorem execBoundary_ends_length {f : Fe} {s t : State} (hon : s.power.state.val < 4) (hreset : s.life.inReset = false)
    (hstop : runOf (s.act 0x10 f.val) = false) (hcommits : s.commits = []) (hreinit : s.fe[f].reinit = false)
    (hepoch : (s.fe[f].ppn + 1).toNat % 2 ^ bf (s.act 0x12 f.val) 3 0 5 = 0) (ht : execBoundary f s = ok t) :
    t.therm[f].ends.length = s.therm[f].ends.length + 1 := by
  rw [execBoundary, if_neg (by simp [hreset, hon])] at ht
  extract_lets launched b arrived ppn applied ready shed live warned epoch marked begun e timed strobed fired at ht
  have hlaunched : launched = s := launchRest_stopped hstop 8
  clear_value launched
  subst hlaunched
  have happlied : applied = arrived := by
    simp only [applied]
    rw [dueCommit_none (s := arrived) hcommits]
  clear_value applied
  subst happlied
  have hready : ready = arrived := if_neg (ne_true_of_eq_false hreinit)
  clear_value ready
  subst hready
  have hwarned : warned = arrived := if_neg (by simp [show runOf (arrived.act 0x10 f.val) = false from hstop])
  clear_value warned
  subst hwarned
  have hmarked : marked = markEpochEnd f ppn arrived arrived := if_pos (by simp [show epoch from hepoch])
  clear_value marked
  have hparams : strobed.params = launched.params := (strobe_params ..).trans (congrArg State.params hmarked :)
  have htherm : strobed.therm = marked.therm := strobe_therm ..
  clear_value strobed
  have hfired : fired.therm = strobed.therm := by
    rw [probeAux_therm, fireRaman_stopped (by rw [State.act, hparams]; exact hstop)]
  rw [therm_eq_of_ok ht, tiuSource_therm, hfired, htherm, hmarked, markEpochEnd_ends_length, State.goTo_therm]

/-- An engine stopped since reset is in the last period of its first drift epoch, of 1024 periods by default. -/
def lastPeriodOfEpoch : State := { State.reset with
  life := { State.reset.life with inReset := false }
  fe := State.reset.fe.set 0 { State.reset.fe[0] with ppn := 1023 } }

/-- Refutes O34: its clause about the boundary of a stopped engine leaves the thermal profilers as they were, and the boundary that follows
`lastPeriodOfEpoch` ends a drift epoch, which the engine's profiler notes. -/
theorem not_boundariesAndShots : ¬ Obligations.BoundariesAndShots := by
  unfold Obligations.BoundariesAndShots
  rintro ⟨⟨hboundary, -⟩, -⟩
  have hstop : runOf (lastPeriodOfEpoch.act 0x10 (0 : Fe).val) = false := by decide +kernel
  have hepoch : (lastPeriodOfEpoch.fe[(0 : Fe)].ppn + 1).toNat % 2 ^ bf (lastPeriodOfEpoch.act 0x12 (0 : Fe).val) 3 0 5 = 0 := by
    decide +kernel
  obtain ⟨t, ht, -, -, -, -, -, -, hframe⟩ := hboundary 0 lastPeriodOfEpoch (by decide) rfl hstop rfl rfl
  have hsame : t.therm = lastPeriodOfEpoch.therm := hframe .therm (by decide) (by decide)
  have hnoted := execBoundary_ends_length (by decide) rfl hstop rfl rfl hepoch ht
  rw [hsame] at hnoted
  omega

end Sys2Proof.Machine
end

section
/-! The read-out of a capture with a word that the device knows as bad, which raises vector 42 too, and the statement about deliveries. -/

namespace Sys2Proof.Machine

theorem irqSum_eq_of_ok {s t : State} (h : ok s = ok t) : t.pcie.irqSum = s.pcie.irqSum := by
  simpa using (congrArg (fun u : State => u.pcie.irqSum) (Host.Outcome.next.inj h)).symm

/-- An uncorrectable Cellar word raises vector 42 (R322), and no Cellar word lowers it. -/
theorem celEcc_irqSum {v : Nat} {found : EccRead} {s : State}
    (h : found = .uncorrectable ∨ s.pcie.irqSum.getLsbD vecFault.val = true) :
    (celEcc v found s).pcie.irqSum.getLsbD vecFault.val = true := by
  cases found with
  | clean => exact h.resolve_left (by decide)
  | corrected => exact h.resolve_left (by decide)
  | uncorrectable => exact raise_irqSum_same _ vecFault

theorem foldl_celEcc_irqSum {addr : State → Nat → Nat} {l : List (Nat × EccRead)} {s : State}
    (h : (∃ e ∈ l, e.2 = .uncorrectable) ∨ s.pcie.irqSum.getLsbD vecFault.val = true) :
    (l.foldl (fun s e => celEcc (addr s e.1) e.2 s) s).pcie.irqSum.getLsbD vecFault.val = true := by
  induction l generalizing s with
  | nil => simpa using h
  | cons e l ih =>
    refine ih ?_
    rcases h with ⟨x, hx, hbad⟩ | hraised
    · rcases List.mem_cons.1 hx with rfl | hx
      · exact .inr (celEcc_irqSum (.inl hbad))
      · exact .inl ⟨x, hx, hbad⟩
    · exact .inr (celEcc_irqSum (.inr hraised))

/-- What holds of no ring without an item in progress holds of none while no ring has one. -/
theorem any_rings_eq_false {s : State} {p : Ring → Bool} (hidle : ∀ n : RingId, s.rings[n].cur = none)
    (hp : ∀ r : Ring, r.cur = none → p r = false) : s.rings.toList.any p = false := by
  rw [List.any_eq_false]
  intro r hr
  obtain ⟨i, hi, rfl⟩ := Vector.getElem_of_mem (Vector.mem_toList_iff.1 hr)
  exact ne_true_of_eq_false (hp _ (hidle ⟨i, hi⟩))

/-- A data record of a read-out that begins with an uncorrectable element in it raises vector 42. -/
theorem execCaptureRecordDelivery_irqSum {u : Fin 4} {ecc : List (Nat × EccRead)} {s t : State} (hst : s.harv[u].st = .reading)
    (hidle : ∀ n : RingId, s.rings[n].cur = none)
    (hroom : canBegin s (hvRing s.harv[u].set) (convertRec (rgFmt (ringBlk s (hvRing s.harv[u].set)))
      (captureRecord s u s.harv[u].sent (captureEcc s u s.harv[u].sent ecc))).1.length = true)
    (hbad : ∃ e ∈ captureEcc s u s.harv[u].sent ecc, e.2 = .uncorrectable) (ht : execCaptureRecordDelivery u ecc s = ok t) :
    t.pcie.irqSum.getLsbD vecFault.val = true := by
  unfold execCaptureRecordDelivery at ht
  extract_lets h busy here at ht
  have hbusy : busy = false := any_rings_eq_false hidle fun r hr => by simp only [hr]
  have hgoes : ¬ (decide (h.st ≠ .reading) || busy) = true := by
    rw [hbusy, show h.st = .reading from hst]; decide
  rw [if_neg hgoes] at ht
  unfold beginRecord at ht
  extract_lets c at ht
  rw [if_pos hroom] at ht
  rw [irqSum_eq_of_ok ht]
  exact foldl_celEcc_irqSum (addr := fun s i => elemAddr s u (firstKept h + i)) (.inl hbad)

/-- Capture unit 0 reads out the one data record of a capture of one element, whose Cellar word the device knows as bad, to ring 0, which has a
buffer for it. -/
def badElementReadOut : State := { State.reset with
  life := { State.reset.life with inReset := false, phase := 3 }
  pcie := { State.reset.pcie with up := true }
  params := { State.reset.params with active := [(bid 0x80 0, [1])] }
  rings := State.reset.rings.set 0 { descs := [#v[0, 0, 0x800, 0, 0, 0, 0, 0]] }
  cellar := { State.reset.cellar with bad := [128] }
  harv := State.reset.harv.set 0 { st := .reading, set := [4], esz := 1, elems := [⟨0, 0, 0, 0, 0⟩], written := 1, sent := 1 } }

/-- Refutes O13: its clause about CAPTURE_RECORD_DELIVERY leaves everything but the rings as it was, and reading the element of
`badElementReadOut` raises vector 42 (R322). -/
theorem not_deliveries : ¬ Obligations.Deliveries := by
  unfold Obligations.Deliveries
  rintro ⟨-, -, hcapture, -⟩
  have hidle : ∀ n : RingId, badElementReadOut.rings[n].cur = none := by decide +kernel
  have hbad : ∃ e ∈ captureEcc badElementReadOut 0 1 [], e.2 = .uncorrectable := by decide +kernel
  obtain ⟨t, ht, -, hframe⟩ := hcapture 0 badElementReadOut rfl hidle (by decide +kernel)
  have hpcie : t.pcie = badElementReadOut.pcie := hframe .pcie (by decide) (by decide)
  have hraised := execCaptureRecordDelivery_irqSum rfl hidle (by decide +kernel) hbad ht
  rw [hpcie] at hraised
  exact absurd hraised (by decide)

end Sys2Proof.Machine
end

section
/-! What Press leaves alone: frames of the updates it makes and of the end of an operation, and the records handed to it. -/

namespace Sys2Proof.Machine

/-! ## Frames -/

theorem frame_mono {l k : List Part} {s t : State} (hlk : l ⊆ k) (h : Frame l s t) : Frame k s t :=
  fun p ha hp => h p ha fun hl => hp (hlk hl)

theorem frame_trans {l : List Part} {s t u : State} (hst : Frame l s t) (htu : Frame l t u) : Frame l s u := by
  intro p ha hp
  have h1 := hst p ha hp
  have h2 := htu p ha hp
  cases p with
  | power =>
    have h2' := congrArg (fun x : Power => { x with state := s.power.state, idleSince := s.power.idleSince }) h2
    exact h2'.trans h1
  | activity => exact absurd rfl ha
  | _ => exact h2.trans h1

theorem frame_foldl {α : Type} {l : List Part} {s t : State} {f : State → α → State} (xs : List α)
    (hf : ∀ u x, Frame l s u → Frame l s (f u x)) (h : Frame l s t) : Frame l s (xs.foldl f t) :=
  List.foldlRecOn xs f h fun u hu x _ => hf u x hu

/-- Two states that agree outside a frame's parts still do once an engine, not among them, is updated in both. -/
theorem frame_updFe_both {l : List Part} {s t : State} (f : Fe) (g : FeSt → FeSt) (hl : .fe ∉ l) (h : Frame l s t) :
    Frame l (s.updFe f g) (t.updFe f g) := by
  intro p ha hp
  have hsame := h p ha hp
  cases p with
  | fe =>
    have hfe : t.fe = s.fe := h .fe (by decide) hl
    simp only [Part.same, State.updFe, hfe]
  | _ => exact hsame

/-- A frame that lists the streams stays when a stream is updated. -/
theorem frame_updStream {l : List Part} {s t : State} (n : StreamId) (g : StreamSt → StreamSt) (hl : .stream ∈ l) (h : Frame l s t) :
    Frame l s (t.updStream n g) := by
  intro p ha hp
  have hsame := h p ha hp
  cases p with
  | stream => exact absurd hl hp
  | _ => exact hsame

/-- A frame that lists the free values stays when some are taken. -/
theorem frame_withFree {l : List Part} {s t : State} (k : Nat) (hl : .free ∈ l) (h : Frame l s t) : Frame l s { t with free := k } := by
  intro p ha hp
  have hsame := h p ha hp
  cases p with
  | free => exact absurd hl hp
  | _ => exact hsame

/-- A frame that lists the protocol stays when its state is replaced. -/
theorem frame_withProto {l : List Part} {s t : State} (x : Proto) (hl : .proto ∈ l) (h : Frame l s t) : Frame l s { t with proto := x } := by
  intro p ha hp
  have hsame := h p ha hp
  cases p with
  | proto => exact absurd hl hp
  | _ => exact hsame

/-- A frame that lists the Cellar stays when its state is replaced. -/
theorem frame_withCellar {l : List Part} {s t : State} (x : Cellar) (hl : .cellar ∈ l) (h : Frame l s t) :
    Frame l s { t with cellar := x } := by
  intro p ha hp
  have hsame := h p ha hp
  cases p with
  | cellar => exact absurd hl hp
  | _ => exact hsame

theorem frame_celEcc {l : List Part} {s t : State} (v : Nat) (found : EccRead) (hl : [.cellar, .pcie, .out] ⊆ l) (h : Frame l s t) :
    Frame l s (celEcc v found t) := by
  have hcel : Part.cellar ∈ l := hl (by decide)
  cases found with
  | clean => exact h
  | corrected => exact frame_withCellar _ hcel (frame_withCellar _ hcel h)
  | uncorrectable =>
    exact frame_raise _ (hl (by decide)) (hl (by decide)) (frame_withCellar _ hcel (frame_withCellar _ hcel h))

@[simp] theorem celEcc_stream (v : Nat) (found : EccRead) (s : State) : (celEcc v found s).stream = s.stream :=
  frame_celEcc (l := [.cellar, .pcie, .out]) v found (List.Subset.refl _) (frame_refl _ s) .stream (by decide) (by decide)

/-! ## Answers -/

section
variable {l : List Part} {s t : State}

theorem frame_send (via : Transport) (sess : BitVec 8) (event : Bool) (bytes : List Byte) (hl : [.proto, .rings, .out] ⊆ l)
    (h : Frame l s t) : Frame l s (t.send via sess event bytes) := by
  have hproto : Part.proto ∈ l := hl (by decide)
  unfold State.send
  split
  · extract_lets w dest
    split
    · exact frame_updRing _ _ (hl (by decide)) h
    · exact h
  · extract_lets u
    split
    · exact frame_emit _ (hl (by decide)) (frame_withProto _ hproto h)
    · exact frame_withProto _ hproto h

theorem frame_answer (via : Transport) (sess : BitVec 8) (opcode : BitVec 16) (seq : Word) (event : Bool) (payload : List Word)
    (hl : [.proto, .rings, .out] ⊆ l) (h : Frame l s t) : Frame l s (t.answer via sess opcode seq event payload) := by
  unfold State.answer
  split
  · exact frame_send _ _ _ _ hl h
  · split
    · exact frame_send _ _ _ _ hl (frame_withProto _ (hl (by decide)) h)
    · exact h

/-- The end of an operation touches the protocol and what carries its answer. -/
theorem frame_finish (o : Op) (st det : Nat) (ws : List Word) (hl : [.proto, .rings, .out] ⊆ l) (h : Frame l s t) :
    Frame l s (t.finish o st det ws) := by
  have hproto : Part.proto ∈ l := hl (by decide)
  unfold State.finish
  extract_lets before s0 s1
  have h1 : Frame l s s1 := by
    unfold s1; split
    · exact frame_withProto _ hproto h
    · exact frame_withProto _ hproto (frame_withProto _ hproto h)
  split
  · exact h1
  · split
    · exact frame_answer _ _ _ _ _ _ hl h1
    · exact h1

end

@[simp] theorem finish_stream (o : Op) (st det : Nat) (ws : List Word) (s : State) : (s.finish o st det ws).stream = s.stream :=
  frame_finish (l := [.proto, .rings, .out]) o st det ws (List.Subset.refl _) (frame_refl _ s) .stream (by decide) (by decide)

/-! ## Streams -/

theorem updStream_stream_same (s : State) (n : StreamId) (g : StreamSt → StreamSt) : (s.updStream n g).stream[n] = g s.stream[n] := by
  simp [State.updStream]

theorem updStream_stream_ne {m n : StreamId} (h : m ≠ n) (s : State) (g : StreamSt → StreamSt) :
    (s.updStream n g).stream[m] = s.stream[m] := by
  simp [State.updStream, Vector.getElem_set_ne, Fin.val_ne_of_ne h.symm]

/-- Of the streams no other than `n` differs, and that one has the same records handed to its Press. -/
def SameInput (n : StreamId) (s t : State) : Prop :=
  t.stream[n].toPress = s.stream[n].toPress ∧ ∀ m : StreamId, m ≠ n → t.stream[m] = s.stream[m]

/-- What an update of stream `n` that leaves the records handed to its Press, an update of the protocol and the end of an operation keep. -/
structure PressKeeps (n : StreamId) (P : State → Prop) : Prop where
  stream : ∀ (g : StreamSt → StreamSt) (t : State), (∀ y, (g y).toPress = y.toPress) → P t → P (t.updStream n g)
  proto : ∀ (x : Proto) (t : State), P t → P { t with proto := x }
  finish : ∀ (o : Op) (st det : Nat) (ws : List Word) (t : State), P t → P (t.finish o st det ws)

/-- The parts of the state that take the results of Fining and Press. -/
def resultParts : List Part := [.stream, .free, .proto, .rings, .out]

theorem frame_pressKeeps (n : StreamId) {l : List Part} (s : State) (hl : resultParts ⊆ l) : PressKeeps n (Frame l s) where
  stream g t _ h := frame_updStream n g (hl (by decide)) h
  proto x t h := frame_withProto x (hl (by decide)) h
  finish o st det ws t h := frame_finish o st det ws (List.Subset.trans (by decide) hl) h

theorem sameInput_pressKeeps (n : StreamId) (s : State) : PressKeeps n (SameInput n s) where
  stream g t hg h := by
    obtain ⟨hinput, hothers⟩ := h
    exact ⟨by rw [updStream_stream_same, hg, hinput], fun m hm => by rw [updStream_stream_ne hm, hothers m hm]⟩
  proto x t h := h
  finish o st det ws t h := by
    rwa [SameInput, finish_stream]

/-! ## Press -/

section
variable {n : StreamId} {P : State → Prop} (hP : PressKeeps n P)
include hP

theorem pressKeeps_putRec (set press : List Word) (r : Rec) {t : State} (h : P t) : P (putRec n set press r t) := by
  unfold putRec
  extract_lets s1
  have h1 : P s1 := hP.stream _ _ (fun _ => rfl) h
  split
  · exact hP.stream _ _ (fun _ => rfl) h1
  · exact hP.stream _ _ (fun _ => rfl) h1

theorem pressKeeps_flushEnds (cmd : Bool) {t : State} (h : P t) : P (flushEnds n cmd t) := by
  unfold flushEnds
  extract_lets s1
  have h1 : P s1 := hP.stream _ _ (fun _ => rfl) h
  split
  · unfold pressFlushed
    extract_lets step s2
    refine List.foldlRecOn _ _ (hP.proto _ _ h1) fun u hu o _ => ?_
    split
    · exact hP.finish _ _ _ _ _ hu
    · exact hu
  · exact h1

/-- Press takes the oldest record handed to it and keeps what its updates keep, among them those by the errors in its open samples. -/
theorem pressKeeps_pressOne (i : PressIn) (ecc : List (Nat × EccRead)) (s : State)
    (hecc : ∀ e ∈ ecc, ∀ v t, P t → P (celEcc v e.2 t))
    (h : ∀ o : StreamSt → List OpenTile, P (({ s with free := s.free + 1 } : State).updStream n fun y =>
      { y with toPress := y.toPress.drop 1, opens := o y })) :
    P (pressOne n i ecc s) := by
  unfold pressOne
  extract_lets x open_ seed here lostCh lost old all metas total t tails rest s1 s2 ratio blocks out a flags hdr s4 s5 s3
  have h2 : P s2 := by
    refine List.foldlRecOn _ _ (h _) fun u hu e he => ?_
    exact hecc e (List.mem_filter.1 he).1 _ u hu
  have h3 : P s3 := by
    unfold s3
    split
    · exact h2
    · have h5 : P s5 := hP.stream _ _ (fun _ => rfl) (pressKeeps_putRec hP _ _ _ h2)
      split
      · exact hP.proto _ _ h5
      · exact h5
  split
  · exact pressKeeps_flushEnds hP _ h3
  · exact h3

end

/-- A record that Press takes leaves those handed to it after it, and every other stream. -/
theorem pressOne_stream {n : StreamId} {s : State} (i : PressIn) (ecc : List (Nat × EccRead)) :
    (pressOne n i ecc s).stream[n].toPress = s.stream[n].toPress.drop 1 ∧
      ∀ m : StreamId, m ≠ n → (pressOne n i ecc s).stream[m] = s.stream[m] := by
  have hsame : SameInput n (s.updStream n fun y => { y with toPress := y.toPress.drop 1 }) (pressOne n i ecc s) := by
    refine pressKeeps_pressOne (sameInput_pressKeeps n _) i ecc s (fun e _ v t h => ?_) fun o => ⟨?_, fun m hm => ?_⟩
    · rwa [SameInput, celEcc_stream]
    · simp only [updStream_stream_same]
    · simp only [updStream_stream_ne hm]
  obtain ⟨hinput, hothers⟩ := hsame
  exact ⟨by rw [hinput, updStream_stream_same], fun m hm => by rw [hothers m hm, updStream_stream_ne hm]⟩

theorem frame_pressOne {l : List Part} {s t : State} (n : StreamId) (i : PressIn) (ecc : List (Nat × EccRead)) (hl : resultParts ⊆ l)
    (hecc : ecc = [] ∨ [.cellar, .pcie, .out] ⊆ l) (h : Frame l s t) : Frame l s (pressOne n i ecc t) := by
  refine pressKeeps_pressOne (frame_pressKeeps n s hl) i ecc t (fun e he v u hu => ?_)
    fun o => frame_updStream _ _ (hl (by decide)) (frame_withFree _ (hl (by decide)) h)
  rcases hecc with rfl | hcel
  · exact absurd he List.not_mem_nil
  · exact frame_celEcc v e.2 hcel hu

theorem frame_pressAll {l : List Part} {s t : State} (n : StreamId) (k : Nat) (hl : resultParts ⊆ l) (h : Frame l s t) :
    Frame l s (pressAll n k t) := by
  induction k generalizing t with
  | zero => exact h
  | succ k ih =>
    unfold pressAll
    split
    · exact h
    · exact ih (frame_pressOne n _ [] hl (.inl rfl) h)

end Sys2Proof.Machine
end

section
/-! Bands, tiles and Press records: what the stages of a tile do, which streams a PRESS_FLUSH asks, and the statement about Fining and Press. -/

namespace Sys2Proof.Machine

/-! ## Stages of a tile -/

section
variable {l : List Part} {s t : State} (hl : resultParts ⊆ l)
include hl

theorem frame_putRec (n : StreamId) (set press : List Word) (r : Rec) (h : Frame l s t) : Frame l s (putRec n set press r t) :=
  pressKeeps_putRec (frame_pressKeeps n s hl) set press r h

theorem frame_jobBegin (b : Band) (j : Job) (h : Frame l s t) : Frame l s (jobBegin b j t) := by
  unfold jobBegin
  extract_lets ppn u
  have hu : Frame l s u := by
    unfold u; split
    · exact frame_pressAll _ _ hl h
    · exact h
  exact frame_updStream _ _ (hl (by decide)) hu

theorem frame_fineJob (f : Fe) (b : Band) (m : Nat) (elems : List (Nat × Nat)) (lost : List Nat) (j : Job) (h : Frame l s t) :
    Frame l s (fineJob f b m elems lost j t) := by
  have hstream : Part.stream ∈ l := hl (by decide)
  have hfree : Part.free ∈ l := hl (by decide)
  unfold fineJob
  extract_lets lo hi
  split
  · exact h
  split
  · split
    · exact frame_updStream _ _ hstream h
    · exact h
  split
  · exact frame_putRec hl _ _ _ _ h
  split
  · exact frame_updStream _ _ hstream (frame_updStream _ _ hstream (frame_withFree _ hfree h))
  · exact frame_putRec hl _ _ _ _ (frame_updStream _ _ hstream (frame_withFree _ hfree h))

theorem frame_jobEnd (b : Band) (j : Job) (h : Frame l s t) : Frame l s (jobEnd b j t) :=
  frame_updStream _ _ (hl (by decide)) h

end

theorem updFe_self {s : State} {f : Fe} {g : FeSt → FeSt} (h : g s.fe[f] = s.fe[f]) : s.updFe f g = s := by
  rw [State.updFe, h, Fin.getElem_fin, Vector.set_getElem_self]

/-- As Fining begins a band it puts it in the place of the closed one, with the flushes it takes up. -/
theorem bandBegin_spec (f : Fe) (b : Band) (rest : List Band) (s : State) :
    (bandBegin f b rest s).1.nch = b.nch ∧
      Frame resultParts (s.updFe f fun x => { x with closed := (bandBegin f b rest s).1 :: rest }) (bandBegin f b rest s).2 := by
  unfold bandBegin
  extract_lets b' s1
  have h1 : Frame resultParts s s1 := by
    refine frame_foldl _ (fun u j hu => ?_) (frame_refl _ s)
    split
    · exact frame_updStream _ _ (by decide) hu
    · exact hu
  exact ⟨rfl, frame_foldl _ (fun u j hu => frame_jobBegin (List.Subset.refl _) b' j hu) (frame_updFe_both f _ (by decide) h1)⟩

/-- What a tile leaves of its engine: the band goes with its last tile. -/
def afterTile (b : Band) (rest : List Band) (m : Nat) (x : FeSt) : FeSt :=
  if tilesOf b.nch ≤ m + 1 then { x with closed := rest, tile := 0 } else { x with tile := m + 1 }

/-- A tile of the oldest closed band is fined in a state where that band stands with the flushes that it took up at its first tile (R183). -/
theorem fineTile_spec {f : Fe} {b : Band} {rest : List Band} {s : State} (elems : List (Nat × Nat)) (lost : List (StreamId × Nat))
    (hclosed : s.fe[f].closed = b :: rest) :
    ∃ (b' : Band) (u : State), b'.nch = b.nch ∧ Frame resultParts (s.updFe f fun x => { x with closed := b' :: rest }) u ∧
      fineTile f elems lost s = u.updFe f (afterTile b rest s.fe[f].tile) := by
  obtain ⟨b', s1, hnch, h1, hbegun⟩ : ∃ (b' : Band) (s1 : State), b'.nch = b.nch ∧
      Frame resultParts (s.updFe f fun x => { x with closed := b' :: rest }) s1 ∧
      (if s.fe[f].tile = 0 then bandBegin f b rest s else (b, s)) = (b', s1) := by
    split
    · obtain ⟨hnch, h1⟩ := bandBegin_spec f b rest s
      exact ⟨_, _, hnch, h1, rfl⟩
    · refine ⟨b, s, rfl, ?_, rfl⟩
      rw [updFe_self (by rw [← hclosed])]
      exact frame_refl _ s
  have hjobs : ∀ m, Frame resultParts (s.updFe f fun x => { x with closed := b' :: rest })
      (b'.jobs.foldl (fun s j => fineJob f b' m elems ((lost.filter fun e => e.1 = j.st).map (·.2)) j s) s1) :=
    fun m => frame_foldl _ (fun u j hu => frame_fineJob (List.Subset.refl _) f b' m elems _ j hu) h1
  unfold fineTile
  simp only [hclosed, hbegun, hnch]
  by_cases hlast : tilesOf b.nch ≤ s.fe[f].tile + 1
  · rw [if_pos hlast]
    refine ⟨b', _, hnch, frame_foldl b'.jobs (fun u j hu => frame_jobEnd (List.Subset.refl _) b' j hu) (hjobs s.fe[f].tile), ?_⟩
    congr 1
    funext x
    rw [afterTile, if_pos hlast]
  · rw [if_neg hlast]
    refine ⟨b', _, hnch, hjobs s.fe[f].tile, ?_⟩
    congr 1
    funext x
    rw [afterTile, if_neg hlast]

/-- Without a closed band there is no tile. -/
theorem fineTile_idle {f : Fe} {s : State} (elems : List (Nat × Nat)) (lost : List (StreamId × Nat)) (h : s.fe[f].closed = []) :
    fineTile f elems lost s = s := by
  simp only [fineTile, h]

theorem tileEcc_idle {f : Fe} {s : State} (elems : List (Nat × Nat × EccRead)) (lost : List (StreamId × Nat × EccRead))
    (h : s.fe[f].closed = []) : tileEcc f elems lost s = s := by
  simp only [tileEcc, h]

theorem tileEcc_nil (f : Fe) (s : State) : tileEcc f [] [] s = s := by
  unfold tileEcc; split <;> rfl

/-! ## Streams asked to flush -/

/-- A mask of one bit names one stream. -/
theorem filter_getLsbD_shiftLeft (n : StreamId) :
    (List.finRange 16).filter (fun k => ((1 : BitVec 16) <<< n.val).getLsbD k.val) = [n] := by
  revert n; decide

theorem ofNat_two_pow (n : StreamId) : BitVec.ofNat 16 (2 ^ n.val) = (1 : BitVec 16) <<< n.val := by
  revert n; decide

theorem one_shiftLeft_ne_zero (n : StreamId) : (1 : BitVec 16) <<< n.val ≠ 0 := by
  revert n; decide

/-- The named streams that run with Press, as PRESS_FLUSH keeps them. -/
def flushRuns (m : BitVec 16) (s : State) : BitVec 16 :=
  ((List.finRange 16).filter fun n => m.getLsbD n.val && pressRuns s n).foldl (fun a n => a ||| ((1 : BitVec 16) <<< n.val)) 0

theorem flushRuns_none {m : BitVec 16} {s : State} (h : ∀ n : StreamId, pressRuns s n = false) : flushRuns m s = 0 := by
  have hnone : ((List.finRange 16).filter fun n => m.getLsbD n.val && pressRuns s n) = [] :=
    List.filter_eq_nil_iff.2 fun n _ => by rw [h n, Bool.and_false]; decide
  rw [flushRuns, hnone, List.foldl_nil]

theorem flushRuns_one {n : StreamId} {s : State} (h : pressRuns s n = true) :
    flushRuns ((1 : BitVec 16) <<< n.val) s = (1 : BitVec 16) <<< n.val := by
  have hone : ((List.finRange 16).filter fun k => ((1 : BitVec 16) <<< n.val).getLsbD k.val && pressRuns s k) = [n] := by
    simp only [Bool.and_comm _ (pressRuns s _)]
    rw [← List.filter_filter, filter_getLsbD_shiftLeft, List.filter_cons_of_pos h, List.filter_nil]
  rw [flushRuns, hone, List.foldl_cons, List.foldl_nil]
  exact BitVec.zero_or

theorem doPressFlush_eq {r : Req} (s : State) (h : (wordAt r.payload 0).toNat < 65536) :
    doPressFlush r s =
      let run := flushRuns (BitVec.ofNat 16 (wordAt r.payload 0).toNat) s
      if run = 0 then Res.ok [0] s
      else Res.later ((((List.finRange 16).filter fun n => run.getLsbD n.val).foldl
        (fun s n => s.updStream n fun y => { y with flushReq := true }) s).addOp r (.pressFlush run 0 (pressLimit s run)) false) := by
  have hlt : (wordAt r.payload 0).toNat < 2 ^ 16 := h
  rw [doPressFlush, if_neg (ne_true_of_eq_false (rsvdBad_eq_false 0xFFFF rfl hlt))]
  simp only [wbits_of_lt hlt, flushRuns, List.foldl_filter]

/-- A ready PRESS_FLUSH of one stream that runs asks it to flush and waits (R278). -/
theorem exec_pressFlush_one {r : Req} {n : StreamId} {s : State} (hr : Ready 0x0208 [] 1 1 r s)
    (hsel : (wordAt r.payload 0).toNat = 2 ^ n.val) (hruns : pressRuns s n = true) :
    exec (.pressFlush r) s = ok (((taken r s).updStream n fun y => { y with flushReq := true }).addOp r
      (.pressFlush ((1 : BitVec 16) <<< n.val) 0 (pressLimit (taken r s) ((1 : BitVec 16) <<< n.val))) false) := by
  have hlt : 2 ^ n.val < 65536 := Nat.pow_lt_pow_right (by decide) n.isLt
  have hone : flushRuns ((1 : BitVec 16) <<< n.val) (taken r s) = (1 : BitVec 16) <<< n.val := flushRuns_one hruns
  have hexec : exec (.pressFlush r) s = ok (runOp 0x0208 [] 1 1 false doPressFlush r s) := rfl
  rw [hexec, runOp_ready false doPressFlush hr, doPressFlush_eq _ (hsel ▸ hlt), hsel, ofNat_two_pow]
  simp only [hone, one_shiftLeft_ne_zero, if_false, deliver_later, filter_getLsbD_shiftLeft, List.foldl_cons, List.foldl_nil]

/-! ## Bands and records -/

theorem execPressRecord_cons {n : StreamId} {i : PressIn} {l : List PressIn} {s : State} (e : List (Nat × EccRead))
    (h : s.stream[n].toPress = i :: l) : execPressRecord n e s = ok (pressOne n i e s) := by
  simp only [execPressRecord, h]

theorem execPressRecord_nil {n : StreamId} {s : State} (e : List (Nat × EccRead)) (h : s.stream[n].toPress = []) :
    execPressRecord n e s = ok s := by
  simp only [execPressRecord, h]

/-- A running engine's band closes when it is full (R183). -/
theorem execBandClose_full {f : Fe} {b : Band} {s : State} (hrun : feEnded s f = false) (hband : s.fe[f].band = some b)
    (hfull : 1024 ≤ b.rows.length) :
    execBandClose f s = ok (s.updFe f fun x => { x with
      band := none, closed := x.closed ++ [b], past := ((b.rows.reverse.map (·.flags)) ++ b.past).take 2810 }) := by
  have hbandFull : bandFull s f = true := by simp only [bandFull, hband, hfull, decide_true]
  rw [execBandClose, if_neg (ne_true_of_eq_false hrun), if_pos hbandFull]
  simp only [closeBand, hband]

/-- Settles O37: each clause is what its command does to the engine or the stream, with the frames of the updates it makes. -/
theorem finingAndPress : Obligations.FiningAndPress := by
  unfold Obligations.FiningAndPress
  refine ⟨⟨?close, ?tile, ?noBand⟩, ?press, ?noRecord, ?noneRuns, ?oneRuns⟩
  case close =>
    intro f b s hrun hband hfull
    refine ⟨_, execBandClose_full hrun hband hfull, ?_, ?_, fun g hg => updFe_fe_ne hg _ _, frame_updFe _ _ (by decide) (frame_refl _ s)⟩
    · rw [updFe_fe_same]
    · rw [updFe_fe_same]
  case tile =>
    intro f b l s hclosed
    obtain ⟨b', u, hnch, hframe, htile⟩ := fineTile_spec [] [] hclosed
    have hexec : exec (.finingTile f [] []) s = ok (fineTile f [] [] (tileEcc f [] [] s)) := rfl
    rw [tileEcc_nil, htile] at hexec
    have hfe : u.fe = (s.updFe f fun x => { x with closed := b' :: l }).fe := hframe .fe (by decide) (by decide)
    have hsame : (u.updFe f (afterTile b l s.fe[f].tile)).fe[f] = afterTile b l s.fe[f].tile { s.fe[f] with closed := b' :: l } := by
      rw [updFe_fe_same, hfe, updFe_fe_same]
    refine ⟨_, hexec, ?_, ?_, fun g hg => ?_, ?_⟩
    · rw [hsame]; unfold afterTile; split <;> rfl
    · rw [hsame, hclosed]; unfold afterTile
      split
      · exact .inl ‹_›
      · exact .inr ⟨rfl, by simp only [List.map_cons, hnch]⟩
    · rw [updFe_fe_ne hg, hfe, updFe_fe_ne hg]
    · exact frame_updFe _ _ (by decide) (frame_trans (frame_updFe _ _ (by decide) (frame_refl _ s)) (frame_mono (by decide) hframe))
  case noBand =>
    intro f a c s hclosed
    have hexec : exec (.finingTile f a c) s = ok (fineTile f _ _ (tileEcc f a c s)) := rfl
    rw [hexec, tileEcc_idle a c hclosed, fineTile_idle _ _ hclosed]
  case press =>
    intro n i l e s hinput
    obtain ⟨hrest, hothers⟩ := pressOne_stream (n := n) (s := s) i e
    exact ⟨_, execPressRecord_cons e hinput, by rw [hrest, hinput, List.drop_one, List.tail_cons], hothers,
      frame_pressOne n i e (by decide) (.inr (by decide)) (frame_refl _ s)⟩
  case noRecord => exact fun n e s hinput => execPressRecord_nil e hinput
  case noneRuns =>
    intro r s hr hlt hnone
    refine answers_of_ready (h := doPressFlush) rfl hr ?_
    rw [doPressFlush_eq _ hlt]
    exact if_pos (flushRuns_none hnone)
  case oneRuns => exact fun r n s hr hsel hruns => exec_pressFlush_one hr hsel hruns

end Sys2Proof.Machine
end

section
/-! Acknowledgements of a zone: what the end of an operation and the driving of the ALARM pins touch, and what a zone does that takes the one
acknowledgement that waits for it. -/

namespace Sys2Proof.Machine

/-! ## Answers leave the operations that wait -/

@[simp] theorem smbPush_ops (p : Proto) (i : SmbItem) : (smbPush p i).ops = p.ops := by
  unfold smbPush
  repeat' split
  all_goals rfl

@[simp] theorem smbSend_ops (restarting : Bool) (i : SmbItem) (p : Proto) : (smbSend restarting i p).ops = p.ops := by
  unfold smbSend
  split
  · rfl
  · exact smbPush_ops p i

@[simp] theorem send_ops (via : Transport) (sess : BitVec 8) (event : Bool) (bytes : List Byte) (s : State) :
    (s.send via sess event bytes).proto.ops = s.proto.ops := by
  unfold State.send
  split
  · extract_lets w dest
    split <;> rfl
  · extract_lets u
    split <;> exact smbSend_ops _ _ _

@[simp] theorem answer_ops (via : Transport) (sess : BitVec 8) (opcode : BitVec 16) (seq : Word) (event : Bool) (payload : List Word)
    (s : State) : (s.answer via sess opcode seq event payload).proto.ops = s.proto.ops := by
  unfold State.answer
  split
  · exact send_ops _ _ _ _ s
  · split
    · exact send_ops _ _ _ _ _
    · rfl

/-- Of the operations that wait, the one that ends goes. -/
theorem finish_ops (o : Op) (st det : Nat) (ws : List Word) (s : State) : (s.finish o st det ws).proto.ops = s.proto.ops.erase o := by
  unfold State.finish
  extract_lets before s0 s1
  have h1 : s1.proto.ops = s.proto.ops.erase o := by
    unfold s1
    split <;> rfl
  split
  · exact h1
  · split
    · rw [answer_ops, h1]
    · exact h1

@[simp] theorem finish_zones (o : Op) (st det : Nat) (ws : List Word) (s : State) : (s.finish o st det ws).zones = s.zones :=
  frame_finish (l := [.proto, .rings, .out]) o st det ws (List.Subset.refl _) (frame_refl _ s) .zones (by decide) (by decide)

@[simp] theorem finish_time (o : Op) (st det : Nat) (ws : List Word) (s : State) : (s.finish o st det ws).time = s.time :=
  frame_finish (l := [.proto, .rings, .out]) o st det ws (List.Subset.refl _) (frame_refl _ s) .time (by decide) (by decide)

/-! ## Pins -/

theorem emits_eq (l : List Out) (s : State) : s.emits l = { s with out := l.reverse ++ s.out } := by
  induction l generalizing s with
  | nil => rfl
  | cons o l ih =>
    rw [State.emits, List.foldl_cons, ← State.emits, ih, List.reverse_cons, List.append_assoc]
    rfl

/-- Driving the ALARM pins touches their record and what goes out. -/
theorem refreshPins_eq (s : State) : ∃ p o, refreshPins s = { s with zones := { s.zones with pins := p }, out := o } :=
  ⟨_, _, emits_eq _ _⟩

@[simp] theorem refreshPins_zone (s : State) (z : Nat) : (refreshPins s).zone z = s.zone z := by
  obtain ⟨p, o, h⟩ := refreshPins_eq s
  rw [h]
  rfl

@[simp] theorem refreshPins_proto (s : State) : (refreshPins s).proto = s.proto := by
  obtain ⟨p, o, h⟩ := refreshPins_eq s
  rw [h]

@[simp] theorem refreshPins_time (s : State) : (refreshPins s).time = s.time := by
  obtain ⟨p, o, h⟩ := refreshPins_eq s
  rw [h]

theorem frame_refreshPins {l : List Part} {s t : State} (hz : .zones ∈ l) (ho : .out ∈ l) (h : Frame l s t) : Frame l s (refreshPins t) := by
  obtain ⟨x, o, heq⟩ := refreshPins_eq t
  rw [heq]
  intro p ha hp
  have hsame := h p ha hp
  cases p with
  | zones => exact absurd hz hp
  | out => exact absurd ho hp
  | _ => exact hsame

/-! ## Acknowledgements -/

theorem zone_congr {s t : State} (h : t.zones = s.zones) (z : Nat) : t.zone z = s.zone z := by
  rw [State.zone, h, State.zone]

/-- The one operation that waits is an acknowledgement of zone `z` alone. -/
def AwaitsAck (o : Op) (z n : Nat) (s : State) : Prop := s.proto.ops = [o] ∧ o.kind = .zoneAck [z] n

/-- An acknowledgement that no zone keeps waiting, with the clears of LATCHED that it counts. -/
def ackTaken (o : Op) (z n : Nat) (s : State) : Op :=
  { o with kind := .zoneAck [] (if (s.zone z).latched then n + 1 else n) }

section
variable {only : Op → Bool} {o : Op} {z n : Nat} {s : State} (hwaits : AwaitsAck o z n s) (honly : only o = true)
include hwaits honly

/-- A zone that takes the one acknowledgement that waits, for it alone, ends it (R218). -/
theorem takeAcksOf_one : takeAcksOf only z s =
    ({ s.setZone z { s.zone z with latched := false } with proto := { s.proto with ops := [ackTaken o z n s] } } : State).finish
      (ackTaken o z n s) stOk 0 [BitVec.ofNat 32 (if (s.zone z).latched then n + 1 else n)] := by
  obtain ⟨hops, hkind⟩ := hwaits
  have hacks : ackOps only z (s.zone z).latched [o] = [ackTaken o z n s] := by
    simp [ackOps, hkind, honly, ackTaken]
  have hset : (s.setZone z { s.zone z with latched := false }).proto.ops = [o] := hops
  unfold takeAcksOf
  simp only [hops, hkind, honly, hset, hacks, List.any_cons, List.contains_cons, beq_self_eq_true, Bool.true_or, Bool.and_self, if_true]
  rfl

theorem takeAcksOf_one_zone_same : (takeAcksOf only z s).zone z = { s.zone z with latched := false } := by
  rw [takeAcksOf_one hwaits honly, zone_congr (finish_zones ..)]
  exact setZone_zone_same s z _

theorem takeAcksOf_one_zone_ne {y : Nat} (hy : y ≠ z) : (takeAcksOf only z s).zone y = s.zone y := by
  rw [takeAcksOf_one hwaits honly, zone_congr (finish_zones ..)]
  exact setZone_zone_ne hy s _

theorem takeAcksOf_one_ops : (takeAcksOf only z s).proto.ops = [] := by
  rw [takeAcksOf_one hwaits honly, finish_ops]
  exact List.erase_cons_head (ackTaken o z n s) []

theorem takeAcksOf_one_time : (takeAcksOf only z s).time = s.time := by
  rw [takeAcksOf_one hwaits honly, finish_time]
  rfl

theorem frame_takeAcksOf_one {l : List Part} {s₀ : State} (hl : [.zones, .proto, .rings, .out] ⊆ l) (h : Frame l s₀ s) :
    Frame l s₀ (takeAcksOf only z s) := by
  rw [takeAcksOf_one hwaits honly]
  exact frame_finish _ _ _ _ (List.Subset.trans (by decide) hl)
    (frame_withProto _ (hl (by decide)) (frame_withZones _ (hl (by decide)) h))

end

/-- FIRST_ZONE below 2048 and COUNT 1 use none of the selector's reserved bits. -/
theorem zoneAck_rsvdBad {r : Req} {z : Nat} (hz : z < 2048) (hsel : (wordAt r.payload 0).toNat = z + 65536) :
    rsvdBad r 0 0x0FFF07FF = false := by
  have hor : z + 65536 = 65536 ||| z := by
    rw [Nat.add_comm]
    exact Nat.two_pow_add_eq_or_of_lt (i := 16) (by omega) 1
  have hfirst : z &&& 0x0FFF07FF = z := by
    have hlow : z &&& 0x7FF = z := Nat.and_two_pow_sub_one_of_lt_two_pow (n := 11) hz
    calc z &&& 0x0FFF07FF = z &&& 0x7FF &&& 0x0FFF07FF := by rw [hlow]
      _ = z := by rw [Nat.and_assoc]; exact hlow
  simp [rsvdBad, hsel, hor, Nat.and_or_distrib_right, hfirst]

/-- A ZONE_ACK of one zone that cannot decide takes effect on it as it is executed (R218). -/
theorem doZoneAck_idle {r : Req} {z : Nat} {s : State} (hz : z < 2048) (hsel : (wordAt r.payload 0).toNat = z + 65536)
    (hidle : zoneIdle s z = true) :
    doZoneAck r s = Res.later (refreshPins (takeAcksOf (fun _ => true) z (s.addOp r (.zoneAck [z] 0) false))) := by
  have hfirst : wbits (wordAt r.payload 0) 0 11 = z := by
    simp only [wbits, bitsOf, hsel]; omega
  have hcount : wbits (wordAt r.payload 0) 16 12 = 1 := by
    simp only [wbits, bitsOf, hsel]; omega
  have hrsvd : rsvdBad r 0 0x0FFF07FF = false := zoneAck_rsvdBad hz hsel
  have hidle' : zoneIdle (s.addOp r (.zoneAck [z] 0) false) z = true := hidle
  have hin : ¬ 2048 < z + 1 := by omega
  simp [doZoneAck, hfirst, hcount, hrsvd, hin, hidle', takeAcks]

/-- ZONE_ACK_TIMEOUT with one ZONE_ACK that waits, for one zone, gives it to the zone 2.2 ms after it was executed (R218). -/
theorem execZoneAckTimeout_one {o : Op} {z n : Nat} {s : State} (hwaits : AwaitsAck o z n s) :
    execZoneAckTimeout s =
      ok (refreshPins (takeAcksOf (fun x => x.sess = o.sess && x.seq = o.seq) z (s.goTo (o.start + 2200000000)))) := by
  obtain ⟨hops, hkind⟩ := hwaits
  simp [execZoneAckTimeout, State.opWhere, hops, hkind]

end Sys2Proof.Machine
end

section
/-! A zone event record on its ring: how a record of the CP area that one burst holds is written to the host, and the statement about zone events. -/

namespace Sys2Proof.Machine

/-! ## Rings -/

@[simp] theorem updRing_rings_val (s : State) (n : RingId) (g : Ring → Ring) : (s.updRing n g).rings[n.val] = g s.rings[n] := by
  simp [State.updRing]

theorem updRing_rings_same (s : State) (n : RingId) (g : Ring → Ring) : (s.updRing n g).rings[n] = g s.rings[n] := updRing_rings_val s n g

theorem updRing_updRing (s : State) (n : RingId) (f g : Ring → Ring) : (s.updRing n f).updRing n g = s.updRing n (g ∘ f) := by
  simp [State.updRing]

/-- While no low state is entered, a channel stays live as its ring is updated without a halt. -/
theorem chanLive_updRing {n : RingId} {g : Ring → Ring} {s : State} (hpower : s.power.entering = none)
    (hhalt : (g s.rings[n]).halted = s.rings[n].halted) : chanLive (s.updRing n g) n = chanLive s n := by
  have hbus : busLive (s.updRing n g) = busLive s := rfl
  have hblk : ringBlk (s.updRing n g) n = ringBlk s n := rfl
  simp only [chanLive, hbus, hblk, updRing_rings_same, hhalt, State.updRing_power, hpower, Option.isNone_none, Bool.true_or]

/-! ## What a completion passes through -/

/-- A frame that lists the endpoint stays when its state is replaced. -/
theorem frame_withPcie {l : List Part} {s t : State} (x : Pcie) (hl : .pcie ∈ l) (h : Frame l s t) : Frame l s { t with pcie := x } := by
  intro p ha hp
  have hsame := h p ha hp
  cases p with
  | pcie => exact absurd hl hp
  | _ => exact hsame

/-- From `s` to `t` only the rings, the endpoint and what goes out have changed, `o` has gone out, and ring `n` holds no item any more. -/
structure Delivered (n : RingId) (o : Out) (s t : State) : Prop where
  sent : o ∈ t.out
  cur : t.rings[n].cur = none
  queue : t.rings[n].queue = []
  frame : Frame [.rings, .out, .pcie] s t

section
variable {n : RingId} {o : Out} {s t : State} (h : Delivered n o s t)
include h

theorem delivered_emit (x : Out) : Delivered n o s (t.emit x) where
  sent := List.mem_cons_of_mem _ h.sent
  cur := h.cur
  queue := h.queue
  frame := frame_emit x (by decide) h.frame

theorem delivered_setSum (v : Fin 64) : Delivered n o s (t.setSum v) where
  sent := h.sent
  cur := h.cur
  queue := h.queue
  frame := frame_withPcie _ (by decide) h.frame

theorem delivered_message (v : Fin 64) : Delivered n o s (t.message v) := by
  unfold State.message
  split
  · split
    · exact ⟨h.sent, h.cur, h.queue, frame_withPcie _ (by decide) h.frame⟩
    · exact delivered_emit h _
  · exact h

theorem delivered_raise (v : Fin 64) : Delivered n o s (t.raise v) := delivered_message (delivered_setSum h v) v

theorem delivered_updRing (g : Ring → Ring) (hcur : ∀ r, (g r).cur = r.cur) (hqueue : ∀ r, (g r).queue = r.queue) :
    Delivered n o s (t.updRing n g) where
  sent := h.sent
  cur := by rw [updRing_rings_same, hcur, h.cur]
  queue := by rw [updRing_rings_same, hqueue, h.queue]
  frame := frame_updRing n g (by decide) h.frame

theorem delivered_ringMessage : Delivered n o s (ringMessage n t) := by
  unfold ringMessage
  exact delivered_updRing (delivered_message h (vecRing n)) _ (fun _ => rfl) fun _ => rfl

theorem delivered_ringEvent : Delivered n o s (ringEvent n t) := by
  have h1 := delivered_setSum h (vecRing n)
  unfold ringEvent
  split
  · split
    · exact delivered_updRing h1 _ (fun _ => rfl) fun _ => rfl
    · exact delivered_ringMessage h1
  · exact delivered_ringMessage h1

/-- The completion of a descriptor sends words and signals the ring's vector. -/
theorem delivered_completeDesc (len : Nat) (eop item : Bool) (err : Nat) : Delivered n o s (completeDesc n len eop item err t) := by
  unfold completeDesc
  extract_lets b r half cons full s1 s2 s3
  have h1 : Delivered n o s s1 := delivered_emit h _
  have h2 : Delivered n o s s2 := by
    unfold s2
    split
    · exact h1
    · exact delivered_emit h1 _
  have h3 : Delivered n o s s3 := delivered_updRing h2 _ (fun _ => rfl) fun _ => rfl
  split
  · exact delivered_ringEvent h3
  · exact h3

end

/-! ## A record that one burst holds -/

/-- A zone event record has begun on a live ring, none of it has been moved, and one burst of the ring's only descriptor, unused and good, holds
it. -/
structure RecordBegun (n : RingId) (d : Vector Word 8) (i : Item) (s : State) : Prop where
  live : chanLive s n = true
  power : s.power.entering = none
  kind : rgKind (ringBlk s n) = 2
  good : dsBad 2 d = false
  descs : s.rings[n].descs = [d]
  cur : s.rings[n].cur = some (i, 0)
  queue : s.rings[n].queue = []
  done : s.rings[n].done = 0
  tag : i.tag = 2
  nonempty : 0 < i.bytes.length
  fits : i.bytes.length ≤ burstOf (dsHost d) (dsLen d)

/-- What a ring keeps of a record's burst: the descriptor, and the record with all its bytes moved. -/
structure RecordMoved (d : Vector Word 8) (i : Item) (r r' : Ring) : Prop where
  halted : r'.halted = r.halted
  descs : r'.descs = [d]
  cur : r'.cur = some (i, i.bytes.length)
  queue : r'.queue = []

/-- Only stream records can be cut. -/
theorem itemCut_of_tag {i : Item} (s : State) (htag : i.tag = 2) : itemCut s i = false := by
  unfold itemCut
  split
  · simp [htag]
  · rfl

/-- Moving a burst counts its bytes; a half point passed together with the descriptor's end is only marked. -/
theorem moved_whole (n : RingId) (k : Nat) (s : State) :
    ∃ b : Ring → Bool, moved n k true s = s.updRing n fun r => { r with done := r.done + k, moved := r.moved + k, half := b r } := by
  unfold moved halfPoint
  extract_lets r
  split
  · exact ⟨fun r => r.half, rfl⟩
  · split
    · refine ⟨fun _ => true, ?_⟩
      rw [if_pos rfl]
      exact updRing_updRing s n _ _
    · exact ⟨fun r => r.half, rfl⟩

theorem beginQueued_nil {n : RingId} {s : State} (hqueue : s.rings[n].queue = []) : beginQueued n s = s := by
  simp only [beginQueued, hqueue]

/-- The ring where its only waiting item has begun. -/
def itemBegun (n : RingId) (i : Item) (s : State) : State := s.updRing n fun r => { r with queue := [], cur := some (i, 0), sop := true }

/-- A waiting record that the ring's only fetched descriptor holds begins (R356). -/
theorem beginQueued_record {n : RingId} {d : Vector Word 8} {i : Item} {s : State} (hlive : chanLive s n = true)
    (hdescs : s.rings[n].descs = [d]) (hcur : s.rings[n].cur = none) (hqueue : s.rings[n].queue = [i]) (htag : i.tag = 2)
    (hfits : i.bytes.length ≤ dsLen d) : beginQueued n s = itemBegun n i s := by
  have hbegin : canBegin s n i.bytes.length = true := by
    simp only [canBegin, hlive, hcur, roomOf, hdescs]
    simp [hfits]
  have hgoes : (canBegin s n i.bytes.length && !(decide (s.life.phase = 4) && decide (i.tag ≤ 1))) = true := by simp [hbegin, htag]
  simp only [beginQueued, hqueue, hgoes, if_true]
  exact updRing_updRing s n _ _

/-- One burst takes the whole record (R358). -/
theorem itemBurst_record {n : RingId} {d : Vector Word 8} {i : Item} {s : State} (h : RecordBegun n d i s) :
    itemBurst n .clean d s = moved n i.bytes.length true
      ((payloadWrite n (dsHost d) i.bytes false s).updRing n fun r => { r with cur := some (i, i.bytes.length) }) := by
  have hstart : dsHost d + BitVec.ofNat 64 0 = dsHost d := BitVec.add_zero _
  have hsize : burstOf (dsHost d) (min (dsLen d) i.bytes.length) = i.bytes.length := by
    have hfits := h.fits
    unfold burstOf at hfits ⊢
    omega
  have hsome : i.bytes.length ≠ 0 := Nat.ne_of_gt h.nonempty
  simp only [itemBurst, h.cur, h.done, h.tag, itemCut_of_tag _ h.tag, hstart, hsize, hsome, Nat.sub_zero, Nat.zero_add, List.drop_zero,
    List.take_length]
  simp [itemEcc]

/-- A data burst of the ring writes the record to the buffer (R356, R358). -/
theorem dataStep_record {n : RingId} {d : Vector Word 8} {i : Item} {s : State} (h : RecordBegun n d i s) :
    ∃ ro ns g, dataStep n .clean s = (s.emit (.hostWrite (dsHost d) i.bytes ro ns false)).updRing n g ∧
      RecordMoved d i s.rings[n] (g s.rings[n]) := by
  have hburst : dataStep n .clean s = itemBurst n .clean d s := by
    simp only [dataStep, h.live, h.descs, h.good, h.kind, beginQueued_nil h.queue]
    simp
  obtain ⟨b, hmoved⟩ := moved_whole n i.bytes.length
    ((payloadWrite n (dsHost d) i.bytes false s).updRing n fun r => { r with cur := some (i, i.bytes.length) })
  rw [hburst, itemBurst_record h, hmoved, updRing_updRing]
  exact ⟨_, _, _, rfl, rfl, h.descs, rfl, h.queue⟩

/-- A zone event record whose bytes have all moved completes its descriptor and signals vector 36 (R212). -/
theorem completionStep_record {n : RingId} {d : Vector Word 8} {i : Item} {s : State} (hlive : chanLive s n = true)
    (hkind : rgKind (ringBlk s n) = 2) (hdescs : s.rings[n].descs = [d]) (hcur : s.rings[n].cur = some (i, i.bytes.length)) (htag : i.tag = 2) :
    completionStep n s =
      (completeDesc n s.rings[n].done true true 0 (s.updRing n fun r => { r with cur := none })).raise vecZone := by
  have hended : ∀ t : State, itemEnded i t = t := fun t => by simp [itemEnded, htag]
  simp only [completionStep, hlive, hkind, hdescs, hcur, itemCut_of_tag _ htag, hended, htag]
  simp

/-- The record is delivered with the first of the steps that REPLY_DELIVERY makes. -/
theorem drainItem_one {n : RingId} {s : State} (k : Nat) (hcur : s.rings[n].cur ≠ none) (hlive : chanLive s n = true)
    (hended : (completionStep n (dataStep n .clean s)).rings[n].cur = none) :
    drainItem n (k + 1) s = completionStep n (dataStep n .clean s) := by
  have hgoes : (s.rings[n].cur.isNone || !chanLive s n) = false := by
    rw [hlive, Option.isNone_eq_false_iff.2 (Option.isSome_iff_ne_none.2 hcur)]; rfl
  rw [drainItem, if_neg (ne_true_of_eq_false hgoes)]
  cases k with
  | zero => rfl
  | succ k => rw [drainItem, hended]; rfl

/-- A record that has begun is written whole, and vector 36 is signalled. -/
theorem drainItem_record {n : RingId} {d : Vector Word 8} {i : Item} {s : State} (k : Nat) (h : RecordBegun n d i s) :
    ∃ ro ns, Delivered n (.hostWrite (dsHost d) i.bytes ro ns false) s (drainItem n (k + 1) s) ∧
      (drainItem n (k + 1) s).pcie.irqSum.getLsbD 36 = true := by
  obtain ⟨ro, ns, g, hdata, hhalted, hdescs, hcur, hqueue⟩ := dataStep_record h
  let w : Out := .hostWrite (dsHost d) i.bytes ro ns false
  have hlive : chanLive ((s.emit w).updRing n g) n = true := (chanLive_updRing h.power hhalted).trans h.live
  have hcomplete := completionStep_record (s := (s.emit w).updRing n g) hlive h.kind (by rw [updRing_rings_same]; exact hdescs)
    (by rw [updRing_rings_same]; exact hcur) h.tag
  have hmoved : Delivered n w s (((s.emit w).updRing n g).updRing n fun r => { r with cur := none }) :=
    ⟨List.mem_cons_self, by rw [updRing_rings_same], by rw [updRing_rings_same, updRing_rings_same]; exact hqueue,
      frame_updRing n _ (by decide) (frame_updRing n g (by decide) (frame_emit w (by decide) (frame_refl _ s)))⟩
  have hall := delivered_raise (delivered_completeDesc hmoved ((s.emit w).updRing n g).rings[n].done true true 0) vecZone
  rw [← hcomplete, ← hdata] at hall
  rw [drainItem_one k (by rw [h.cur]; exact Option.some_ne_none _) h.live hall.cur]
  refine ⟨ro, ns, hall, ?_⟩
  rw [hdata, hcomplete]
  exact raise_irqSum_same _ vecZone

/-! ## The commands -/

/-- REPLY_DELIVERY of a record that begins makes enough steps to write it. -/
theorem execReplyDelivery_begun {n : RingId} {d : Vector Word 8} {i : Item} {s u : State} (hbegin : beginQueued n s = u)
    (h : RecordBegun n d i u) : execReplyDelivery n s = ok (drainItem n (2 * 1 + i.bytes.length / 4096 + 1 + 1) u) := by
  simp only [execReplyDelivery, hbegin, h.descs, h.cur, List.length_singleton]

theorem execZoneEventRecord_room {e : ZoneEv} {l : List ZoneEv} {s : State} (hevents : s.zones.events = e :: l)
    (hroom : ringRoom s (ringOf (bf (s.act 0x20 0) 2 0 5)) = true) :
    execZoneEventRecord s = ok (({ s with zones := { s.zones with events := l, eseq := s.zones.eseq + 1, lost := 0 } } : State).ringPush
      (ringOf (bf (s.act 0x20 0) 2 0 5)) ⟨wordsBytes (zoneRecord e s.zones.eseq s.zones.lost), 0, 2, 0⟩) := by
  simp only [execZoneEventRecord, hevents, hroom, if_true]

theorem execZoneEventRecord_full {e : ZoneEv} {l : List ZoneEv} {s : State} (hevents : s.zones.events = e :: l)
    (hroom : ringRoom s (ringOf (bf (s.act 0x20 0) 2 0 5)) = false) :
    execZoneEventRecord s = ok { s with zones := { s.zones with
      events := l, eseq := s.zones.eseq + 1, lost := s.zones.lost + 1, dropped := addSat s.zones.dropped 1 } } := by
  simp only [execZoneEventRecord, hevents, hroom, Bool.false_eq_true, if_false]

/-- Settles O38: a zone takes the one acknowledgement that waits for it, and the oldest transition goes to the event ring or is counted as dropped;
a record that waits there is written by one burst and its completion. -/
theorem zoneEvents : Obligations.ZoneEvents := by
  unfold Obligations.ZoneEvents
  refine ⟨?ack, ?timeout, ?room, ?written, ?full⟩
  case ack =>
    intro r z s hr hz hsel hidle hops
    have hexec : exec (.zoneAck r) s = ok (runOp 0x0301 [] 1 1 false doZoneAck r s) := rfl
    rw [runOp_ready false doZoneAck hr, doZoneAck_idle (s := taken r s) hz hsel hidle, deliver_later] at hexec
    have hwaits : AwaitsAck ⟨r.sess, r.seq, r.opcode, .zoneAck [z] 0, false, s.time.clk⟩ z 0 ((taken r s).addOp r (.zoneAck [z] 0) false) :=
      ⟨congrArg (· ++ _) hops, rfl⟩
    refine ⟨_, hexec, ?_, fun y hy => ?_, ?_, ?_⟩
    · rw [refreshPins_zone, takeAcksOf_one_zone_same hwaits rfl]; rfl
    · rw [refreshPins_zone, takeAcksOf_one_zone_ne hwaits rfl hy]; rfl
    · rw [refreshPins_proto, takeAcksOf_one_ops hwaits rfl]
    · exact frame_refreshPins (by decide) (by decide) (frame_takeAcksOf_one hwaits rfl (by decide)
        (frame_withProto _ (by decide) (frame_taken r s (by decide))))
  case timeout =>
    intro o z n s hops hkind
    have hwaits : AwaitsAck o z n (s.goTo (o.start + 2200000000)) := ⟨hops, hkind⟩
    have honly : (decide (o.sess = o.sess) && decide (o.seq = o.seq)) = true := by simp
    refine ⟨_, execZoneAckTimeout_one ⟨hops, hkind⟩, ?_, fun y hy => ?_, ?_, ?_, ?_⟩
    · rw [refreshPins_zone, takeAcksOf_one_zone_same hwaits honly]; rfl
    · rw [refreshPins_zone, takeAcksOf_one_zone_ne hwaits honly hy]; rfl
    · rw [refreshPins_proto, takeAcksOf_one_ops hwaits honly]
    · rw [refreshPins_time, takeAcksOf_one_time hwaits honly, State.goTo_clk]
    · exact frame_refreshPins (by decide) (by decide) (frame_takeAcksOf_one hwaits honly (by decide)
        (frame_withTime _ (by decide) (frame_refl _ s)))
  case room =>
    intro e l s hevents hroom
    refine ⟨_, execZoneEventRecord_room hevents hroom, rfl, rfl, rfl, ?_, ?_⟩
    · rw [State.ringPush, updRing_rings_same]
    · exact frame_updRing _ _ (by decide) (frame_withZones _ (by decide) (frame_refl _ s))
  case written =>
    intro n d i s hlive hkind hgood hdescs hcur hqueue htag hdone hreads hsome hfits hpower
    have hbegun : RecordBegun n d i (itemBegun n i s) :=
      { live := (chanLive_updRing hpower rfl).trans hlive, power := hpower, kind := hkind, good := hgood
        descs := by rw [itemBegun, updRing_rings_same, hdescs], cur := by rw [itemBegun, updRing_rings_same]
        queue := by rw [itemBegun, updRing_rings_same], done := by rw [itemBegun, updRing_rings_same, hdone]
        tag := htag, nonempty := hsome, fits := hfits }
    have hbegin := beginQueued_record hlive hdescs hcur hqueue htag (Nat.le_trans hfits (Nat.min_le_left _ _))
    obtain ⟨ro, ns, hdelivered, hsum⟩ := drainItem_record (2 * 1 + i.bytes.length / 4096 + 1) hbegun
    refine ⟨_, execReplyDelivery_begun hbegin hbegun, hsum, hdelivered.queue, ⟨ro, ns, hdelivered.sent⟩, ?_⟩
    exact frame_trans (frame_updRing _ _ (by decide) (frame_refl _ s)) hdelivered.frame
  case full =>
    intro e l s hevents hroom
    exact ⟨_, execZoneEventRecord_full hevents hroom, rfl, rfl, rfl, rfl, frame_withZones _ (by decide) (frame_refl _ s)⟩

end Sys2Proof.Machine
end

section
/-! The opcodes of group 0x04: what an update of a thermal profiler does, the calibration that runs on an engine, and the statement about them. -/

namespace Sys2Proof.Machine

/-! ## Profilers -/

/-- A frame that lists the profilers stays when one is updated. -/
theorem frame_updTherm {l : List Part} {s t : State} (f : Fe) (g : ThermSt → ThermSt) (hl : .therm ∈ l) (h : Frame l s t) :
    Frame l s (t.updTherm f g) := by
  intro p ha hp
  have hsame := h p ha hp
  cases p with
  | therm => exact absurd hl hp
  | _ => exact hsame

/-- Of the profilers, engine `f`'s has become `x` and no other differs. -/
def ProfilerBecomes (f : Fe) (x : ThermSt) (s t : State) : Prop := t.therm = s.therm.set f x

section
variable {f : Fe} {x : ThermSt} {s t : State}

theorem profilerBecomes_updTherm (f : Fe) (g : ThermSt → ThermSt) (s : State) : ProfilerBecomes f (g s.therm[f]) s (s.updTherm f g) := rfl

theorem profilerBecomes_self (f : Fe) (s : State) : ProfilerBecomes f s.therm[f] s s := by
  simp [ProfilerBecomes]

theorem ProfilerBecomes.same (h : ProfilerBecomes f x s t) : t.therm[f] = x := by
  rw [ProfilerBecomes] at h
  simp [h]

theorem ProfilerBecomes.others (h : ProfilerBecomes f x s t) {g : Fe} (hg : g ≠ f) : t.therm[g] = s.therm[g] := by
  rw [ProfilerBecomes] at h
  simp [h, Vector.getElem_set_ne, Fin.val_ne_of_ne hg.symm]

/-- A later change of the same profiler replaces an earlier one. -/
theorem ProfilerBecomes.trans {u : State} {y : ThermSt} (hst : ProfilerBecomes f x s t) (htu : ProfilerBecomes f y t u) :
    ProfilerBecomes f y s u := by
  rw [ProfilerBecomes] at hst htu ⊢
  rw [htu, hst, Vector.set_set]

/-- An update of the same profiler comes on top. -/
theorem ProfilerBecomes.updTherm (h : ProfilerBecomes f x s t) (g : ThermSt → ThermSt) : ProfilerBecomes f (g x) s (t.updTherm f g) := by
  have hnext := h.trans (profilerBecomes_updTherm f g t)
  rwa [h.same] at hnext

/-- What leaves every profiler alone leaves what one has become. -/
theorem ProfilerBecomes.trans_eq {u : State} (h : ProfilerBecomes f x s t) (hu : u.therm = t.therm) : ProfilerBecomes f x s u := hu.trans h

end

/-! ## Handlers -/

theorem doThermStatus_eq {r : Req} (s : State) (h : (wordAt r.payload 0).toNat ≤ 3) :
    ∃ ws, ws.length = 10 ∧ wordAt ws 3 = s.therm[feOf r].intervals ∧ wordAt ws 4 = s.therm[feOf r].excluded ∧
      wordAt ws 5 = s.therm[feOf r].skipped ∧ wordAt ws 6 = s.therm[feOf r].auxFaults ∧ wordAt ws 7 = s.therm[feOf r].dropped ∧
      doThermStatus r s = Res.ok ws
        (s.updTherm (feOf r) fun t => { t with intervals := 0, excluded := 0, skipped := 0, auxFaults := 0, dropped := 0 }) := by
  rw [doThermStatus, if_neg (ne_true_of_eq_false (rsvdBad_eq_false (k := 2) 3 rfl (by omega)))]
  exact ⟨_, rfl, rfl, rfl, rfl, rfl, rfl, rfl⟩

/-- A THERM_CALIBRATE whose operands pass is BUSY while its engine runs one, and begins otherwise (R232). -/
theorem doThermCalibrate_eq {r : Req} (s : State) (hrsvd : rsvdBad r 0 0x1FF = false) (hmode : wbits (wordAt r.payload 0) 2 2 ≠ 3)
    (hmask : wordAt r.payload 1 ≠ 0) :
    doThermCalibrate r s =
      if (calOp s (feOf r)).isSome then Res.rep stBusy 0 [] s
      else Res.rep stPending 0 [] (s.addOp r (.thermCal (feOf r) (wordAt r.payload 0) (wordAt r.payload 1)) true) := by
  have hfields : ¬ (rsvdBad r 0 0x1FF || decide (wbits (wordAt r.payload 0) 2 2 = 3)) = true := by simp [hrsvd, hmode]
  rw [doThermCalibrate, if_neg hfields, if_neg hmask]

/-- The time limit of a calibration that runs ends it, 3 intervals and 1 s after it began (R232). -/
theorem execThermCalTimeout_runs {f : Fe} {o : Op} {s : State} (h : calOp s f = some o) :
    execThermCalTimeout f s =
      ok ((s.goTo (o.start + 3 * tInt (s.act 0x10 f.val) (s.act 0x30 f.val) + 10 ^ 12)).finish o stTimeout 0 []) := by
  rw [execThermCalTimeout, h]

/-- An abort that names an operation of its kind ends it (R63). -/
theorem abortOp_found {codes : List (BitVec 16)} {mine : OpKind → Bool} {undo : Op → State → State} {r : Req} {o : Op} {s : State}
    (hfind : s.findOp r.sess (wordAt r.payload 0) = some o) (hmine : mine o.kind = true) :
    abortOp codes mine undo r s = Res.ok [] (undo o (s.finish o stAborted 0 [])) := by
  simp [abortOp, hfind, hmine]

/-- Marking channels for reseeding touches the fused channels of one profiler. -/
theorem reseed_becomes (f : Fe) (cals : List (List Word)) (p : Nat → Bool) (s : State) :
    ∃ l, ProfilerBecomes f { s.therm[f] with fused := l } s (reseed f cals p s) :=
  ⟨_, profilerBecomes_updTherm f _ s⟩

theorem doThermReseed_eq {r : Req} (s : State) (h : (wordAt r.payload 0).toNat ≤ 3) :
    doThermReseed r s =
      Res.ok [] (reseed (feOf r) [s.act 0x31 (feOf r).val] (fun k => (wordAt r.payload 1).getLsbD k) s) := by
  rw [doThermReseed, if_neg (ne_true_of_eq_false (rsvdBad_eq_false (k := 2) 3 rfl (by omega)))]

/-- Settles O40: each clause is what the opcode's handler answers, or what the end of a calibration leaves. -/
theorem thermalOpcodes : Obligations.ThermalOpcodes := by
  unfold Obligations.ThermalOpcodes
  refine ⟨?status, ?begins, ?busy, ?timeout, ?abort, ?reseeds⟩
  case status =>
    intro r s hr hsel
    obtain ⟨ws, hlen, hintervals, hexcluded, hskipped, haux, hdropped, hans⟩ := doThermStatus_eq (taken r s) hsel
    exact ⟨ws, hlen, hintervals, hexcluded, hskipped, haux, hdropped, answers_of_ready rfl hr hans⟩
  case begins =>
    intro r s hr hrsvd hmode hmask hnone
    have hidle : calOp (taken r s) (feOf r) = none := hnone
    refine answers_of_ready (h := doThermCalibrate) rfl hr ?_
    rw [doThermCalibrate_eq _ hrsvd hmode hmask, hidle]
    rfl
  case busy =>
    intro r s hr hrsvd hmode hmask hsome
    refine answers_of_ready (h := doThermCalibrate) rfl hr ?_
    rw [doThermCalibrate_eq _ hrsvd hmode hmask]
    exact if_pos hsome
  case timeout =>
    intro f o s hruns
    refine ⟨_, execThermCalTimeout_runs hruns, finish_ops .., ?_, ?_⟩
    · rw [finish_time, State.goTo_clk]
    · exact frame_finish _ _ _ _ (by decide) (frame_withTime _ (by decide) (frame_refl _ s))
  case abort =>
    intro r o f a b s hr hfind hkind
    have hmine : isThermCal o.kind = true := by rw [hkind]; rfl
    refine ⟨_, answers_of_ready rfl hr (abortOp_found (s := taken r s) hfind hmine), finish_ops .., ?_⟩
    exact frame_finish _ _ _ _ (by decide) (frame_taken r s (by decide))
  case reseeds =>
    intro r s hr hsel
    obtain ⟨l, hbecomes⟩ :=
      reseed_becomes (feOf r) [(taken r s).act 0x31 (feOf r).val] (fun k => (wordAt r.payload 1).getLsbD k) (taken r s)
    refine ⟨_, answers_of_ready rfl hr (doThermReseed_eq (taken r s) hsel), fun g hg => hbecomes.others hg, ⟨l, hbecomes.same⟩, ?_⟩
    exact frame_updTherm _ _ (by decide) (frame_taken r s (by decide))

end Sys2Proof.Machine
end

section
/-! The Raman chain and fusion: frames of what a thermal record reaches, what each command makes of its engine's profiler, and the statement about
them. -/

namespace Sys2Proof.Machine

/-! ## ECC of a vat word -/

/-- A frame that lists the vats stays when their state is replaced. -/
theorem frame_withVat {l : List Part} {s t : State} (x : Vat) (hl : .vat ∈ l) (h : Frame l s t) : Frame l s { t with vat := x } := by
  intro p ha hp
  have hsame := h p ha hp
  cases p with
  | vat => exact absurd hl hp
  | _ => exact hsame

theorem frame_vatEcc {l : List Part} {s t : State} (m : Master) (a : Nat) (found : EccRead) (hl : [.vat, .cellar, .pcie, .out] ⊆ l)
    (h : Frame l s t) : Frame l s (vatEcc m a found t) := by
  have hvat : Part.vat ∈ l := hl (by decide)
  cases found with
  | clean => exact h
  | corrected => exact frame_withVat _ hvat (frame_withCellar _ (hl (by decide)) h)
  | uncorrectable =>
    refine frame_raise _ (hl (by decide)) (hl (by decide)) (frame_withVat _ hvat ?_)
    split
    · exact h
    · exact frame_withVat _ hvat h

@[simp] theorem vatEcc_therm (m : Master) (a : Nat) (found : EccRead) (s : State) : (vatEcc m a found s).therm = s.therm :=
  frame_vatEcc (l := [.vat, .cellar, .pcie, .out]) m a found (List.Subset.refl _) (frame_refl _ s) .therm (by decide) (by decide)

/-- An uncorrectable vat word raises vector 42 (R322). -/
theorem vatEcc_uncorrectable_irqSum (m : Master) (a : Nat) (s : State) :
    (vatEcc m a .uncorrectable s).pcie.irqSum.getLsbD vecFault.val = true := raise_irqSum_same _ vecFault

/-! ## Sub-intervals -/

/-- A clean fold of the finished buffer touches only its profiler, and leaves the fires that wait. -/
theorem foldSub_clean (f : Fe) (s : State) :
    ∃ x, ProfilerBecomes f x s (foldSub f .clean s) ∧ x.fires = s.therm[f].fires ∧ Frame [.therm] s (foldSub f .clean s) := by
  unfold foldSub
  split
  · exact ⟨s.therm[f], profilerBecomes_self f s, rfl, frame_refl _ s⟩
  · extract_lets ecc d1 s1
    rw [if_pos rfl]
    exact ⟨_, profilerBecomes_updTherm f _ s, rfl, frame_updTherm (l := [.therm]) f _ (by decide) (frame_refl _ s)⟩

/-- Folding a finished sub-interval empties its buffer, completes the interval it ends, and excludes its shots where its sums are lost (R225, R226). -/
theorem foldSub_becomes {f : Fe} {d : RamanSum} {last : Bool} {s : State} (e : EccRead) (h : s.therm[f].done = some (d, last)) :
    ∃ x, ProfilerBecomes f x s (foldSub f e s) ∧ x.done = none ∧
      x.excluded = (if e = .uncorrectable then addSat s.therm[f].excluded d.used else s.therm[f].excluded) ∧
      x.complete.length = s.therm[f].complete.length + (if last then 1 else 0) := by
  unfold foldSub
  split
  next hnone => exact absurd (h.symm.trans hnone) (Option.some_ne_none _)
  next d' last' hdone =>
    obtain ⟨rfl, rfl⟩ := Prod.mk.inj (Option.some.inj (h.symm.trans hdone))
    extract_lets ecc d1 s1
    have h1 : ProfilerBecomes f _ s s1 := profilerBecomes_updTherm f _ s
    refine ⟨_, h1.trans_eq ?_, rfl, rfl, ?_⟩
    · split
      · rfl
      · exact vatEcc_therm ..
    · cases last <;> simp

theorem foldSub_uncorrectable_irqSum {f : Fe} {x : RamanSum × Bool} {s : State} (h : s.therm[f].done = some x) :
    (foldSub f .uncorrectable s).pcie.irqSum.getLsbD vecFault.val = true := by
  unfold foldSub
  split
  next hnone => exact absurd (h.symm.trans hnone) (Option.some_ne_none _)
  next => exact vatEcc_uncorrectable_irqSum _ _ _

theorem frame_foldSub (f : Fe) (e : EccRead) (s : State) : Frame [.therm, .vat, .cellar, .free, .pcie, .out] s (foldSub f e s) := by
  unfold foldSub
  split
  · exact frame_refl _ s
  · extract_lets ecc d1 s1
    have h1 : Frame [.therm, .vat, .cellar, .free, .pcie, .out] s s1 := frame_updTherm f _ (by decide) (frame_refl _ s)
    split
    · exact h1
    · exact frame_vatEcc _ _ _ (by decide) (frame_withFree _ (by decide) h1)

/-! ## Shots -/

/-- The sum that the shot of a fire goes into: the running one, or a new one where the shot begins a sub-interval (R224). -/
def sumFor (a : Fire) (acc : Option RamanSum) : Option RamanSum :=
  if shotIndex a.probe a.ppn % thSub a.therm = 0 then some (newSum a) else acc

/-- The oldest fire is taken at the end of its window, and a shot lost inside the device is reported (R17, R224). -/
structure ShotRead (f : Fe) (x : RamanShot) (a : Fire) (l : List Fire) (s t : State) : Prop where
  becomes : ProfilerBecomes f { s.therm[f] with fires := l } s t
  clk : t.time.clk = max s.time.clk (a.t + (binZero a.recv a.therm + thNBin a.therm) * 8000)
  lost : (x.lost && shedLast s) = true → t.pcie.irqSum.getLsbD 42 = true
  frame : Frame [.time, .fe, .therm, .pcie, .out] s t

theorem shotRead_of_eq (f : Fe) (x : RamanShot) (a : Fire) (l : List Fire) (g : FeSt → FeSt) (s : State) {t : State}
    (ht : t = ((s.goTo (a.t + (binZero a.recv a.therm + thNBin a.therm) * 8000)).updTherm f fun y => { y with fires := l }).updFe f g) :
    ShotRead f x a l s (if (x.lost && shedLast s) = true then t.raise vecFault else t) := by
  have hbecomes : ProfilerBecomes f { s.therm[f] with fires := l } s t := by rw [ht]; rfl
  have hclk : t.time.clk = max s.time.clk (a.t + (binZero a.recv a.therm + thNBin a.therm) * 8000) := by rw [ht]; rfl
  have hframe : Frame [.time, .fe, .therm, .pcie, .out] s t := by
    rw [ht]
    exact frame_updFe _ _ (by decide) (frame_updTherm _ _ (by decide) (frame_withTime _ (by decide) (frame_refl _ s)))
  split
  next hlost =>
    exact ⟨hbecomes.trans_eq (State.raise_therm ..), by rw [State.raise_time, hclk], fun _ => raise_irqSum_same t vecFault,
      frame_raise _ (by decide) (by decide) hframe⟩
  next hkept => exact ⟨hbecomes, hclk, fun hlost => absurd hlost hkept, hframe⟩

/-- What RAMAN_SHOT_ACCUMULATE of the oldest fire leaves: one more shot, used or excluded, in the sum that it goes into and does not end. -/
structure ShotTaken (f : Fe) (x : RamanShot) (a : Fire) (l : List Fire) (s t : State) : Prop where
  fires : t.therm[f].fires = l
  clk : t.time.clk = max s.time.clk (a.t + (binZero a.recv a.therm + thNBin a.therm) * 8000)
  lost : (x.lost && shedLast s) = true → t.pcie.irqSum.getLsbD 42 = true
  counts : ∀ m : RamanSum, sumFor a s.therm[f].acc = some m → shotIndex a.probe a.ppn % thSub a.therm ≠ thSub a.therm - 1 →
    ∃ m', t.therm[f].acc = some m' ∧ m'.used + m'.excluded = m.used + m.excluded + 1
  others : ∀ g : Fe, g ≠ f → t.therm[g] = s.therm[g]
  frame : Frame [.time, .fe, .therm, .pcie, .out] s t

/-- What then touches only the profiler, and not its fires, leaves a shot taken where it counts the shot. -/
theorem ShotRead.taken {f : Fe} {x : RamanShot} {a : Fire} {l : List Fire} {y : ThermSt} {s t u : State} (hread : ShotRead f x a l s t)
    (hbecomes : ProfilerBecomes f y t u) (hfires : y.fires = t.therm[f].fires) (hframe : Frame [.therm] t u)
    (hcounts : ∀ m : RamanSum, sumFor a s.therm[f].acc = some m → shotIndex a.probe a.ppn % thSub a.therm ≠ thSub a.therm - 1 →
      ∃ m', y.acc = some m' ∧ m'.used + m'.excluded = m.used + m.excluded + 1) : ShotTaken f x a l s u := by
  have hchain : ProfilerBecomes f y s u := hread.becomes.trans hbecomes
  have htime : u.time = t.time := hframe .time (by decide) (by decide)
  have hpcie : u.pcie = t.pcie := hframe .pcie (by decide) (by decide)
  exact {
    fires := by rw [hchain.same, hfires, hread.becomes.same]
    clk := by rw [htime, hread.clk]
    lost := by rw [hpcie]; exact hread.lost
    counts := by rw [hchain.same]; exact hcounts
    others := fun g hg => hchain.others hg
    frame := frame_trans hread.frame (frame_mono (by decide) hframe) }

theorem execRamanShotAccumulate_cons {f : Fe} {a : Fire} {l : List Fire} {s : State} (x : RamanShot) (h : s.therm[f].fires = a :: l) :
    ∃ t, execRamanShotAccumulate f x s = ok t ∧ ShotTaken f x a l s t := by
  unfold execRamanShotAccumulate
  split
  next hnil => exact absurd (h.symm.trans hnil) (List.cons_ne_nil _ _)
  next b k hcons =>
  obtain ⟨rfl, rfl⟩ := List.cons.inj (h.symm.trans hcons)
  extract_lets p0 n done s0 q sub th rate swap pick y lo hi lost missing full clipped clips next s1 s2 acc ends whole s3
  have hread : ShotRead f x a l s s2 := shotRead_of_eq f x a l _ s rfl
  have hsum : sumFor a s.therm[f].acc = acc := by
    have hth : th = { s.therm[f] with fires := l } := (profilerBecomes_updTherm f _ (s.goTo done)).same
    show _ = if q % sub = 0 then some (newSum a) else th.acc
    rw [hth]
    rfl
  clear_value acc
  split
  next =>
    refine ⟨_, rfl, hread.taken (profilerBecomes_self f s2) rfl (frame_refl _ s2) fun m hm => ?_⟩
    exact absurd (hsum.symm.trans hm) (Option.some_ne_none m).symm
  next m =>
    extract_lets m1 m2 m3
    have hcount : m2.used + m2.excluded = m.used + m.excluded + 1 := by
      unfold m2
      split <;> simp only [m1] <;> omega
    by_cases hends : ends
    · have hs3 : s3 = foldSub f .clean s2 := if_pos hends
      obtain ⟨z, hfold, hfires, hframe⟩ := foldSub_clean f s2
      rw [← hs3] at hfold hframe
      exact ⟨_, rfl, hread.taken (hfold.updTherm _) hfires (frame_updTherm _ _ (by decide) hframe) fun _ _ hnot => absurd hends hnot⟩
    · have hs3 : s3 = s2 := if_neg hends
      rw [hs3]
      refine ⟨_, rfl, hread.taken (profilerBecomes_updTherm f _ s2) rfl (frame_updTherm _ _ (by decide) (frame_refl _ s2)) fun m' hm' _ => ?_⟩
      obtain rfl : m = m' := Option.some.inj (hsum.symm.trans hm')
      exact ⟨m2, if_neg hends, hcount⟩

end Sys2Proof.Machine
end

section
/-! Intervals, records and fusion: what a calibration's end, a thermal record and the taps touch, what each command makes of its engine's profiler,
and the statement about the chain from a Raman fire to the records. -/

namespace Sys2Proof.Machine

/-! ## Completed intervals -/

/-- A frame that lists the parameters stays when a shadow block is stored. -/
theorem frame_setShad {l : List Part} {s t : State} (b : BlockId) (v : List Word) (hl : .params ∈ l) (h : Frame l s t) :
    Frame l s (t.setShad b v) := by
  intro p ha hp
  have hsame := h p ha hp
  cases p with
  | params => exact absurd hl hp
  | _ => exact hsame

@[simp] theorem finish_params (o : Op) (st det : Nat) (ws : List Word) (s : State) : (s.finish o st det ws).params = s.params :=
  frame_finish (l := [.proto, .rings, .out]) o st det ws (List.Subset.refl _) (frame_refl _ s) .params (by decide) (by decide)

/-- The decision of a calibration leaves the active sets, and the parts that neither its answer nor the shadow sets touch. -/
structure ActiveKept (s t : State) : Prop where
  active : t.params.active = s.params.active
  frame : Frame [.params, .proto, .rings, .out] s t

theorem activeKept_finish {s t : State} (o : Op) (st det : Nat) (ws : List Word) (h : ActiveKept s t) : ActiveKept s (t.finish o st det ws) where
  active := by rw [finish_params, h.active]
  frame := frame_finish o st det ws (by decide) h.frame

/-- An interval that decides a calibration ends its operation, and stores what it solved in the shadow set only (R232). -/
theorem decideCal_activeKept (f : Fe) (m : RamanSum) (aux : List AuxSample) (s : State) : ActiveKept s (decideCal f m aux s) := by
  have hself : ActiveKept s s := ⟨rfl, frame_refl _ s⟩
  unfold decideCal
  split
  · exact hself
  · split
    · split
      · exact hself
      · split
        · exact activeKept_finish _ _ _ _ hself
        · split
          · exact activeKept_finish _ _ _ _ hself
          · split
            · exact activeKept_finish _ _ _ _ hself
            · exact activeKept_finish _ _ _ _ ⟨rfl, frame_setShad _ _ (by decide) (frame_refl _ s)⟩
    · exact hself

/-- An interval reaches the fused channels of its own profiler, and leaves the intervals that wait and their count (R236). -/
theorem fuseInterval_becomes (f : Fe) (m : RamanSum) (temps : List (Option Int)) (s : State) :
    ∃ x, ProfilerBecomes f x s (fuseInterval f m temps s) ∧ x.complete = s.therm[f].complete ∧ x.intervals = s.therm[f].intervals ∧
      Frame [.therm] s (fuseInterval f m temps s) := by
  unfold fuseInterval
  extract_lets therm now seeds
  split
  · exact ⟨s.therm[f], profilerBecomes_self f s, rfl, rfl, frame_refl _ s⟩
  · exact ⟨_, profilerBecomes_updTherm f _ s, rfl, rfl, frame_updTherm (l := [.therm]) f _ (by decide) (frame_refl _ s)⟩

theorem execIntervalComplete_cons {f : Fe} {m : RamanSum} {l : List RamanSum} {s : State} (h : s.therm[f].complete = m :: l) :
    ∃ t, execIntervalComplete f s = ok t ∧ t.therm[f].complete = l ∧ t.therm[f].intervals = addSat s.therm[f].intervals 1 ∧
      (∀ g : Fe, g ≠ f → t.therm[g] = s.therm[g]) ∧ t.params.active = s.params.active ∧ t.core = s.core ∧ t.fe = s.fe := by
  unfold execIntervalComplete
  split
  next hnil => exact absurd (h.symm.trans hnil) (List.cons_ne_nil _ _)
  next b k hcons =>
  obtain ⟨rfl, rfl⟩ := List.cons.inj (h.symm.trans hcons)
  split
  next seed s0 hseed =>
  obtain ⟨rfl, rfl⟩ := Prod.mk.inj hseed
  extract_lets temps therm aux fl pre mk recs s1
  have h1 : ProfilerBecomes f _ s s1 := profilerBecomes_updTherm f _ _
  have hkept : ActiveKept s1 (decideCal f m aux s1) := decideCal_activeKept f m aux s1
  have h2 := h1.trans_eq (hkept.frame .therm (by decide) (by decide))
  obtain ⟨x, hfused, hcomplete, hintervals, hframe⟩ := fuseInterval_becomes f m temps (decideCal f m aux s1)
  rw [h2.same] at hcomplete hintervals
  have h3 := h2.trans hfused
  have hparams := hframe .params (by decide) (by decide)
  have hcore := hframe .core (by decide) (by decide)
  have hfe := hframe .fe (by decide) (by decide)
  refine ⟨_, rfl, ?_, ?_, fun g hg => h3.others hg, ?_, ?_, ?_⟩
  · rw [h3.same, hcomplete]
  · rw [h3.same, hintervals]
  · exact (congrArg Params.active hparams).trans hkept.active
  · exact hcore.trans (hkept.frame .core (by decide) (by decide))
  · exact hfe.trans (hkept.frame .fe (by decide) (by decide))

/-! ## Thermal records -/

/-- A frame that lists the cores stays when a core is updated. -/
theorem frame_updCore {l : List Part} {s t : State} (n : CoreId) (g : Core → Core) (hl : .core ∈ l) (h : Frame l s t) :
    Frame l s (t.updCore n g) := by
  intro p ha hp
  have hsame := h p ha hp
  cases p with
  | core => exact absurd hl hp
  | _ => exact hsame

section
variable {l : List Part} {s t : State} (hl : .core ∈ l)
include hl

theorem frame_closeTap (n : CoreId) (k : Fin 2) (h : Frame l s t) : Frame l s (closeTap n k t) := by
  unfold closeTap
  extract_lets tap b room data trunc bytes
  split
  · exact h
  · exact frame_updCore _ _ hl h

theorem frame_tapRefresh (n : CoreId) (k : Fin 2) (h : Frame l s t) : Frame l s (tapRefresh n k t) := by
  unfold tapRefresh
  extract_lets tap
  split
  · exact frame_updCore _ _ hl (frame_closeTap hl n k h)
  · exact h

theorem frame_tapTake (n : CoreId) (k : Fin 2) (item : List Word → TapRow) (h : Frame l s t) : Frame l s (tapTake n k item t) := by
  unfold tapTake
  extract_lets tap atEnd s1 s2
  have h1 : Frame l s s1 := by
    unfold s1; split
    · exact frame_closeTap hl n k h
    · exact h
  have h2 : Frame l s s2 := by
    unfold s2; split
    · exact frame_updCore _ _ hl h1
    · exact h1
  exact frame_updCore _ _ hl h2

omit hl in
theorem frame_eachTap {g : CoreId → Fin 2 → State → State} (hg : ∀ n k u, Frame l s u → Frame l s (g n k u)) (h : Frame l s t) :
    Frame l s (eachTap g t) := by
  refine frame_foldl _ (fun u n hu => ?_) h
  split
  · exact frame_foldl _ (fun v k hv => hg n k v hv) hu
  · exact hu

/-- What takes a thermal record touches only the cores. -/
theorem frame_tapsRecord (f : Fe) (kind : Nat) (bytes : List Byte) (flags : BitVec 16) (ppn : BitVec 48) (time : BitVec 64) (h : Frame l s t) :
    Frame l s (tapsRecord f kind bytes flags ppn time t) := by
  refine frame_eachTap (fun n k u hu => ?_) h
  have hrefresh := frame_tapRefresh hl n k hu
  dsimp only
  split
  · exact frame_tapTake hl n k _ hrefresh
  · exact hrefresh

end

theorem frame_harvestRecord {l : List Part} {s t : State} (f : Fe) (kind : Nat) (bytes : List Byte) (flags : BitVec 16) (ppn : BitVec 48)
    (time : BitVec 64) (hl : .harv ∈ l) (h : Frame l s t) : Frame l s (harvestRecord f kind bytes flags ppn time t) := by
  refine frame_foldl _ (fun u n hu => ?_) h
  dsimp only
  split
  · exact frame_withHarv _ hl hu
  · exact hu

/-- A thermal record advances RSEQ of its kind, on its ring or dropped; the records that wait and the fused second stay (R240). -/
theorem writeThermal_becomes (f : Fe) (kind : Nat) (hdr : List Word) (payload : List Byte) (flags : BitVec 16) (ppn : BitVec 48)
    (time : BitVec 64) (s : State) :
    ∃ x, ProfilerBecomes f x s (writeThermal f kind hdr payload flags ppn time s) ∧
      x.rseq[kindIdx kind] = s.therm[f].rseq[kindIdx kind] + 1 ∧ x.recs = s.therm[f].recs ∧ x.second = s.therm[f].second ∧
      Frame [.therm, .rings, .harv, .core] s (writeThermal f kind hdr payload flags ppn time s) := by
  unfold writeThermal
  extract_lets k t fl bytes ring s1 s2 sel
  have h1 : ProfilerBecomes f _ s s1 := profilerBecomes_updTherm f _ s
  have hframe1 : Frame [.therm, .rings, .harv, .core] s s1 := frame_updTherm _ _ (by decide) (frame_refl _ s)
  have h2 : ∃ x, ProfilerBecomes f x s s2 ∧ x.rseq[kindIdx kind] = s.therm[f].rseq[kindIdx kind] + 1 ∧ x.recs = s.therm[f].recs ∧
      x.second = s.therm[f].second ∧ Frame [.therm, .rings, .harv, .core] s s2 := by
    unfold s2
    split
    · exact ⟨_, (h1.trans_eq (State.ringPush_therm ..)).updTherm _, by simp [k], rfl, rfl,
        frame_updTherm _ _ (by decide) (frame_updRing _ _ (by decide) hframe1)⟩
    · exact ⟨_, h1.updTherm _, by simp [k], rfl, rfl, frame_updTherm _ _ (by decide) hframe1⟩
  obtain ⟨x, hbecomes, hrseq, hrecs, hsecond, hframe⟩ := h2
  have htaken : Frame [.harv, .core] s2 (tapsRecord f sel bytes fl ppn time (harvestRecord f sel bytes fl ppn time s2)) :=
    frame_tapsRecord (by decide) _ _ _ _ _ _ (frame_harvestRecord _ _ _ _ _ _ (by decide) (frame_refl _ s2))
  exact ⟨x, hbecomes.trans_eq (htaken .therm (by decide) (by decide)), hrseq, hrecs, hsecond, frame_trans hframe (frame_mono (by decide) htaken)⟩

theorem execRamanRecord_cons {f : Fe} {k : Nat} {h : List Word} {b : List Byte} {fl : BitVec 16}
    {l : List (Nat × List Word × List Byte × BitVec 16)} {s : State} (hrecs : s.therm[f].recs = (k, h, b, fl) :: l) :
    ∃ t, execRamanRecord f s = ok t ∧ t.therm[f].recs = l ∧ t.therm[f].rseq[kindIdx k] = s.therm[f].rseq[kindIdx k] + 1 ∧
      (∀ g : Fe, g ≠ f → t.therm[g] = s.therm[g]) ∧ Frame [.therm, .rings, .harv, .core] s t := by
  unfold execRamanRecord
  split
  next hnil => exact absurd (hrecs.symm.trans hnil) (List.cons_ne_nil _ _)
  next k' h' b' fl' l' hcons =>
  obtain ⟨hhead, rfl⟩ := List.cons.inj (hrecs.symm.trans hcons)
  cases hhead
  extract_lets ppn
  have htaken := profilerBecomes_updTherm f (fun t => { t with recs := l }) s
  obtain ⟨x, hwritten, hrseq, hrest, -, hframe⟩ :=
    writeThermal_becomes f k h b fl ppn (word64 h 6) (s.updTherm f fun t => { t with recs := l })
  rw [htaken.same] at hrseq hrest
  have hchain := htaken.trans hwritten
  refine ⟨_, rfl, ?_, ?_, fun g hg => hchain.others hg, frame_trans (frame_updTherm _ _ (by decide) (frame_refl _ s)) hframe⟩
  · rw [hchain.same, hrest]
  · rw [hchain.same, hrseq]

/-! ## Fusion -/

theorem execFusionEpoch_cons {f : Fe} {e : Epoch} {l : List Epoch} {s : State} (h : s.therm[f].epochs = e :: l) :
    ∃ t, execFusionEpoch f s = ok t ∧ t.therm[f].epochs = l ∧ (∀ g : Fe, g ≠ f → t.therm[g] = s.therm[g]) ∧ Frame [.therm, .free] s t := by
  unfold execFusionEpoch
  split
  next hnil => exact absurd (h.symm.trans hnil) (List.cons_ne_nil _ _)
  next b k hcons =>
  obtain ⟨rfl, rfl⟩ := List.cons.inj (h.symm.trans hcons)
  extract_lets therm end_ begin_ m s0 coil cmEn dCoil g ktg cm beta chans edge skipped
  have h0 : ProfilerBecomes f _ s s0 := profilerBecomes_updTherm f _ s
  have hframe : Frame [.therm, .free] s s0 := frame_updTherm _ _ (by decide) (frame_refl _ s)
  split
  · exact ⟨_, rfl, by rw [h0.same], fun g hg => h0.others hg, hframe⟩
  · exact ⟨_, rfl, congrArg ThermSt.epochs (h0.updTherm _).same, fun g hg => (h0.updTherm _).others hg, frame_updTherm _ _ (by decide) hframe⟩

theorem execFusedRecord_enabled {f : Fe} {s : State} (hthermal : thEn (s.act 0x30 f.val) = true) (hfused : bfb (s.act 0x30 f.val) 0 3 = true) :
    ∃ t, execFusedRecord f s = ok t ∧ t.therm[f].second = s.therm[f].second + 1 ∧ t.therm[f].rseq[1] = s.therm[f].rseq[1] + 1 ∧
      (∀ g : Fe, g ≠ f → t.therm[g] = s.therm[g]) ∧ Frame [.time, .therm, .rings, .harv, .core] s t := by
  unfold execFusedRecord
  extract_lets therm sec1 s0 t e tau settling fl pre body time hdr
  have henabled : ¬ (!(thEn therm && bfb therm 0 3)) = true := by simp [therm, hthermal, hfused]
  rw [if_neg henabled]
  have htaken : ProfilerBecomes f _ s (s0.updTherm f fun x => { x with second := sec1 }) := profilerBecomes_updTherm f _ s0
  obtain ⟨x, hwritten, hrseq, -, hsecond, hframe⟩ :=
    writeThermal_becomes f 0x11 hdr body fl e.ppn time (s0.updTherm f fun x => { x with second := sec1 })
  rw [htaken.same] at hrseq hsecond
  have hchain := htaken.trans hwritten
  refine ⟨_, rfl, ?_, ?_, fun g hg => hchain.others hg, frame_trans ?_ (frame_mono (by decide) hframe)⟩
  · rw [hchain.same, hsecond]
  · rw [hchain.same]; exact hrseq
  · exact frame_updTherm _ _ (by decide) (frame_withTime _ (by decide) (frame_refl _ s))

/-- Settles O39: each clause is what the command leaves, by the lemma about it. -/
theorem thermalChain : Obligations.ThermalChain := by
  unfold Obligations.ThermalChain
  refine ⟨⟨?shot, ?fold, ?interval, ?record⟩, ?epoch, ?second⟩
  case shot =>
    intro f x a l s hfires
    obtain ⟨t, hexec, htaken⟩ := execRamanShotAccumulate_cons x hfires
    exact ⟨t, hexec, htaken.fires, htaken.clk, htaken.lost, htaken.counts, htaken.others, htaken.frame⟩
  case fold =>
    intro f d last e s hdone
    obtain ⟨x, hbecomes, hempty, hexcluded, hcomplete⟩ := foldSub_becomes e hdone
    refine ⟨_, rfl, ?_, ?_, ?_, ?_, fun g hg => hbecomes.others hg, frame_foldSub f e s⟩
    · rw [hbecomes.same, hempty]
    · rw [hbecomes.same, hexcluded]
    · rw [hbecomes.same, hcomplete]
    · rintro rfl
      exact foldSub_uncorrectable_irqSum hdone
  case interval => exact fun f m l s hcomplete => execIntervalComplete_cons hcomplete
  case record => exact fun f k h b fl l s hrecs => execRamanRecord_cons hrecs
  case epoch => exact fun f e l s hepochs => execFusionEpoch_cons hepochs
  case second => exact fun f s hthermal hfused => execFusedRecord_enabled hthermal hfused

end Sys2Proof.Machine
end

section
/-! Capture units: what an update of one unit does, the events that reach their sequencers, and the statement about pins and the operation limit. -/

namespace Sys2Proof.Machine

/-! ## Updates of one unit -/

@[simp] theorem updHarv_harv_val (s : State) (u : Fin 4) (g : HarvSt → HarvSt) : (s.updHarv u g).harv[u.val] = g s.harv[u.val] := by
  simp [State.updHarv]

theorem updHarv_harv_same (s : State) (u : Fin 4) (g : HarvSt → HarvSt) : (s.updHarv u g).harv[u] = g s.harv[u] := updHarv_harv_val s u g

theorem updHarv_harv_ne {u v : Fin 4} (h : v ≠ u) (s : State) (g : HarvSt → HarvSt) : (s.updHarv u g).harv[v] = s.harv[v] := by
  simp [State.updHarv, Vector.getElem_set_ne, Fin.val_ne_of_ne h.symm]

theorem updHarv_updHarv (s : State) (u : Fin 4) (f g : HarvSt → HarvSt) : (s.updHarv u f).updHarv u g = s.updHarv u fun h => g (f h) := by
  simp [State.updHarv, Vector.set_set]

/-- An update of a unit is what it makes of that unit as it is. -/
theorem updHarv_congr {s : State} {u : Fin 4} {f g : HarvSt → HarvSt} (h : f s.harv[u] = g s.harv[u]) : s.updHarv u f = s.updHarv u g := by
  rw [State.updHarv, h, State.updHarv]

theorem updHarv_self {s : State} {u : Fin 4} {g : HarvSt → HarvSt} (h : g s.harv[u] = s.harv[u]) : s.updHarv u g = s := by
  have hset : s.harv.set u s.harv[u] = s.harv := Vector.set_getElem_self _
  rw [State.updHarv, h, hset]

/-! ## Pins -/

/-- An event reaches the sequencers of the armed and the triggered units, from their arming instant on (R253). -/
theorem seqEvent_harv (ev : SeqEvent) (s : State) (u : Fin 4) :
    (s.seqEvent ev).harv[u] = if (s.harv[u].st = .armed ∨ s.harv[u].st = .post) ∧ s.harv[u].armClk ≤ ev.clk then
      { s.harv[u] with inbox := s.harv[u].inbox ++ [ev] } else s.harv[u] := by
  simp [State.seqEvent, HarvSt.hear]

/-- A TRIG_IN edge while no TRIG_IN pin wakes the device is an event for the sequencers, of its instant (R252). -/
theorem execTrigInEdge_noWake {p : Fin 4} {s : State} (falling : Bool) (w : Nat) (hpower : s.power.state.val < 4)
    (hwake : bf (s.act 0xC0 0) 8 16 4 = 0) : execTrigInEdge p falling w s = ok (trigInEvent p falling (s.goTo w)) := by
  rw [execTrigInEdge, if_neg (Nat.not_le.2 hpower)]
  simp [hwake]

/-- A GPIO edge while its pin wakes the device and entry into a low state runs is recorded (R437). -/
theorem execGpioEdge_entering {p : Fin 16} {st : Fin 6} {s : State} (hpin : (bf (s.act 0xC0 0) 8 0 16).testBit p.val = true)
    (hentering : s.power.entering = some st) :
    execGpioEdge p s = ok { s with free := s.free + 1, power := { s.power with wakeSeen := s.power.wakeSeen ||| 0x04 } } := by
  have hany : bf (s.act 0xC0 0) 8 0 16 ≠ 0 := fun hzero => by simp [hzero] at hpin
  have henabled : wakeEnabled { s with free := s.free + 1 } st 2 = true := decide_eq_true hany
  simp only [execGpioEdge, hpin, if_true, wakeBy, hentering, henabled]
  rfl

/-! ## The limit of an operation -/

/-- A FW_WRITE meets the limit of R67 one second after it began, and leaves nothing to undo. -/
theorem execOperationTimeLimit_fwWrite {o : Op} {off : Nat} {dat : List Word} {s : State} (hfind : s.findOp o.sess o.seq = some o)
    (hkind : o.kind = .fwWrite off dat) (hrun : cpRuns s = true) :
    execOperationTimeLimit o.sess o.seq s = ok ((s.goTo (o.start + 10 ^ 12)).finish o stTimeout 0 []) := by
  simp only [execOperationTimeLimit, hfind, hkind, hasLimit, hrun, undoTimed, Bool.not_true, Bool.or_self, Bool.false_eq_true, if_false]

/-- Settles O26: an edge is an event for the sequencers alone, a wake source is recorded during entry, and a FW_WRITE ends at its limit. -/
theorem pinsAndLimits : Obligations.PinsAndLimits := by
  unfold Obligations.PinsAndLimits
  refine ⟨?trigIn, ?gpio, ?gpioWakes, ?limit⟩
  case trigIn =>
    intro p falling w s hpower hwake
    refine ⟨_, execTrigInEdge_noWake falling w hpower hwake, rfl, ?_, fun u => seqEvent_harv _ (s.goTo w) u⟩
    exact frame_withHarv _ (by decide) (frame_withTime _ (by decide) (frame_refl _ s))
  case gpio =>
    intro p s hpin
    exact congrArg ok (if_neg (ne_true_of_eq_false hpin))
  case gpioWakes => exact fun p st s hpin hentering => execGpioEdge_entering hpin hentering
  case limit =>
    intro o off dat s hfind hkind hrun
    refine ⟨_, execOperationTimeLimit_fwWrite hfind hkind hrun, finish_ops .., ?_, ?_⟩
    · rw [finish_time, State.goTo_clk]
    · exact frame_finish _ _ _ _ (by decide) (frame_withTime _ (by decide) (frame_refl _ s))

end Sys2Proof.Machine
end

section
/-! The sequencer of a capture unit and its elements: what a trigger, an end without a capture, an event, a timer, an element and a sample of the
level detector do to their unit, and the statement about a unit at work. -/

namespace Sys2Proof.Machine

/-! ## Frames -/

theorem frame_updHarv {l : List Part} {s t : State} (u : Fin 4) (g : HarvSt → HarvSt) (hl : .harv ∈ l) (h : Frame l s t) :
    Frame l s (t.updHarv u g) := frame_withHarv _ hl h

/-- A frame that lists the power manager stays when a budget is held. -/
theorem frame_setGrant {l : List Part} {s t : State} (g : Grant) (mw : Nat) (hl : .power ∈ l) (h : Frame l s t) :
    Frame l s (t.setGrant g mw) := by
  intro p ha hp
  have hsame := h p ha hp
  cases p with
  | power => exact absurd hl hp
  | activity => exact absurd rfl ha
  | _ => exact hsame

theorem frame_release {l : List Part} {s t : State} (g : Grant) (hl : .power ∈ l) (h : Frame l s t) : Frame l s (t.release g) :=
  frame_setGrant g 0 hl h

@[simp] theorem release_harv (s : State) (g : Grant) : (s.release g).harv = s.harv := rfl

section
variable {l : List Part} {s t : State} (hl : .cellar ∈ l)
include hl

theorem frame_celMix (v : Nat) (data : List (Option Byte)) (h : Frame l s t) : Frame l s (celMix t v data) := by
  induction data generalizing v t with
  | nil => exact h
  | cons b data ih => cases b with
    | none => exact ih (v + 1) h
    | some b => exact ih (v + 1) (frame_withCellar _ hl h)

theorem frame_celWordWrite (v : Nat) (data : List (Option Byte)) (h : Frame l s t) : Frame l s (celWordWrite v data t) := by
  unfold celWordWrite
  split
  · exact h
  · split
    · split
      · exact frame_withCellar _ hl (frame_celMix hl v data (frame_withCellar _ hl h))
      · exact frame_withCellar _ hl h
    · exact frame_withCellar _ hl (frame_celMix hl v data h)

theorem frame_celWrite (n v : Nat) (data : List (Option Byte)) (h : Frame l s t) : Frame l s (celWrite n v data t) := by
  induction n generalizing v data t with
  | zero => exact h
  | succ n ih =>
    unfold celWrite
    split
    · exact h
    · exact ih _ _ (frame_celWordWrite hl v _ h)

theorem frame_celStore (v : Nat) (data : List (Option Byte)) (h : Frame l s t) : Frame l s (t.celStore v data) :=
  frame_celWrite hl _ v data h

end

/-! ## The end of a capture without one, and the trigger -/

/-- A unit has ended with nothing held and its reservation released (R258, R259). -/
structure UnitDropped (u : Fin 4) (s t : State) : Prop where
  idle : t.harv[u].st = .idle
  empty : t.harv[u].elems = []
  rate : t.harv[u].rate = 0
  vector : t.pcie.irqSum.getLsbD 37 = true
  others : ∀ v : Fin 4, v ≠ u → t.harv[v] = s.harv[v]
  time : t.time = s.time
  frame : Frame [.harv, .power, .pcie, .out] s t

theorem localPoint_noCommits {s : State} (h : s.commits = []) (ids : List BlockId) : s.localPoint ids = s := by
  rw [State.localPoint, h]
  rfl

theorem armOp_noOps {s : State} (h : s.proto.ops = []) (u : Fin 4) : armOp s u = none := by
  rw [armOp, State.opWhere, h, List.find?_nil]

/-- Where no operation waits for the end of a unit's capture and no commit for its idle instant, the end reports to nobody. -/
theorem endArm_alone {s : State} (hcommits : s.commits = []) (hops : s.proto.ops = []) (u : Fin 4) (st det : Nat) (ws : List Word) :
    endArm u st det ws s = (s.updHarv u fun h =>
      { h with rate := 0, inbox := [], inputs := [], avg := none, ending := false, gap := false }).release (.capture u) := by
  simp only [endArm, armOp_noOps hops]
  rw [localPoint_noCommits]
  exact hcommits

theorem dropCapture_alone {s : State} (hcommits : s.commits = []) (hops : s.proto.ops = []) (u : Fin 4) (st det : Nat) :
    UnitDropped u s (dropCapture u st det s) := by
  rw [dropCapture, endArm_alone (by simpa using hcommits) (by simpa using hops)]
  have hraised := raise_irqSum_same (s.updHarv u fun h => { h with st := .idle, elems := [], trig := none, trigAt := none, written := 0 }) vecHarvest
  exact {
    idle := by simp
    empty := by simp
    rate := by simp
    vector := hraised
    others := fun v hv => by rw [release_harv, updHarv_harv_ne hv, State.raise_harv, updHarv_harv_ne hv]
    time := State.raise_time _ _
    frame := frame_release _ (by decide) (frame_updHarv _ _ (by decide)
      (frame_raise _ (by decide) (by decide) (frame_updHarv _ _ (by decide) (frame_refl _ s)))) }

/-- A unit has triggered (R256). -/
structure UnitTriggered (u : Fin 4) (x : Trig) (s t : State) : Prop where
  post : t.harv[u].st = .post
  trig : t.harv[u].trig = some x
  vector : t.pcie.irqSum.getLsbD 37 = true
  others : ∀ v : Fin 4, v ≠ u → t.harv[v] = s.harv[v]
  frame : Frame [.harv, .pcie, .out] s t

theorem findTrig_noTrig {u : Fin 4} {s : State} (h : s.harv[u].trig = none) : findTrig u s = s := by
  refine updHarv_self ?_
  rw [h]

theorem findTrig_noElems {u : Fin 4} {s : State} (helems : s.harv[u].elems = []) (htrigAt : s.harv[u].trigAt = none) :
    findTrig u s = s := by
  refine updHarv_self ?_
  simp only [helems, htrigAt]
  cases s.harv[u].trig <;> rfl

theorem checkDone_armed {u : Fin 4} {s : State} (h : s.harv[u].st = .armed) : checkDone u s = s := by
  simp only [checkDone, h]

theorem checkDone_noTrigAt {u : Fin 4} {s : State} (h : s.harv[u].trigAt = none) : checkDone u s = s := by
  simp only [checkDone, h]
  cases s.harv[u].st <;> rfl

/-- A trigger before any element waits for its trigger element. -/
theorem triggerUnit_noElems {u : Fin 4} {s : State} (x : Trig) (helems : s.harv[u].elems = []) (htrigAt : s.harv[u].trigAt = none) :
    UnitTriggered u x s (triggerUnit u x s) := by
  have hraised := raise_irqSum_same (s.updHarv u fun h => { h with st := .post, trig := some x }) vecHarvest
  rw [triggerUnit, findTrig_noElems (by simpa using helems) (by simpa using htrigAt), checkDone_noTrigAt (by simpa using htrigAt)]
  exact {
    post := by simp
    trig := by simp
    vector := hraised
    others := fun v hv => by rw [State.raise_harv, updHarv_harv_ne hv]
    frame := frame_raise _ (by decide) (by decide) (frame_updHarv _ _ (by decide) (frame_refl _ s)) }

/-! ## Events and timers -/

theorem armedTimer_armed {u : Fin 4} {s : State} (h : s.harv[u].st = .armed) : armedTimer s u = timerAt s u := if_pos h

theorem armedTimer_not_armed {u : Fin 4} {s : State} (h : s.harv[u].st ≠ .armed) : armedTimer s u = none := if_neg h

/-- An event that no expiry comes before is taken (R254). -/
theorem execHarvestSeqEvent_takes {u : Fin 4} {e : SeqEvent} {s : State} (hnext : nextEvent s.harv[u].inbox = some e)
    (hfirst : ∀ k, armedTimer s u = some k → seqSlot e.clk ≤ seqSlot k) : execHarvestSeqEvent u s = ok (takeEvent u e s) := by
  cases htimer : armedTimer s u with
  | none => simp only [execHarvestSeqEvent, hnext, htimer]
  | some k => simp only [execHarvestSeqEvent, hnext, htimer, if_neg (Nat.not_lt.2 (hfirst k htimer))]

/-- A timer that expires before any event expires (R253). -/
theorem execHarvestSeqTimer_expires {u : Fin 4} {k : Nat} {s : State} (htimer : armedTimer s u = some k)
    (hfirst : ∀ e, nextEvent s.harv[u].inbox = some e → seqSlot k < seqSlot e.clk) : execHarvestSeqTimer u s = ok (takeTimer u k s) := by
  cases hnext : nextEvent s.harv[u].inbox with
  | none => simp only [execHarvestSeqTimer, hnext, htimer]
  | some e => simp only [execHarvestSeqTimer, hnext, htimer, if_neg (Nat.not_le.2 (hfirst e hnext))]

theorem execHarvestSeqTimer_none {u : Fin 4} {s : State} (htimer : armedTimer s u = none) : execHarvestSeqTimer u s = ok s := by
  simp only [execHarvestSeqTimer, htimer]

/-- The sequencer goes on to one of its eight states. -/
theorem seqGoto_state {n : Nat} (h : n < 8) (u : Fin 4) (t : Trig) (clk : Nat) (s : State) :
    seqGoto u n t clk s = s.updHarv u fun x => { x with seq := n, cnt := 0, entered := clk, mark := shotInstants s (hvFe x.set) clk } := by
  rw [seqGoto, if_neg (by omega), if_neg (by omega)]

theorem takeTimer_state {u : Fin 4} {s : State} (h : hvTmo s.harv[u].set s.harv[u].seq < 8) (k : Nat) :
    takeTimer u k s = (s.goTo k).updHarv u fun x => { x with
      seq := hvTmo s.harv[u].set s.harv[u].seq, cnt := 0, entered := k, mark := shotInstants (s.goTo k) (hvFe x.set) k } :=
  seqGoto_state h u _ k (s.goTo k)

/-- What an armed unit makes of an event: it counts where the present state watches it and was entered by then (R253). -/
theorem takeEvent_armed {u : Fin 4} {s : State} (e : SeqEvent) (h : s.harv[u].st = .armed) :
    takeEvent u e s =
      if watches s.harv[u].set s.harv[u].seq e = false ∨ e.clk < s.harv[u].entered then
        s.updHarv u fun x => { x with inbox := x.inbox.erase e }
      else if s.harv[u].cnt + 1 < hvNeed s.harv[u].set s.harv[u].seq then
        s.updHarv u fun x => { x with inbox := x.inbox.erase e, cnt := x.cnt + 1 }
      else seqGoto u (hvHit s.harv[u].set s.harv[u].seq)
        ⟨e.time, e.sub, hvKind s.harv[u].set s.harv[u].seq, s.harv[u].seq, e.frac⟩ e.clk
        (s.updHarv u fun x => { x with inbox := x.inbox.erase e }) := by
  simp only [takeEvent, h, decide_true, Bool.true_and, reduceCtorEq, if_false]
  have hcounts : ¬ (watches s.harv[u].set s.harv[u].seq e = false ∨ e.clk < s.harv[u].entered) ↔
      (watches s.harv[u].set s.harv[u].seq e && decide (s.harv[u].entered ≤ e.clk)) = true := by
    simp only [not_or, Bool.not_eq_false, Nat.not_lt, Bool.and_eq_true, decide_eq_true_eq]
  by_cases hskips : watches s.harv[u].set s.harv[u].seq e = false ∨ e.clk < s.harv[u].entered
  · rw [if_pos hskips, if_neg (mt hcounts.2 (not_not_intro hskips))]
  · rw [if_neg hskips, if_pos (hcounts.1 hskips)]
    by_cases hmore : s.harv[u].cnt + 1 < hvNeed s.harv[u].set s.harv[u].seq
    · rw [if_pos hmore, if_neg (Nat.not_le.2 hmore), updHarv_updHarv]
    · rw [if_neg hmore, if_pos (Nat.not_lt.1 hmore)]

/-- After the trigger an event is only counted (R256). -/
theorem takeEvent_post {u : Fin 4} {s : State} (e : SeqEvent) (h : s.harv[u].st = .post) :
    takeEvent u e s = s.updHarv u fun x => { x with
      inbox := x.inbox.erase e, ignored := addSat x.ignored 1, ignoredCap := addSat x.ignoredCap 1 } := by
  simp only [takeEvent, h, if_true, updHarv_updHarv]

/-- An armed unit with an arming timeout ends at it (R256). -/
theorem execHarvestArmTimeout_armed {u : Fin 4} {s : State} (hst : s.harv[u].st = .armed) (htimeout : hvTimeout s.harv[u].set ≠ 0) :
    execHarvestArmTimeout u s = ok (dropCapture u stTimeout 0 (s.goTo (s.harv[u].armClk + hvTimeout s.harv[u].set * 10 ^ 9))) := by
  simp only [execHarvestArmTimeout, hst, htimeout, ne_eq, not_true_eq_false, decide_false, Bool.or_self, Bool.false_eq_true, if_false]

/-! ## Elements -/

/-- An armed unit has stored one more element in its ring (R250). -/
structure ElementStored (u : Fin 4) (m : ElemMeta) (s t : State) : Prop where
  written : t.harv[u].written = s.harv[u].written + 1
  armed : t.harv[u].st = .armed
  last : t.harv[u].elems.getLast? = some m
  inputs : t.harv[u].inputs = s.harv[u].inputs
  others : ∀ v : Fin 4, v ≠ u → t.harv[v] = s.harv[v]
  frame : Frame [.harv, .cellar] s t

/-- The newest element stays when the ring drops its oldest. -/
theorem getLast?_ring {α : Type} (l : List α) (m : α) (cap : Nat) :
    ((l ++ [m]).drop (l.length + 1 - max 1 cap)).getLast? = some m := by
  rw [List.drop_append_of_le_length (by omega), List.getLast?_append]
  rfl

theorem storeElem_armed {u : Fin 4} {s : State} (comps : List Int) (m : ElemMeta) (hst : s.harv[u].st = .armed)
    (htrig : s.harv[u].trig = none) : ElementStored u m s (storeElem u comps m s) := by
  unfold storeElem
  extract_lets h bytes data s1 s2
  have hcel : Frame [.cellar] s s1 := frame_celStore (by decide) _ _ (frame_refl _ s)
  have hharv : s1.harv = s.harv := hcel .harv (by decide) (by decide)
  have h2 : s2.harv[u] = { s.harv[u] with
      written := s.harv[u].written + 1
      elems := (s.harv[u].elems ++ [m]).drop ((s.harv[u].elems.length + 1) - max 1 s.harv[u].cap) } := by
    rw [updHarv_harv_same, hharv]
  rw [findTrig_noTrig (by rw [h2]; exact htrig), checkDone_armed (by rw [h2]; exact hst)]
  exact {
    written := by rw [h2]
    armed := by rw [h2]; exact hst
    last := by rw [h2]; exact getLast?_ring _ m _
    inputs := by rw [h2]
    others := fun v hv => by rw [updHarv_harv_ne hv, hharv]
    frame := frame_updHarv _ _ (by decide) (frame_mono (by decide) hcel) }

/-- Without averaging an input is an element (R248). -/
theorem takeInput_noAvg {u : Fin 4} {s : State} (i : HarvestInput) (havg : hvAvg s.harv[u].set = 0) (hst : s.harv[u].st = .armed)
    (htrig : s.harv[u].trig = none) : ElementStored u ⟨i.time, i.flags, i.ppn, i.group, i.time⟩ s (takeInput u i s) := by
  unfold takeInput
  extract_lets h k comps
  have hk : k = 0 := havg
  rw [if_pos hk]
  exact storeElem_armed comps _ hst htrig

theorem endsNow_armed {u : Fin 4} {s : State} (h : s.harv[u].st = .armed) : endsNow u s = s := by
  simp only [endsNow, h, reduceCtorEq, decide_false, Bool.false_and, Bool.false_eq_true, if_false]

/-- A raw sample is written at its instant. -/
theorem execHarvestElementWrite_raw {u : Fin 4} {x : RawSample} {s : State} (hst : s.harv[u].st = .armed) (hsrc : hvSrc s.harv[u].set ≤ 1)
    (havg : hvAvg s.harv[u].set = 0) (htrig : s.harv[u].trig = none) :
    ∃ (b : Bool → Bool) (m : ElemMeta) (t : State), execHarvestElementWrite u x s = ok t ∧
      ElementStored u m ((s.goTo x.t).updHarv u fun y => { y with gap := b y.gap }) t := by
  refine ⟨(· && (rawInput u x (s.goTo x.t)).flags.getLsbD flInvalid), _, _, ?_, takeInput_noAvg (rawInput u x (s.goTo x.t)) ?_ ?_ ?_⟩
  · simp only [execHarvestElementWrite, hst, hsrc]
    rfl
  · simpa using havg
  · simpa using hst
  · simpa using htrig

/-- Of the inputs of a row source the oldest is written. -/
theorem execHarvestElementWrite_row {u : Fin 4} {i : HarvestInput} {l : List HarvestInput} {s : State} (x : RawSample)
    (hst : s.harv[u].st = .armed) (hsrc : 2 ≤ hvSrc s.harv[u].set) (havg : hvAvg s.harv[u].set = 0) (htrig : s.harv[u].trig = none)
    (hinputs : s.harv[u].inputs = i :: l) :
    ∃ t, execHarvestElementWrite u x s = ok t ∧
      ElementStored u ⟨i.time, i.flags, i.ppn, i.group, i.time⟩ (s.updHarv u fun y => { y with inputs := l }) t := by
  have hstored := takeInput_noAvg (u := u) (s := s.updHarv u fun y => { y with inputs := l }) i (by simpa using havg) (by simpa using hst)
    (by simpa using htrig)
  refine ⟨_, ?_, hstored⟩
  have hrow : ¬ hvSrc s.harv[u].set ≤ 1 := by omega
  simp only [execHarvestElementWrite, hst, hrow, hinputs, endsNow_armed hstored.armed]
  rfl

/-! ## The level detector -/

/-- The first sample is held, and arms the detector outside its hysteresis (R255). -/
theorem levelSample_first {u : Fin 4} {s : State} (x : Int) (w clk : Nat) (hst : s.harv[u].st = .armed) (hlast : s.harv[u].last = none) :
    levelSample u x w false clk s = s.updHarv u fun y => { y with
      upArmed := s.harv[u].upArmed || decide (x < hvLvlTh s.harv[u].set - hvLvlHyst s.harv[u].set)
      downArmed := s.harv[u].downArmed || decide (hvLvlTh s.harv[u].set + hvLvlHyst s.harv[u].set < x)
      last := some (x, w) } := by
  simp only [levelSample, hst, hlast]
  rfl

theorem execRawStreamLevelCrossing_raw {u : Fin 4} {s : State} (x : Int) (w : Nat) (invalid : Bool) (hlow : 2 ≤ hvLvlKind s.harv[u].set)
    (hhigh : hvLvlKind s.harv[u].set ≤ 5) :
    execRawStreamLevelCrossing u x w invalid s = ok (levelSample u x w invalid (max w s.time.clk) (s.goTo w)) := by
  simp only [execRawStreamLevelCrossing, hlow, hhigh, decide_true, Bool.and_self, if_true]

/-- Settles O42: each clause is what the event, the timer, the element or the sample does to its unit. -/
theorem harvestRuns : Obligations.HarvestRuns := by
  unfold Obligations.HarvestRuns
  refine ⟨?raw, ?row, ?event, ?trigger, ?ignored, ?timer, ?timerAt, ?noTimer, ?timeout, ?level⟩
  case raw =>
    intro u x s hst hsrc havg htrig
    obtain ⟨b, m, t, hexec, hstored⟩ := execHarvestElementWrite_raw (x := x) hst hsrc havg htrig
    have hbefore : Frame [.time, .harv, .cellar] s ((s.goTo x.t).updHarv u fun y => { y with gap := b y.gap }) :=
      frame_updHarv _ _ (by decide) (frame_withTime _ (by decide) (frame_refl _ s))
    refine ⟨t, hexec, ?_, hstored.armed, ?_, fun v hv => ?_, frame_trans hbefore (frame_mono (by decide) hstored.frame)⟩
    · rw [hstored.written, updHarv_harv_same, State.goTo_harv]
    · rw [hstored.frame .time (by decide) (by decide), State.updHarv_time, State.goTo_clk]
    · rw [hstored.others v hv, updHarv_harv_ne hv, State.goTo_harv]
  case row =>
    intro u x i l s hst hsrc havg htrig hinputs
    obtain ⟨t, hexec, hstored⟩ := execHarvestElementWrite_row x hst hsrc havg htrig hinputs
    have hbefore : Frame [.harv, .cellar] s (s.updHarv u fun y => { y with inputs := l }) := frame_updHarv _ _ (by decide) (frame_refl _ s)
    refine ⟨t, hexec, ?_, hstored.armed, ?_, ?_, fun v hv => ?_, frame_trans hbefore hstored.frame⟩
    · rw [hstored.written, updHarv_harv_same]
    · rw [hstored.inputs, updHarv_harv_same]
    · rw [hstored.last, Option.map_some]
    · rw [hstored.others v hv, updHarv_harv_ne hv]
  case event =>
    intro u e s hnext hst hfirst hhit
    refine (execHarvestSeqEvent_takes hnext (by rwa [armedTimer_armed hst])).trans (congrArg ok ?_)
    rw [takeEvent_armed e hst]
    split
    next hskips => exact updHarv_congr rfl
    next hwatched =>
      split
      next hmore => exact updHarv_congr rfl
      next hdone =>
        obtain ⟨hwatches, -⟩ := not_or.1 hwatched
        rw [seqGoto_state (hhit (eq_true_of_ne_false hwatches)), updHarv_updHarv]
        exact updHarv_congr rfl
  case trigger =>
    intro u e s hnext hst hfirst hwatches hentered hcount hhit helems htrigAt
    have hwatched : ¬ (watches s.harv[u].set s.harv[u].seq e = false ∨ e.clk < s.harv[u].entered) :=
      not_or.2 ⟨by rw [hwatches]; decide, Nat.not_lt.2 hentered⟩
    have hexec := execHarvestSeqEvent_takes hnext (by rwa [armedTimer_armed hst])
    rw [takeEvent_armed e hst, if_neg hwatched, if_neg (Nat.not_lt.2 hcount), hhit] at hexec
    have htriggered := triggerUnit_noElems (u := u) (s := s.updHarv u fun x => { x with inbox := x.inbox.erase e })
      ⟨e.time, e.sub, hvKind s.harv[u].set s.harv[u].seq, s.harv[u].seq, e.frac⟩ (by simpa using helems) (by simpa using htrigAt)
    refine ⟨_, hexec, htriggered.post, htriggered.trig, htriggered.vector, fun v hv => ?_,
      frame_trans (frame_updHarv _ _ (by decide) (frame_refl _ s)) htriggered.frame⟩
    exact (htriggered.others v hv).trans (updHarv_harv_ne hv s _)
  case ignored =>
    intro u e s hnext hst
    have hnone : armedTimer s u = none := armedTimer_not_armed (by rw [hst]; decide)
    refine (execHarvestSeqEvent_takes hnext (by simp [hnone])).trans (congrArg ok ?_)
    rw [takeEvent_post e hst]
    rfl
  case timer =>
    intro u k s hst htimer hfirst htmo
    have hexec := execHarvestSeqTimer_expires ((armedTimer_armed hst).trans htimer) hfirst
    rw [takeTimer_state htmo] at hexec
    refine ⟨_, hexec, ?_, rfl, fun v hv => updHarv_harv_ne hv _ _,
      frame_updHarv _ _ (by decide) (frame_withTime _ (by decide) (frame_refl _ s))⟩
    rw [updHarv_harv_same, State.goTo_harv]
  case timerAt =>
    intro u s hunit
    simp only [timerAt, hunit]
  case noTimer =>
    intro u s hnone
    refine execHarvestSeqTimer_none ?_
    rcases hnone with hst | htimer
    · exact armedTimer_not_armed hst
    · rw [armedTimer, htimer, ite_self]
  case timeout =>
    intro u s hst htimeout hcommits hops
    have hdropped := dropCapture_alone (s := s.goTo (s.harv[u].armClk + hvTimeout s.harv[u].set * 10 ^ 9)) hcommits hops u stTimeout 0
    refine ⟨_, execHarvestArmTimeout_armed hst htimeout, hdropped.idle, hdropped.empty, hdropped.vector, ?_, hdropped.others,
      frame_trans (frame_withTime _ (by decide) (frame_refl _ s)) (frame_mono (by decide) hdropped.frame)⟩
    rw [hdropped.time, State.goTo_clk]
  case level =>
    intro u x w s hst hlow hhigh hlast
    have hexec := execRawStreamLevelCrossing_raw x w false hlow hhigh
    rw [levelSample_first (s := s.goTo w) x w _ hst hlast] at hexec
    refine ⟨_, hexec, ?_, fun v hv => updHarv_harv_ne hv _ _,
      frame_updHarv _ _ (by decide) (frame_withTime _ (by decide) (frame_refl _ s))⟩
    rw [updHarv_harv_same]
    rfl

end Sys2Proof.Machine
end

section
/-! The opcodes of group 0x05: what their handlers answer, the unit that HARVEST_ARM arms once its power is granted, and the statement about them. -/

namespace Sys2Proof.Machine

/-! ## Masks of units -/

theorem units_of_mask :
    ∀ v : Fin 4, (List.finRange 4).filter (fun u => (BitVec.ofNat 32 (2 ^ v.val)).getLsbD u.val) = [v] := by decide

theorem units_of_forceMask :
    ∀ v : Fin 4, (List.finRange 4).filter (fun u => (BitVec.ofNat 32 (2 ^ v.val + 16)).getLsbD u.val) = [v] := by decide

theorem immediate_of_forceMask : ∀ v : Fin 4, (BitVec.ofNat 32 (2 ^ v.val + 16)).getLsbD 4 = true := by decide

/-- A mask of one bit names one unit. -/
theorem unitsOf_one {r : Req} {v : Fin 4} (h : (wordAt r.payload 0).toNat = 2 ^ v.val) : unitsOf r = [v] := by
  obtain ⟨-, hword⟩ := BitVec.toNat_eq_nat.1 h
  rw [unitsOf, hword]
  exact units_of_mask v

theorem unitMask_lt (v : Fin 4) : 2 ^ v.val < 2 ^ 4 := Nat.pow_lt_pow_right (by decide) v.isLt

/-- A mask of one unit uses no reserved bit. -/
theorem unitMask_rsvdBad {r : Req} {v : Fin 4} (h : (wordAt r.payload 0).toNat = 2 ^ v.val) : rsvdBad r 0 0xF = false :=
  rsvdBad_eq_false (k := 4) 0xF rfl (h ▸ unitMask_lt v)

/-! ## HARVEST_ARM -/

/-- What the grant of a capture's power leaves, where its source is raw; the other sources need none (Table 10.3). -/
def grantCapture (u : Fin 4) (b : List Word) (s : State) : State :=
  if hvSrc b ≤ 1 then (s.setGrant (.capture u) (s.grantOf (.capture u) + if hvSrc b = 0 then 900 else 300)).raise vecPower else s

/-- The unit armed from now, with the operation that its completion answers. -/
def armedNow (r : Req) (b : List Word) (rate : Nat) (s : State) : State :=
  (armUnit (unitOf r) b rate s).addOp r (.harvestArm (unitOf r)) true

/-- The reply of a HARVEST_ARM that arms its unit: what is granted, the arming instant and the reservation in MB/s. -/
def armReply (r : Req) (b : List Word) (rate : Nat) (s : State) : Res :=
  let h := (armedNow r b rate s).harv[unitOf r]
  Res.rep stPending 0 ([BitVec.ofNat 32 h.pre, BitVec.ofNat 32 h.cap] ++ split64 h.armAt ++ [BitVec.ofNat 32 (ceilDiv rate 1000000)])
    (armedNow r b rate s)

/-- A unit is armed under a set with a reservation, from the state in which it is armed (R251, R257). -/
structure UnitArmed (b : List Word) (rate : Nat) (s : State) (h : HarvSt) : Prop where
  pre : h.pre = if capElems b (eszOf s b) < hvPre b + hvPost b then capElems b (eszOf s b) - hvPost b else hvPre b
  cap : h.cap = capElems b (eszOf s b)
  st : h.st = .armed
  seq : h.seq = 0
  armAt : h.armAt = s.now
  set : h.set = b
  rate : h.rate = rate
  elems : h.elems = []

theorem armedNow_unit (r : Req) (b : List Word) (rate : Nat) (s : State) :
    UnitArmed b rate s (armedNow r b rate s).harv[unitOf r] := by
  rw [armedNow, State.addOp_harv, armUnit, updHarv_harv_same]
  exact ⟨rfl, rfl, rfl, rfl, rfl, rfl, rfl, rfl⟩

theorem armedNow_others {r : Req} {v : Fin 4} (hv : v ≠ unitOf r) (b : List Word) (rate : Nat) (s : State) :
    (armedNow r b rate s).harv[v] = s.harv[v] := by
  rw [armedNow, State.addOp_harv, armUnit, updHarv_harv_ne hv]

theorem frame_armedNow {l : List Part} {s t : State} (r : Req) (b : List Word) (rate : Nat) (hl : [.harv, .proto] ⊆ l)
    (h : Frame l s t) : Frame l s (armedNow r b rate t) :=
  frame_withProto _ (hl (by decide)) (frame_updHarv _ _ (hl (by decide)) h)

theorem grantCapture_keeps (u : Fin 4) (b : List Word) (s : State) :
    (grantCapture u b s).harv = s.harv ∧ (grantCapture u b s).time = s.time ∧ (grantCapture u b s).params = s.params ∧
      (grantCapture u b s).proto = s.proto := by
  unfold grantCapture
  split
  · exact ⟨State.raise_harv .., State.raise_time .., State.raise_params .., State.raise_proto ..⟩
  · exact ⟨rfl, rfl, rfl, rfl⟩

theorem grantCapture_irqSum {b : List Word} (hraw : hvSrc b ≤ 1) (u : Fin 4) (s : State) :
    (grantCapture u b s).pcie.irqSum.getLsbD 41 = true := by
  rw [grantCapture, if_pos hraw]
  exact raise_irqSum_same _ vecPower

theorem frame_grantCapture {l : List Part} {s t : State} (u : Fin 4) (b : List Word) (hl : hvSrc b ≤ 1 → [.power, .pcie, .out] ⊆ l)
    (h : Frame l s t) : Frame l s (grantCapture u b t) := by
  unfold grantCapture
  split
  next hraw =>
    have hl := hl hraw
    exact frame_raise _ (hl (by decide)) (hl (by decide)) (frame_setGrant _ _ (hl (by decide)) h)
  next => exact h

/-- The size of an element depends on the sets in force alone. -/
theorem eszOf_congr {s t : State} (h : t.params = s.params) (b : List Word) : eszOf t b = eszOf s b := by
  simp only [eszOf, State.act, h]

/-- A heavy command that fits goes on with its budget held (R430). -/
theorem heavy_granted {r : Req} {mw : Nat} {s : State} (g : Grant) (onQueue : State → State) (go : State → Res) (hmw : mw ≠ 0)
    (h : judgeAdmit s mw = .granted) : heavy false r g mw onQueue go s = go ((s.setGrant g (s.grantOf g + mw)).raise vecPower) := by
  simp only [heavy, hmw, h, Bool.false_eq_true, if_false]

/-- A unit whose raw source has its link in the data state is not refused for it (Table 10.3). -/
theorem rawLink_up {b : List Word} {s : State}
    (h : hvSrc b ≤ 1 → s.fe[hvFe b].links[if hvSrc b = 0 then (0 : Fin 3) else 1] = .data) :
    ¬ (hvSrc b = 0 && s.fe[hvFe b].links[0] ≠ .data || hvSrc b = 1 && s.fe[hvFe b].links[1] ≠ .data) = true := by
  simp only [Bool.or_eq_true, Bool.and_eq_true, decide_eq_true_eq]
  rintro (⟨hsrc, hdown⟩ | ⟨hsrc, hdown⟩)
  · have hup := h (by omega)
    simp only [hsrc, if_true] at hup
    exact hdown hup
  · have hup := h (by omega)
    simp only [hsrc, Nat.one_ne_zero, if_false] at hup
    exact hdown hup

/-- A HARVEST_ARM that passes its checks and is granted its power arms its unit (Table 10.3). -/
theorem doHarvestArm_passes {r : Req} {b : List Word} {s : State} (hsel : (wordAt r.payload 0).toNat < 8)
    (hb : b = s.act 0x40 (unitOf r).val)
    (hidle : s.harv[unitOf r].st = .idle ∨ (s.harv[unitOf r].st = .held ∧ (wordAt r.payload 0).getLsbD 2 = true))
    (hraw : hvSrc b ≤ 1 → s.fe[hvFe b].links[if hvSrc b = 0 then (0 : Fin 3) else 1] = .data ∧
      judgeAdmit s (if hvSrc b = 0 then 900 else 300) = .granted)
    (hcross : armCross s b = true) (hpost : hvPost b ≤ capElems b (eszOf s b))
    (hcap : reservedNow s + harvRate s b ≤ capOf s s.cellar.fsp) :
    doHarvestArm false r s = armReply r b (harvRate s b) (grantCapture (unitOf r) b s) := by
  subst hb
  unfold doHarvestArm
  extract_lets u again h b idle rate mb arm
  have hgoes : ¬ (!idle) = true := by
    have hidle : idle = true := by
      simpa only [idle, Bool.or_eq_true, Bool.and_eq_true, decide_eq_true_eq, Bool.false_and, Bool.false_eq_true, or_false] using hidle
    rw [hidle]; decide
  have hwithin : ¬ (!false && decide (capOf s s.cellar.fsp < reservedNow s + rate)) = true := by
    simpa using hcap
  rw [if_neg (ne_true_of_eq_false (rsvdBad_eq_false (k := 3) 7 rfl hsel)), if_neg hgoes, if_neg (rawLink_up fun hsrc => (hraw hsrc).1),
    if_neg (by rw [hcross]; decide), if_neg (Nat.not_lt.2 hpost), if_neg hwithin]
  split
  next hsrc =>
    obtain ⟨-, hgranted⟩ := hraw hsrc
    rw [heavy_granted _ _ _ (by split <;> decide) hgranted]
    have hgrant : grantCapture u b s = _ := if_pos hsrc
    exact (congrArg (armReply r b rate) hgrant).symm
  next hsrc =>
    have hgrant : grantCapture u b s = s := if_neg hsrc
    exact (congrArg (armReply r b rate) hgrant).symm

/-- An armed unit is BUSY for another HARVEST_ARM (R257). -/
theorem doHarvestArm_armed {r : Req} {s : State} (hsel : (wordAt r.payload 0).toNat < 8) (hst : s.harv[unitOf r].st = .armed) :
    doHarvestArm false r s = Res.rep stBusy 0 [] s := by
  rw [doHarvestArm, if_neg (ne_true_of_eq_false (rsvdBad_eq_false (k := 3) 7 rfl hsel))]
  simp only [hst, captureHeld]
  rfl

/-! ## The other handlers -/

theorem doHarvestDisarm_armed {r : Req} {v : Fin 4} {s : State} (hsel : (wordAt r.payload 0).toNat = 2 ^ v.val)
    (hst : s.harv[v].st = .armed) : doHarvestDisarm r s = Res.ok [] (dropCapture v stAborted 0 s) := by
  simp only [doHarvestDisarm, unitMask_rsvdBad hsel, unitsOf_one hsel, List.filter_cons, List.filter_nil, hst, decide_true, Bool.or_true,
    Bool.true_or, if_true, List.isEmpty_cons, Bool.false_and, Bool.false_eq_true, if_false, List.foldl_cons, List.foldl_nil, disarm]

theorem doHarvestDisarm_idle {r : Req} {v : Fin 4} {s : State} (hsel : (wordAt r.payload 0).toNat = 2 ^ v.val)
    (hst : s.harv[v].st = .idle) : doHarvestDisarm r s = Res.rep stCompleted 0 [] s := by
  simp only [doHarvestDisarm, unitMask_rsvdBad hsel, unitsOf_one hsel, List.filter_cons, List.filter_nil, hst]
  rfl

/-- HARVEST_FORCE with IMMEDIATE triggers an armed unit now (R256). -/
theorem doHarvestForce_immediate {r : Req} {v : Fin 4} {s : State} (hsel : (wordAt r.payload 0).toNat = 2 ^ v.val + 16)
    (hst : s.harv[v].st = .armed) :
    doHarvestForce r s = Res.ok [] (triggerUnit v ⟨s.now, 0, 15, s.harv[v].seq, 0⟩ s) := by
  have hrsvd : rsvdBad r 0 0x1F = false := rsvdBad_eq_false (k := 5) 0x1F rfl (by have := unitMask_lt v; omega)
  obtain ⟨-, hword⟩ := BitVec.toNat_eq_nat.1 hsel
  simp only [doHarvestForce, hrsvd, unitsOf, hword, units_of_forceMask, immediate_of_forceMask, List.foldl_cons, List.foldl_nil, force, hst,
    if_true, Bool.false_eq_true, if_false]

theorem doHarvestRead_held {r : Req} {s : State} (hsel : (wordAt r.payload 0).toNat ≤ 3) (hst : s.harv[unitOf r].st = .held) :
    doHarvestRead r s = Res.rep stPending 0 []
      ((s.updHarv (unitOf r) fun x => { x with st := .reading, sent := 0 }).addOp r (.harvestRead (unitOf r)) true) := by
  rw [doHarvestRead, if_neg (ne_true_of_eq_false (rsvdBad_eq_false (k := 2) 3 rfl (by omega)))]
  simp only [hst]

theorem doHarvestRead_idle {r : Req} {s : State} (hsel : (wordAt r.payload 0).toNat ≤ 3) (hst : s.harv[unitOf r].st = .idle) :
    doHarvestRead r s = Res.bad 0xFF53 s := by
  rw [doHarvestRead, if_neg (ne_true_of_eq_false (rsvdBad_eq_false (k := 2) 3 rfl (by omega)))]
  simp only [hst]

/-- A held capture is freed, where no commit waits for its unit to be idle (R261). -/
theorem doHarvestRelease_held {r : Req} {v : Fin 4} {s : State} (hsel : (wordAt r.payload 0).toNat = 2 ^ v.val)
    (hst : s.harv[v].st = .held) (hcommits : s.commits = []) :
    doHarvestRelease r s = Res.ok []
      (s.updHarv v fun h => { h with st := .idle, elems := [], trig := none, trigAt := none, unread := false }) := by
  simp only [doHarvestRelease, unitMask_rsvdBad hsel, unitsOf_one hsel, List.any_cons, List.any_nil, List.foldl_cons, List.foldl_nil, hst]
  rw [localPoint_noCommits (by exact hcommits)]
  rfl

theorem doHarvestStatus_eq {r : Req} (s : State) (hsel : (wordAt r.payload 0).toNat ≤ 3) :
    ∃ ws, ws.length = 7 ∧ wordAt ws 6 = s.harv[unitOf r].ignored ∧
      doHarvestStatus r s = Res.ok ws (s.updHarv (unitOf r) fun x => { x with ignored := 0 }) := by
  rw [doHarvestStatus, if_neg (ne_true_of_eq_false (rsvdBad_eq_false (k := 2) 3 rfl (by omega)))]
  exact ⟨_, rfl, rfl, rfl⟩

/-- Settles O41: each clause is what the opcode's handler answers, and what arming, ending or triggering its unit leaves. -/
theorem harvestOpcodes : Obligations.HarvestOpcodes := by
  unfold Obligations.HarvestOpcodes
  refine ⟨⟨?arms, ?armBusy, ?disarms, ?disarmIdle, ?forces⟩, ?reads, ?readIdle, ?releases, ?status⟩
  case arms =>
    intro r b s hr hsel hb hidle hraw hcross hpost hcap
    have hans := doHarvestArm_passes (s := taken r s) hsel hb hidle hraw hcross hpost hcap
    obtain ⟨hharv, htime, hparams, hproto⟩ := grantCapture_keeps (unitOf r) b (taken r s)
    have hesz : eszOf (grantCapture (unitOf r) b (taken r s)) b = eszOf s b := eszOf_congr hparams b
    have hnow : (grantCapture (unitOf r) b (taken r s)).now = s.now := by rw [State.now, htime]; rfl
    have harmed := armedNow_unit r b (harvRate s b) (grantCapture (unitOf r) b (taken r s))
    refine ⟨_, answers_of_ready rfl hr (hans.trans ?_), ?_, harmed.st, harmed.seq, ?_, harmed.set, harmed.rate, harmed.elems,
      fun hsrc => grantCapture_irqSum hsrc _ _, fun v hv => ?_, ?_, ?_⟩
    · rw [← hnow, ← harmed.armAt, ← hesz, ← harmed.cap]
      rfl
    · rw [harmed.pre, hesz]
    · rw [harmed.armAt, hnow]
    · rw [armedNow_others hv, hharv, taken_harv]
    · rw [armedNow, State.addOp, armUnit, State.updHarv_proto, hproto, State.updHarv_time, htime]
      rfl
    · exact frame_armedNow _ _ _ (List.subset_append_left _ _) (frame_grantCapture _ _
        (fun hsrc => by rw [if_pos hsrc]; exact List.subset_append_right _ _) (frame_taken r s (List.mem_append_left _ (by decide))))
  case armBusy => exact fun r s hr hsel hst _ => answers_of_ready rfl hr (doHarvestArm_armed (s := taken r s) hsel hst)
  case disarms =>
    intro r v s hr hsel hst hcommits hops
    have hdropped := dropCapture_alone (s := taken r s) hcommits hops v stAborted 0
    exact ⟨_, answers_of_ready rfl hr (doHarvestDisarm_armed (s := taken r s) hsel hst), hdropped.idle, hdropped.empty, hdropped.rate,
      hdropped.vector, hdropped.others, frame_trans (frame_taken r s (by decide)) (frame_mono (by decide) hdropped.frame)⟩
  case disarmIdle => exact fun r v s hr hsel hst => answers_of_ready rfl hr (doHarvestDisarm_idle (s := taken r s) hsel hst)
  case forces =>
    intro r v s hr hsel hst helems htrigAt
    have htriggered := triggerUnit_noElems (s := taken r s) ⟨s.now, 0, 15, s.harv[v].seq, 0⟩ helems htrigAt
    exact ⟨_, answers_of_ready rfl hr (doHarvestForce_immediate (s := taken r s) hsel hst), htriggered.post, htriggered.trig,
      htriggered.vector, htriggered.others, frame_trans (frame_taken r s (by decide)) (frame_mono (by decide) htriggered.frame)⟩
  case reads => exact fun r s hr hsel hst => answers_of_ready rfl hr (doHarvestRead_held (s := taken r s) hsel hst)
  case readIdle => exact fun r s hr hsel hst => answers_of_ready rfl hr (doHarvestRead_idle (s := taken r s) hsel hst)
  case releases =>
    exact fun r v s hr hsel hst hcommits => answers_of_ready rfl hr (doHarvestRelease_held (s := taken r s) hsel hst hcommits)
  case status =>
    intro r s hr hsel
    obtain ⟨ws, hlen, hignored, hans⟩ := doHarvestStatus_eq (taken r s) hsel
    exact ⟨ws, hlen, hignored, answers_of_ready rfl hr hans⟩

end Sys2Proof.Machine
end

section
/-! Channels of the Cellar: what an update of one does, and what the Cellar and the vats do by themselves. -/

namespace Sys2Proof.Machine

/-! ## Updates of a channel -/

@[simp] theorem updCel_ch_val (s : State) (c : Fin 4) (f : CelCh → CelCh) : (s.updCel c f).cellar.ch[c.val] = f s.cellar.ch[c.val] := by
  simp [State.updCel]

theorem updCel_ch_same (s : State) (c : Fin 4) (f : CelCh → CelCh) : (s.updCel c f).cellar.ch[c] = f s.cellar.ch[c] := updCel_ch_val s c f

theorem updCel_ch_ne {c d : Fin 4} (h : d ≠ c) (s : State) (f : CelCh → CelCh) : (s.updCel c f).cellar.ch[d] = s.cellar.ch[d] := by
  simp [State.updCel, Vector.getElem_set_ne, Fin.val_ne_of_ne h.symm]

theorem frame_updCel {l : List Part} {s t : State} (c : Fin 4) (f : CelCh → CelCh) (hl : .cellar ∈ l) (h : Frame l s t) :
    Frame l s (t.updCel c f) := frame_withCellar _ hl h

/-! ## Refresh and write drains -/

/-- Outside self-refresh a refresh comes at its due instant, or now where that has passed (R328). -/
theorem execCellarRefresh_due {c : Fin 4} {s : State} (h : s.cellar.selfRefresh = false) :
    execCellarRefresh c s =
      ok ((s.goTo (s.cellar.ch[c].refreshed + trefi s.cellar.ch[c])).updCel c fun x =>
        { x with refreshed := max s.time.clk (s.cellar.ch[c].refreshed + trefi s.cellar.ch[c]), refreshes := x.refreshes + 1 }) := by
  rw [execCellarRefresh, if_neg (ne_true_of_eq_false h)]
  rfl

/-- At WR_HWM entries the queue is drained at once to WR_LWM, and by one entry at least (R331). -/
theorem execWriteDrain_full {c : Fin 4} {s : State} (hwq : s.cellar.ch[c].wq ≠ [])
    (hfull : bf (s.act 0x70 c.val) 0 8 6 ≤ s.cellar.ch[c].wq.length) :
    execWriteDrain c s =
      ok (s.updCel c fun x => { x with
        wq := x.wq.drop (s.cellar.ch[c].wq.length - min (bf (s.act 0x70 c.val) 0 16 6) (s.cellar.ch[c].wq.length - 1))
        drains := addSat x.drains 1 }) := by
  unfold execWriteDrain
  extract_lets x blk
  split
  next hnil => exact absurd hnil hwq
  next => rw [if_pos hfull]; rfl

/-! ## Vat words that the scrub reads -/

/-- An uncorrectable vat word is counted, and no byte of the vats changes (R322). -/
theorem vatEcc_uncorrectable_vat (m : Master) (a : Nat) (s : State) :
    (vatEcc m a .uncorrectable s).vat.eccUncorr = addSat s.vat.eccUncorr 1 ∧ (vatEcc m a .uncorrectable s).vat.mem = s.vat.mem := by
  simp only [vatEcc, vatUncorr, State.raise_vat]
  split <;> exact ⟨rfl, rfl⟩

/-- Settles O51: each clause is the update that the command makes, with its frame. -/
theorem cellarUpkeep : Obligations.CellarUpkeep := by
  unfold Obligations.CellarUpkeep
  refine ⟨?refresh, ?temperature, ?drain, ?corrected, ?uncorrectable, ?writeBack⟩
  case refresh =>
    intro c s h
    refine ⟨_, execCellarRefresh_due h, rfl, updCel_ch_same _ _ _, fun d hd => updCel_ch_ne hd _ _, rfl,
      frame_updCel _ _ (by decide) (frame_withTime _ (by decide) (frame_refl _ s))⟩
  case temperature => exact fun c hot s => rfl
  case drain =>
    intro c s hwq hfull
    refine ⟨_, execWriteDrain_full hwq hfull, ?_, ?_, fun d hd => updCel_ch_ne hd _ _, rfl,
      frame_updCel _ _ (by decide) (frame_refl _ s)⟩
    · rw [updCel_ch_same, List.length_drop]
      omega
    · rw [updCel_ch_same]
  case corrected =>
    exact fun a s => ⟨_, rfl, rfl, rfl, rfl, frame_withVat _ (by decide)
      (frame_withCellar _ (by decide) (frame_withCellar _ (by decide) (frame_refl _ s)))⟩
  case uncorrectable =>
    intro a s
    obtain ⟨hcount, hmem⟩ := vatEcc_uncorrectable_vat 16 a { s with cellar := { s.cellar with scrubbed := s.cellar.scrubbed + 1 } }
    exact ⟨_, rfl, hcount, hmem, vatEcc_uncorrectable_irqSum _ _ _,
      frame_vatEcc _ _ _ (by decide) (frame_withCellar _ (by decide) (frame_refl _ s))⟩
  case writeBack => exact fun s => rfl

end Sys2Proof.Machine
end

section
/-! The Cellar opcodes but the training ones: pattern, comparator, set points and status, and the statement about them. -/

namespace Sys2Proof.Machine

/-! ## Selectors -/

section
variable {r : Req} {c : Fin 4} (h : wordAt r.payload 0 = BitVec.ofNat 32 c.val)
include h

theorem toNat_of_channel : (wordAt r.payload 0).toNat = c.val := by
  rw [h, BitVec.toNat_ofNat]
  exact Nat.mod_eq_of_lt (by omega)

/-- A word that holds a channel uses no reserved bit. -/
theorem rsvdBad_of_channel : rsvdBad r 0 3 = false :=
  rsvdBad_eq_false (k := 2) 3 rfl (by rw [toNat_of_channel h]; exact c.isLt)

theorem celOf_of_channel : celOf r = c :=
  Fin.ext ((wbits_of_lt (k := 2) (by rw [toNat_of_channel h]; exact c.isLt)).trans (toNat_of_channel h))

end

/-! ## Pattern, comparator and status -/

theorem doCellarPattern_eq {r : Req} {c : Fin 4} {s : State} (hsel : wordAt r.payload 0 = BitVec.ofNat 32 c.val)
    (hgather : s.cellar.gathering = false) :
    doCellarPattern r s =
      Res.ok [] (s.updCel c fun x => { x with pattern := Vector.ofFn fun (i : Fin 16) => wordAt r.payload (1 + i.val) }) := by
  rw [doCellarPattern, if_neg (ne_true_of_eq_false (rsvdBad_of_channel hsel)), if_neg (ne_true_of_eq_false hgather), celOf_of_channel hsel]

theorem doCellarCompare_eq {r : Req} (errs : Vector Nat 36) {s : State} (hrsvd : rsvdBad r 0 0xF = false) (hsome : wordAt r.payload 1 ≠ 0)
    (hlong : (wordAt r.payload 1).toNat ≤ 65536) (hgather : s.cellar.gathering = false) :
    doCellarCompare errs r s = Res.ok (errs.toList.map satWord) s := by
  have hcount : ¬ (decide ((wordAt r.payload 1).toNat = 0) || decide (65536 < (wordAt r.payload 1).toNat)) = true := by
    have hpos : (wordAt r.payload 1).toNat ≠ 0 := fun hz => hsome (BitVec.eq_of_toNat_eq hz)
    simp only [Bool.or_eq_true, decide_eq_true_eq]
    omega
  rw [doCellarCompare, if_neg (ne_true_of_eq_false hrsvd), if_neg hcount, if_neg (ne_true_of_eq_false hgather)]

theorem doCellarStatus_eq {r : Req} {c : Fin 4} (s : State) (hsel : wordAt r.payload 0 = BitVec.ofNat 32 c.val) :
    ∃ ws, ws.length = 10 ∧ wordAt ws 1 = BitVec.ofNat 32 s.cellar.ch[c].densityMib ∧ wordAt ws 2 = s.cellar.ch[c].corr ∧
      wordAt ws 3 = s.cellar.ch[c].uncorr ∧ wordAt ws 6 = s.cellar.ch[c].drains ∧
      doCellarStatus r s = Res.ok ws (s.updCel c fun x => { x with corr := 0, uncorr := 0, drains := 0 }) := by
  have hchannel := celOf_of_channel hsel
  subst hchannel
  rw [doCellarStatus, if_neg (ne_true_of_eq_false (rsvdBad_of_channel hsel))]
  exact ⟨_, rfl, rfl, rfl, rfl, rfl, rfl⟩

/-! ## Set points -/

/-- A switch puts its set point in force and ends no earlier than its length from now; there every channel's refresh starts anew (R329). -/
theorem switchTo_spec (f : Fin 3) (refreshEnd ps : Nat) (s : State) :
    ∃ e, s.time.clk + min ps 1500000 ≤ e ∧ (switchTo f refreshEnd ps s).time.clk = e ∧ (switchTo f refreshEnd ps s).cellar.fsp = f ∧
      (∀ c : Fin 4, (switchTo f refreshEnd ps s).cellar.ch[c] =
        { s.cellar.ch[c] with refreshed := e, refreshes := s.cellar.ch[c].refreshes + 1 }) ∧
      (switchTo f refreshEnd ps s).cellar.mem = s.cellar.mem := by
  unfold switchTo
  extract_lets base b e s1
  have hbase : base ≤ b := by
    unfold b
    split
    · exact Nat.le_max_left _ _
    · exact Nat.le_refl _
  have hend : s.time.clk + min ps 1500000 ≤ e := Nat.add_le_add_right (Nat.le_trans (Nat.le_max_right _ _) hbase) _
  exact ⟨e, hend, Nat.max_eq_right (Nat.le_trans (Nat.le_add_right _ _) hend), rfl, fun c => Vector.getElem_map _ _, rfl⟩

theorem frame_switchTo {l : List Part} {s t : State} (f : Fin 3) (refreshEnd ps : Nat) (hl : [.time, .cellar] ⊆ l) (h : Frame l s t) :
    Frame l s (switchTo f refreshEnd ps t) :=
  frame_withTime _ (hl (by decide)) (frame_withCellar _ (hl (by decide)) h)

/-- While nothing is gathered a set point is refused where a channel lacks it or its cap is too low, and put in force else (R329, R333, R338). -/
theorem doFreqSet_eq {r : Req} {f : Fin 3} (e ps : Nat) {s : State} (hsel : wordAt r.payload 0 = BitVec.ofNat 32 f.val)
    (hgather : s.cellar.gathering = false) :
    doFreqSet e ps r s =
      if s.cellar.ch.toList.any fun c => !c.trained.getLsbD f.val then Res.bad dtFspUntrained s
      else if capOf s f.val < reservedNow s then Res.rep stExhausted dtCellarCap [] s
      else Res.ok (split64 (switchTo f e ps s).now) (switchTo f e ps s) := by
  have hsel' : wordAt r.payload 0 = BitVec.ofNat 32 (f.castSucc : Fin 4).val := hsel
  have hval : wbits (wordAt r.payload 0) 0 2 = f.val := congrArg Fin.val (celOf_of_channel hsel')
  simp only [doFreqSet, rsvdBad_of_channel hsel', hval, f.isLt, hgather, dite_true, Bool.false_eq_true, if_false]

theorem any_untrained_iff {v : Vector CelCh 4} (f : Nat) :
    (v.toList.any fun c => !c.trained.getLsbD f) = true ↔ ∃ c : Fin 4, v[c].trained.getLsbD f = false := by
  simp only [List.any_eq_true, Vector.mem_toList_iff, Vector.mem_iff_getElem, Bool.not_eq_true']
  constructor
  · rintro ⟨_, ⟨i, hi, rfl⟩, hlacks⟩
    exact ⟨⟨i, hi⟩, hlacks⟩
  · rintro ⟨c, hlacks⟩
    exact ⟨_, ⟨c.val, c.isLt, rfl⟩, hlacks⟩

/-- Settles O50: each clause is what the opcode's handler answers. -/
theorem cellarOpcodes : Obligations.CellarOpcodes := by
  unfold Obligations.CellarOpcodes
  refine ⟨?pattern, ?compare, ?switches, ?untrained, ?status⟩
  case pattern =>
    intro r c s hr hsel hgather
    refine ⟨_, answers_of_ready rfl hr (doCellarPattern_eq (s := taken r s) hsel hgather), fun i => ?_, fun d hd => updCel_ch_ne hd _ _, rfl,
      frame_updCel _ _ (by decide) (frame_taken r s (by decide))⟩
    simp
  case compare =>
    exact fun r errs s hr hrsvd hsome hlong hgather =>
      answers_of_ready rfl hr (doCellarCompare_eq (s := taken r s) errs hrsvd hsome hlong hgather)
  case switches =>
    intro r f e ps s hr hsel hgather htrained hcap
    have hans := doFreqSet_eq (s := taken r s) e ps hsel hgather
    have hall : ¬ ∃ c : Fin 4, (taken r s).cellar.ch[c].trained.getLsbD f.val = false :=
      fun ⟨c, hlacks⟩ => Bool.false_ne_true (hlacks.symm.trans (htrained c))
    rw [if_neg (mt (any_untrained_iff _).1 hall), if_neg (show ¬ capOf (taken r s) f.val < reservedNow (taken r s) from Nat.not_lt.2 hcap)] at hans
    obtain ⟨_, hend, rfl, hfsp, hch, hmem⟩ := switchTo_spec f e ps (taken r s)
    exact ⟨_, answers_of_ready rfl hr hans, hfsp, hch, hend, hmem, frame_switchTo f e ps (by decide) (frame_taken r s (by decide))⟩
  case untrained =>
    intro r f e ps c s hr hsel hgather hlacks
    refine answers_of_ready rfl hr ((doFreqSet_eq (s := taken r s) e ps hsel hgather).trans (if_pos ?_))
    exact (any_untrained_iff _).2 ⟨c, hlacks⟩
  case status =>
    intro r c s hr hsel
    obtain ⟨ws, hlen, hdensity, hcorr, huncorr, hdrains, hans⟩ := doCellarStatus_eq (taken r s) hsel
    exact ⟨ws, hlen, hdensity, hcorr, huncorr, hdrains, answers_of_ready rfl hr hans⟩

end Sys2Proof.Machine
end

section
/-! Training of the Cellar: the set points it marks, how it begins, completes and is aborted, and the statement about it. -/

namespace Sys2Proof.Machine

/-! ## The end of an operation leaves the Cellar -/

@[simp] theorem finish_cellar (o : Op) (st det : Nat) (ws : List Word) (s : State) : (s.finish o st det ws).cellar = s.cellar :=
  frame_finish (l := [.proto, .rings, .out]) o st det ws (List.Subset.refl _) (frame_refl _ s) .cellar (by decide) (by decide)

/-- No operation waits after the only one has ended. -/
theorem finish_ops_only {o : Op} {s : State} (h : s.proto.ops = [o]) (st det : Nat) (ws : List Word) :
    (s.finish o st det ws).proto.ops = [] := by
  rw [finish_ops, h, List.erase_cons_head]

/-- The kind of CELLAR_TRAIN. -/
def isCellarTrain : OpKind → Bool
  | .cellarTrain _ _ => true
  | _ => false

/-- The kind of CELLAR_TRAIN_STEP. -/
def isCellarStep : OpKind → Bool
  | .cellarStep _ _ _ => true
  | _ => false

theorem opWhere_only {o : Op} {s : State} {p : OpKind → Bool} (hops : s.proto.ops = [o]) (hp : p o.kind = true) :
    s.opWhere p = some o := by
  rw [State.opWhere, hops, List.find?_cons_of_pos (by exact hp)]

/-! ## Beginning -/

/-- The state in which a training command runs: its budget held and granted with vector 41, its operation begun, gathering on. -/
def trainingBegun (r : Req) (k : OpKind) (s : State) : State :=
  (((s.setGrant .training (s.grantOf .training + trainingMw)).raise vecPower).addOp r k true).gather true

theorem trainingBegun_cellar (r : Req) (k : OpKind) (s : State) : (trainingBegun r k s).cellar = { s.cellar with gathering := true } := by
  simp only [trainingBegun, State.gather, State.addOp_cellar, State.raise_cellar]
  rfl

theorem trainingBegun_ops (r : Req) (k : OpKind) (s : State) :
    (trainingBegun r k s).proto.ops = s.proto.ops ++ [⟨r.sess, r.seq, r.opcode, k, true, s.time.clk⟩] := by
  simp only [trainingBegun, State.gather, State.addOp, State.raise_proto, State.raise_time]
  rfl

theorem frame_trainingBegun {l : List Part} {s t : State} (r : Req) (k : OpKind) (hl : [.cellar, .proto, .power, .pcie, .out] ⊆ l)
    (h : Frame l s t) : Frame l s (trainingBegun r k t) :=
  frame_withCellar _ (hl (by decide)) (frame_withProto _ (hl (by decide))
    (frame_raise _ (hl (by decide)) (hl (by decide)) (frame_setGrant _ _ (hl (by decide)) h)))

theorem trainBusy_free {s : State} (hruns : trainingRuns s = false) (hgather : s.cellar.gathering = false) (hres : reservedNow s = 0)
    (hmoving : cellarMoving s = false) : trainBusy s = none := by
  simp [trainBusy, hruns, hgather, hres, hmoving]

theorem trainBusy_reserved {s : State} (hruns : trainingRuns s = false) (hgather : s.cellar.gathering = false) (hres : 0 < reservedNow s) :
    trainBusy s = some dtCellarInUse := by
  simp [trainBusy, hruns, hgather, hres]

theorem ofNat_wbits (w : Word) (lo width : Nat) : BitVec.ofNat width (wbits w lo width) = w.extractLsb' lo width :=
  BitVec.eq_of_toNat_eq (by simp [wbits, bitsOf, Nat.shiftRight_eq_div_pow])

theorem doCellarTrain_granted {r : Req} {s : State} (hrsvd : rsvdBad r 0 0x7F = false) (hfree : trainBusy s = none)
    (hgrant : judgeAdmit s trainingMw = .granted) :
    doCellarTrain false r s = Res.rep stPending 0 [] (trainingBegun r
      (.cellarTrain ((wordAt r.payload 0).extractLsb' 0 4) ((wordAt r.payload 0).extractLsb' 4 3)) s) := by
  simp only [doCellarTrain, hrsvd, Bool.false_eq_true, if_false, hfree, ofNat_wbits]
  exact heavy_granted _ _ _ (by decide) hgrant

theorem doCellarTrain_busy {r : Req} {d : Nat} {s : State} (hrsvd : rsvdBad r 0 0x7F = false) (hbusy : trainBusy s = some d) :
    doCellarTrain false r s = Res.rep stBusy d [] s := by
  simp only [doCellarTrain, hrsvd, Bool.false_eq_true, if_false, hbusy]

theorem doCellarTrainStep_granted {r : Req} {k : Fin 8} {s : State} (hrsvd : rsvdBad r 0 0x7F = false)
    (hstep : wbits (wordAt r.payload 0) 2 4 = k.val + 1) (hfree : trainBusy s = none) (hgrant : judgeAdmit s trainingMw = .granted) :
    ∃ kind, doCellarTrainStep false r s = Res.rep stPending 0 [] (trainingBegun r kind s) := by
  have hfields : ¬ (rsvdBad r 0 0x7F || decide (wbits (wordAt r.payload 0) 2 4 = 0) || decide (8 < wbits (wordAt r.payload 0) 2 4)) = true := by
    simp only [hrsvd, hstep, Bool.false_or, Bool.or_eq_true, decide_eq_true_eq]
    omega
  rw [doCellarTrainStep, if_neg hfields]
  simp only [hfree]
  exact ⟨_, heavy_granted _ _ _ (by decide) hgrant⟩

/-! ## Set points trained -/

/-- Training points of the Cellar changes no byte of it, nor anything else but the count of free values. -/
structure PointsTrained (s t : State) : Prop where
  mem : t.cellar.mem = s.cellar.mem
  frame : Frame [.cellar, .free] s t

theorem PointsTrained.refl (s : State) : PointsTrained s s := ⟨rfl, frame_refl _ s⟩

theorem PointsTrained.withFree {s t : State} (h : PointsTrained s t) (n : Nat) : PointsTrained s { t with free := n } :=
  ⟨h.mem, frame_withFree _ (by decide) h.frame⟩

theorem PointsTrained.trainPoint {s t : State} (h : PointsTrained s t) (c : Fin 4) (f : Fin 3) : PointsTrained s (trainPoint c f t) :=
  ⟨h.mem, frame_withFree _ (by decide) (frame_updCel _ _ (by decide) h.frame)⟩

theorem getLsbD_one_shiftLeft : ∀ f g : Fin 3, ((1 : BitVec 3) <<< f.val).getLsbD g.val = decide (f = g) := by decide

/-- Of the Cellar, training a point changes its channel alone, and marks the point there. -/
theorem trainPoint_cellar (c : Fin 4) (f : Fin 3) (s : State) :
    ∃ x, (trainPoint c f s).cellar = (s.updCel c fun _ => x).cellar ∧ x.trained = s.cellar.ch[c].trained ||| ((1 : BitVec 3) <<< f.val) :=
  ⟨_, rfl, rfl⟩

/-- Training a point marks it and no other (R336). -/
theorem trainPoint_trained (c d : Fin 4) (f g : Fin 3) (s : State) :
    (trainPoint c f s).cellar.ch[d].trained.getLsbD g.val =
      (s.cellar.ch[d].trained.getLsbD g.val || (decide (c = d) && decide (f = g))) := by
  obtain ⟨x, hcellar, hmarks⟩ := trainPoint_cellar c f s
  rw [hcellar]
  by_cases h : d = c
  · subst h
    rw [updCel_ch_same, hmarks, BitVec.getLsbD_or, getLsbD_one_shiftLeft, decide_eq_true rfl, Bool.true_and]
  · rw [updCel_ch_ne h, decide_eq_false (Ne.symm h), Bool.false_and, Bool.or_false]

/-- The points of a list of results are trained one by one. -/
def trainAll (l : List TrainResult) (s : State) : State := l.foldl (fun s x => trainPoint x.channel x.fsp s) s

theorem pointsTrained_trainAll (l : List TrainResult) (s : State) : PointsTrained s (trainAll l s) :=
  List.foldlRecOn l _ (PointsTrained.refl s) fun _ ht x _ => ht.trainPoint x.channel x.fsp

theorem trainAll_trained (l : List TrainResult) (c : Fin 4) (f : Fin 3) (s : State) :
    (trainAll l s).cellar.ch[c].trained.getLsbD f.val =
      (s.cellar.ch[c].trained.getLsbD f.val || l.any fun x => x.channel = c && x.fsp = f) := by
  induction l generalizing s with
  | nil => simp [trainAll]
  | cons x l ih =>
    have hrest := ih (trainPoint x.channel x.fsp s)
    rw [trainPoint_trained, Bool.or_assoc] at hrest
    exact hrest

/-! ## Results -/

theorem mem_trainPairs {chans : BitVec 4} {fsps : BitVec 3} {c : Fin 4} {f : Fin 3} :
    (c, f) ∈ trainPairs chans fsps ↔ chans.getLsbD c.val = true ∧ fsps.getLsbD f.val = true := by
  simp [trainPairs]

/-- The result that is taken for each pair. -/
def foundFor (results : List TrainResult) (pairs : List (Fin 4 × Fin 3)) : List TrainResult :=
  pairs.filterMap fun p => results.find? fun t => t.channel = p.1 && t.fsp = p.2

/-- Results that cover the pairs: there is one for each. -/
def Covers (results : List TrainResult) (pairs : List (Fin 4 × Fin 3)) : Prop :=
  ∀ p ∈ pairs, ∃ x ∈ results, x.channel = p.1 ∧ x.fsp = p.2

section
variable {results : List TrainResult} {pairs : List (Fin 4 × Fin 3)}

theorem mem_of_mem_foundFor {x : TrainResult} (h : x ∈ foundFor results pairs) : x ∈ results ∧ (x.channel, x.fsp) ∈ pairs := by
  obtain ⟨⟨c, f⟩, hp, hfind⟩ := List.mem_filterMap.1 h
  have hx := List.find?_some hfind
  simp only [Bool.and_eq_true, decide_eq_true_eq] at hx
  obtain ⟨rfl, rfl⟩ := hx
  exact ⟨List.mem_of_find?_eq_some hfind, hp⟩

variable (h : Covers results pairs)
include h

theorem Covers.find {p : Fin 4 × Fin 3} (hp : p ∈ pairs) :
    ∃ x, (results.find? fun t => t.channel = p.1 && t.fsp = p.2) = some x ∧ x.channel = p.1 ∧ x.fsp = p.2 := by
  obtain ⟨y, hy, hc, hf⟩ := h p hp
  have hsome : (results.find? fun t => t.channel = p.1 && t.fsp = p.2).isSome :=
    List.find?_isSome.2 ⟨y, hy, by simp only [hc, hf, decide_true, Bool.and_self]⟩
  obtain ⟨x, hfind⟩ := Option.isSome_iff_exists.1 hsome
  have hx := List.find?_some hfind
  simp only [Bool.and_eq_true, decide_eq_true_eq] at hx
  exact ⟨x, hfind, hx⟩

theorem Covers.foundFor_length : (foundFor results pairs).length = pairs.length :=
  List.filterMap_length_eq_length.2 fun p hp => by
    obtain ⟨x, hfind, -⟩ := h.find hp
    rw [hfind, Option.isSome_some]

/-- A pair is among the results that are taken exactly if it is one of the pairs. -/
theorem Covers.any_foundFor (c : Fin 4) (f : Fin 3) :
    ((foundFor results pairs).any fun x => x.channel = c && x.fsp = f) = true ↔ (c, f) ∈ pairs := by
  simp only [List.any_eq_true, Bool.and_eq_true, decide_eq_true_eq]
  constructor
  · rintro ⟨x, hx, rfl, rfl⟩
    exact (mem_of_mem_foundFor hx).2
  · intro hp
    obtain ⟨x, hfind, hx⟩ := h.find hp
    exact ⟨x, List.mem_filterMap.2 ⟨_, hp, hfind⟩, hx⟩

end

/-! ## Completion and abort -/

/-- The end of gathering, with the training's budget given back. -/
def trainingOver (s : State) : State := (s.gather false).release .training

theorem frame_trainingOver {l : List Part} {s t : State} (hl : [.cellar, .power] ⊆ l) (h : Frame l s t) : Frame l s (trainingOver t) :=
  frame_release _ (hl (by decide)) (frame_withCellar _ (hl (by decide)) h)

/-- The instant of the end of the last step of the last set point. -/
def trainingEnd (o : Op) (fsps : BitVec 3) : Nat :=
  o.start + trainPs * ((List.finRange 3).filter fun f => fsps.getLsbD f.val).length

/-- With a result for every pair the command ends: what passed is trained, and a pair that failed is a hardware fault (R336, R337). -/
theorem execCellarTrainComplete_covered {o : Op} {chans : BitVec 4} {fsps : BitVec 3} {results : List TrainResult} {s : State}
    (hops : s.proto.ops = [o]) (hkind : o.kind = .cellarTrain chans fsps) (hcov : Covers results (trainPairs chans fsps)) :
    execCellarTrainComplete results s =
      let found := foundFor results (trainPairs chans fsps)
      let t := trainingOver (trainAll (found.filter fun x => x.failedStep = 0) (s.goTo (trainingEnd o fsps)))
      if found.all fun x => x.failedStep = 0 then ok (t.finish o stOk 0 (found.map trainWord))
      else ok ((t.finish o stHwFault dtTrainFailed (found.map trainWord)).raise vecFault) := by
  have hwhere : s.opWhere isCellarTrain = some o := opWhere_only hops (by rw [hkind]; rfl)
  have hall : ¬ (foundFor results (trainPairs chans fsps)).length < (trainPairs chans fsps).length :=
    Nat.not_lt.2 (Nat.le_of_eq hcov.foundFor_length.symm)
  unfold execCellarTrainComplete
  split
  next hnone => exact absurd (hwhere.symm.trans hnone) (Option.some_ne_none _)
  next o' hfound =>
    obtain rfl : o = o' := Option.some.inj (hwhere.symm.trans hfound)
    rw [hkind]
    exact if_neg hall

/-- What an abort leaves: points trained perhaps, gathering over, the budget given back (R337). -/
theorem trainAborted_eq {o : Op} {chans : BitVec 4} {fsps : BitVec 3} (hkind : o.kind = .cellarTrain chans fsps) (s : State) :
    ∃ t, PointsTrained s t ∧ trainAborted o s = trainingOver t := by
  unfold trainAborted
  rw [hkind]
  refine ⟨_, ?_, rfl⟩
  refine List.foldlRecOn (motive := PointsTrained s) _ _ (PointsTrained.refl s) fun t ht p _ => ?_
  split
  · exact ht.trainPoint p.1 p.2
  · exact ht.withFree _

theorem doCellarTrainAbort_unqueued {r : Req} {s : State} (h : s.power.queue = []) :
    doCellarTrainAbort r s =
      abortOp [0x0701] isCellarTrain trainAborted r s := by
  have hnone : queuedReq s r.sess (wordAt r.payload 0) = none := by rw [queuedReq, h, List.find?_nil]
  unfold doCellarTrainAbort
  rw [hnone]
  rfl

/-- The values of a passing step, kept with KEEP (R342). -/
def keepStep (c : Fin 4) (keep : Bool) (res : StepResult) (s : State) : State :=
  if keep && res.pass then s.updCel c fun x => { x with values := x.values.set s.cellar.fsp ((List.range 36).map (wordAt res.lines)) } else s

theorem keepStep_ch (c : Fin 4) (keep : Bool) (res : StepResult) (s : State) :
    (keepStep c keep res s).cellar.ch = if keep = true ∧ res.pass = true
      then s.cellar.ch.set c { s.cellar.ch[c] with
        values := s.cellar.ch[c].values.set s.cellar.fsp ((List.range 36).map (wordAt res.lines)) }
      else s.cellar.ch := by
  unfold keepStep
  simp only [Bool.and_eq_true]
  split <;> rfl

theorem keepStep_ops (c : Fin 4) (keep : Bool) (res : StepResult) (s : State) : (keepStep c keep res s).proto.ops = s.proto.ops := by
  unfold keepStep
  split <;> rfl

theorem frame_keepStep {l : List Part} {s t : State} (c : Fin 4) (keep : Bool) (res : StepResult) (hl : .cellar ∈ l) (h : Frame l s t) :
    Frame l s (keepStep c keep res t) := by
  unfold keepStep
  split
  · exact frame_updCel _ _ hl h
  · exact h

theorem execCellarTrainStepComplete_only {o : Op} {c : Fin 4} {k : BitVec 4} {keep : Bool} (res : StepResult) {s : State}
    (hops : s.proto.ops = [o]) (hkind : o.kind = .cellarStep c k keep) :
    execCellarTrainStepComplete res s =
      ok ((trainingOver (keepStep c keep res (s.goTo (o.start + stepMs k.toNat * 10 ^ 9)))).finish o stOk 0
        ((if res.pass then 1 else 0) :: (List.range 36).map (wordAt res.lines))) := by
  have hwhere : s.opWhere isCellarStep = some o := opWhere_only hops (by rw [hkind]; rfl)
  unfold execCellarTrainStepComplete
  split
  next hnone => exact absurd (hwhere.symm.trans hnone) (Option.some_ne_none _)
  next o' hfound =>
    obtain rfl : o = o' := Option.some.inj (hwhere.symm.trans hfound)
    rw [hkind]
    rfl

/-! ## The statement -/

/-- Settles O49: the opcodes by what their handlers answer, the ends of a training by what they leave of the Cellar. -/
theorem cellarTraining : Obligations.CellarTraining := by
  unfold Obligations.CellarTraining
  refine ⟨?trains, ?inUse, ?steps, ?passes, ?fails, ?aborts, ?stepEnds⟩
  case trains =>
    intro r s hr hrsvd hruns hgather hres hmoving hgrant
    have hfree := trainBusy_free (s := taken r s) hruns hgather hres hmoving
    exact ⟨_, answers_of_ready rfl hr (doCellarTrain_granted (s := taken r s) hrsvd hfree hgrant), trainingBegun_cellar _ _ _,
      trainingBegun_ops _ _ _, frame_trainingBegun _ _ (List.Subset.refl _) (frame_taken r s (by decide))⟩
  case inUse =>
    intro r s hr hrsvd hruns hgather hres
    exact answers_of_ready rfl hr (doCellarTrain_busy hrsvd (trainBusy_reserved (s := taken r s) hruns hgather hres))
  case steps =>
    intro r s k hr hrsvd hstep hruns hgather hres hmoving hgrant
    have hfree := trainBusy_free (s := taken r s) hruns hgather hres hmoving
    obtain ⟨kind, hans⟩ := doCellarTrainStep_granted (s := taken r s) hrsvd hstep hfree hgrant
    exact ⟨_, answers_of_ready rfl hr hans, trainingBegun_cellar _ _ _,
      frame_trainingBegun _ _ (List.Subset.refl _) (frame_taken r s (by decide))⟩
  case passes =>
    intro o chans fsps results s hops hkind (hcov : Covers results (trainPairs chans fsps)) hpass
    have hall : ∀ x ∈ foundFor results (trainPairs chans fsps), decide (x.failedStep = 0) = true :=
      fun x hx => decide_eq_true (hpass x (mem_of_mem_foundFor hx).1)
    have hexec := execCellarTrainComplete_covered hops hkind hcov
    simp only [List.filter_eq_self.2 hall, List.all_eq_true.2 hall, if_true] at hexec
    obtain ⟨hmem, hframe⟩ := pointsTrained_trainAll (foundFor results (trainPairs chans fsps)) (s.goTo (trainingEnd o fsps))
    have hops' : (trainingOver (trainAll (foundFor results (trainPairs chans fsps)) (s.goTo (trainingEnd o fsps)))).proto.ops = [o] :=
      (congrArg Proto.ops (hframe .proto (by decide) (by decide))).trans hops
    refine ⟨_, hexec, finish_ops_only hops' _ _ _, ?_, fun c f => ?_, ?_, ?_⟩
    · rw [finish_cellar]; rfl
    · rw [finish_cellar]
      refine (trainAll_trained _ c f _).trans (congrArg (s.cellar.ch[c].trained.getLsbD f.val || ·) ?_)
      rw [Bool.eq_iff_iff, hcov.any_foundFor, mem_trainPairs, Bool.and_eq_true]
    · rw [finish_cellar]; exact hmem
    · exact frame_finish _ _ _ _ (by decide) (frame_trainingOver (by decide)
        (frame_trans (frame_withTime _ (by decide) (frame_refl _ s)) (frame_mono (by decide) hframe)))
  case fails =>
    intro o chans fsps results s hops hkind hpairs (hcov : Covers results (trainPairs chans fsps)) hfail
    have hnone : ∀ x ∈ foundFor results (trainPairs chans fsps), ¬ decide (x.failedStep = 0) = true :=
      fun x hx => mt of_decide_eq_true (hfail x (mem_of_mem_foundFor hx).1)
    have hexec := execCellarTrainComplete_covered hops hkind hcov
    have hsome : foundFor results (trainPairs chans fsps) ≠ [] :=
      List.ne_nil_of_length_pos (hcov.foundFor_length ▸ List.length_pos_iff.2 hpairs)
    have hnotAll : ¬ ((foundFor results (trainPairs chans fsps)).all fun x => x.failedStep = 0) = true := by
      obtain ⟨x, hx⟩ := List.exists_mem_of_ne_nil _ hsome
      exact fun hall => hnone x hx (List.all_eq_true.1 hall x hx)
    simp only [List.filter_eq_nil_iff.2 hnone, if_neg hnotAll] at hexec
    refine ⟨_, hexec, ?_, ?_, raise_irqSum_same _ vecFault, ?_⟩
    · rw [State.raise_proto]; exact finish_ops_only (by exact hops) _ _ _
    · rw [State.raise_cellar, finish_cellar]; rfl
    · exact frame_raise _ (by decide) (by decide) (frame_finish _ _ _ _ (by decide) (frame_trainingOver (by decide)
        (frame_withTime _ (by decide) (frame_refl _ s))))
  case aborts =>
    intro r o chans fsps s hr hqueue hfind hkind
    have hans := (doCellarTrainAbort_unqueued (r := r) (s := taken r s) hqueue).trans
      (abortOp_found (s := taken r s) hfind (by rw [hkind]; rfl))
    obtain ⟨t, ⟨hmem, hframe⟩, haborted⟩ := trainAborted_eq hkind ((taken r s).finish o stAborted 0 [])
    rw [haborted] at hans
    refine ⟨_, answers_of_ready rfl hr hans, ?_, rfl, hmem.trans ?_, ?_⟩
    · exact (congrArg Proto.ops (hframe .proto (by decide) (by decide))).trans (finish_ops _ _ _ _ _)
    · rw [finish_cellar]; rfl
    · exact frame_trainingOver (by decide) (frame_trans (frame_finish _ _ _ _ (by decide) (frame_taken r s (by decide)))
        (frame_mono (by decide) hframe))
  case stepEnds =>
    intro o c k keep res s hops hkind
    have hops' : (trainingOver (keepStep c keep res (s.goTo (o.start + stepMs k.toNat * 10 ^ 9)))).proto.ops = [o] :=
      (keepStep_ops c keep res (s.goTo _)).trans hops
    refine ⟨_, execCellarTrainStepComplete_only res hops hkind, finish_ops_only hops' _ _ _, ?_, ?_, ?_⟩
    · rw [finish_cellar]; rfl
    · rw [finish_cellar]
      exact keepStep_ch c keep res _
    · exact frame_finish _ _ _ _ (by decide) (frame_trainingOver (by decide)
        (frame_keepStep c keep res (by decide) (frame_withTime _ (by decide) (frame_refl _ s))))

end Sys2Proof.Machine
end

section
/-! Producer indices: when an offered index is accepted, what the bits of a DOORBELL do ring by ring, which descriptor a fetch takes, and the statement
about them. -/

namespace Sys2Proof.Machine

theorem updRing_rings_ne {m n : RingId} (h : m ≠ n) (s : State) (g : Ring → Ring) : (s.updRing n g).rings[m] = s.rings[m] := by
  simp [State.updRing, Fin.val_ne_of_ne h.symm]

/-! ## Offers -/

/-- A ring after a producer index is offered to it (R353). -/
def afterOffer (slots : Nat) (v : Word) (r : Ring) : Ring :=
  if fwd r.cons v ≤ slots ∧ fwd r.cons r.prod ≤ fwd r.cons v then { r with prod := v } else { r with badIndex := addSat r.badIndex 1 }

theorem offerProd_eq (n : RingId) (v : Word) (s : State) : offerProd n v s = s.updRing n (afterOffer (rgSlots (ringBlk s n)) v) := by
  unfold offerProd
  congr 1
  funext r
  simp only [afterOffer, Bool.and_eq_true, decide_eq_true_eq]

theorem execProdWrite_up {n : RingId} {v : Word} {s : State} (h : s.pcie.up = true) :
    exec (.prodWrite n v) s = ok (s.updRing n (afterOffer (rgSlots (ringBlk s n)) v)) := by
  rw [← offerProd_eq]
  exact if_pos h

/-! ## Doorbells -/

/-- A set bit of DOORBELL has ring `n`'s producer index read. -/
def bellRead (bits : Word) (s : State) (n : RingId) : Bool :=
  bits.getLsbD n.val && rgEn (ringBlk s n) && decide (rgProdAddr (ringBlk s n) ≠ 0)

theorem bellRead_iff {bits : Word} {s : State} {n : RingId} :
    bellRead bits s n = true ↔ bits.getLsbD n.val = true ∧ rgEn (ringBlk s n) = true ∧ rgProdAddr (ringBlk s n) ≠ 0 := by
  simp only [bellRead, Bool.and_eq_true, decide_eq_true_eq, and_assoc]

/-- One bit of DOORBELL. -/
def bellBit (bits : Word) (idx : Vector Word 32) (s : State) (n : RingId) : State :=
  if bits.getLsbD n.val then ringBell n idx[n] s else s

theorem bellBit_read {bits : Word} {s : State} {n : RingId} (idx : Vector Word 32) (hbus : busLive s = true) (h : bellRead bits s n = true) :
    bellBit bits idx s n =
      (s.emit (.hostRead (rgProdAddr (ringBlk s n)) 4)).updRing n (afterOffer (rgSlots (ringBlk s n)) idx[n]) := by
  obtain ⟨hbit, hen, haddr⟩ := bellRead_iff.1 h
  have hgoes : (rgEn (ringBlk s n) && decide (rgProdAddr (ringBlk s n) ≠ 0) && busLive s) = true := by
    rw [hen, hbus, decide_eq_true haddr]; rfl
  simp only [bellBit, hbit, if_true, ringBell, hgoes, offerProd_eq]
  rfl

theorem bellBit_ignored {bits : Word} {s : State} {n : RingId} (idx : Vector Word 32) (h : bellRead bits s n = false) : bellBit bits idx s n = s := by
  unfold bellBit ringBell
  split
  · next hbit =>
    refine if_neg fun hgoes => ?_
    simp only [Bool.and_eq_true, decide_eq_true_eq] at hgoes
    exact absurd (bellRead_iff.2 ⟨hbit, hgoes.1⟩) (ne_true_of_eq_false h)
  · rfl

/-- The bits of distinct rings act each on its own ring, as it was before. -/
theorem foldl_bellBit (bits : Word) (idx : Vector Word 32) {s : State} (hbus : busLive s = true) (l : List RingId) (hl : l.Nodup) :
    ∃ rs o, l.foldl (bellBit bits idx) s = { s with rings := rs, out := o } ∧
      (∀ n : RingId, rs[n] = if n ∈ l ∧ bellRead bits s n = true then afterOffer (rgSlots (ringBlk s n)) idx[n] s.rings[n] else s.rings[n]) ∧
      ∀ n ∈ l, bellRead bits s n = true → Out.hostRead (rgProdAddr (ringBlk s n)) 4 ∈ o := by
  induction l using List.reverseRecOn with
  | nil => exact ⟨s.rings, s.out, rfl, fun n => by simp, fun n hn => by simp at hn⟩
  | append_singleton l k ih =>
    obtain ⟨hlk, -, hdisj⟩ := List.nodup_append.1 hl
    have hk : k ∉ l := fun hmem => hdisj k hmem k (List.mem_singleton_self k) rfl
    obtain ⟨rs, o, hfold, hrings, hout⟩ := ih hlk
    rw [List.foldl_append, List.foldl_cons, List.foldl_nil, hfold]
    cases hread : bellRead bits s k with
    | true =>
      rw [bellBit_read idx (s := { s with rings := rs, out := o }) hbus hread]
      refine ⟨_, _, rfl, fun n => ?_, fun n hn hbell => ?_⟩
      · by_cases hnk : n = k
        · subst hnk
          simp [hread, hk, hrings, ringBlk, State.act, State.emit]
        · simp [hnk, State.emit, Fin.val_ne_of_ne (Ne.symm hnk)]
          exact hrings n
      · rcases List.mem_append.1 hn with hn | hn
        · exact List.mem_cons_of_mem _ (hout n hn hbell)
        · rw [List.mem_singleton.1 hn]
          exact List.mem_cons_self
    | false =>
      rw [bellBit_ignored idx (s := { s with rings := rs, out := o }) hread]
      refine ⟨rs, o, rfl, fun n => ?_, fun n hn hbell => ?_⟩
      · by_cases hnk : n = k
        · subst hnk
          simp [hread, hk, hrings]
        · simp [hnk, hrings]
      · rcases List.mem_append.1 hn with hn | hn
        · exact hout n hn hbell
        · rw [List.mem_singleton.1 hn, hread] at hbell
          exact absurd hbell (by decide)

theorem execDoorbell_runs {bits : Word} {idx : Vector Word 32} {s : State} (hhost : hostLive s = true) (hreset : inWarmReset s = false)
    (hphase : 2 ≤ s.life.phase.val) : exec (.doorbell bits idx) s = ok (ringIds.foldl (bellBit bits idx) s) := by
  have hboot : ¬ s.life.phase.val < 2 := by omega
  simp only [exec, execDoorbell, hhost, hreset, bellWrite, hboot]
  rfl

/-! ## Fetches -/

theorem execDescriptorFetch_one {n : RingId} {d : Vector Word 8} {s : State} (hlive : chanLive s n = true) (hpower : s.power.entering = none)
    (hposted : s.rings[n].descs.length < fwd s.rings[n].cons s.rings[n].prod) :
    exec (.descriptorFetch n [d]) s =
      ok ((s.emits (fetchReads (ringBlk s n) (s.rings[n].cons + BitVec.ofNat 32 s.rings[n].descs.length) 1)).updRing n fun r =>
        { r with descs := r.descs ++ [d], tries := 0 }) := by
  have hone : min (min [d].length 32) (unfetched s n) = 1 := by
    unfold unfetched
    simp only [List.length_singleton]
    omega
  simp only [exec, execDescriptorFetch, hone, hlive, hpower]
  rfl

theorem execDescriptorFetch_none {n : RingId} {d : Vector Word 8} {s : State}
    (hposted : fwd s.rings[n].cons s.rings[n].prod ≤ s.rings[n].descs.length) : exec (.descriptorFetch n [d]) s = ok s := by
  have hnone : unfetched s n = 0 := Nat.sub_eq_zero_of_le hposted
  simp [exec, execDescriptorFetch, hnone]

theorem frame_emits {l : List Part} {s t : State} (os : List Out) (hl : .out ∈ l) (h : Frame l s t) : Frame l s (t.emits os) :=
  frame_foldl os (fun _ o h => frame_emit o hl h) h

@[simp] theorem emits_rings (s : State) (os : List Out) : (s.emits os).rings = s.rings := by
  induction os generalizing s with
  | nil => rfl
  | cons o os ih => exact ih (s.emit o)

/-- Settles O9: an offer is accepted or counted, the bits of DOORBELL offer each to its own ring, and a fetch goes by the index accepted last. -/
theorem producerIndices : Obligations.ProducerIndices := by
  unfold Obligations.ProducerIndices
  refine ⟨?accepted, ?ignored, ?doorbell, ?fetch⟩
  case accepted =>
    intro n v s hup hroom hback
    rw [execProdWrite_up hup, State.updRing, afterOffer, if_pos ⟨hroom, hback⟩]
  case ignored =>
    intro n v s hup hbad
    rw [execProdWrite_up hup, State.updRing, afterOffer, if_neg (by omega)]
  case doorbell =>
    intro bits idx s hhost hreset hphase hbus
    obtain ⟨rs, o, hfold, hrings, hout⟩ := foldl_bellBit bits idx hbus ringIds (List.nodup_finRange 32)
    refine ⟨_, by rw [execDoorbell_runs hhost hreset hphase, hfold], ?_, fun n => ⟨?_, fun hbit hen haddr => ?_⟩⟩
    · intro p _ hp
      cases p <;> simp [Part.same] at hp ⊢
    · have hn : n ∈ ringIds := List.mem_finRange n
      simpa only [hn, true_and, bellRead_iff, afterOffer] using hrings n
    · exact hout n (List.mem_finRange n) (bellRead_iff.2 ⟨hbit, hen, haddr⟩)
  case fetch =>
    intro n d s hlive hpower
    refine ⟨execDescriptorFetch_none, fun hposted => ⟨_, execDescriptorFetch_one hlive hpower hposted, ?_, fun m hm => ?_, ?_⟩⟩
    · rw [updRing_rings_same, emits_rings]
    · rw [updRing_rings_ne hm, emits_rings]
    · exact frame_updRing n _ (by decide) (frame_emits _ (by decide) (frame_refl _ s))

end Sys2Proof.Machine
end

section
/-! RING_CMD, MSI-X unmasking and BAR2 writes: what the interrupts of a ring and the completion of a descriptor leave, and the statement about them. -/

namespace Sys2Proof.Machine

/-! ## Interrupts of a ring -/

/-- From `s` to `t` ring `n` has only signalled its vector: of the rings only its HOLDOFF has changed, and more has gone out. -/
structure Signalled (n : RingId) (s t : State) : Prop where
  ring : ∃ h m, t.rings[n] = { s.rings[n] with holdoff := h, merged := m }
  others : ∀ m : RingId, m ≠ n → t.rings[m] = s.rings[m]
  out : ∀ o ∈ s.out, o ∈ t.out
  frame : Frame [.rings, .out, .pcie] s t

/-- The message of a vector goes out, or its PBA bit is set. -/
theorem message_out {o : Out} {s : State} (v : Fin 64) (h : o ∈ s.out) : o ∈ (s.message v).out := by
  unfold State.message
  split
  · split
    · exact h
    · exact List.mem_cons_of_mem _ h
  · exact h

theorem frame_message {l : List Part} {s t : State} (v : Fin 64) (hp : .pcie ∈ l) (ho : .out ∈ l) (h : Frame l s t) :
    Frame l s (t.message v) := by
  unfold State.message
  split
  · split
    · exact frame_withPcie _ hp h
    · exact frame_emit _ ho h
  · exact h

theorem signalled_ringMessage (n : RingId) (s : State) : Signalled n s (ringMessage n s) where
  ring := ⟨_, _, (updRing_rings_same _ n _).trans (by rw [State.message_rings])⟩
  others m hm := (updRing_rings_ne hm _ _).trans (by rw [State.message_rings])
  out _ ho := message_out _ ho
  frame := frame_updRing n _ (by decide) (frame_message _ (by decide) (by decide) (frame_refl _ s))

/-- The summary bit of a vector touches no ring and nothing that has gone out. -/
theorem Signalled.of_setSum {n : RingId} {v : Fin 64} {s t : State} (h : Signalled n (s.setSum v) t) : Signalled n s t where
  ring := h.ring
  others := h.others
  out := h.out
  frame := frame_trans (frame_withPcie (t := s) _ (by decide) (frame_refl _ s)) h.frame

theorem signalled_ringEvent (n : RingId) (s : State) : Signalled n s (ringEvent n s) := by
  apply Signalled.of_setSum (v := vecRing n)
  unfold ringEvent
  split
  · split
    · exact ⟨⟨_, _, updRing_rings_same _ n _⟩, fun m hm => updRing_rings_ne hm _ _, fun _ ho => ho,
        frame_updRing n _ (by decide) (frame_refl _ _)⟩
    · exact signalled_ringMessage n _
  · exact signalled_ringMessage n _

/-! ## Completion of a descriptor -/

/-- A ring after the descriptor at CONS has completed, but for its HOLDOFF. -/
def completed (item : Bool) (r : Ring) : Ring := { r with
  cons := r.cons + 1, descs := r.descs.drop 1, done := 0, half := false, halfSent := false, sop := false, reads := [], gathered := [], tries := 0
  items := if item then addSat r.items 1 else r.items }

/-- The completion of a descriptor writes its word 6 and moves CONS by one, and no other ring changes (R367). -/
theorem completeDesc_spec (n : RingId) (len : Nat) (eop item : Bool) (err : Nat) (s : State) :
    (∃ h m, (completeDesc n len eop item err s).rings[n] = { completed item s.rings[n] with holdoff := h, merged := m }) ∧
    (∀ m : RingId, m ≠ n → (completeDesc n len eop item err s).rings[m] = s.rings[m]) ∧
    Out.hostWrite (slotAddr (ringBlk s n) s.rings[n].cons + 24)
      (wordsBytes [word6 len true s.rings[n].half s.rings[n].sop eop err]) false false false ∈ (completeDesc n len eop item err s).out ∧
    Frame [.rings, .out, .pcie] s (completeDesc n len eop item err s) := by
  unfold completeDesc
  extract_lets b r half cons full s1 s2 s3
  have hrings : s2.rings = s.rings := by unfold s2; split <;> rfl
  have hsent : Out.hostWrite (slotAddr b r.cons + 24) (wordsBytes [word6 len true half r.sop eop err]) false false false ∈ s3.out := by
    unfold s3 s2
    split
    · exact List.mem_cons_self
    · exact List.mem_cons_of_mem _ List.mem_cons_self
  have hring : s3.rings[n] = completed item s.rings[n] := by rw [updRing_rings_same, hrings]; rfl
  have hothers : ∀ m : RingId, m ≠ n → s3.rings[m] = s.rings[m] := fun m hm => by rw [updRing_rings_ne hm, hrings]
  have hframe : Frame [.rings, .out, .pcie] s s3 := by
    refine frame_updRing n _ (by decide) ?_
    unfold s2
    split
    · exact frame_emit _ (by decide) (frame_refl _ s)
    · exact frame_emit _ (by decide) (frame_emit _ (by decide) (frame_refl _ s))
  split
  · obtain ⟨⟨h, m, hsig⟩, hsigOthers, hsigOut, hsigFrame⟩ := signalled_ringEvent n s3
    exact ⟨⟨h, m, by rw [hsig, hring]⟩, fun k hk => (hsigOthers k hk).trans (hothers k hk), hsigOut _ hsent, frame_trans hframe hsigFrame⟩
  · exact ⟨⟨_, _, hring⟩, hothers, hsent, hframe⟩

/-! ## RESUME and SKIP -/

theorem execResume_halted {n : RingId} {s : State} (h : s.rings[n].halted = true) :
    exec (.resume n) s = ok (reissue n (s.updRing n fun r => { r with halted := false, tries := 0 })) := by
  simp only [exec, execResume, resumeRing, h, if_true]

theorem reissue_nil {n : RingId} {s : State} (h : s.rings[n].reads = []) : reissue n s = s := by
  simp only [reissue, h]

theorem reissue_cons {n : RingId} {x : ReadBurst} {l : List ReadBurst} {s : State} (h : s.rings[n].reads = x :: l) :
    reissue n s = s.emit (.hostRead x.addr x.len) := by
  simp only [reissue, h]

theorem execSkip_halted {n : RingId} {s : State} (h : s.rings[n].halted = true) (hcur : s.rings[n].cur = none) :
    exec (.skip n) s = ok (completeDesc n s.rings[n].done false false s.rings[n].err.toNat
      (s.updRing n fun r => { r with halted := false, cur := none })) := by
  simp only [exec, execSkip, skipRing, h, hcur]
  rfl

theorem execRingCmd_running {n : RingId} {s : State} (h : s.rings[n].halted = false) : exec (.resume n) s = ok s ∧ exec (.skip n) s = ok s := by
  have hrun : (!s.rings[n].halted) = true := by rw [h]; rfl
  exact ⟨congrArg ok (if_neg (ne_true_of_eq_false h)), congrArg ok (if_pos hrun)⟩

/-! ## MSI-X -/

theorem unmask_held {v : Fin 64} {s : State} (hen : s.pcie.msixEn = true) (hpba : s.pcie.pba.getLsbD v.val = true) :
    ∃ x : Pcie, unmask v s = ({ s with pcie := x }).emit (.msix v) ∧ x.pba.getLsbD v.val = false ∧ x.table[v].masked = false := by
  refine ⟨_, by simp only [unmask, hen, hpba, Bool.and_self, if_true]; rfl, ?_, ?_⟩
  · simp
  · simp [updMsix]

theorem unmask_none {v : Fin 64} {s : State} (hpba : s.pcie.pba.getLsbD v.val = false) :
    unmask v s = updMsix v (fun e => { e with masked := false }) s := by
  simp only [unmask, hpba, Bool.false_and, Bool.false_eq_true, if_false]

/-! ## BAR2 -/

theorem stopTaster_none {p : TastRun → Bool} {s : State} (h : s.taster.run = none) : stopTaster p s = s := by
  simp only [stopTaster, h]

/-- A write of one byte mends no word of 32 bytes. -/
theorem mendWords_one (off : Nat) (bad : List Nat) : mendWords off 1 bad = bad := by
  refine List.filter_eq_self.2 fun w _ => ?_
  have hpart : (decide (off ≤ 32 * w) && decide (32 * w + 32 ≤ off + 1)) = false := by
    simp only [Bool.and_eq_false_iff, decide_eq_false_iff_not]; omega
  rw [hpart]; rfl

/-- A claim changes the accesses that wait, and nothing else of the core. -/
theorem claim_eq (c : Core) (cls off n : Nat) : c.claim cls off n = { c with ext := (c.claim cls off n).ext } := by
  unfold Core.claim
  split
  · rfl
  · rfl

theorem putDm_one (c : Core) (cls off : Nat) (b : Byte) :
    c.putDm cls off [some b] = { c with dm := c.dm.write off b, ext := (c.claim cls off 1).ext } := by
  have hmend : (if [some b].all Option.isSome = true then mendWords off [some b].length c.dmBad else c.dmBad) = c.dmBad := mendWords_one off _
  unfold Core.putDm
  rw [hmend, List.length_singleton, claim_eq]
  rfl

theorem claim_idle {c : Core} (cls off n : Nat) (h : c.st ≠ .running) : c.claim cls off n = c := by
  simp [Core.claim, h]

/-- A byte written in the DM window of a core goes to its DM (R26). -/
theorem execBar2Write_dm {n : CoreId} {o : Nat} {a : BitVec 28} {b : Byte} {s : State} (hhost : hostLive s = true) (hreset : inWarmReset s = false)
    (hphase : 2 ≤ s.life.phase.val) (htaster : s.taster.run = none) (hregion : s.power.isolated.getLsbD 4 = false) (ho : o < 0x40000)
    (ha : a.toNat = 0xC040000 + 0x100000 * n.val + o) :
    exec (.bar2Write a [some b] false) s = ok (s.updCore n fun c => c.putDm 2 o [some b]) := by
  have hn := n.isLt
  have hvat : ¬ a.toNat < vatBytes := by unfold vatBytes; omega
  have hboot : ¬ s.life.phase.val < 2 := by omega
  have hset : (decide (0x4000000 ≤ a.toNat) && decide (a.toNat < 0x4000000 + vatBytes)) = false := by
    rw [Bool.and_eq_false_iff, decide_eq_false_iff_not, decide_eq_false_iff_not]; unfold vatBytes; omega
  have hclear : (decide (0x8000000 ≤ a.toNat) && decide (a.toNat < 0x8000000 + vatBytes)) = false := by
    rw [Bool.and_eq_false_iff, decide_eq_false_iff_not, decide_eq_false_iff_not]; unfold vatBytes; omega
  have hcore : (decide (0xC000000 ≤ a.toNat) && decide (a.toNat < 0xC800000) && !s.power.isolated.getLsbD 4) = true := by
    rw [hregion, Bool.and_eq_true, Bool.and_eq_true, decide_eq_true_eq, decide_eq_true_eq]; exact ⟨by omega, rfl⟩
  have hid : (⟨(a.toNat - 0xC000000) / 0x100000 % 8, by omega⟩ : CoreId) = n := by
    ext
    show (a.toNat - 0xC000000) / 0x100000 % 8 = n.val
    omega
  have hoff : a.toNat % 0x100000 = 0x40000 + o := by omega
  have him : ¬ 0x40000 + o < 0x10000 := by omega
  have hdm : (decide (0x40000 ≤ 0x40000 + o) && decide (0x40000 + o < 0x80000)) = true := by
    simp only [Bool.and_eq_true, decide_eq_true_eq]; omega
  have hwhole : [some b].take (0x80000 - (0x40000 + o)) = [some b] := List.take_of_length_le (by simp only [List.length_singleton]; omega)
  simp only [exec, execBar2Write, hhost, hreset, bar2Store, hvat, hboot, hset, hclear, hcore, hid, hoff, him, hdm, hwhole, endCoreTest,
    stopTaster_none htaster, Nat.add_sub_cancel_left]
  rfl

/-- Settles O10: each clause is what the command does to its ring, its vector or its core. -/
theorem ringControl : Obligations.RingControl := by
  unfold Obligations.RingControl
  refine ⟨⟨?resume, ?reissue, ?skip, fun n s h => execRingCmd_running h⟩, ?held, ?none, ?dm⟩
  case resume =>
    intro n s hhalt hreads
    rw [execResume_halted hhalt, reissue_nil (by rw [updRing_rings_same]; exact hreads)]
    rfl
  case reissue =>
    intro n x l s hhalt hreads
    rw [execResume_halted hhalt, reissue_cons (by rw [updRing_rings_same]; exact hreads)]
    rfl
  case skip =>
    intro n d l s hhalt hcur hdescs
    obtain ⟨⟨h, m, hring⟩, hothers, hsent, hframe⟩ := completeDesc_spec n s.rings[n].done false false s.rings[n].err.toNat
      (s.updRing n fun r => { r with halted := false, cur := none })
    rw [updRing_rings_same] at hring hsent
    refine ⟨_, execSkip_halted hhalt hcur, by rw [hring]; rfl, by rw [hring]; rfl, by rw [hring]; simp only [completed, hdescs]; rfl,
      by rw [hring]; rfl, fun k hk => (hothers k hk).trans (updRing_rings_ne hk _ _), hsent, ?_⟩
    exact frame_trans (frame_updRing n _ (by decide) (frame_refl _ s)) hframe
  case held =>
    intro v s hhost hen hpba
    obtain ⟨x, hx, hclear, hmask⟩ := unmask_held hen hpba
    refine ⟨_, by rw [exec, execMsixUnmask, if_pos hhost, hx], rfl, hclear, hmask, ?_⟩
    exact frame_emit _ (by decide) (frame_withPcie _ (by decide) (frame_refl _ s))
  case none =>
    intro v s hhost hpba
    refine ⟨updMsix v (fun e => { e with masked := false }) s, by rw [exec, execMsixUnmask, if_pos hhost, unmask_none hpba], ?_, rfl,
      frame_withPcie _ (by decide) (frame_refl _ s)⟩
    simp [updMsix]
  case dm =>
    intro n o a b s hhost hreset hphase htaster hregion ho ha
    refine ⟨_, execBar2Write_dm hhost hreset hphase htaster hregion ho ha, ?_, fun hst => ?_, frame_updCore n _ (by decide) (frame_refl _ s)⟩
    · rw [updCore_core_same, putDm_one]
      simp only [State.updCore, putDm_one]
    · rw [updCore_core_same, putDm_one, claim_idle _ _ _ hst]

end Sys2Proof.Machine
end

section
/-! A data burst of a command ring while the CP restarts, which asks for nothing, and the statement about descriptors and bursts. -/

namespace Sys2Proof.Machine

theorem out_eq_of_ok {s t : State} (h : ok s = ok t) : t.out = s.out := by
  simpa using (congrArg (fun u : State => u.out) (Host.Outcome.next.inj h)).symm

/-- While the CP does not run, the packets of a command ring stay in host memory (R24). -/
theorem dataStep_command_waits {n : RingId} {d : Vector Word 8} {l : List (Vector Word 8)} {e : EccRead} {s : State}
    (hdescs : s.rings[n].descs = d :: l) (hkind : rgKind (ringBlk s n) = 0) (hgood : dsBad 0 d = false) (hcp : cpRuns s = false) :
    dataStep n e s = s := by
  unfold dataStep
  split
  · rfl
  · simp only [hdescs, hkind, hgood, hcp, Bool.and_false, Bool.false_eq_true, if_false, if_true]

/-- Ring 0 is a command ring with one descriptor fetched, and the CP restarts. -/
def commandWhileRestarting : State := { State.reset with
  life := { State.reset.life with inReset := false, phase := 4 }
  pcie := { State.reset.pcie with up := true }
  params := { State.reset.params with active := [(bid 0x80 0, [1])] }
  rings := State.reset.rings.set 0 { descs := [#v[0, 0, 0x800, 0, 0, 0, 0, 0]] } }

/-- Refutes O11: its clause about DATA_BURST of a command ring asks for the first bytes of the packet whether or not the CP runs, and in
`commandWhileRestarting` it does not (R24). -/
theorem not_descriptorsAndBursts : ¬ Obligations.DescriptorsAndBursts := by
  unfold Obligations.DescriptorsAndBursts
  rintro ⟨-, hburst, -⟩
  obtain ⟨t, ht, hout, -⟩ := hburst 0 #v[0, 0, 0x800, 0, 0, 0, 0, 0] [] commandWhileRestarting (by decide +kernel) (by decide +kernel) rfl rfl rfl
    rfl (by decide +kernel) (by decide +kernel) (by decide +kernel)
  have hwaits : dataStep 0 .clean commandWhileRestarting = commandWhileRestarting :=
    dataStep_command_waits rfl (by decide +kernel) (by decide +kernel) (by decide +kernel)
  have hsame : t.out = commandWhileRestarting.out := (out_eq_of_ok ht).trans (by rw [hwaits])
  rw [hsame] at hout
  exact absurd hout (List.cons_ne_self _ _).symm

end Sys2Proof.Machine
end

section
/-! Timers of a ring: what an end of HOLDOFF does, what a commit's application to a RING set makes active, and the statement about them. -/

namespace Sys2Proof.Machine

/-! ## HOLDOFF -/

theorem execHoldoffExpiry_merged {n : RingId} {e : Nat} {s : State} (hhold : s.rings[n].holdoff = some e) (hmerged : s.rings[n].merged = true) :
    exec (.holdoffExpiry n) s = ok (ringMessage n (s.goTo e)) := by
  simp only [exec, execHoldoffExpiry, hhold, hmerged, if_true]

theorem execHoldoffExpiry_unmerged {n : RingId} {e : Nat} {s : State} (hhold : s.rings[n].holdoff = some e) (hmerged : s.rings[n].merged = false) :
    exec (.holdoffExpiry n) s = ok ((s.goTo e).updRing n fun r => { r with holdoff := none }) := by
  simp only [exec, execHoldoffExpiry, hhold, hmerged, Bool.false_eq_true, if_false]

theorem message_sent {v : Fin 64} {s : State} (hen : s.pcie.msixEn = true) (hmask : s.pcie.table[v].masked = false) :
    s.message v = s.emit (.msix v) := by
  simp only [State.message, hen, hmask, if_true, Bool.false_eq_true, if_false]

/-! ## A commit's application -/

theorem getBlk_assocSet_same (set : List (BlockId × List Word)) (b : BlockId) (v : List Word) : getBlk (assocSet set b v) b = v := by
  rw [getBlk, assocGet_assocSet_same, Option.getD_some]

theorem endCommit_params (c : Commit) (st det : Nat) (ws : List Word) (s : State) : (s.endCommit c st det ws).params = s.params := by
  have hfinish : ∀ (o : Op) (t : State), (t.finish o st det ws).params = t.params := fun o t =>
    frame_finish o st det ws (List.Subset.refl _) (frame_refl _ t) .params (by decide) (by decide)
  unfold State.endCommit
  extract_lets s1 s2 s3
  have h3 : s3.params = s.params := by
    unfold s3
    split
    · exact hfinish _ s2
    · rfl
  split
  · exact h3
  · split
    · exact h3
    · exact h3

theorem settle_params (c : Commit) (s : State) : (s.settle c).params = s.params := by
  unfold State.settle
  split
  · exact endCommit_params _ _ _ _ _
  · rfl

/-- A RING set has no effect of its own beyond becoming active. -/
theorem applyBlock_ring {b : BlockId} (hb : b.code = 0x80) (s : State) : applyBlock b s = s.setAct b (getBlk s.params.shadow b) := by
  simp only [applyBlock, blockEffect, hb]

/-- Applied once or more, a RING set is as in the shadow, and the shadow stays. -/
theorem foldl_applyBlock_ring {b : BlockId} (hb : b.code = 0x80) {l : List BlockId} (hl : ∀ x ∈ l, x = b) (s : State) :
    (l.foldl (fun s b => applyBlock b s) s).params.shadow = s.params.shadow ∧
      (l ≠ [] → getBlk (l.foldl (fun s b => applyBlock b s) s).params.active b = getBlk s.params.shadow b) := by
  induction l using List.reverseRecOn with
  | nil => exact ⟨rfl, fun h => absurd rfl h⟩
  | append_singleton l x ih =>
    obtain ⟨hshadow, -⟩ := ih fun y hy => hl y (List.mem_append_left _ hy)
    obtain rfl : x = b := hl x (List.mem_append_right _ (List.mem_singleton_self x))
    rw [List.foldl_append, List.foldl_cons, List.foldl_nil, applyBlock_ring hb]
    exact ⟨hshadow, fun _ => by rw [State.setAct, getBlk_assocSet_same, hshadow]⟩

/-- A due commit that still holds a RING set makes it active at the ring's application point (R58, R372). -/
theorem localPoint_ring {b : BlockId} {s : State} (hb : b.code = 0x80) (hdue : ∃ c ∈ s.commits, localDue c s.now = true ∧ b ∈ c.left) :
    getBlk (s.localPoint [b]).params.active b = getBlk s.params.shadow b := by
  obtain ⟨c, hc, hnow, hleft⟩ := hdue
  unfold State.localPoint
  split
  · next hnone =>
    have hskip := List.find?_eq_none.1 hnone c hc
    simp [hnow, hleft] at hskip
  · next d hsome =>
    have hholds := List.find?_some hsome
    rw [settle_params]
    refine (foldl_applyBlock_ring hb (fun x hx => ?_) s).2 fun hnil => ?_
    · simpa using (List.mem_filter.1 hx).2
    · obtain ⟨x, hx, hin⟩ := List.any_eq_true.1 (Bool.and_eq_true_iff.1 hholds).2
      exact absurd (hnil ▸ List.mem_filter.2 ⟨hx, hin⟩) List.not_mem_nil

theorem noteLtr_params (old : Nat) (s : State) : (noteLtr old s).params = s.params := by
  unfold noteLtr
  split
  · rfl
  · rfl

theorem bid_ring_code (n : RingId) : (bid 0x80 n.val).code = 0x80 := by
  have hn := n.isLt
  simp only [bid, BlockId.code, BitVec.toNat_ofNat]
  omega

/-- A ring that stays enabled takes its set between two bursts without stopping. -/
theorem execRingCommitApply_enabled {n : RingId} {s : State} (hdue : ∃ c ∈ s.commits, localDue c s.now = true ∧ bid 0x80 n.val ∈ c.left)
    (hold : rgEn (ringBlk s n) = true) (hnew : rgEn (s.shad 0x80 n.val) = true) :
    exec (.ringCommitApply n) s = ok (noteLtr (ltrUs s) (s.localPoint [bid 0x80 n.val])) := by
  obtain ⟨c, hc, hnow, hleft⟩ := hdue
  have hany : (s.commits.any fun c => localDue c s.now && c.left.contains (bid 0x80 n.val)) = true :=
    List.any_eq_true.2 ⟨c, hc, by simp [hnow, hleft]⟩
  simp only [exec, execRingCommitApply, hany, hold, hnew, Bool.not_true, Bool.and_false, Bool.false_and, Bool.false_eq_true, if_true, if_false]

/-- Settles O12: a merged event is sent when HOLDOFF ends, and a due commit makes the ring's set active. -/
theorem ringTimers : Obligations.RingTimers := by
  unfold Obligations.RingTimers
  refine ⟨?merged, ?unmerged, ?commit⟩
  case merged =>
    intro n e s hhold hmerged hen hmask
    refine ⟨_, execHoldoffExpiry_merged hhold hmerged, ?_, ?_, ?_, ?_⟩ <;>
      unfold ringMessage <;> rw [message_sent (s := s.goTo e) hen hmask]
    · rfl
    · rw [updRing_rings_same]
    · rfl
    · exact frame_updRing n _ (by decide) (frame_emit _ (by decide) (frame_withTime _ (by decide) (frame_refl _ s)))
  case unmerged =>
    intro n e s hhold hmerged
    exact ⟨_, execHoldoffExpiry_unmerged hhold hmerged, by rw [updRing_rings_same],
      frame_updRing n _ (by decide) (frame_withTime _ (by decide) (frame_refl _ s))⟩
  case commit =>
    intro n s hdue hold hnew
    exact ⟨_, execRingCommitApply_enabled hdue hold hnew, by rw [State.act, noteLtr_params]; exact localPoint_ring (bid_ring_code n) hdue⟩

end Sys2Proof.Machine
end

section
/-! The state after reset. -/

namespace Sys2Proof.Machine

/-- Settles O5: every field is read off the reset state. -/
theorem resetState : Obligations.ResetState := by
  unfold Obligations.ResetState
  refine ⟨by decide, by decide, rfl, fun c n => ⟨rfl, rfl⟩, by decide, rfl, rfl, by decide, by decide, by decide, rfl, rfl, by decide, rfl,
    by decide, rfl⟩

end Sys2Proof.Machine
end

section
/-! Frames of the updates that the remaining statements speak of: vats, aux front end, Taster, trims, life cycle, peers, parameters and power. -/

namespace Sys2Proof.Machine

section
variable {l : List Part} {s t : State}

/-- A frame that lists the aux front end stays when it is replaced. -/
theorem frame_withAux (x : AuxSt) (hl : .aux ∈ l) (h : Frame l s t) : Frame l s { t with aux := x } := by
  intro p ha hp
  have hsame := h p ha hp
  cases p with
  | aux => exact absurd hl hp
  | _ => exact hsame

/-- A frame that lists the Taster stays when it is replaced. -/
theorem frame_withTaster (x : Taster) (hl : .taster ∈ l) (h : Frame l s t) : Frame l s { t with taster := x } := by
  intro p ha hp
  have hsame := h p ha hp
  cases p with
  | taster => exact absurd hl hp
  | _ => exact hsame

/-- A frame that lists the Vintages stays when they are replaced. -/
theorem frame_withVint (x : Vint) (hl : .vint ∈ l) (h : Frame l s t) : Frame l s { t with vint := x } := by
  intro p ha hp
  have hsame := h p ha hp
  cases p with
  | vint => exact absurd hl hp
  | _ => exact hsame

/-- A frame that lists the life cycle stays when it is replaced. -/
theorem frame_withLife (x : Life) (hl : .life ∈ l) (h : Frame l s t) : Frame l s { t with life := x } := by
  intro p ha hp
  have hsame := h p ha hp
  cases p with
  | life => exact absurd hl hp
  | _ => exact hsame

/-- A frame that lists the peers stays when they are replaced. -/
theorem frame_withPeer (x : Peer) (hl : .peer ∈ l) (h : Frame l s t) : Frame l s { t with peer := x } := by
  intro p ha hp
  have hsame := h p ha hp
  cases p with
  | peer => exact absurd hl hp
  | _ => exact hsame

/-- A frame that lists the parameters stays when they are replaced. -/
theorem frame_withParams (x : Params) (hl : .params ∈ l) (h : Frame l s t) : Frame l s { t with params := x } := by
  intro p ha hp
  have hsame := h p ha hp
  cases p with
  | params => exact absurd hl hp
  | _ => exact hsame

/-- A frame that lists the power manager stays when it is replaced. -/
theorem frame_withPower (x : Power) (hl : .power ∈ l) (h : Frame l s t) : Frame l s { t with power := x } := by
  intro p ha hp
  have hsame := h p ha hp
  cases p with
  | power => exact absurd hl hp
  | activity => exact absurd rfl ha
  | _ => exact hsame

/-- A frame that lists the rings stays when they are replaced. -/
theorem frame_withRings (x : Vector Ring 32) (hl : .rings ∈ l) (h : Frame l s t) : Frame l s { t with rings := x } := by
  intro p ha hp
  have hsame := h p ha hp
  cases p with
  | rings => exact absurd hl hp
  | _ => exact hsame

theorem frame_pin (p : Pin) (level : Bool) (hl : .out ∈ l) (h : Frame l s t) : Frame l s (t.pin p level) := frame_emit _ hl h

theorem frame_goTo (clk : Nat) (hl : .time ∈ l) (h : Frame l s t) : Frame l s (t.goTo clk) := frame_withTime _ hl h

end

end Sys2Proof.Machine
end

section
/-! Vat registers: what CONFL_CLEAR leaves of a counter, what a set or clear address makes of one byte, and the statement about them. -/

namespace Sys2Proof.Machine

theorem addSat_zero_bit (b : Bool) : addSat 0 (if b = true then 1 else 0) = if b = true then 1 else 0 := by
  cases b
  · rfl
  · rfl

theorem conflClear_written {m : Word} {i : Fin 17} (inc : BitVec 17) (s : State) (h : m.getLsbD i.val = true) :
    (conflClear m inc s).vat.confl[i] = if inc.getLsbD i.val = true then 1 else 0 := by
  rw [← addSat_zero_bit]
  simp [conflClear, h]

/-- One byte written to a good word by a master that may write it is mixed into the memory (R320). -/
theorem vatStore_byte {m : Master} {a : Nat} {s : State} (mode : WriteMode) (b : Byte) (hmay : vatAllowed s.life.phase m a = true)
    (hgood : vatBad s a = false) :
    s.vatStore mode m a [some b] =
      { s with vat := { s.vat with mem := s.vat.mem.write a (mixByte mode (s.vat.mem.read a) b) } } := by
  have hone : [some b].take (32 - a % 32) = [some b] := List.take_of_length_le (by simp only [List.length_singleton]; omega)
  have hrest : [some b].drop (32 - a % 32) = [] := List.drop_of_length_le (by simp only [List.length_singleton]; omega)
  simp only [State.vatStore, vatWrite, hone, hrest, vatWordWrite, hmay, hgood]
  rfl

/-- What a set or clear address leaves: the byte mixed, every other byte as it was, nothing but the vats changed. -/
theorem vatStore_byte_spec {m : Master} {a : Nat} {s : State} (mode : WriteMode) (b : Byte) (hmay : vatAllowed s.life.phase m a = true)
    (hgood : vatBad s a = false) (hwf : s.vat.mem.wf = true) :
    (s.vatStore mode m a [some b]).vat.mem.read a = mixByte mode (s.vat.mem.read a) b ∧
      (∀ x, x ≠ a → (s.vatStore mode m a [some b]).vat.mem.read x = s.vat.mem.read x) ∧ Frame [.vat] s (s.vatStore mode m a [some b]) := by
  rw [vatStore_byte mode b hmay hgood]
  exact ⟨Mem.read_write_same a _ hwf, fun x hx => Mem.read_write_other _ hx, frame_withVat _ (by decide) (frame_refl _ s)⟩

/-- Settles O8: a written counter keeps only the increment of its slot, and a set or clear address mixes its byte into the word. -/
theorem vatRegisters : Obligations.VatRegisters := by
  unfold Obligations.VatRegisters
  refine ⟨?counters, ?bits⟩
  case counters =>
    exact fun m inc s i => ⟨conflClear m inc s, rfl, frame_withVat _ (by decide) (frame_refl _ s), fun h => conflClear_written inc s h⟩
  case bits =>
    exact fun m a b s hmay hgood hwf _ =>
      ⟨⟨_, rfl, vatStore_byte_spec .set b hmay hgood hwf⟩, ⟨_, rfl, vatStore_byte_spec .clear b hmay hgood hwf⟩⟩

end Sys2Proof.Machine
end

section
/-! Taster runs: how a run starts, ends and is skipped, what the opcodes of the Taster answer, and the statement about them. -/

namespace Sys2Proof.Machine

/-! ## TASTER_RUN -/

theorem testCount_le (t : Fin 6) : testCount t.val ≤ 66 := by
  revert t
  decide

/-- The selector of a test and its number uses no reserved bit. -/
theorem selector_and_mask : ∀ (t : Fin 6) (i : Fin 66), (t.val + 256 * i.val) &&& 0xFF07 = t.val + 256 * i.val := by decide

section
variable {r : Req} {t : Fin 6} {i : Nat} (hsel : wordAt r.payload 0 = BitVec.ofNat 32 (t.val + 256 * i)) (hi : i < testCount t.val)
include hsel hi

theorem toNat_of_selector : (wordAt r.payload 0).toNat = t.val + 256 * i := by
  have hle := testCount_le t
  have ht := t.isLt
  rw [hsel, BitVec.toNat_ofNat]
  omega

/-- A TASTER_RUN of a test and number of Table 18.8 passes its checks but for what holds the run. -/
theorem doTasterRun_eq (s : State) :
    doTasterRun false r s = if tasterHeld s t.val i then Res.rep stBusy 0 [] s
      else heavy false r .taster tasterMw id (fun s =>
        Res.rep stPending 0 [] (startTaster t i (some (r.sess, r.seq)) (s.addOp r (.tasterRun ⟨t.val, by omega⟩ i) true))) s := by
  have hle := testCount_le t
  have ht := t.isLt
  have hnat := toNat_of_selector hsel hi
  have hrsvd : rsvdBad r 0 0xFF07 = false := by
    rw [rsvdBad, hnat, selector_and_mask t ⟨i, by omega⟩]
    exact decide_eq_false fun h => h rfl
  have htest : wbits (wordAt r.payload 0) 0 3 = t.val := by
    rw [wbits, hnat, bitsOf]
    omega
  have hinst : wbits (wordAt r.payload 0) 8 8 = i := by
    rw [wbits, hnat, bitsOf]
    omega
  simp only [doTasterRun, hrsvd, htest, hinst, ht, Nat.not_le.2 hi, Bool.false_eq_true, if_false, dite_true]

end

/-- The state in which a commanded run goes: its budget held and granted with vector 41, its operation begun, the run started. -/
def tasterBegun (r : Req) (t : Fin 6) (i : Nat) (s : State) : State :=
  startTaster t i (some (r.sess, r.seq)) ((((s.setGrant .taster (s.grantOf .taster + tasterMw)).raise vecPower)).addOp r
    (.tasterRun ⟨t.val, by omega⟩ i) true)

theorem frame_startTaster {l : List Part} {s t : State} (test : Fin 6) (i : Nat) (cmd : Option (BitVec 8 × Word)) (hl : [.taster, .vat] ⊆ l)
    (h : Frame l s t) : Frame l s (startTaster test i cmd t) := by
  intro p ha hp
  have hsame := h p ha hp
  cases p with
  | taster => exact absurd (hl (by decide)) hp
  | vat => exact absurd (hl (by decide)) hp
  | _ => exact hsame

theorem startTaster_mem (test : Fin 6) (i : Nat) (cmd : Option (BitVec 8 × Word)) (s : State) :
    (startTaster test i cmd s).vat.mem = s.vat.mem := by
  unfold startTaster
  dsimp only
  split
  · rfl
  · rfl

theorem frame_tasterBegun {l : List Part} {s t : State} (r : Req) (test : Fin 6) (i : Nat)
    (hl : [.taster, .vat, .proto, .power, .pcie, .out] ⊆ l) (h : Frame l s t) : Frame l s (tasterBegun r test i t) :=
  frame_startTaster _ _ _ (List.Subset.trans (by decide) hl)
    (frame_withProto _ (hl (by decide)) (frame_raise _ (hl (by decide)) (hl (by decide)) (frame_setGrant _ _ (hl (by decide)) h)))

/-! ## The end of a run -/

/-- The state after a run has been taken from the Taster and counted. -/
def tasterCounted (run : TastRun) (s : State) : State :=
  ({ s with taster := { s.taster with run := none, runs := s.taster.runs.set run.test (addSat s.taster.runs[run.test] 1) } }).release .taster

/-- What the Taster records of a failure (R463). -/
def recordedFailure (run : TastRun) (m : BitVec 16) (s : State) : Taster :=
  { s.taster with
    fails := s.taster.fails.set run.test (addSat s.taster.fails[run.test] 1), failTime := s.now, failTest := BitVec.ofNat 3 run.test.val
    failInst := BitVec.ofNat 7 run.inst, failMeasure := m }

/-- The state after a failure of a run has been recorded and reported. -/
def tasterFailed (run : TastRun) (m : BitVec 16) (s : State) : State :=
  ({ s with taster := recordedFailure run m s }).raise vecTaster

theorem frame_tasterCounted {l : List Part} {s t : State} (run : TastRun) (hl : [.taster, .power] ⊆ l) (h : Frame l s t) :
    Frame l s (tasterCounted run t) :=
  frame_release _ (hl (by decide)) (frame_withTaster _ (hl (by decide)) h)

/-- A run that no command asked for answers nobody. -/
theorem execTasterRunEnd_scheduled {run : TastRun} {m : BitVec 16} {s : State} (pass : Bool) (hrun : s.taster.run = some run)
    (hvat : run.test ≠ 0) (hengine : pass = true ∨ run.test ≠ 3) (hcmd : run.cmd = none) :
    exec (.tasterRunEnd pass m) s = ok (if pass then tasterCounted run s else tasterFailed run m (tasterCounted run s)) := by
  simp only [exec, execTasterRunEnd, hrun, hvat, hcmd, if_false, Option.isSome_none, Bool.false_eq_true]
  rcases hengine with rfl | hengine
  · split
    · rfl
    · rfl
  · simp only [hengine, decide_false, Bool.false_and, Bool.false_eq_true, if_false]
    split
    · rfl
    · rfl

/-! ## TASTER_ABORT -/

/-- The state after the run in progress has left the Taster without a result, before its command is answered. -/
def tasterStopped (run : TastRun) (s : State) : State :=
  ({ s with
    taster := { s.taster with run := none }
    vat := if run.test = 0 then { s.vat with rotating := none } else s.vat }).release .taster

/-- The kind of TASTER_RUN. -/
def isTasterRun : OpKind → Bool
  | .tasterRun _ _ => true
  | _ => false

theorem stopTaster_commanded {run : TastRun} {o : Op} {t : Fin 8} {i : Nat} {s : State} (hrun : s.taster.run = some run)
    (hops : s.proto.ops = [o]) (hkind : o.kind = .tasterRun t i) :
    stopTaster (fun _ => true) s = (tasterStopped run s).finish o stAborted 0 [] := by
  have hop : (tasterStopped run s).opWhere isTasterRun = some o := opWhere_only hops (by rw [hkind]; rfl)
  simp only [stopTaster, hrun, if_true]
  split
  next o' hfound =>
    obtain rfl : o = o' := Option.some.inj (hop.symm.trans hfound)
    rfl
  next hnone => exact absurd (hop.symm.trans hnone) (Option.some_ne_none _)

@[simp] theorem finish_taster (o : Op) (st det : Nat) (ws : List Word) (s : State) : (s.finish o st det ws).taster = s.taster :=
  frame_finish (l := [.proto, .rings, .out]) o st det ws (List.Subset.refl _) (frame_refl _ s) .taster (by decide) (by decide)

@[simp] theorem finish_vat (o : Op) (st det : Nat) (ws : List Word) (s : State) : (s.finish o st det ws).vat = s.vat :=
  frame_finish (l := [.proto, .rings, .out]) o st det ws (List.Subset.refl _) (frame_refl _ s) .vat (by decide) (by decide)

theorem findOp_only {o : Op} {s : State} (hops : s.proto.ops = [o]) : s.findOp o.sess o.seq = some o := by
  simp only [State.findOp, hops]
  exact List.find?_cons_of_pos (by simp)

theorem doTasterAbort_running {r : Req} {o : Op} {t : Fin 8} {i : Nat} {s : State} (hqueue : s.power.queue = []) (hops : s.proto.ops = [o])
    (hsess : o.sess = r.sess) (hseq : o.seq = wordAt r.payload 0) (hkind : o.kind = .tasterRun t i) :
    doTasterAbort r s = Res.ok [] (stopTaster (fun _ => true) s) := by
  have hnone : queuedReq s r.sess (wordAt r.payload 0) = none := by rw [queuedReq, hqueue, List.find?_nil]
  have hfind : s.findOp r.sess (wordAt r.payload 0) = some o := hsess ▸ hseq ▸ findOp_only hops
  simp only [doTasterAbort, hnone, hfind, hkind]

theorem frame_tasterStopped {l : List Part} {s t : State} (run : TastRun) (hl : [.taster, .vat, .power] ⊆ l) (h : Frame l s t) :
    Frame l s (tasterStopped run t) := by
  refine frame_release _ (hl (by decide)) fun p ha hp => ?_
  have hsame := h p ha hp
  cases p with
  | taster => exact absurd (hl (by decide)) hp
  | vat => exact absurd (hl (by decide)) hp
  | _ => exact hsame

theorem tasterStopped_mem (run : TastRun) (s : State) : (tasterStopped run s).vat.mem = s.vat.mem := by
  show (if run.test = 0 then { s.vat with rotating := none } else s.vat).mem = s.vat.mem
  split
  · rfl
  · rfl

/-! ## Scheduled runs -/

/-- The state after a scheduled run has been counted in SKIPPED (R461). -/
def tasterSkipped (t : Fin 6) (s : State) : State :=
  let s0 := s.goTo (s.taster.last[t] + tsInterval (tsBlk s) t.val * 10 ^ 12)
  { s0 with taster := { s0.taster with
    last := s0.taster.last.set t s0.time.clk, skipped := s0.taster.skipped.set t (addSat s0.taster.skipped[t] 1), paused := true } }

theorem marginBelow_of {s : State} {x : Int} (h : ∃ k : Fin 7, s.power.margins[k] < x) : marginBelow s x = true := by
  obtain ⟨k, hk⟩ := h
  exact List.any_eq_true.2 ⟨s.power.margins[k], Vector.mem_toList_iff.2 (Vector.getElem_mem k.isLt), decide_eq_true hk⟩

/-- A scheduled run of an engine whose margins are low is skipped. -/
theorem execTasterScheduledRun_skipped {t : Fin 6} {i : Nat} {s : State} (hphase : s.life.phase = 3) (hen : tsEn (tsBlk s) = true)
    (hinterval : tsInterval (tsBlk s) t.val ≠ 0) (hrun : s.taster.run = none) (hi : i < testCount t.val) (hpower : s.power.state.val < 2)
    (hlow : marginBelow s 250 = true) (ht : t.val = 3) (hengine : runOf (s.act 0x10 i) = true) :
    exec (.tasterScheduledRun t i) s = ok (tasterSkipped t s) := by
  have hcount : ¬ testCount t.val ≤ i := Nat.not_le.2 hi
  have hawake : ¬ 2 ≤ s.power.state.val := Nat.not_le.2 hpower
  have hstarts : (!decide (s.life.phase = 3) || !tsEn (tsBlk s) || decide (tsInterval (tsBlk s) t.val = 0) || s.taster.run.isSome ||
      decide (testCount t.val ≤ i) || decide (2 ≤ s.power.state.val)) = false := by
    simp [hphase, hen, hinterval, hrun, hcount, hawake]
  have htest : ∀ clk, testable (s.goTo clk) t.val i = true := fun clk => by rw [ht]; exact hengine
  simp only [exec, execTasterScheduledRun, hstarts, htest, hlow, Bool.false_eq_true, if_false, Bool.not_true, Bool.true_or, Bool.or_true, if_true]
  rfl

/-! ## TASTER_STATUS -/

theorem doTasterStatus_eq (r : Req) (s : State) :
    ∃ ws, ws.length = 22 ∧ (∀ t : Fin 6, wordAt ws (1 + 3 * t.val) = s.taster.runs[t] ∧ wordAt ws (2 + 3 * t.val) = s.taster.fails[t] ∧
        wordAt ws (3 + 3 * t.val) = s.taster.skipped[t]) ∧
      doTasterStatus r s = Res.ok ws { s with taster := { s.taster with
        runs := Vector.replicate 6 0, fails := Vector.replicate 6 0, skipped := Vector.replicate 6 0 } } := by
  refine ⟨_, ?_, fun t => ?_, rfl⟩
  · rfl
  · fin_cases t <;> exact ⟨rfl, rfl, rfl⟩

/-- Settles O59: each clause is what the opcode's handler answers, or what the end of a run or its skipping leaves. -/
theorem tasterRuns : Obligations.TasterRuns := by
  unfold Obligations.TasterRuns
  refine ⟨?starts, ?busy, ?passes, ?fails, ?aborts, ?held, ?skips, ?status⟩
  case starts =>
    intro r t i s hr hsel hi hheld hgrant
    have hans : doTasterRun false r (taken r s) = Res.rep stPending 0 [] (tasterBegun r t i (taken r s)) := by
      rw [doTasterRun_eq hsel hi, if_neg (show ¬ tasterHeld (taken r s) t.val i = true from ne_true_of_eq_false hheld)]
      exact heavy_granted _ _ _ (by decide) hgrant
    refine ⟨_, answers_of_ready rfl hr hans, rfl, ?_, ?_, frame_tasterBegun r t i (List.Subset.refl _) (frame_taken r s (by decide))⟩
    · simp [tasterBegun, startTaster, State.addOp]
      rfl
    · rw [tasterBegun, startTaster_mem]
      simp [State.addOp]
      rfl
  case busy =>
    intro r t i s hr hsel hi hrun
    have hheld : tasterHeld (taken r s) t.val i = true := by simp [tasterHeld, hrun]
    exact answers_of_ready rfl hr ((doTasterRun_eq hsel hi _).trans (if_pos hheld))
  case passes =>
    intro run m s hrun hvat hcmd
    exact ⟨_, execTasterRunEnd_scheduled true hrun hvat (.inl rfl) hcmd, rfl, frame_tasterCounted run (List.Subset.refl _) (frame_refl _ s)⟩
  case fails =>
    intro run m s hrun hvat hengine hcmd
    refine ⟨_, execTasterRunEnd_scheduled false hrun hvat (.inr hengine) hcmd, ?_⟩
    have hframe := frame_withTaster (recordedFailure run m (tasterCounted run s)) (l := [.taster, .power, .pcie, .out]) (by decide)
      (frame_tasterCounted run (by decide) (frame_refl _ s))
    have htaster : (tasterFailed run m (tasterCounted run s)).taster = recordedFailure run m (tasterCounted run s) := State.raise_taster _ _
    refine ⟨?_, ?_, ?_, ?_, ?_, raise_irqSum_same _ vecTaster, frame_raise _ (by decide) (by decide) hframe⟩
    · exact congrArg Taster.run htaster
    · exact (congrArg (fun x : Taster => x.fails[run.test]) htaster).trans (by simp [recordedFailure]; rfl)
    · exact congrArg Taster.failTime htaster
    · exact congrArg Taster.failMeasure htaster
    · refine (congrArg (fun x : Taster => x.failTest.toNat) htaster).trans ?_
      exact Nat.mod_eq_of_lt (Nat.lt_trans run.test.isLt (by decide))
  case aborts =>
    intro r o i run s hr hqueue hops hsess hseq ⟨t, hkind⟩ hrun
    have hans : doTasterAbort r (taken r s) = Res.ok [] ((tasterStopped run (taken r s)).finish o stAborted 0 []) := by
      rw [doTasterAbort_running (s := taken r s) hqueue hops hsess hseq hkind, stopTaster_commanded (s := taken r s) hrun hops hkind]
    refine ⟨_, answers_of_ready rfl hr hans, finish_ops_only (s := tasterStopped run (taken r s)) hops _ _ _, ?_, ?_,
      frame_finish _ _ _ _ (by decide) (frame_tasterStopped run (by decide) (frame_taken r s (by decide)))⟩
    · rw [finish_taster]; rfl
    · rw [finish_vat, tasterStopped_mem]; rfl
  case held =>
    intro t i s hrun
    simp [exec, execTasterScheduledRun, hrun]
  case skips =>
    intro t i s hphase hen hinterval hrun hi hpower hlow ht hengine
    refine ⟨_, execTasterScheduledRun_skipped hphase hen hinterval hrun hi hpower (marginBelow_of hlow) ht hengine, ?_, hrun,
      frame_withTaster _ (by decide) (frame_goTo _ (by decide) (frame_refl _ s))⟩
    simp [tasterSkipped, State.goTo]
  case status =>
    intro r s hr
    obtain ⟨ws, hlen, hcounts, hans⟩ := doTasterStatus_eq r (taken r s)
    exact ⟨ws, hlen, hcounts, answers_of_ready rfl hr hans⟩

end Sys2Proof.Machine
end

section
/-! The opcodes of group 0x09: what bringing the interlock pins up to date leaves alone, what the handlers answer, and the statement about them. -/

namespace Sys2Proof.Machine

/-! ## Interlock pins -/

/-- Bringing the INTLK pins up to date changes their levels and what goes out. -/
theorem refreshIntlk_eq (s : State) : ∃ pins out, refreshIntlk s = { s with aux := { s.aux with pins := pins }, out := out } := by
  unfold refreshIntlk
  refine List.foldlRecOn (motive := fun t : State => ∃ pins out, t = { s with aux := { s.aux with pins := pins }, out := out }) _ _
    ⟨s.aux.pins, s.out, rfl⟩ fun t ht p _ => ?_
  obtain ⟨pins, out, rfl⟩ := ht
  extract_lets b
  split
  · exact ⟨pins, out, rfl⟩
  · exact ⟨_, _, rfl⟩

section
variable (s : State)

@[simp] theorem refreshIntlk_proto : (refreshIntlk s).proto = s.proto := by
  obtain ⟨pins, out, h⟩ := refreshIntlk_eq s
  rw [h]

@[simp] theorem refreshIntlk_pcie : (refreshIntlk s).pcie = s.pcie := by
  obtain ⟨pins, out, h⟩ := refreshIntlk_eq s
  rw [h]

/-- Of the aux front end only the pins change. -/
theorem refreshIntlk_aux : ∃ pins, (refreshIntlk s).aux = { s.aux with pins := pins } := by
  obtain ⟨pins, out, h⟩ := refreshIntlk_eq s
  exact ⟨pins, by rw [h]⟩

end

theorem frame_refreshIntlk {l : List Part} {s t : State} (hl : [.aux, .out] ⊆ l) (h : Frame l s t) : Frame l s (refreshIntlk t) := by
  obtain ⟨pins, out, hpins⟩ := refreshIntlk_eq t
  rw [hpins]
  intro p ha hp
  have hsame := h p ha hp
  cases p with
  | aux => exact absurd (hl (by decide)) hp
  | out => exact absurd (hl (by decide)) hp
  | _ => exact hsame

/-! ## AUX_READ -/

/-- A selector within the low 16 bits has no CONVERT and no reserved bit. -/
theorem selector_low16 {r : Req} (h : rsvdBad r 0 0xFFFF = false) :
    rsvdBad r 0 0x1FFFF = false ∧ (wordAt r.payload 0).getLsbD 16 = false := by
  have hlow : (wordAt r.payload 0).toNat < 2 ^ 16 := by
    have hand : (wordAt r.payload 0).toNat &&& (2 ^ 16 - 1) = (wordAt r.payload 0).toNat := not_not.1 (of_decide_eq_false h)
    rw [← hand]
    exact Nat.lt_of_le_of_lt Nat.and_le_right (by decide)
  exact ⟨rsvdBad_eq_false (k := 17) 0x1FFFF rfl (Nat.lt_trans hlow (by decide)), Nat.testBit_lt_two_pow hlow⟩

/-- The inputs a selector names. -/
theorem selected_inputs (w : Word) :
    ((List.finRange 16).filter fun i => (w.extractLsb' 0 16).getLsbD i.val) = (List.finRange 16).filter fun i => w.getLsbD i.val := by
  refine List.filter_congr fun i _ => ?_
  rw [BitVec.getLsbD_extractLsb', Nat.zero_add, decide_eq_true i.isLt, Bool.true_and]

/-- AUX_READ without CONVERT answers the latest results of the inputs it names (R399). -/
theorem doAuxRead_latest {r : Req} {s : State} (hrsvd : rsvdBad r 0 0xFFFF = false)
    (hen : ∀ i : Fin 16, (wordAt r.payload 0).getLsbD i.val = true → axEn (auxBlk s i) = true) (hvia : r.via ≠ .smbus) :
    doAuxRead r s = Res.ok (((List.finRange 16).filter fun i => (wordAt r.payload 0).getLsbD i.val).flatMap fun i => s.aux.inp[i].latest) s := by
  obtain ⟨hmask, hconv⟩ := selector_low16 hrsvd
  have hall : (((List.finRange 16).filter fun i => (wordAt r.payload 0).getLsbD i.val).any fun i => !axEn (auxBlk s i)) = false := by
    refine List.any_eq_false.2 fun i hi => ?_
    rw [hen i (List.mem_filter.1 hi).2]
    decide
  simp only [doAuxRead, auxWords, selected_inputs, hmask, hconv, hall, hvia, Bool.or_self, Bool.not_false, Bool.true_or, decide_false, Bool.false_and,
    Bool.false_eq_true, if_false, if_true]

theorem bit_selector : ∀ i : Fin 16, (BitVec.ofNat 32 (2 ^ i.val + 65536)).extractLsb' 0 16 = (1 : BitVec 16) <<< i.val ∧
    (BitVec.ofNat 32 (2 ^ i.val + 65536)).getLsbD 16 = true ∧ (BitVec.ofNat 32 (2 ^ i.val + 65536)).toNat < 2 ^ 17 ∧
    ((List.finRange 16).filter fun j => ((1 : BitVec 16) <<< i.val).getLsbD j.val) = [i] := by decide

/-- The state in which an idle sequencer converts an input that AUX_READ inserted. -/
def readBegun (r : Req) (i : AuxId) (s : State) : State :=
  beginSlot i true s.time.clk ((s.addOp r (.auxRead ((1 : BitVec 16) <<< i.val) ((1 : BitVec 16) <<< i.val)) false).updAux fun a => { a with ins := [] })

/-- AUX_READ with CONVERT of an input of an idle sequencer inserts its slot (R381). -/
theorem doAuxRead_convert {r : Req} {i : AuxId} {s : State} (hsel : wordAt r.payload 0 = BitVec.ofNat 32 (2 ^ i.val + 65536))
    (hen : axEn (auxBlk s i) = true) (hstart : sqStart (seqBlk s) ≠ 0) (hcal : syscalRuns s = false) (hcur : s.aux.cur = none)
    (hins : s.aux.ins = []) : doAuxRead r s = Res.later (readBegun r i s) := by
  obtain ⟨hmask, hconv, hlow, hinputs⟩ := bit_selector i
  have hrsvd : rsvdBad r 0 0x1FFFF = false := rsvdBad_eq_false 0x1FFFF rfl (hsel ▸ hlow)
  simp only [doAuxRead, hrsvd, hsel, hmask, hconv, hinputs, hstart, hcal, List.any_cons, List.any_nil, hen]
  simp [hcur, hins, State.updAux, State.addOp, readBegun, nextSlot]

/-- A slot that begins changes the slot, its counters and the aux trims in force, and no input. -/
theorem beginSlot_spec (i : AuxId) (inserted : Bool) (at_ : Nat) (s : State) :
    (beginSlot i inserted at_ s).aux.inp = s.aux.inp ∧ (beginSlot i inserted at_ s).proto = s.proto ∧
      (∃ c, (beginSlot i inserted at_ s).aux.cur = some c ∧ c.input = i ∧ c.inserted = inserted ∧ c.n = 0 ∧ c.sum = 0 ∧ at_ ≤ c.began) ∧
      (beginSlot i inserted at_ s).aux.cycle = s.aux.cycle ∧ (beginSlot i inserted at_ s).aux.todo = s.aux.todo := by
  refine ⟨rfl, rfl, ⟨_, rfl, rfl, rfl, rfl, rfl, ?_⟩, rfl, rfl⟩
  dsimp only
  split
  · exact Nat.le_max_left _ _
  · exact Nat.le_refl _

theorem frame_beginSlot {l : List Part} {s t : State} (i : AuxId) (inserted : Bool) (at_ : Nat) (hl : [.aux, .vint] ⊆ l) (h : Frame l s t) :
    Frame l s (beginSlot i inserted at_ t) :=
  frame_withAux (t := t.trimPoint auxTrims) _ (hl (by decide)) (frame_withVint _ (hl (by decide)) h)

/-! ## Calibrations -/

/-- A calibration that begins leaves the inputs alone; a system calibration drops the running cycle (R393). -/
theorem startAuxCal_spec (r : Req) (kind : OpKind) (s : State) :
    ∃ u, startAuxCal r kind s = Res.rep stPending 0 [] u ∧ u.proto.ops = s.proto.ops ++ [⟨r.sess, r.seq, r.opcode, kind, true, s.time.clk⟩] ∧
      u.aux.inp = s.aux.inp ∧ (syscalRuns (s.addOp r kind true) = true → u.aux.cur = none ∧ u.aux.todo = [] ∧ u.aux.cycle = false) ∧
      Frame [.proto, .aux, .out] s u := by
  have hadd : Frame [.proto, .aux, .out] s (s.addOp r kind true) := frame_withProto _ (by decide) (frame_refl _ s)
  unfold startAuxCal
  extract_lets s1 s2
  obtain ⟨pins, hpins⟩ := refreshIntlk_aux s2
  refine ⟨_, rfl, ?_⟩
  rw [refreshIntlk_proto, hpins]
  unfold s2
  split
  · exact ⟨rfl, rfl, fun _ => ⟨rfl, rfl, rfl⟩, frame_refreshIntlk (by decide) (frame_withAux _ (by decide) hadd)⟩
  · next hnot => exact ⟨rfl, rfl, fun hruns => absurd hruns hnot, frame_refreshIntlk (by decide) hadd⟩

/-- An AUX_SYSCAL that has begun stops the sequencer. -/
theorem syscalRuns_addOp (r : Req) (w0 w1 : Word) (s : State) : syscalRuns (s.addOp r (.auxCal 0x0903 w0 w1) true) = true :=
  List.any_eq_true.2 ⟨_, List.mem_append_right _ (List.mem_singleton_self _), rfl⟩

theorem doAuxSelfcal_free {r : Req} {s : State} (h : auxBusy s = false) : doAuxSelfcal r s = startAuxCal r (.auxCal 0x0902 0 0) s :=
  if_neg (ne_true_of_eq_false h)

theorem doAuxSelfcal_busy {r : Req} {s : State} (h : auxBusy s = true) : doAuxSelfcal r s = Res.rep stBusy 0 [] s := if_pos h

theorem doAuxSyscal_free {r : Req} {s : State} (hpayload : syscalBad r = none) (h : auxBusy s = false) :
    doAuxSyscal r s = startAuxCal r (.auxCal 0x0903 (wordAt r.payload 0) (wordAt r.payload 1)) s := by
  simp only [doAuxSyscal, hpayload, h, Bool.false_eq_true, if_false]

theorem doAuxTest_free {r : Req} {s : State} (hrsvd : rsvdBad r 0 0xF = false) (h : auxBusy s = false) :
    doAuxTest r s = startAuxCal r (.auxCal 0x0904 (wordAt r.payload 0) 0) s := by
  simp only [doAuxTest, hrsvd, h, Bool.false_eq_true, if_false]

/-- The kind of AUX_SELFCAL, AUX_SYSCAL and AUX_TEST. -/
def isAuxCal : OpKind → Bool
  | .auxCal _ _ _ => true
  | _ => false

theorem execAuxCalComplete_self {m : AuxMeasure} {o : Op} {s : State} (hops : s.proto.ops = [o]) (hkind : o.kind = .auxCal 0x0902 0 0) :
    exec (.auxCalComplete m) s = ok (refreshIntlk
      (((s.updAux fun a => { a with self := ⟨m.ofs, m.gain⟩, selfValid := true, selfTime := s.now }).finish o stOk 0
        ((List.finRange 4).map (factWord m))).raise vecAux)) := by
  have hop : s.opWhere isAuxCal = some o := opWhere_only hops (by rw [hkind]; rfl)
  show execAuxCalComplete m s = _
  unfold execAuxCalComplete
  split
  next hnone => exact absurd (hop.symm.trans hnone) (Option.some_ne_none _)
  next o' hfound =>
    obtain rfl : o = o' := Option.some.inj (hop.symm.trans hfound)
    rw [hkind]
    rfl

theorem execAuxCalComplete_test {m : AuxMeasure} {o : Op} {w0 w1 : Word} {s : State} (hops : s.proto.ops = [o])
    (hkind : o.kind = .auxCal 0x0904 w0 w1) : ∃ ws, exec (.auxCalComplete m) s = ok ((s.finish o stOk 0 ws).raise vecAux) := by
  have hop : s.opWhere isAuxCal = some o := opWhere_only hops (by rw [hkind]; rfl)
  show ∃ ws, execAuxCalComplete m s = _
  unfold execAuxCalComplete
  split
  next hnone => exact absurd (hop.symm.trans hnone) (Option.some_ne_none _)
  next o' hfound =>
    obtain rfl : o = o' := Option.some.inj (hop.symm.trans hfound)
    rw [hkind]
    exact ⟨_, rfl⟩

@[simp] theorem finish_aux (o : Op) (st det : Nat) (ws : List Word) (s : State) : (s.finish o st det ws).aux = s.aux :=
  frame_finish (l := [.proto, .rings, .out]) o st det ws (List.Subset.refl _) (frame_refl _ s) .aux (by decide) (by decide)

/-! ## AUX_INTLK_RESET -/

/-- AUX_INTLK_RESET of the named pins frees this input's switch. -/
def frees (w : Word) (s : State) (i : AuxId) : Bool := axIntlk (auxBlk s i) && w.getLsbD (axPin (auxBlk s i))

/-- An input whose switch is freed or stays as it was. -/
def freedIf (b : Bool) (x : AuxIn) : AuxIn := { x with freed := x.freed || b }

/-- The switches of distinct inputs are freed each on its own. -/
theorem foldl_frees (w : Word) (s : State) (l : List AuxId) :
    ∃ inp : Vector AuxIn 16, l.foldl (fun s i => if frees w s i then s.updInp i fun x => { x with freed := true } else s) s =
        { s with aux := { s.aux with inp := inp } } ∧
      ∀ i : AuxId, inp[i] = freedIf (decide (i ∈ l) && frees w s i) s.aux.inp[i] := by
  induction l using List.reverseRecOn with
  | nil => exact ⟨s.aux.inp, rfl, fun i => by simp [freedIf]⟩
  | append_singleton l k ih =>
    obtain ⟨inp, hfold, hinp⟩ := ih
    rw [List.foldl_append, List.foldl_cons, List.foldl_nil, hfold]
    have hsame : frees w { s with aux := { s.aux with inp := inp } } k = frees w s k := rfl
    rw [hsame]
    cases hk : frees w s k with
    | true =>
      refine ⟨_, rfl, fun i => ?_⟩
      by_cases hik : i = k
      · subst hik
        have hi : inp[i.val] = freedIf (decide (i ∈ l) && frees w s i) s.aux.inp[i] := hinp i
        simp [hk, hi, freedIf]
      · simp [hik, Fin.val_ne_of_ne (Ne.symm hik)]
        exact hinp i
    | false =>
      refine ⟨inp, rfl, fun i => ?_⟩
      by_cases hik : i = k
      · subst hik
        simp [hinp, hk]
      · simp [hinp, hik]

theorem doAuxIntlkReset_eq {r : Req} {s : State} (hrsvd : rsvdBad r 0 0xF = false) :
    doAuxIntlkReset r s = Res.ok []
      ((List.finRange 16).foldl (fun s i => if frees (wordAt r.payload 0) s i then s.updInp i fun x => { x with freed := true } else s) s) := by
  simp only [doAuxIntlkReset, hrsvd, Bool.false_eq_true, if_false]
  rfl

/-- Settles O55: each clause is what the opcode's handler answers, or what the end of a calibration leaves. -/
theorem auxOpcodes : Obligations.AuxOpcodes := by
  unfold Obligations.AuxOpcodes
  refine ⟨?latest, ?convert, ?selfcal, ?busy, ?syscal, ?test, ?selfEnds, ?testEnds, ?aborts, ?frees, ?status⟩
  case latest =>
    exact fun r s hr hrsvd hen hvia => answers_of_ready rfl hr (doAuxRead_latest (s := taken r s) hrsvd hen hvia)
  case convert =>
    intro r i s hr hsel hen hstart hcal hcur hins
    have hans := doAuxRead_convert (s := taken r s) hsel hen hstart hcal hcur hins
    refine ⟨readBegun r i (taken r s), ?_, rfl, ?_, rfl, frame_beginSlot _ _ _ (by decide) (frame_withAux _ (by decide)
      (frame_withProto _ (by decide) (frame_taken r s (by decide))))⟩
    · show ok (runOp _ _ _ _ _ _ r s) = _
      rw [runOp_ready false doAuxRead hr, hans]
      rfl
    · obtain ⟨-, -, ⟨c, hc, hinput, hinserted, hn, -⟩, -⟩ := beginSlot_spec i true (taken r s).time.clk
        (((taken r s).addOp r (.auxRead ((1 : BitVec 16) <<< i.val) ((1 : BitVec 16) <<< i.val)) false).updAux fun a => { a with ins := [] })
      exact ⟨c, hc, hinput, hinserted, hn⟩
  case selfcal =>
    intro r s hr hfree _
    obtain ⟨u, hu, hops, hinp, -, hframe⟩ := startAuxCal_spec r (.auxCal 0x0902 0 0) (taken r s)
    refine ⟨u, answers_of_ready rfl hr ((doAuxSelfcal_free (s := taken r s) hfree).trans hu), ?_, hinp, frame_trans (frame_taken r s (by decide)) hframe⟩
    rw [hops, hr.opcode]; rfl
  case busy => exact fun r s hr hbusy => answers_of_ready rfl hr (doAuxSelfcal_busy (s := taken r s) hbusy)
  case syscal =>
    intro r s hr hpayload hfree
    obtain ⟨u, hu, -, hinp, hstops, hframe⟩ := startAuxCal_spec r (.auxCal 0x0903 (wordAt r.payload 0) (wordAt r.payload 1)) (taken r s)
    obtain ⟨hcur, htodo, hcycle⟩ := hstops (syscalRuns_addOp _ _ _ _)
    exact ⟨u, answers_of_ready rfl hr ((doAuxSyscal_free (s := taken r s) hpayload hfree).trans hu), hcur, htodo, hcycle, hinp,
      frame_trans (frame_taken r s (by decide)) hframe⟩
  case test =>
    intro r s hr hrsvd hfree
    obtain ⟨u, hu, hops, hinp, -, hframe⟩ := startAuxCal_spec r (.auxCal 0x0904 (wordAt r.payload 0) 0) (taken r s)
    exact ⟨u, answers_of_ready rfl hr ((doAuxTest_free (s := taken r s) hrsvd hfree).trans hu), hops, hinp,
      frame_trans (frame_taken r s (by decide)) hframe⟩
  case selfEnds =>
    intro m o s hops hkind
    let s1 := s.updAux fun a => { a with self := ⟨m.ofs, m.gain⟩, selfValid := true, selfTime := s.now }
    let s2 := (s1.finish o stOk 0 ((List.finRange 4).map (factWord m))).raise vecAux
    obtain ⟨pins, hpins⟩ := refreshIntlk_aux s2
    have haux : s2.aux = s1.aux := by rw [State.raise_aux, finish_aux]
    refine ⟨_, execAuxCalComplete_self hops hkind, ?_⟩
    rw [refreshIntlk_proto, refreshIntlk_pcie, hpins, haux]
    refine ⟨?_, rfl, rfl, rfl, rfl, rfl, raise_irqSum_same _ vecAux, frame_refreshIntlk (by decide) (frame_raise _ (by decide) (by decide)
      (frame_finish _ _ _ _ (by decide) (frame_withAux _ (by decide) (frame_refl _ s))))⟩
    rw [State.raise_proto]
    exact finish_ops_only (s := s1) hops _ _ _
  case testEnds =>
    intro m o w0 w1 s hops hkind
    obtain ⟨ws, hexec⟩ := execAuxCalComplete_test (m := m) hops hkind
    refine ⟨_, hexec, ?_, ?_, raise_irqSum_same _ vecAux, frame_raise _ (by decide) (by decide) (frame_finish _ _ _ _ (by decide) (frame_refl _ s))⟩
    · rw [State.raise_proto]; exact finish_ops_only hops _ _ _
    · rw [State.raise_aux, finish_aux]
  case aborts =>
    intro r o w0 w1 k s hr hfind hkind
    have hans := abortOp_found (codes := [0x0902, 0x0903, 0x0904]) (undo := fun _ s => refreshIntlk s) (s := taken r s) (mine := isAuxCal) hfind
      (by rw [hkind]; rfl)
    obtain ⟨pins, hpins⟩ := refreshIntlk_aux ((taken r s).finish o stAborted 0 [])
    refine ⟨_, answers_of_ready rfl hr hans, ?_, ?_, ?_, frame_refreshIntlk (by decide) (frame_finish _ _ _ _ (by decide) (frame_taken r s (by decide)))⟩
    · rw [refreshIntlk_proto, finish_ops]; rfl
    · rw [hpins, finish_aux]; rfl
    · rw [hpins, finish_aux]; rfl
  case frees =>
    intro r s hr hrsvd
    obtain ⟨inp, hfold, hinp⟩ := foldl_frees (wordAt r.payload 0) (taken r s) (List.finRange 16)
    refine ⟨_, answers_of_ready rfl hr ((doAuxIntlkReset_eq hrsvd).trans (congrArg (Res.ok []) hfold)), rfl, fun i => ?_,
      frame_withAux _ (by decide) (frame_taken r s (by decide))⟩
    rw [show inp[i] = _ from hinp i, decide_eq_true (List.mem_finRange i), Bool.true_and]
    rfl
  case status =>
    exact fun r s hr => ⟨_, rfl, rfl, rfl, rfl, rfl, rfl, answers_of_ready rfl hr rfl⟩

end Sys2Proof.Machine
end

section
/-! The aux sequencer: how a cycle starts or is missed, what a conversion adds, how a result is released, and the statement about them. -/

namespace Sys2Proof.Machine

/-! ## Starts of a cycle -/

/-- A start that arrives while a cycle runs is counted and starts nothing (R380). -/
theorem cycleStart_runs {s : State} (at_ : Nat) (h : s.aux.cycle = true) :
    cycleStart at_ s = s.updAux fun a => { a with missed := addSat a.missed 1 } := by
  simp only [cycleStart, h, Bool.true_or, if_true]

/-- The state in which the first slot of a cycle has begun. -/
def cycleBegun (i : AuxId) (l : List AuxId) (at_ : Nat) (s : State) : State :=
  beginSlot i false at_ (s.updAux fun a => { a with cycle := true, todo := l })

/-- Where no slot was inserted, the cycle's next slot begins. -/
theorem nextSlot_todo {i : AuxId} {l : List AuxId} {s : State} (at_ : Nat) (hins : s.aux.ins = []) (htodo : s.aux.todo = i :: l) :
    nextSlot at_ s = beginSlot i false at_ (s.updAux fun a => { a with todo := l }) := by
  simp only [nextSlot, hins, htodo]

/-- A start of an idle sequencer begins the first slot of the cycle (R379). -/
theorem cycleStart_idle {i : AuxId} {l : List AuxId} {s : State} (at_ : Nat) (hinputs : sqInputs (seqBlk s) = i :: l)
    (hcycle : s.aux.cycle = false) (hcur : s.aux.cur = none) (hins : s.aux.ins = []) : cycleStart at_ s = cycleBegun i l at_ s := by
  have hidle : ¬ (s.aux.cycle || s.aux.cur.isSome) = true := by simp [hcycle, hcur]
  rw [cycleStart, if_neg hidle, hinputs]
  exact nextSlot_todo at_ (s := s.updAux fun a => { a with cycle := true, todo := i :: l }) hins rfl

theorem frame_cycleBegun {l : List Part} {s t : State} (i : AuxId) (todo : List AuxId) (at_ : Nat) (hl : [.aux, .vint] ⊆ l) (h : Frame l s t) :
    Frame l s (cycleBegun i todo at_ t) :=
  frame_beginSlot _ _ _ hl (frame_withAux _ (hl (by decide)) h)

section
variable {s : State} (hruns : seqRuns s = true)
include hruns

theorem execAuxCycleStart_atOnce (hstart : sqStart (seqBlk s) = 1) (hcycle : s.aux.cycle = false) (hcur : s.aux.cur = none) :
    exec .auxCycleStart s = ok (cycleStart s.time.clk s) := by
  simp only [exec, execAuxCycleStart, hruns, hstart, hcycle, hcur]
  rfl

theorem execAuxCycleStart_timer {w : Nat} (hw : s.aux.timerAt + bf (seqBlk s) 1 0 24 * 1000000 = w) (hstart : sqStart (seqBlk s) = 2) :
    exec .auxCycleStart s = ok (cycleStart (max s.time.clk w) ((s.goTo w).updAux fun a => { a with timerAt := w })) := by
  simp only [exec, execAuxCycleStart, hruns, hstart, hw]
  rfl

/-- A start of the timer that finds a cycle running is counted, and the timer goes on (R380). -/
theorem timerStart_missed {w : Nat} (hw : s.aux.timerAt + bf (seqBlk s) 1 0 24 * 1000000 = w) (hstart : sqStart (seqBlk s) = 2)
    (hcycle : s.aux.cycle = true) : ∃ t, exec .auxCycleStart s = ok t ∧
      t.aux = { s.aux with missed := addSat s.aux.missed 1, timerAt := w } ∧ t.time.clk = max s.time.clk t.aux.timerAt ∧ Frame [.time, .aux] s t :=
  ⟨_, (execAuxCycleStart_timer hruns hw hstart).trans (congrArg ok (cycleStart_runs _ hcycle)), rfl, rfl,
    frame_withAux _ (by decide) (frame_withAux _ (by decide) (frame_goTo _ (by decide) (frame_refl _ s)))⟩

theorem execAuxCycleStart_probe {w : Nat} {l : List Nat} (hstart : sqStart (seqBlk s) = 4) (hdue : s.aux.probeDue = w :: l) :
    exec .auxCycleStart s = ok (cycleStart (max s.time.clk w) ((s.goTo w).updAux fun a => { a with probeDue := l })) := by
  simp only [exec, execAuxCycleStart, hruns, hstart, hdue]
  rfl

theorem execAuxConvstEdge_starts (hstart : sqStart (seqBlk s) = 3) :
    exec (.auxConvstEdge (bfb (seqBlk s) 0 3)) s = ok (cycleStart (s.time.clk + 100000) s) := by
  simp only [exec, execAuxConvstEdge, hruns, hstart, decide_true, Bool.and_self, if_true]

end

theorem execAuxConvstEdge_other (s : State) : exec (.auxConvstEdge (!bfb (seqBlk s) 0 3)) s = ok s := by
  have hedge : decide ((!bfb (seqBlk s) 0 3) = bfb (seqBlk s) 0 3) = false := decide_eq_false (Bool.not_ne_self _)
  simp only [exec, execAuxConvstEdge, hedge, Bool.and_false, Bool.false_eq_true, if_false]

/-! ## Conversions -/

section
variable {v : Int} {c : AuxSlot} {s : State} (hcur : s.aux.cur = some c) (hcal : syscalRuns s = false)
include hcur hcal

/-- The end of a discard adds nothing to the slot (R385). -/
theorem execAuxConversionEnd_discard (hdiscard : c.discard = true) :
    ∃ next w h, exec (.auxConversionEnd v) s = ok ((s.goTo (s.aux.convAt + 1000000)).updAux fun a =>
      { a with convAt := next, cur := some { c with discard := false, began := next, time := w, holdover := h } }) := by
  simp only [exec, execAuxConversionEnd, hcur, hcal, hdiscard]
  exact ⟨_, _, _, rfl⟩

/-- A conversion before the last of the oversampling adds its code to the slot (R379). -/
theorem execAuxConversionEnd_adds (hdiscard : c.discard = false) (hmore : c.n + 1 < 2 ^ axOver c.set) :
    ∃ next o, exec (.auxConversionEnd v) s = ok ((s.goTo (s.aux.convAt + 1000000)).updAux fun a =>
      { a with convAt := next, cur := some { c with n := c.n + 1, sum := c.sum + auxAdd (axOver c.set) c.gain v, ovr := o } }) := by
  simp only [exec, execAuxConversionEnd, hcur, hcal, hdiscard, hmore]
  exact ⟨_, _, rfl⟩

end

/-- Below 64 conversions, where no dither is added, a conversion adds its code. -/
theorem auxAdd_plain {ovs : Nat} (gain : Nat) (v : Int) (h : ovs < 6) : auxAdd ovs gain v = (auxCode gain v).1 * 2 ^ 20 := by
  simp only [auxAdd, h, decide_true, Bool.or_true, if_true]

/-! ## Release -/

/-- The front end after a result without break state has become its input's latest. -/
def resultTaken (i : AuxId) (x : AuxRes) (l : List AuxRes) (a : AuxSt) : AuxSt := { a with
  inp := a.inp.set i { a.inp[i] with latest := resultWords x false a.inp[i].rseq, rseq := a.inp[i].rseq + 1, wait := l }
  ovrs := if x.ovr then addSat a.ovrs 1 else a.ovrs }

theorem auxToTherm_aux (x : AuxSample) (s : State) : (auxToTherm x s).aux = s.aux := by
  refine List.foldlRecOn (motive := fun t : State => t.aux = s.aux) _ _ rfl fun t ht f _ => ?_
  split
  · exact ht
  · exact ht

theorem auxToTherm_time (x : AuxSample) (s : State) : (auxToTherm x s).time = s.time := by
  refine List.foldlRecOn (motive := fun t : State => t.time = s.time) _ _ rfl fun t ht f _ => ?_
  split
  · exact ht
  · exact ht

theorem frame_auxToTherm {l : List Part} {s t : State} (x : AuxSample) (hl : .therm ∈ l) (h : Frame l s t) : Frame l s (auxToTherm x t) := by
  refine frame_foldl _ (fun u f hu => ?_) h
  split
  · exact frame_updTherm _ _ hl hu
  · exact hu

theorem interlock_none {i : AuxId} {x : AuxRes} {brk : Bool} {s : State} (h : axIntlk x.set = false) : interlock i x brk s = s := by
  simp only [interlock, h, Bool.not_false, if_true]

/-- The state in which a released result has become its input's latest, and its overrange has been signalled. -/
def resultShown (i : AuxId) (x : AuxRes) (l : List AuxRes) (s : State) : State :=
  let s1 := (s.goTo x.due).updAux (resultTaken i x l)
  if x.ovr && bfb (seqBlk s) 6 2 then s1.raise vecAux else s1

theorem resultShown_aux (i : AuxId) (x : AuxRes) (l : List AuxRes) (s : State) : (resultShown i x l s).aux = resultTaken i x l s.aux := by
  unfold resultShown
  extract_lets s1
  split
  · exact State.raise_aux _ _
  · rfl

theorem resultShown_time (i : AuxId) (x : AuxRes) (l : List AuxRes) (s : State) : (resultShown i x l s).time = s.time.goTo x.due := by
  unfold resultShown
  extract_lets s1
  split
  · exact State.raise_time _ _
  · rfl

theorem frame_resultShown {p : List Part} {s t : State} (i : AuxId) (x : AuxRes) (l : List AuxRes) (hp : [.time, .aux, .pcie, .out] ⊆ p)
    (h : Frame p s t) : Frame p s (resultShown i x l t) := by
  have h1 : Frame p s ((t.goTo x.due).updAux (resultTaken i x l)) := frame_withAux _ (hp (by decide)) (frame_goTo _ (hp (by decide)) h)
  unfold resultShown
  extract_lets s1
  split
  · exact frame_raise _ (hp (by decide)) (hp (by decide)) h1
  · exact h1

/-- A result of an input without source and interlock, not asked for by AUX_READ, is shown to the thermal profilers too (R382). -/
theorem execAuxResultRelease_plain {i : AuxId} {x : AuxRes} {l : List AuxRes} {s : State} (hwait : s.aux.inp[i].wait = x :: l)
    (hmux : axMux x.set ≠ 2) (hintlk : axIntlk x.set = false) (hinserted : x.inserted = false) :
    ∃ y, exec (.auxResultRelease i) s = ok (auxToTherm y (resultShown i x l s)) := by
  simp only [exec, execAuxResultRelease, hwait, hmux, decide_false, Bool.false_and, interlock_none hintlk, hinserted, Bool.false_eq_true, if_false]
  exact ⟨_, rfl⟩

/-! ## Break states -/

theorem raise_irqSum_getLsbD (s : State) (v w : Fin 64) :
    (s.raise v).pcie.irqSum.getLsbD w.val = (s.pcie.irqSum.getLsbD w.val || decide (w = v)) := by
  have hbit : ((1 : BitVec 64) <<< v.val).getLsbD w.val = decide (w = v) := by
    rw [Bool.eq_iff_iff]
    simp [Fin.ext_iff]
    omega
  rw [State.raise, message_irqSum, State.setSum, BitVec.getLsbD_or, hbit]

theorem execExcitationBreak_enters {j : Fin 4} {s : State} (h : s.aux.brk[j] = none) :
    exec (.excitationBreak j) s =
      let s1 := s.updAux fun a => { a with brk := a.brk.set j (some s.time.clk) }
      ok (if bfb (seqBlk s) 6 1 then s1.raise vecAux else s1) := by
  simp only [exec, execExcitationBreak, h, Option.isSome_none, Bool.false_eq_true, if_false]

theorem execExcitationBreakClear_leaves {j : Fin 4} {t0 : Nat} {s : State} (h : s.aux.brk[j] = some t0) :
    exec (.excitationBreakClear j) s =
      ok (s.updAux fun a => { a with brk := a.brk.set j none, brkPast := a.brkPast.set j (some (t0, s.time.clk)) }) := by
  simp only [exec, execExcitationBreakClear, h]

/-- Settles O56: each clause is what the start, the conversion, the release or the report does to the front end. -/
theorem auxSequence : Obligations.AuxSequence := by
  unfold Obligations.AuxSequence
  refine ⟨?starts, ?timer, ?convst, ?convstMissed, ?probe, ?discard, ?adds, ?release, ?enters, ?leaves⟩
  case starts =>
    intro s i l hruns hstart hinputs hcycle hcur hins
    obtain ⟨hinp, -, ⟨c, hc, hinput, -, hn, hsum, -⟩, hcyc, htodo⟩ := beginSlot_spec i false s.time.clk
      (s.updAux fun a => { a with cycle := true, todo := l })
    refine ⟨cycleBegun i l s.time.clk s, ?_, hcyc, htodo, ⟨c, hc, hinput, hn, hsum⟩, hinp, frame_cycleBegun _ _ _ (by decide) (frame_refl _ s)⟩
    rw [execAuxCycleStart_atOnce hruns hstart hcycle hcur, cycleStart_idle _ hinputs hcycle hcur hins]
  case timer => exact fun s hruns hstart hcycle => timerStart_missed hruns rfl hstart hcycle
  case convst =>
    intro s i l hruns hstart hinputs hcycle hcur hins
    obtain ⟨-, -, ⟨c, hc, hinput, -, -, -, hbegan⟩, hcyc, htodo⟩ := beginSlot_spec i false (s.time.clk + 100000)
      (s.updAux fun a => { a with cycle := true, todo := l })
    refine ⟨⟨cycleBegun i l (s.time.clk + 100000) s, ?_, hcyc, htodo, ⟨c, hc, hinput, hbegan⟩, frame_cycleBegun _ _ _ (by decide) (frame_refl _ s)⟩,
      execAuxConvstEdge_other s⟩
    exact (execAuxConvstEdge_starts hruns hstart).trans (congrArg ok (cycleStart_idle _ hinputs hcycle hcur hins))
  case convstMissed =>
    exact fun s hruns hstart hcycle => (execAuxConvstEdge_starts hruns hstart).trans (congrArg ok (cycleStart_runs _ hcycle))
  case probe =>
    intro w l s hruns hstart hcycle hdue
    exact ⟨_, (execAuxCycleStart_probe hruns hstart hdue).trans (congrArg ok (cycleStart_runs _ hcycle)), rfl, rfl,
      frame_withAux _ (by decide) (frame_withAux _ (by decide) (frame_goTo _ (by decide) (frame_refl _ s)))⟩
  case discard =>
    intro v c s hcur hcal hdiscard
    obtain ⟨next, w, h, hexec⟩ := execAuxConversionEnd_discard (v := v) hcur hcal hdiscard
    exact ⟨_, hexec, ⟨_, rfl, rfl, rfl, rfl⟩, rfl, rfl, frame_withAux _ (by decide) (frame_goTo _ (by decide) (frame_refl _ s))⟩
  case adds =>
    intro v c s hcur hcal hdiscard hmore hplain
    obtain ⟨next, o, hexec⟩ := execAuxConversionEnd_adds (v := v) hcur hcal hdiscard hmore
    rw [auxAdd_plain _ _ hplain] at hexec
    exact ⟨_, hexec, ⟨_, rfl, rfl, rfl⟩, rfl, rfl, frame_withAux _ (by decide) (frame_goTo _ (by decide) (frame_refl _ s))⟩
  case release =>
    intro i x l s hwait hmux hintlk hinserted
    obtain ⟨y, hexec⟩ := execAuxResultRelease_plain hwait hmux hintlk hinserted
    refine ⟨_, hexec, ?_⟩
    rw [auxToTherm_aux, auxToTherm_time, resultShown_aux, resultShown_time]
    refine ⟨?_, ?_, ?_, rfl, rfl, fun j hj => ?_, frame_auxToTherm y (by decide) (frame_resultShown i x l (by decide) (frame_refl _ s))⟩
    · simp [resultTaken]
    · simp [resultTaken]
    · simp [resultTaken, resultWords, split64]
    · simp [resultTaken, Fin.val_ne_of_ne hj.symm]
  case enters =>
    intro j s hnone
    refine ⟨_, execExcitationBreak_enters hnone, ?_⟩
    cases hsignal : bfb (seqBlk s) 6 1 with
    | true =>
      rw [show bfb (s.act 0x91 0) 6 1 = true from hsignal]
      exact ⟨State.raise_aux _ _, raise_irqSum_getLsbD _ vecAux vecAux,
        frame_raise _ (by decide) (by decide) (frame_withAux _ (by decide) (frame_refl _ s))⟩
    | false =>
      rw [show bfb (s.act 0x91 0) 6 1 = false from hsignal]
      exact ⟨rfl, (Bool.or_false _).symm, frame_withAux _ (by decide) (frame_refl _ s)⟩
  case leaves => exact fun j t0 s h => execExcitationBreakClear_leaves h

end Sys2Proof.Machine
end

section
/-! Admission: grants and timeouts of the request at the head of the queue, and the statement about them. -/

namespace Sys2Proof.Machine

theorem unqueue_head {q : QReq} {l : List QReq} {s : State} (h : s.power.queue = q :: l) : (s.unqueue q).power.queue = l := by
  simp only [State.unqueue, h, List.erase_cons_head]

theorem trainBusy_unqueue_raise (q : QReq) (v : Fin 64) (s : State) : trainBusy ((s.unqueue q).raise v) = trainBusy s := by
  have hheld : feHeld ((s.unqueue q).raise v) = feHeld s := by
    funext f
    simp only [feHeld, feLocked, State.raise_params, State.raise_commits]
    rfl
  simp only [trainBusy, trainingRuns, reservedNow, hheld, harvRes, cellarMoving, State.raise_proto, State.raise_cellar, State.raise_rings,
    State.raise_harv]
  rfl

/-- A training command that was granted before it came to its turn begins at once (R430). -/
theorem doCellarTrain_goesOn {r : Req} {s : State} (hrsvd : rsvdBad r 0 0x7F = false) (hfree : trainBusy s = none) :
    doCellarTrain true r s = Res.rep stPending 0 [] (((s.setGrant .training (s.grantOf .training + trainingMw)).addOp r
      (.cellarTrain (BitVec.ofNat 4 (wbits (wordAt r.payload 0) 0 4)) (BitVec.ofNat 3 (wbits (wordAt r.payload 0) 4 3))) true).gather true) := by
  simp only [doCellarTrain, hrsvd, Bool.false_eq_true, if_false, hfree]
  rfl

/-- The state in which a queued CELLAR_TRAIN has left the queue and begun. -/
def queuedTrainBegun (q : QReq) (s : State) : State :=
  let s1 := (s.unqueue q).raise vecPower
  ((s1.setGrant .training (s1.grantOf .training + trainingMw)).addOp q.req
    (.cellarTrain (BitVec.ofNat 4 (wbits (wordAt q.req.payload 0) 0 4)) (BitVec.ofNat 3 (wbits (wordAt q.req.payload 0) 4 3))) true).gather true

theorem grantReq_cellarTrain {q : QReq} {s : State} (hop : q.req.opcode = 0x0701) (hrsvd : rsvdBad q.req 0 0x7F = false)
    (hfree : trainBusy s = none) : grantReq q s = queuedTrainBegun q s := by
  have hres := doCellarTrain_goesOn (s := (s.unqueue q).raise vecPower) hrsvd ((trainBusy_unqueue_raise q vecPower s).trans hfree)
  simp only [grantReq, grantRes, hop, hres]
  rfl

theorem execAdmissionGrant_fits {q : QReq} {l : List QReq} {s : State} (hq : s.power.queue = q :: l) (hphase : s.life.phase = 3)
    (hruns : cpRuns s = true) (hfits : fits s q.budget = true) : exec .admissionGrant s = ok (grantReq q s) := by
  simp [exec, execAdmissionGrant, hq, hphase, hruns, hfits]

theorem execAdmissionGrant_waits {q : QReq} {l : List QReq} {s : State} (hq : s.power.queue = q :: l) (hfits : fits s q.budget = false) :
    exec .admissionGrant s = ok s := by
  simp [exec, execAdmissionGrant, hq, hfits]

theorem fits_goTo (s : State) (w mw : Nat) : fits (s.goTo w) mw = fits s mw := rfl

theorem execAdmissionTimeout_denies {q : QReq} {l : List QReq} {s : State} (hq : s.power.queue = q :: l) (hphase : s.life.phase = 3)
    (hruns : cpRuns s = true) (hfits : fits s q.budget = false) :
    exec .admissionTimeout s = ok (denyQueued q (s.goTo (q.since + queueTimeout s))) := by
  simp [exec, execAdmissionTimeout, hq, hphase, hruns, fits_goTo, hfits]

/-- A denied CELLAR_TRAIN is answered as its completion event; nothing else of it stood. -/
theorem denyQueued_cellarTrain {q : QReq} (hop : q.req.opcode = 0x0701) (s : State) :
    denyQueued q s = ((s.unqueue q).answerQ q stDenied 0).raise vecPower := by
  simp only [denyQueued, undoQueued, hop]
  rfl

theorem answerQ_power (q : QReq) (st det : Nat) (s : State) : (s.answerQ q st det).power = s.power := by
  unfold State.answerQ
  split
  · rfl
  · exact answer_power ..

theorem answerQ_time (q : QReq) (st det : Nat) (s : State) : (s.answerQ q st det).time = s.time := by
  unfold State.answerQ
  split
  · rfl
  · exact answer_time ..

theorem answerQ_cellar (q : QReq) (st det : Nat) (s : State) : (s.answerQ q st det).cellar = s.cellar := by
  unfold State.answerQ
  split
  · rfl
  · exact answer_cellar ..

theorem frame_answerQ {l : List Part} {s t : State} (q : QReq) (st det : Nat) (hl : [.proto, .rings, .out] ⊆ l) (h : Frame l s t) :
    Frame l s (t.answerQ q st det) := by
  unfold State.answerQ
  split
  · exact h
  · exact frame_answer _ _ _ _ _ _ hl h

/-- Settles O24: each clause is what a grant or a timeout does with the head of the queue. -/
theorem admission : Obligations.Admission := by
  unfold Obligations.Admission
  refine ⟨?grant, ?waits, ?timeout⟩
  case grant =>
    intro q l s hq hphase hruns hfits hop hrsvd hfree
    refine ⟨queuedTrainBegun q s, ?_, ?_, rfl, ?_, ?_, ?_⟩
    · rw [execAdmissionGrant_fits hq hphase hruns hfits, grantReq_cellarTrain hop hrsvd hfree]
    · exact (congrArg Power.queue (State.raise_power (s.unqueue q) vecPower)).trans (unqueue_head hq)
    · simp only [queuedTrainBegun, State.gather, State.addOp, State.setGrant, State.raise_proto, State.raise_time, hop]
      rfl
    · exact raise_irqSum_same (s.unqueue q) vecPower
    · exact frame_withCellar _ (by decide) (frame_withProto _ (by decide) (frame_setGrant _ _ (by decide)
        (frame_raise _ (by decide) (by decide) (frame_withPower _ (by decide) (frame_refl _ s)))))
  case waits => exact fun q l s hq hfits => execAdmissionGrant_waits hq hfits
  case timeout =>
    intro q l s hq hphase hruns hfits hop
    refine ⟨_, (execAdmissionTimeout_denies hq hphase hruns hfits).trans (congrArg ok (denyQueued_cellarTrain hop _)), ?_, ?_,
      raise_irqSum_same _ _, ?_, ?_⟩
    · rw [State.raise_power, answerQ_power]
      exact unqueue_head hq
    · rw [State.raise_time, answerQ_time]
      rfl
    · rw [State.raise_cellar, answerQ_cellar]
      rfl
    · exact frame_raise _ (by decide) (by decide) (frame_answerQ _ _ _ (by decide)
        (frame_withPower _ (by decide) (frame_goTo _ (by decide) (frame_refl _ s))))

end Sys2Proof.Machine
end

section
/-! The opcodes of group 0x0B: what each handler does, and the statement about them. -/

namespace Sys2Proof.Machine

theorem doPowerStatus_eq (r : Req) (s : State) : ∃ ws, ws.length = 16 ∧ wordAt ws 10 = BitVec.ofNat 32 s.power.queue.length ∧
    wordAt ws 13 = s.power.shedCount ∧ wordAt ws 14 = s.power.guardCount ∧ wordAt ws 15 = s.power.pmbFaults ∧
    doPowerStatus r s = Res.ok ws { s with power := { s.power with shedCount := 0, guardCount := 0, pmbFaults := 0 } } :=
  ⟨_, rfl, rfl, rfl, rfl, rfl, rfl⟩

theorem notIdle_taken (r : Req) (s : State) : notIdle (taken r s) = notIdle s := rfl

/-- POWER_STATE_SET of a low state at a time that is none or still to come is judged by what runs alone (R435). -/
theorem doPowerStateSet_low {r : Req} {n : Fin 6} {s : State} (hlow : 2 ≤ n.val) (hword : (wordAt r.payload 0).toNat = n.val)
    (htime : word64 r.payload 1 = 0 ∨ s.now < word64 r.payload 1) :
    doPowerStateSet r s = if notIdle s then Res.rep stBusy 0xFFC0 [] s else Res.ok (split64 s.now) { s with power := { s.power with
      entering := some n, wakeSeen := 0, wakeAt := if word64 r.payload 1 = 0 then none else some (word64 r.payload 1) } } := by
  have hlt : (wordAt r.payload 0).toNat < 2 ^ 3 := by omega
  have hrsvd : rsvdBad r 0 7 = false := rsvdBad_eq_false (k := 3) 7 rfl hlt
  have hbits : wbits (wordAt r.payload 0) 0 3 = n.val := (wbits_of_lt hlt).trans hword
  have hfuture : (decide (word64 r.payload 1 ≠ 0) && decide (word64 r.payload 1 ≤ s.now)) = false := by
    rcases htime with hzero | hlater
    · simp [hzero]
    · simp [BitVec.not_le.mpr hlater]
  simp only [doPowerStateSet, hbits, n.isLt, dif_pos, hrsvd, Bool.false_or, decide_eq_true_eq, Nat.not_lt.mpr hlow, if_false, hfuture,
    Bool.false_eq_true]

/-- Outside SMBus the queue always fits into the reply (R442). -/
theorem doPowerQueueGet_eq {r : Req} (s : State) (hvia : r.via ≠ .smbus) :
    ∃ ws, ws.length = 4 * s.power.queue.length ∧ doPowerQueueGet r s = Res.ok ws s := by
  simp only [doPowerQueueGet, hvia, decide_false, Bool.false_and, Bool.false_eq_true, if_false]
  exact ⟨_, by simp [List.length_flatMap, Nat.mul_comm], rfl⟩

/-- REGION_RESTORE of a region that a core rail supplies goes by its crossings (R428). -/
theorem doRegionRestore_region {r : Req} {k : Nat} (s : State) (hword : (wordAt r.payload 0).toNat = k) (hk : k ≤ 4) :
    doRegionRestore r s = if (crossings k).any fun c => crossApart s c 120 then Res.rep stBusy 0xFFC3 [] s
      else Res.ok [] { s with power := { s.power with isolated := s.power.isolated &&& ~~~((1 : BitVec 7) <<< k) } } := by
  have hlt : (wordAt r.payload 0).toNat < 2 ^ 3 := by omega
  have hrsvd : rsvdBad r 0 7 = false := rsvdBad_eq_false (k := 3) 7 rfl hlt
  have hbits : wbits (wordAt r.payload 0) 0 3 = k := (wbits_of_lt hlt).trans hword
  simp only [doRegionRestore, hbits, hrsvd, Bool.false_or, decide_eq_true_eq, Nat.not_lt.mpr hk, if_false]

/-- Settles O21: each clause is the answer of one handler. -/
theorem powerOpcodes : Obligations.PowerOpcodes := by
  unfold Obligations.PowerOpcodes
  refine ⟨?status, ?enters, ?active, ?queue, ?restored, ?apart⟩
  case status =>
    intro r s hr
    obtain ⟨ws, hlen, h10, h13, h14, h15, hans⟩ := doPowerStatus_eq r (taken r s)
    exact ⟨ws, hlen, h10, h13, h14, h15, answers_of_ready rfl hr hans⟩
  case enters =>
    intro r n s hr hlow hword htime hidle
    exact answers_of_ready rfl hr ((doPowerStateSet_low (s := taken r s) hlow hword htime).trans (by rw [notIdle_taken, hidle]; rfl))
  case active =>
    intro r n s hr hlow hword htime hidle
    exact answers_of_ready rfl hr ((doPowerStateSet_low (s := taken r s) hlow hword htime).trans (by rw [notIdle_taken, hidle]; rfl))
  case queue =>
    intro r s hr hvia
    obtain ⟨ws, hlen, hans⟩ := doPowerQueueGet_eq (taken r s) hvia
    exact ⟨ws, hlen, answers_of_ready rfl hr hans⟩
  case restored =>
    intro r k s hr hword hk hnear
    have hany : (crossings k).any (fun c => crossApart (taken r s) c 120) = false :=
      List.any_eq_false.mpr fun c hc => Bool.eq_false_iff.mp (hnear c hc)
    exact answers_of_ready rfl hr ((doRegionRestore_region (taken r s) hword hk).trans (by rw [hany]; rfl))
  case apart =>
    intro r k s hr hword hk hfar
    have hany : (crossings k).any (fun c => crossApart (taken r s) c 120) = true := List.any_eq_true.mpr hfar
    exact answers_of_ready rfl hr ((doRegionRestore_region (taken r s) hword hk).trans (by rw [hany]; rfl))

end Sys2Proof.Machine
end

section
/-! Monitoring of the rails: margin samples, regulator polls and guarded crossings, and the statement about them. -/

namespace Sys2Proof.Machine

/-! ## Rails -/

theorem updRail_power (s : State) (k : Fin 4) (f : Rail → Rail) :
    (s.updRail k f).power = { s.power with rails := s.power.rails.set k (f s.power.rails[k]) } := rfl

theorem updRail_rails_same (s : State) (k : Fin 4) (f : Rail → Rail) : (s.updRail k f).power.rails[k] = f s.power.rails[k] := by
  simp [State.updRail]

theorem updRail_rails_ne (s : State) {k j : Fin 4} (f : Rail → Rail) (h : j ≠ k) : (s.updRail k f).power.rails[j] = s.power.rails[j] := by
  simp [State.updRail, Fin.val_ne_of_ne h.symm]

theorem frame_updRail {l : List Part} {s t : State} (k : Fin 4) (f : Rail → Rail) (hl : .power ∈ l) (h : Frame l s t) : Frame l s (t.updRail k f) :=
  frame_withPower _ hl h

/-- Of the power manager only the rails moved: VDD_FE at most down, and the levels of VDD_DSP, VDD_VAT and VDD_SYS stayed. -/
structure RailsMoved (s t : State) : Prop where
  frame : Frame [.power, .out] s t
  power : t.power = { s.power with rails := t.power.rails }
  fe : t.power.rails[0].mv ≤ s.power.rails[0].mv
  level : ∀ k : Fin 4, k ≠ 0 → t.power.rails[k].mv = s.power.rails[k].mv

theorem RailsMoved.refl (s : State) : RailsMoved s s := ⟨frame_refl _ s, rfl, Nat.le_refl _, fun _ _ => rfl⟩

theorem RailsMoved.trans {s t u : State} (h1 : RailsMoved s t) (h2 : RailsMoved t u) : RailsMoved s u where
  frame := frame_trans h1.frame h2.frame
  power := by rw [h2.power, h1.power]
  fe := h2.fe.trans h1.fe
  level k hk := (h2.level k hk).trans (h1.level k hk)

theorem RailsMoved.level_le {s t : State} (h : RailsMoved s t) (k : Fin 4) : t.power.rails[k].mv ≤ s.power.rails[k].mv := by
  by_cases hk : k = 0
  · exact hk ▸ h.fe
  · exact (h.level k hk).le

theorem RailsMoved.params {s t : State} (h : RailsMoved s t) : t.params = s.params := h.frame .params (by decide) (by decide)

theorem RailsMoved.core {s t : State} (h : RailsMoved s t) : t.core = s.core := h.frame .core (by decide) (by decide)

theorem RailsMoved.margins {s t : State} (h : RailsMoved s t) : t.power.margins = s.power.margins := by rw [h.power]

theorem RailsMoved.short {s t : State} (h : RailsMoved s t) : t.power.short = s.power.short := by rw [h.power]

theorem RailsMoved.sensors {s t : State} (h : RailsMoved s t) : t.power.sensors = s.power.sensors := by rw [h.power]

theorem RailsMoved.volts {s t : State} (h : RailsMoved s t) : t.power.volts = s.power.volts := by rw [h.power]

theorem RailsMoved.time {s t : State} (h : RailsMoved s t) : t.time = s.time := h.frame .time (by decide) (by decide)

theorem vmaxOf_congr {s t : State} (h : t.params = s.params) (k : Fin 4) : vmaxOf t k = vmaxOf s k := by
  simp only [vmaxOf, State.act, h]

theorem dspHeld_congr {s t : State} (hp : t.params = s.params) (hc : t.core = s.core) : dspHeld t = dspHeld s := by
  simp only [dspHeld, State.act, hp, hc]

/-- A change of a rail that leaves its level. -/
theorem updRail_level (s : State) (k : Fin 4) {f : Rail → Rail} (hf : ∀ r, (f r).mv = r.mv) (j : Fin 4) :
    (s.updRail k f).power.rails[j].mv = s.power.rails[j].mv := by
  by_cases h : j = k
  · subst h
    rw [updRail_rails_same, hf]
  · rw [updRail_rails_ne _ _ h]

theorem railsMoved_updRail (s : State) (k : Fin 4) {f : Rail → Rail} (hf : ∀ r, (f r).mv = r.mv) : RailsMoved s (s.updRail k f) where
  frame := frame_updRail _ _ (by decide) (frame_refl _ s)
  power := rfl
  fe := (updRail_level s k hf 0).le
  level j _ := updRail_level s k hf j

/-- VDD_FE goes to a lower level. -/
theorem railsMoved_setRail {s : State} {mv : Nat} (h : mv ≤ s.power.rails[0].mv) : RailsMoved s (setRail 0 mv s) := by
  unfold setRail
  split
  · exact RailsMoved.refl s
  · exact {
      frame := frame_emit _ (by decide) (frame_updRail _ _ (by decide) (frame_refl _ s))
      power := rfl
      fe := (congrArg Rail.mv (updRail_rails_same s 0 fun r => { r with mv := mv })).le.trans h
      level := fun k hk => congrArg Rail.mv (updRail_rails_ne s (fun r => { r with mv := mv }) hk) }

theorem railsMoved_lowerRail (s : State) : RailsMoved s (lowerRail 0 s) := by
  unfold lowerRail
  extract_lets v
  split
  · exact railsMoved_setRail (Nat.sub_le _ _)
  · exact RailsMoved.refl s

/-! ## Margin samples (R421) -/

/-- A margin at the sample: that of a gated engine reads full scale (R420). -/
def sampledMargin (m : MarginSample) (s : State) (k : Fin 7) : Int :=
  if h : k.val < 4 then (if gatedFe s ⟨k.val, h⟩ then 32767 else m.margin[k]) else m.margin[k]

theorem sampledMargin_lower {m : MarginSample} {s : State} {k : Fin 7} (h : 250 ≤ m.margin[k]) : 250 ≤ sampledMargin m s k := by
  unfold sampledMargin
  split
  · split
    · decide
    · exact h
  · exact h

theorem sampledMargin_core {m : MarginSample} {s : State} {k : Fin 7} (h : 4 ≤ k.val) : sampledMargin m s k = m.margin[k] :=
  dif_neg (Nat.not_lt.mpr h)

/-- What a sample asks of a rail to leave it: its regions have margin enough, and not all of them to spare, which VDD_FE's may have. -/
structure Steady (k : Fin 4) (s : State) : Prop where
  enough : ∀ j ∈ regionsOf k, 150 ≤ s.power.margins[j]
  tight : k ≠ 0 → ∃ j ∈ regionsOf k, s.power.margins[j] < 300
  free : dspHeld s = false
  within : s.power.rails[k].mv ≤ vmaxOf s k

/-- Only VDD_FE is lowered by a sample of a steady rail. -/
theorem railsMoved_sampleRail {k : Fin 4} {s : State} (h : Steady k s) : RailsMoved s (sampleRail k s) := by
  unfold sampleRail
  extract_lets m good since s1
  have hs1 : RailsMoved s s1 := railsMoved_updRail s k fun _ => rfl
  have hlevel : s1.power.rails[k].mv = s.power.rails[k].mv := updRail_level s k (f := fun r => { r with ample := if good then some since else none }) (fun _ => rfl) k
  have hshort : (m.any fun x => decide (x < 150)) = false := by
    simpa [m] using h.enough
  have hgood : good = true → k = 0 := fun hg => by
    by_contra hk
    obtain ⟨j, hj, hlt⟩ := h.tight hk
    have hall := List.all_eq_true.mp hg _ (List.mem_map_of_mem hj)
    exact absurd (of_decide_eq_true hall) (by omega)
  rw [h.free, hlevel, if_neg (c := vmaxOf s k < _) (Nat.not_lt.mpr h.within), hshort]
  simp only [Bool.and_false, Bool.false_eq_true, if_false]
  split
  · exact hs1
  · split
    next hlower =>
      obtain rfl := hgood (Bool.and_eq_true_iff.mp hlower).1
      exact hs1.trans (railsMoved_lowerRail s1)
    next => exact hs1

/-- The state in which a sample without a margin below 25 % is held. -/
def sampleHeld (m : MarginSample) (s : State) : State :=
  { s with
    power := { s.power with
      margins := Vector.ofFn (sampledMargin m s), sensors := m.sensors, volts := m.volts
      short := Vector.ofFn fun (k : Fin 7) => if (Vector.ofFn (sampledMargin m s))[k] < 150 then s.power.short[k] + 1 else 0
      easySince := some (s.power.easySince.getD s.time.clk) }
    taster := { s.taster with paused := false } }

theorem sampledMargin_easy {m : MarginSample} (hm : ∀ k : Fin 7, 250 ≤ m.margin[k]) (s : State) :
    (Vector.ofFn (sampledMargin m s)).toList.all (fun x => decide (250 ≤ x)) = true := by
  rw [Vector.toList_ofFn, List.all_eq_true]
  intro x hx
  obtain ⟨k, rfl⟩ := List.mem_ofFn.mp hx
  exact decide_eq_true (sampledMargin_lower (hm k))

theorem execMarginSample_easy {m : MarginSample} {w : Nat} {s : State} (hruns : cpRuns s = true) (hm : ∀ k : Fin 7, 250 ≤ m.margin[k])
    (hw : (s.time.clk / 10 ^ 7 + 1) * 10 ^ 7 = w) :
    exec (.marginSample m) s = ok ((List.finRange 4).foldl (fun s k => sampleRail k s) (sampleHeld m (s.goTo w))) := by
  have heasy := sampledMargin_easy hm (s.goTo w)
  unfold sampledMargin at heasy
  simp only [exec, execMarginSample, hruns, Bool.not_true, Bool.false_eq_true, if_false, hw, heasy, if_true]
  rfl

theorem Steady.of_moved {k : Fin 4} {s t : State} (h : Steady k s) (hmoved : RailsMoved s t) : Steady k t where
  enough := by rw [hmoved.margins]; exact h.enough
  tight := by rw [hmoved.margins]; exact h.tight
  free := (dspHeld_congr hmoved.params hmoved.core).trans h.free
  within := by rw [vmaxOf_congr hmoved.params]; exact (hmoved.level_le k).trans h.within

theorem railsMoved_samples {s : State} (h : ∀ k : Fin 4, Steady k s) : RailsMoved s ((List.finRange 4).foldl (fun s k => sampleRail k s) s) :=
  List.foldlRecOn _ _ (RailsMoved.refl s) fun _ hmoved k _ => hmoved.trans (railsMoved_sampleRail ((h k).of_moved hmoved))

theorem sampleHeld_margins (m : MarginSample) (s : State) (k : Fin 7) : (sampleHeld m s).power.margins[k] = sampledMargin m s k :=
  Vector.getElem_ofFn _

theorem sampleHeld_short {m : MarginSample} (hm : ∀ k : Fin 7, 250 ≤ m.margin[k]) (s : State) (k : Fin 7) : (sampleHeld m s).power.short[k] = 0 := by
  have h : ¬ (Vector.ofFn (sampledMargin m s))[k] < 150 := by
    have hk := sampledMargin_lower (s := s) (hm k)
    simp
    omega
  simpa [sampleHeld] using h

theorem steady_sampleHeld {m : MarginSample} {s : State} (hm : ∀ k : Fin 7, 250 ≤ m.margin[k] ∧ m.margin[k] < 300) (hfree : dspHeld s = false)
    (k : Fin 4) (hwithin : s.power.rails[k].mv ≤ vmaxOf s k) : Steady k (sampleHeld m s) where
  enough j _ := by
    have hj := sampledMargin_lower (s := s) (hm j).1
    rw [sampleHeld_margins]
    omega
  tight hk := by
    have hcore : ∃ j ∈ regionsOf k, 4 ≤ j.val := by
      clear hwithin
      revert k
      decide
    obtain ⟨j, hj, hcore⟩ := hcore
    exact ⟨j, hj, by rw [sampleHeld_margins, sampledMargin_core hcore]; exact (hm j).2⟩
  free := hfree
  within := hwithin

theorem frame_sampleHeld {l : List Part} {s t : State} (m : MarginSample) (hl : [.power, .taster] ⊆ l) (h : Frame l s t) :
    Frame l s (sampleHeld m t) :=
  frame_withTaster { t.taster with paused := false } (hl (by decide)) (frame_withPower (sampleHeld m t).power (hl (by decide)) h)

/-- A sample with margins from 25 % to below 30 % is held, and lowers VDD_FE at most (R421). -/
theorem execMarginSample_steady {m : MarginSample} {s : State} (hruns : cpRuns s = true) (hm : ∀ k : Fin 7, 250 ≤ m.margin[k] ∧ m.margin[k] < 300)
    (hfree : dspHeld s = false) (hwithin : ∀ k : Fin 4, s.power.rails[k].mv ≤ vmaxOf s k) :
    ∃ t, exec (.marginSample m) s = ok t ∧ t.power.sensors = m.sensors ∧ t.power.volts = m.volts ∧ s.time.clk < t.time.clk ∧
      t.time.clk % 10 ^ 7 = 0 ∧ t.power.margins[4] = m.margin[4] ∧ (∀ k : Fin 7, t.power.short[k] = 0) ∧
      (∀ k : Fin 4, k ≠ 0 → t.power.rails[k].mv = s.power.rails[k].mv) ∧ Frame [.time, .power, .taster, .out] s t := by
  obtain ⟨w, hw⟩ : ∃ w, (s.time.clk / 10 ^ 7 + 1) * 10 ^ 7 = w := ⟨_, rfl⟩
  have hlater : s.time.clk < w := by omega
  have hgrid : w % 10 ^ 7 = 0 := by omega
  have hsteady : ∀ k, Steady k (sampleHeld m (s.goTo w)) := fun k => steady_sampleHeld (s := s.goTo w) hm hfree k (hwithin k)
  have hexec := execMarginSample_easy hruns (fun k => (hm k).1) hw
  have hmoved := railsMoved_samples hsteady
  generalize (List.finRange 4).foldl (fun s k => sampleRail k s) (sampleHeld m (s.goTo w)) = t at hexec hmoved
  have hclk : t.time.clk = w := (congrArg TimeBase.clk hmoved.time).trans (Nat.max_eq_right hlater.le)
  refine ⟨t, hexec, hmoved.sensors, hmoved.volts, hclk ▸ hlater, hclk ▸ hgrid, ?_, fun k => ?_, hmoved.level, ?_⟩
  · rw [hmoved.margins]
    exact (sampleHeld_margins m _ 4).trans (sampledMargin_core (by decide))
  · rw [hmoved.short]
    exact sampleHeld_short (fun k => (hm k).1) _ k
  · exact frame_trans (frame_sampleHeld m (by decide) (frame_goTo w (by decide) (frame_refl _ s))) (frame_mono (by decide) hmoved.frame)

/-! ## Regulators and crossings -/

/-- A rail after a poll that its regulator did not acknowledge. -/
def Rail.missed (r : Rail) : Rail := { r with naks := 3, faulted := true }

/-- The state in which a fault of a regulator has begun. -/
def faultBegun (k : Fin 4) (s : State) : State :=
  let s1 := s.updRail k Rail.missed
  ({ s1 with power := { s1.power with pmbFaults := addSat s1.power.pmbFaults 1 } }).raise vecFault

theorem faultBegun_power (k : Fin 4) (s : State) : (faultBegun k s).power = { s.power with
    rails := s.power.rails.set k s.power.rails[k].missed, pmbFaults := addSat s.power.pmbFaults 1 } :=
  State.raise_power ..

theorem execRegulatorPoll_third {k : Fin 4} {p : RegPoll} {s : State} (hruns : cpRuns s = true) (hack : p.noAck = true)
    (hnaks : s.power.rails[k].naks = 2) (hfaulted : s.power.rails[k].faulted = false) :
    exec (.regulatorPoll k p) s = ok (faultBegun k s) := by
  simp only [exec, execRegulatorPoll, hruns, hack, hnaks, hfaulted, faultBegun, State.updRail, Rail.missed]
  rfl

/-- The state in which a crossing has entered or left guarded mode. -/
def guardedTurned (c : Fin 11) (enter : Bool) (s : State) : State :=
  ({ s with power := { s.power with
    guarded := if enter then s.power.guarded ||| ((1 : BitVec 11) <<< c.val) else s.power.guarded &&& ~~~((1 : BitVec 11) <<< c.val)
    guardCount := if enter then addSat s.power.guardCount 1 else s.power.guardCount } }).raise vecFault

theorem execGuardedModeChange_turns {c : Fin 11} {enter : Bool} {s : State} (hup : railsUp s = true)
    (hbit : s.power.guarded.getLsbD c.val = !enter) : exec (.guardedModeChange c enter) s = ok (guardedTurned c enter s) := by
  have hturns : ¬ (!railsUp s || decide (s.power.guarded.getLsbD c.val = enter)) = true := by
    rw [hup, hbit]
    cases enter <;> decide
  simp only [exec, execGuardedModeChange, if_neg hturns]
  rfl

theorem guardedTurned_power (c : Fin 11) (enter : Bool) (s : State) : (guardedTurned c enter s).power = { s.power with
    guarded := if enter then s.power.guarded ||| ((1 : BitVec 11) <<< c.val) else s.power.guarded &&& ~~~((1 : BitVec 11) <<< c.val)
    guardCount := if enter then addSat s.power.guardCount 1 else s.power.guardCount } :=
  State.raise_power ..

theorem frame_guardedTurned (c : Fin 11) (enter : Bool) (s : State) : Frame [.power, .pcie, .out] s (guardedTurned c enter s) :=
  frame_raise _ (by decide) (by decide) (frame_withPower _ (by decide) (frame_refl _ s))

/-- Settles O22: each clause is what the sample, the poll or the mode change does to the power manager. -/
theorem powerMonitoring : Obligations.PowerMonitoring := by
  unfold Obligations.PowerMonitoring
  refine ⟨?sample, ?healthy, ?third, ?enters, ?leaves⟩
  case sample => exact fun m s hruns hm hfree hwithin => execMarginSample_steady hruns hm hfree hwithin
  case healthy =>
    intro k p s hruns hack hfault hsettled
    simp [exec, execRegulatorPoll, hruns, hack, hfault, hsettled]
  case third =>
    intro k p s hruns hack hnaks hfaulted
    refine ⟨faultBegun k s, execRegulatorPoll_third hruns hack hnaks hfaulted, ?_, ?_, ?_, raise_irqSum_same _ _,
      frame_raise _ (by decide) (by decide) (frame_withPower _ (by decide) (frame_updRail _ _ (by decide) (frame_refl _ s)))⟩
    · simp [faultBegun_power, Rail.missed]
    · simp [faultBegun_power, Rail.missed]
    · rw [faultBegun_power]
  case enters =>
    intro c s hup hclear
    refine ⟨_, execGuardedModeChange_turns (enter := true) hup hclear, ?_, ?_, raise_irqSum_same _ _, frame_guardedTurned c true s⟩
    · rw [guardedTurned_power]; rfl
    · rw [guardedTurned_power]; rfl
  case leaves =>
    intro c s hup hset
    refine ⟨_, execGuardedModeChange_turns (enter := false) hup hset, ?_, ?_, raise_irqSum_same _ _, frame_guardedTurned c false s⟩
    · rw [guardedTurned_power]; rfl
    · rw [guardedTurned_power]; rfl

end Sys2Proof.Machine
end

section
/-! Entry into a low state with a shared commit prepared, which ends with its lane, and the statement about power states. -/

namespace Sys2Proof.Machine

theorem proto_eq_of_ok {s t : State} (h : ok s = .next t) : t.proto = s.proto :=
  (congrArg (fun u : State => u.proto) (Host.Outcome.next.inj h)).symm

theorem execPowerStateEntryComplete_quiet {st : Fin 6} {s : State} (hentering : s.power.entering = some st) (hseen : s.power.wakeSeen = 0) :
    exec .powerStateEntryComplete s = ok (enterLow st s) := by
  simp only [exec, execPowerStateEntryComplete, hentering, hseen, if_true]

/-- What the statement asks of an entry that saw no wake source. -/
theorem enterLow_proto_of_powerStates (h : Obligations.PowerStates) {st : Fin 6} {s : State} (hentering : s.power.entering = some st)
    (hlow : 2 ≤ st.val) (hseen : s.power.wakeSeen = 0) : (enterLow st s).proto = s.proto := by
  unfold Obligations.PowerStates at h
  obtain ⟨-, hentry, -⟩ := h
  obtain ⟨t, ht, -, -, -, -, -, -, -, -, -, hproto⟩ := hentry st s hentering hlow hseen
  exact (proto_eq_of_ok ((execPowerStateEntryComplete_quiet hentering hseen).symm.trans ht)).symm.trans hproto

/-- STANDBY is being entered while a COMMIT_ARM stands prepared for the peer on lane 0, long before its instant. -/
def enteringWhilePrepared : State := { State.reset with
  power := { State.reset.power with state := 1, entering := some 2 }
  peer := { State.reset.peer with
    lanes := State.reset.peer.lanes.set 0 { st := .up }
    armed := [⟨1, 0, 0, 0, 0, some (0, BitVec.allOnes 64), false⟩] }
  commits := [⟨1, 0, 0, 2, BitVec.allOnes 64, false, 0, 0, [], false, [], 0, 0, 1⟩]
  proto := { State.reset.proto with ops := [⟨1, 0, 0x0D02, .commitArm, true, 0⟩] } }

/-- The lane goes down with the entry, and the prepared commit is withdrawn (R94, R435): its operation ends. -/
theorem enterLow_ends_prepared : (enterLow 2 enteringWhilePrepared).proto.ops = [] := by decide +kernel

/-- Refutes O25: its clause about the end of entry keeps the whole protocol state, and in `enteringWhilePrepared` the lane that goes down takes the
COMMIT_ARM prepared over it along. -/
theorem not_powerStates : ¬ Obligations.PowerStates := by
  intro h
  have hproto := enterLow_proto_of_powerStates h (s := enteringWhilePrepared) (st := 2) rfl (by decide) rfl
  have hops := enterLow_ends_prepared
  rw [hproto] at hops
  exact List.cons_ne_nil _ _ hops

end Sys2Proof.Machine
end

section
/-! FUNC_REINIT of a capture ring that drops the last record of a read-out, and the statement about commanded resets. -/

namespace Sys2Proof.Machine

/-! ## One answer is one item -/

theorem ringPush_queue_length_le (s : State) (n m : RingId) (i : Item) :
    ((s.ringPush n i).rings[m]).queue.length ≤ (s.rings[m]).queue.length + 1 := by
  by_cases h : m = n
  · subst h
    simp [State.ringPush]
  · simp [State.ringPush, updRing_rings_ne h]

theorem send_queue_length_le (s : State) (via : Transport) (sess : BitVec 8) (event : Bool) (bytes : List Byte) (m : RingId) :
    ((s.send via sess event bytes).rings[m]).queue.length ≤ (s.rings[m]).queue.length + 1 := by
  unfold State.send
  split
  · extract_lets w1 dest
    split
    · exact ringPush_queue_length_le _ _ _ _
    · exact Nat.le_succ _
  · extract_lets u
    split
    · exact Nat.le_succ _
    · exact Nat.le_succ _

theorem answer_queue_length_le (s : State) (via : Transport) (sess : BitVec 8) (opcode : BitVec 16) (seq : Word) (event : Bool)
    (payload : List Word) (m : RingId) :
    ((s.answer via sess opcode seq event payload).rings[m]).queue.length ≤ (s.rings[m]).queue.length + 1 := by
  unfold State.answer
  split
  · exact send_queue_length_le _ _ _ _ _ _
  · split
    · exact send_queue_length_le _ _ _ _ _ _
    · exact Nat.le_succ _

theorem rings_eq_of_ok {s t : State} (h : ok s = ok t) : s.rings = t.rings := by
  simpa using congrArg (fun u : State => u.rings) (Host.Outcome.next.inj h)

/-! ## The read-out that ends -/

/-- FUNC_REINIT of ring 3 under session 1. -/
def reinitRing3 : Req := ⟨.ring 0, 1, 8, 0x0C02, 0, [14]⟩

/-- Session 1 on ring 0 has its replies and events on ring 1; on ring 3 the last record of a capture that it reads is in delivery. -/
def lastRecordInDelivery : State := { State.reset with
  life := { State.reset.life with inReset := false, phase := 3 }
  params := { State.reset.params with active := [(bid 0x80 0, [1, 0x101]), (bid 0x80 1, [1]), (bid 0x80 3, [1])] }
  proto := { State.reset.proto with
    sessions := [⟨1, .ring 0, 2, 3, 0x3FF, none, []⟩]
    waiting := [reinitRing3]
    ops := [⟨1, 7, 0x0505, .harvestRead 0, true, 0⟩] }
  harv := State.reset.harv.set 0 { st := .reading }
  rings := State.reset.rings.set 3 { cur := some (⟨[], 0, 4, 0⟩, 0) } }

theorem ready_reinitRing3 : Ready 0x0C02 [] 1 1 reinitRing3 lastRecordInDelivery where
  opcode := by decide
  waits := by decide +kernel
  head := by decide +kernel
  turn := by decide +kernel
  known := by decide +kernel
  runs := by decide +kernel
  ready := rfl
  free := by decide +kernel
  valid := by decide +kernel
  features := rfl
  long := by decide
  short := by decide

theorem doFuncReinit_ring3 (s : State) : doFuncReinit reinitRing3 s = Res.ok [] (reinitRing 3 (countL2 s)) := rfl

/-- The state in which ring 3 has re-initialised, before FUNC_REINIT is answered. -/
def ring3Reinitialised : State := reinitRing 3 (countL2 (taken reinitRing3 lastRecordInDelivery))

theorem answers_reinitRing3 : Answers (.funcReinit reinitRing3) reinitRing3 stOk 0 [] ring3Reinitialised lastRecordInDelivery :=
  answers_of_ready rfl ready_reinitRing3 (doFuncReinit_ring3 _)

/-- Ring 1 gets the answer of HARVEST_READ and that of FUNC_REINIT. -/
theorem ring1_gets_two : ((answered reinitRing3 stOk 0 [] ring3Reinitialised).rings[(1 : RingId)]).queue.length = 2 := by decide +kernel

theorem ring1_was_empty : (lastRecordInDelivery.rings[(1 : RingId)]).queue.length = 0 := by decide +kernel

/-- Refutes O19: its clause about FUNC_REINIT of a ring leaves every other ring, and in `lastRecordInDelivery` the record dropped with ring 3 ends a
read-out, whose HARVEST_READ is answered on ring 1. -/
theorem not_commandedResets : ¬ Obligations.CommandedResets := by
  unfold Obligations.CommandedResets
  rintro ⟨-, hring, -⟩
  obtain ⟨u, hu, -, hothers⟩ := hring reinitRing3 3 lastRecordInDelivery ready_reinitRing3 (by decide) (by decide +kernel)
  have hsame := rings_eq_of_ok (Eq.trans (Eq.symm hu) answers_reinitRing3)
  have hle := answer_queue_length_le u reinitRing3.via reinitRing3.sess reinitRing3.opcode reinitRing3.seq false [statusWord stOk 0] 1
  have htwo := ring1_gets_two
  rw [← hsame] at htwo
  rw [hothers 1 (by decide), ring1_was_empty] at hle
  exact absurd (htwo.symm.le.trans hle) (by decide)

end Sys2Proof.Machine
end

section
/-! THERMTRIP with a shared commit prepared, which ends with its lane, and the statement about power and reset pins. -/

namespace Sys2Proof.Machine

/-- The state in which the thermal trip has stopped every lane (R493). -/
def tripped (s : State) : State :=
  let high := fun (n : Nat) => !pinsHeld s && (List.range 4).any fun f => pinIdle (s.act 0x10 f) n
  let s := lanesDown s
  let s1 := { s with
    life := { s.life with thermtrip := true }
    pcie := { s.pcie with up := false }
    fe := s.fe.map fun (x : FeSt) => { x with
      links := Vector.replicate 3 .off, lemc := 0, fell := 0, outage := x.outage.set 0 (some (x.outage[0].getD s.time.clk)) } }
  refreshIntlk (refreshPins ((s1.pin .thermtripN false).emits (((List.range 4).filter high).map fun n => .trig n false s.time.clk)))

theorem execThermtrip_trips {s : State} (hpowered : s.life.powered = true) (htrip : s.life.thermtrip = false) :
    exec .thermtrip s = ok (tripped s) := by
  simp only [exec, execThermtrip, hpowered, htrip]
  rfl

/-- A supplied device has a COMMIT_ARM prepared for the peer on lane 0. -/
def suppliedWhilePrepared : State := { enteringWhilePrepared with life := { State.reset.life with powered := true } }

theorem tripped_ends_prepared : (tripped suppliedWhilePrepared).proto.ops = [] := by decide +kernel

/-- What the statement asks of a thermal trip. -/
theorem tripped_proto_of_powerAndResetPins (h : Obligations.PowerAndResetPins) {s : State} (hpowered : s.life.powered = true)
    (htrip : s.life.thermtrip = false) : (tripped s).proto = s.proto := by
  unfold Obligations.PowerAndResetPins at h
  obtain ⟨t, ht, -, -, -, -, -, hframe⟩ := h.2 s hpowered htrip
  exact (proto_eq_of_ok ((execThermtrip_trips hpowered htrip).symm.trans ht)).symm.trans (hframe .proto (by decide) (by decide))

/-- Refutes O16: its clause about THERMTRIP keeps the protocol state and the commits, and in `suppliedWhilePrepared` the lane that stops takes the
COMMIT_ARM prepared over it along (R94). -/
theorem not_powerAndResetPins : ¬ Obligations.PowerAndResetPins := by
  intro h
  have hproto := tripped_proto_of_powerAndResetPins h (s := suppliedWhilePrepared) rfl rfl
  have hops := tripped_ends_prepared
  rw [hproto] at hops
  exact List.cons_ne_nil _ _ hops

end Sys2Proof.Machine
end

section
/-! Start-up: the host image, the start of firmware, READY, and the statement about them. -/

namespace Sys2Proof.Machine

theorem execHostImageVerify_waits {s : State} (hwait : s.life.hostWait = true) (hlive : hostLive s = true) :
    exec .hostImageVerify s = ok (hostVerify s) := by
  simp only [exec, execHostImageVerify, hwait, hlive, Bool.and_self, if_true]

theorem hostVerify_valid {i : Image} {s : State}
    (h : validImage s.life (s.life.straps.bootSel = 3) s.vat.mem s.pcie.scratch.toNat = some i) :
    hostVerify s = { s with life := { s.life with running := some (i, 2), hostWait := false } } := by
  unfold hostVerify
  rw [h]

theorem hostVerify_invalid {s : State} (h : validImage s.life (s.life.straps.bootSel = 3) s.vat.mem s.pcie.scratch.toNat = none) :
    hostVerify s = { s with pcie := { s.pcie with scratch := 0xFFFFFFFF } } := by
  unfold hostVerify
  rw [h]

/-- The state in which firmware has started (R450). -/
def firmwareStarted (bad : Bool) (e : StartEnv) (s : State) : State :=
  let p := powerSetOf e.powerSet
  let s1 := (s.setShad (bid 0xC0 0) p).setAct (bid 0xC0 0) p
  { s1 with
    life := { s1.life with phase := if bad then 5 else 2, cellarFault := bad }
    pcie := { s1.pcie with busStopped := false }
    cellar := { s1.cellar with ch := (s1.cellar.ch.zip e.densityMib).map fun (x : CelCh × Nat) => { x.1 with densityMib := x.2 } } }

theorem execFirmwareStart_starts {e : StartEnv} {s : State} (hphase : s.life.phase = 1) (hwait : s.life.hostWait = false)
    (hrunning : s.life.running.isSome = true) (hdensity : densityOk e.densityMib = true) :
    exec (.firmwareStart e) s = ok (firmwareStarted e.trainFailed e s) := by
  simp only [exec, execFirmwareStart, hphase, hwait, hrunning, hdensity]
  rfl

theorem frame_firmwareStarted {l : List Part} {s t : State} (bad : Bool) (e : StartEnv) (hl : [.life, .pcie, .params, .cellar] ⊆ l)
    (h : Frame l s t) : Frame l s (firmwareStarted bad e t) :=
  frame_withCellar (firmwareStarted bad e t).cellar (hl (by decide)) (frame_withPcie (firmwareStarted bad e t).pcie (hl (by decide))
    (frame_withLife (firmwareStarted bad e t).life (hl (by decide)) (frame_withParams (firmwareStarted bad e t).params (hl (by decide)) h)))

/-! ## READY -/

theorem frame_trainPoint {l : List Part} {s t : State} (c : Fin 4) (f : Fin 3) (hl : [.cellar, .free] ⊆ l) (h : Frame l s t) :
    Frame l s (trainPoint c f t) :=
  frame_withFree _ (hl (by decide)) (frame_withCellar _ (hl (by decide)) h)

theorem frame_trainStart {l : List Part} {s t : State} (hl : [.cellar, .free] ⊆ l) (h : Frame l s t) : Frame l s (trainStart t) := by
  refine frame_foldl _ (fun u c hu => ?_) (frame_withCellar _ (hl (by decide)) h)
  split
  · split
    · exact hu
    · exact frame_trainPoint _ _ hl hu
  · exact frame_foldl _ (fun v f hv => frame_trainPoint c f hl hv) hu

/-- The state in which READY has been reached, before a fault of start-up is signalled (R450-R452). -/
def readyReached (failed : Bool) (s : State) : State :=
  let s1 := trainStart s
  { s1 with
    free := s1.free + 1
    life := { s1.life with
      phase := 3, hwFault := s.life.vintDefaults || s.life.sparesGone || failed, selfcalFailed := failed
      readyUs := satWord (s1.time.clk / 10 ^ 6), readyTime := s1.now, l3Since := none, kept := false }
    power := { s1.power with idleSince := some s1.time.clk }
    aux := if failed then s1.aux else { s1.aux with self := freeFact s1.free, selfValid := true, selfTime := s1.now } }

theorem execReadyReached_ready {failed : Bool} {s : State} (hphase : s.life.phase = 2) : exec (.readyReached failed) s =
    ok (if s.life.vintDefaults || s.life.sparesGone || failed then (readyReached failed s).raise vecFault else readyReached failed s) := by
  rw [exec, execReadyReached, if_pos hphase]
  rfl

theorem readyReached_spec (failed : Bool) (s : State) : (readyReached failed s).life.phase = 3 ∧
    (readyReached failed s).life.selfcalFailed = failed ∧ (readyReached failed s).life.readyTime = s.now ∧
    (readyReached failed s).aux.selfValid = (!failed || s.aux.selfValid) ∧ (readyReached failed s).params = s.params ∧
    (readyReached failed s).proto = s.proto ∧ (readyReached failed s).rings = s.rings ∧ (readyReached failed s).vat = s.vat ∧
    (readyReached failed s).core = s.core ∧ (readyReached failed s).harv = s.harv := by
  have htrained : Frame [.cellar, .free] s (trainStart s) := frame_trainStart (List.Subset.refl _) (frame_refl _ s)
  have hkept : ∀ p, p ≠ .activity → p ∉ [Part.cellar, Part.free] → p.same s (trainStart s) := htrained
  refine ⟨rfl, rfl, congrArg (fun x : TimeBase => x.at x.clk) (hkept .time (by decide) (by decide)), ?_, hkept .params (by decide) (by decide),
    hkept .proto (by decide) (by decide), hkept .rings (by decide) (by decide), hkept .vat (by decide) (by decide),
    hkept .core (by decide) (by decide), hkept .harv (by decide) (by decide)⟩
  cases failed with
  | true => exact congrArg AuxSt.selfValid (hkept .aux (by decide) (by decide))
  | false => rfl

/-- Settles O17: each clause is what one command of start-up does. -/
theorem startUp : Obligations.StartUp := by
  unfold Obligations.StartUp
  refine ⟨?valid, ?invalid, ?starts, ?ready⟩
  case valid => exact fun i s hwait hlive hvalid => (execHostImageVerify_waits hwait hlive).trans (congrArg ok (hostVerify_valid hvalid))
  case invalid => exact fun s hwait hlive hvalid => (execHostImageVerify_waits hwait hlive).trans (congrArg ok (hostVerify_invalid hvalid))
  case starts =>
    intro e s hphase hwait hrunning hdensity
    refine ⟨_, execFirmwareStart_starts hphase hwait hrunning hdensity, rfl, rfl, rfl, getBlk_assocSet_same _ _ _, fun c => ?_,
      frame_firmwareStarted _ e (by decide) (frame_refl _ s)⟩
    simp [firmwareStarted]
  case ready =>
    intro failed s hphase
    refine ⟨_, execReadyReached_ready hphase, ?_⟩
    split
    · simp only [State.raise_life, State.raise_aux, State.raise_params, State.raise_proto, State.raise_rings, State.raise_vat, State.raise_core,
        State.raise_harv]
      exact readyReached_spec failed s
    · exact readyReached_spec failed s

end Sys2Proof.Machine
end

section
/-! The recovery ladder and the heartbeat: bites, restarts, escalation, and the statement about them. -/

namespace Sys2Proof.Machine

/-! ## Announced resets (R454) -/

/-- The state in which a level-3 reset has been announced. -/
def announcedL3 (cause : Nat) (keep : Bool) (s : State) : State :=
  { s with life := { s.life with pendReset := some ⟨s.time.clk + 10 ^ 9, keep, BitVec.ofNat 4 cause⟩ } }

theorem requestL3_none {s : State} (cause : Nat) (keep : Bool) (h : s.life.pendReset = none) : requestL3 cause keep s = announcedL3 cause keep s := by
  rw [requestL3, h]
  rfl

theorem frame_announcedL3 {l : List Part} {s t : State} (cause : Nat) (keep : Bool) (hl : .life ∈ l) (h : Frame l s t) :
    Frame l s (announcedL3 cause keep t) :=
  frame_withLife _ hl h

/-- The CP is not awaited any more. -/
def unawaited (s : State) : State := { s with life := { s.life with cpRestart := none } }

/-! ## The watchdog (R456) -/

/-- The state in which a bite has been raised and recorded. -/
def bitten (w : Nat) (s : State) : State :=
  let s1 := (s.goTo w).raise vecFault
  { s1 with life := { s1.life with lastBite := some s1.time.clk } }

theorem frame_bitten {l : List Part} {s t : State} (w : Nat) (hl : [.time, .life, .pcie, .out] ⊆ l) (h : Frame l s t) : Frame l s (bitten w t) :=
  frame_withLife (bitten w t).life (hl (by decide)) (frame_raise _ (hl (by decide)) (hl (by decide)) (frame_goTo _ (hl (by decide)) h))

theorem bitten_time (w : Nat) (s : State) : (bitten w s).time = s.time.goTo w := State.raise_time _ _

theorem bitten_params (w : Nat) (s : State) : (bitten w s).params = s.params := State.raise_params _ _

theorem bitten_life (w : Nat) (s : State) : (bitten w s).life = { s.life with lastBite := some (max s.time.clk w) } := by
  simp only [bitten, State.raise_life, State.raise_time]
  rfl

theorem bitten_irqSum (w : Nat) (s : State) : (bitten w s).pcie.irqSum.getLsbD 42 = true := raise_irqSum_same (s.goTo w) vecFault

theorem syBlk_congr {s t : State} (h : t.params = s.params) : syBlk t = syBlk s := by
  simp only [syBlk, State.act, h]

/-- The CP is down and not awaited. -/
def cpDown (s : State) : State := { s with life := { s.life with phase := 4, cpRestart := none } }

/-- The state in which a second bite has announced a level-3 reset. -/
def secondBitten (w : Nat) (s : State) : State := cpDown (announcedL3 3 (syKeep (syBlk s)) (bitten w s))

theorem frame_restartCp {l : List Part} {s t : State} (hl : .life ∈ l) (h : Frame l s t) : Frame l s (restartCp t) :=
  frame_withLife (t := t) _ hl h

theorem liveOp_raise (v : Fin 64) (s : State) : liveOp (s.raise v) = liveOp s := by
  rw [liveOp, State.opWhere, State.raise_proto]
  rfl

theorem bite_tries_nothing {w : Nat} {s : State} (hprevious : s.life.previous = none) (hlive : liveOp s = none) :
    ¬ (((s.goTo w).raise vecFault).life.previous.isSome || (liveOp ((s.goTo w).raise vecFault)).isSome) = true := by
  have hlive' : liveOp (s.goTo w) = none := hlive
  rw [liveOp_raise, State.raise_life, hlive', State.goTo_life, hprevious]
  decide

section
variable {w : Nat} {s : State} (hphase : 3 ≤ s.life.phase.val) (hrunning : s.life.running.isSome = true) (hcycle : s.life.pwrCycle = false)
  (hreset : s.life.pendReset = none) (hawake : s.power.state.val ≤ 1) (hprevious : s.life.previous = none) (hlive : liveOp s = none)
include hphase hrunning hcycle hreset hawake

theorem bite_counts : ¬ (s.life.phase.val < 3 || s.life.running.isNone || s.life.pwrCycle || s.life.pendReset.isSome || 2 ≤ s.power.state.val) = true := by
  have hnone : s.life.running.isNone = false := by simpa using hrunning
  simp [hnone, hcycle, hreset]
  omega

include hprevious hlive

/-- A bite outside an activation restarts the CP, where it is not the second within 10 s (R456). -/
theorem execWatchdogBite_first (hbite : s.life.lastBite = none) : exec (.watchdogBite w) s = ok (restartCp (bitten w s)) := by
  rw [exec, execWatchdogBite, if_neg (bite_counts hphase hrunning hcycle hreset hawake)]
  extract_lets s1 second src s2
  have hfirst : second = false := by
    unfold second s1
    rw [State.raise_life, State.goTo_life, hbite]
  rw [if_neg (bite_tries_nothing hprevious hlive), if_neg (by rw [hfirst]; decide)]
  rfl

/-- A second bite within 10 s announces a level-3 reset (R456). -/
theorem execWatchdogBite_second {b : Nat} (hbite : s.life.lastBite = some b) (hsoon : max s.time.clk w < b + 10 ^ 13) :
    exec (.watchdogBite w) s = ok (secondBitten w s) := by
  rw [exec, execWatchdogBite, if_neg (bite_counts hphase hrunning hcycle hreset hawake)]
  extract_lets s1 second src s2
  have hsecond : second = true := by
    unfold second s1
    rw [State.raise_life, State.raise_time, State.goTo_life, State.goTo_clk, hbite]
    exact decide_eq_true hsoon
  have hnone : (bitten w s).life.pendReset = none := (congrArg Life.pendReset (bitten_life w s)).trans hreset
  have hreq : requestL3 3 (syKeep (syBlk (bitten w s))) (bitten w s) = announcedL3 3 (syKeep (syBlk s)) (bitten w s) := by
    rw [requestL3_none _ _ hnone, syBlk_congr (bitten_params w s)]
  rw [if_neg (bite_tries_nothing hprevious hlive), if_pos hsecond]
  exact congrArg (fun u => ok (cpDown u)) hreq

end

/-! ## Power cycles (R456) -/

theorem requestL4_first {s : State} (h : s.life.pwrCycle = false) :
    requestL4 s = ({ s with life := { s.life with pwrCycle := true, phase := 5, pendCycle := none } }).pin .pwrCycleReqN false := by
  rw [requestL4, h]
  rfl

theorem frame_requestL4 {l : List Part} {s t : State} (hl : [.life, .out] ⊆ l) (h : Frame l s t) : Frame l s (requestL4 t) := by
  have h1 := frame_withLife { t.life with pwrCycle := true, phase := 5, pendCycle := none } (hl (by decide)) h
  unfold requestL4
  extract_lets s1
  split
  · exact h1
  · exact frame_pin _ _ (hl (by decide)) h1

theorem execL3NotReady_late {w : Nat} {s : State} (hsince : s.life.l3Since = some w) (hphase : s.life.phase.val < 3) :
    exec .l3NotReady s = ok (escalate s.life.autoL4 (s.goTo (w + 2 * 10 ^ 12))) := by
  simp only [exec, execL3NotReady, hsince, hphase, if_true]

/-! ## The CP runs again (R24, R456) -/

theorem drainHeld_nothing {s : State} (hheld : s.proto.heldIn = []) (hlater : s.proto.smbLater = []) : drainHeld s = s := by
  have hproto : { s.proto with heldIn := [], smbLater := [] } = s.proto := by rw [← hheld, ← hlater]
  simp only [drainHeld, releaseSmb, hheld, hlater, List.foldl_nil]
  exact congrArg (fun p => { s with proto := p }) hproto

theorem execCpRestartComplete_plain {w : Nat} {s : State} (hphase : s.life.phase = 4) (hrestart : s.life.cpRestart = some w)
    (hback : s.life.backTo5 = false) (hawake : s.power.state.val ≤ 1) (hlive : liveOp s = none) (hactivating : s.life.activating = none)
    (hheld : s.proto.heldIn = []) (hlater : s.proto.smbLater = []) :
    exec .cpRestartComplete s = ok { s with life := { s.life with phase := 3, cpRestart := none } } := by
  have hruns : (s.life.phase = 4 && s.life.cpRestart.isSome && s.power.state.val ≤ 1) = true := by simp [hphase, hrestart, hawake]
  rw [exec, execCpRestartComplete, if_pos hruns]
  extract_lets l live s1 s2
  have hs2 : s2 = s1 := by
    unfold s2 live
    rw [hlive]
  have hs1 : s1 = { s with life := { s.life with phase := 3, cpRestart := none } } := by
    simp [s1, live, l, hback, hactivating, hlive]
  rw [hs2, drainHeld_nothing (s := s1) hheld hlater, hs1]

theorem execCpRestartTimeout_late {w : Nat} {s : State} (hphase : s.life.phase = 4) (hrestart : s.life.cpRestart = some w) (hlive : liveOp s = none)
    (hreset : s.life.pendReset = none) :
    exec .cpRestartTimeout s = ok (unawaited (announcedL3 3 (syKeep (syBlk s)) (s.goTo (w + 2 * 10 ^ 11)))) := by
  have hlate : (s.life.phase = 4 && (liveOp s).isNone) = true := by simp [hphase, hlive]
  simp only [exec, execCpRestartTimeout, hrestart]
  rw [if_pos hlate, requestL3_none _ _ (s := s.goTo (w + 2 * 10 ^ 11)) hreset]
  rfl

/-! ## The heartbeat (R459) -/

/-- The state in which a missed heartbeat has been disarmed. -/
def heartbeatMissed (w : Nat) (s : State) : State :=
  let s1 := s.goTo w
  { s1 with life := { s1.life with heartbeat := none } }

theorem frame_heartbeatMissed {l : List Part} {s t : State} (w : Nat) (hl : [.time, .life] ⊆ l) (h : Frame l s t) :
    Frame l s (heartbeatMissed w t) :=
  frame_withLife (heartbeatMissed w t).life (hl (by decide)) (frame_goTo _ (hl (by decide)) h)

theorem execHeartbeatTimeout_missed {w due : Nat} {s : State} (hbeat : s.life.heartbeat = some w) (hon : syTimeout (syBlk s) ≠ 0)
    (hreset : s.life.pendReset = none) (hdue : w + syTimeout (syBlk s) * 10 ^ 9 = due) : exec .heartbeatTimeout s =
    ok (if syAction (syBlk s) = 1 then requestL3 4 (syKeep (syBlk s)) (heartbeatMissed due s)
      else if syAction (syBlk s) = 2 then requestL4 (heartbeatMissed due s) else (heartbeatMissed due s).raise vecFault) := by
  have hmissed : ¬ (decide (syTimeout (syBlk s) = 0) || s.life.pendReset.isSome) = true := by simp [hon, hreset]
  simp only [exec, execHeartbeatTimeout, hbeat, hdue]
  rw [if_neg hmissed]
  rfl

theorem execHeartbeat_arms {s : State} (hlive : hostLive s = true) (hreset : inWarmReset s = false) (hphase : s.life.phase = 3)
    (hon : syTimeout (syBlk s) ≠ 0) : exec .heartbeat s = ok { s with life := { s.life with heartbeat := some s.time.clk } } := by
  have harms : (s.life.phase = 3 && decide (bf (s.act 0x01 0) 0 0 16 ≠ 0)) = true := by simp [hphase]; exact hon
  rw [exec, execHeartbeat, hlive, hreset, heartbeatWrite, if_pos harms]
  rfl

/-- Settles O18: each clause is one step of the ladder or of the heartbeat. -/
theorem recoveryLadder : Obligations.RecoveryLadder := by
  unfold Obligations.RecoveryLadder
  refine ⟨?first, ?second, ?back, ?notBack, ?cycles, ?stops, ?raises, ?resets, ?arms, ?powerCycles⟩
  case first =>
    intro w s hphase hrunning hcycle hreset hawake hprevious hlive hbite
    refine ⟨_, execWatchdogBite_first hphase hrunning hcycle hreset hawake hprevious hlive hbite, rfl, ?_, ?_, bitten_irqSum w s,
      frame_restartCp (by decide) (frame_bitten w (List.Subset.refl _) (frame_refl _ s))⟩
    · exact congrArg (fun x : TimeBase => some x.clk) (bitten_time w s)
    · exact (congrArg Life.pendReset (bitten_life w s)).trans hreset
  case second =>
    intro w b s hphase hrunning hcycle hreset hawake hprevious hlive hbite hsoon
    refine ⟨_, execWatchdogBite_second hphase hrunning hcycle hreset hawake hprevious hlive hbite hsoon, ?_,
      frame_withLife (t := announcedL3 3 (syKeep (syBlk s)) (bitten w s)) _ (by decide)
        (frame_announcedL3 3 (syKeep (syBlk s)) (by decide) (frame_bitten w (List.Subset.refl _) (frame_refl _ s)))⟩
    exact congrArg (fun x : TimeBase => some (⟨x.clk + 10 ^ 9, syKeep (syBlk s), 3⟩ : PendReset)) (bitten_time w s)
  case back =>
    exact fun w s hphase hrestart hback hawake hlive hactivating hheld hlater =>
      execCpRestartComplete_plain hphase hrestart hback hawake hlive hactivating hheld hlater
  case notBack =>
    exact fun w s hphase hrestart hlive hreset => ⟨_, execCpRestartTimeout_late hphase hrestart hlive hreset, rfl, rfl, rfl,
      frame_withLife _ (by decide) (frame_announcedL3 _ _ (by decide) (frame_goTo _ (by decide) (frame_refl _ s)))⟩
  case cycles =>
    intro w s hsince hphase hauto hcycle
    refine ⟨_, execL3NotReady_late hsince hphase, ?_⟩
    rw [hauto, escalate, if_pos rfl, requestL4_first (s := s.goTo (w + 2 * 10 ^ 12)) hcycle]
    exact ⟨rfl, rfl, rfl, frame_pin _ _ (by decide) (frame_withLife _ (by decide) (frame_goTo _ (by decide) (frame_refl _ s)))⟩
  case stops =>
    intro w s hsince hphase hauto
    refine ⟨_, execL3NotReady_late hsince hphase, ?_⟩
    rw [hauto]
    exact ⟨rfl, rfl, frame_withLife _ (by decide) (frame_goTo _ (by decide) (frame_refl _ s))⟩
  case raises =>
    intro w s hbeat hon hreset haction
    obtain ⟨due, hdue⟩ : ∃ due, w + syTimeout (syBlk s) * 10 ^ 9 = due := ⟨_, rfl⟩
    rw [hdue]
    refine ⟨_, execHeartbeatTimeout_missed hbeat hon hreset hdue, ?_⟩
    rw [haction, if_neg (by decide), if_neg (by decide), State.raise_time, State.raise_life]
    exact ⟨rfl, rfl, hreset, raise_irqSum_same _ _,
      frame_raise _ (by decide) (by decide) (frame_heartbeatMissed due (by decide) (frame_refl _ s))⟩
  case resets =>
    intro w s hbeat hon hreset haction
    obtain ⟨due, hdue⟩ : ∃ due, w + syTimeout (syBlk s) * 10 ^ 9 = due := ⟨_, rfl⟩
    rw [hdue]
    refine ⟨_, execHeartbeatTimeout_missed hbeat hon hreset hdue, ?_⟩
    rw [haction, if_pos rfl, requestL3_none _ _ (s := heartbeatMissed due s) hreset]
    exact ⟨rfl, rfl, rfl, frame_announcedL3 _ _ (by decide) (frame_heartbeatMissed due (by decide) (frame_refl _ s))⟩
  case arms => exact fun s hlive hreset hphase hon => execHeartbeat_arms hlive hreset hphase hon
  case powerCycles =>
    intro w s hbeat hon hreset haction hcycle
    obtain ⟨due, hdue⟩ : ∃ due, w + syTimeout (syBlk s) * 10 ^ 9 = due := ⟨_, rfl⟩
    rw [hdue]
    refine ⟨_, execHeartbeatTimeout_missed hbeat hon hreset hdue, ?_⟩
    rw [haction, if_neg (by decide), if_pos rfl, requestL4_first (s := heartbeatMissed due s) hcycle]
    exact ⟨rfl, rfl, rfl, rfl, frame_pin _ _ (by decide) (frame_withLife _ (by decide) (frame_heartbeatMissed due (by decide) (frame_refl _ s)))⟩

end Sys2Proof.Machine
end

section
/-! Firmware change: writes, activation, confirmation, a trial that fails, and the statement about them. -/

namespace Sys2Proof.Machine

/-! ## FW_WRITE -/

theorem otherSlot_of_A {i : Image} {s : State} (h : s.life.running = some (i, 0)) : otherSlot s = 1 := by
  simp only [otherSlot, h]

theorem updSlot_slots_same (k : Fin 2) (f : FlashSlot → FlashSlot) (s : State) : (updSlot k f s).life.slots[k] = f s.life.slots[k] := by
  simp [updSlot]

theorem updSlot_slots_ne {k j : Fin 2} (h : j ≠ k) (f : FlashSlot → FlashSlot) (s : State) : (updSlot k f s).life.slots[j] = s.life.slots[j] := by
  simp [updSlot, Fin.val_ne_of_ne h.symm]

theorem frame_updSlot {l : List Part} {s t : State} (k : Fin 2) (f : FlashSlot → FlashSlot) (hl : .life ∈ l) (h : Frame l s t) :
    Frame l s (updSlot k f t) :=
  frame_withLife _ hl h

/-- A write past the start of the slot leaves the slot's state (R465). -/
theorem doFwWrite_inside {r : Req} {s : State} (hrsvd : rsvdBad r 0 0x7FFFFC = false)
    (hfits : wbits (wordAt r.payload 0) 0 23 + 4 * (r.payload.length - 1) ≤ slotBytes) (hlive : liveOp s = none) (htrial : inTrial s = false)
    (hstore : storeRuns s = false) (hinside : wbits (wordAt r.payload 0) 0 23 ≠ 0) :
    doFwWrite r s = Res.rep stPending 0 [] (s.addOp r (.fwWrite (wbits (wordAt r.payload 0) 0 23) (r.payload.drop 1)) true) := by
  have hroom : ¬ (rsvdBad r 0 0x7FFFFC || decide (slotBytes < wbits (wordAt r.payload 0) 0 23 + 4 * (r.payload.drop 1).length)) = true := by
    rw [hrsvd, List.length_drop]
    simpa using hfits
  have hfree : ¬ ((liveOp s).isSome || inTrial s || storeRuns s) = true := by simp [hlive, htrial, hstore]
  simp only [doFwWrite, if_neg hroom, if_neg hfree, if_neg hinside]

def isFwWrite : OpKind → Bool
  | .fwWrite _ _ => true
  | _ => false

/-- The state in which bytes have gone into the slot that does not run. -/
def slotWritten (off : Nat) (dat : List Word) (s : State) : State :=
  updSlot (otherSlot s) (fun x => { x with data := x.data.writeN off (wordsBytes dat) }) s

theorem execFwWriteComplete_verified {o : Op} {off : Nat} {dat : List Word} {s : State} (hop : s.opWhere isFwWrite = some o)
    (hkind : o.kind = .fwWrite off dat) : exec (.fwWriteComplete true) s = ok ((slotWritten off dat s).finish o stOk 0 []) := by
  simp only [exec, execFwWriteComplete]
  split
  next hnone => exact absurd (hop.symm.trans hnone) (by simp)
  next o' hfound =>
    obtain rfl := Option.some.inj (hop.symm.trans hfound)
    simp only [hkind]
    rfl

theorem execFwWriteComplete_unverified {o : Op} {off : Nat} {dat : List Word} {s : State} (hop : s.opWhere isFwWrite = some o)
    (hkind : o.kind = .fwWrite off dat) : ∃ bad, exec (.fwWriteComplete false) s =
      ok (((updSlot (otherSlot s) (fun x => { x with data := x.data.writeN off (wordsBytes bad) }) { s with free := s.free + 1 }).finish o
        stHwFault 0xFFA3 []).raise vecFault) := by
  simp only [exec, execFwWriteComplete]
  split
  next hnone => exact absurd (hop.symm.trans hnone) (by simp)
  next o' hfound =>
    obtain rfl := Option.some.inj (hop.symm.trans hfound)
    simp only [hkind]
    exact ⟨_, rfl⟩

/-! ## FW_ACTIVATE and FW_CONFIRM -/

/-- FW_ACTIVATE with MODE 1 arms the trial of the other slot at the next boot (R464). -/
theorem doFwActivate_trial {r : Req} {i : Image} {s : State} (hword : wordAt r.payload 0 = 1) (htrain : trainingRuns s = false)
    (hcal : calRuns s = false) (hrunning : s.life.running = some (i, 0)) : doFwActivate r s =
    Res.ok [i.version] { s with life := { s.life with
      slots := s.life.slots.set 1 { s.life.slots[1] with st := .trial, seqNo := nextSeqNo s.life } } } := by
  have hrsvd : rsvdBad r 0 1 = false := by simp [rsvdBad, hword]
  have hmode : (wordAt r.payload 0).getLsbD 0 = true := by simp [hword]
  have hversion : fwVersion s = i.version := by simp [fwVersion, hrunning]
  simp only [doFwActivate, hrsvd, htrain, hcal, hmode, hversion, otherSlot_of_A hrunning]
  rfl

/-- FW_CONFIRM of a trial of slot B raises the fuse counter to the image's rollback index (R447). -/
theorem doFwConfirm_trial {r : Req} {i : Image} {s : State} (hrunning : s.life.running = some (i, 1)) (hst : s.life.slots[1].st = .trialTried)
    (hfuse : s.life.fuseRollback.toNat < i.rollback.toNat) : doFwConfirm r s =
    Res.ok [0] { s with life := { s.life with
      slots := s.life.slots.set 1 { s.life.slots[1] with st := .valid, seqNo := nextSeqNo s.life }
      fuseRollback := i.rollback, previous := none } } := by
  simp only [doFwConfirm, hrunning]
  simp [hst, hfuse]

/-! ## A trial that fails (R464) -/

theorem execFwTrialFail_running {i j : Image} {s : State} (hlive : liveOp s = none) (hactivating : s.life.activating = none)
    (hrunning : s.life.running = some (i, 1)) (hprevious : s.life.previous = some (j, 0)) :
    exec .fwTrialFail s = ok (restartCp { s with life := { setSlot 1 .failed s.life with activating := some (j, 0), previous := none } }) := by
  simp only [exec, execFwTrialFail, hlive, hactivating, trialFailed, hrunning, hprevious]
  rfl

/-- The state in which the CP restarts into the image that ran before a live activation. -/
def activationUndone (s : State) : State :=
  restartCp { s with life := { setSlot 1 .failed s.life with activating := s.life.running, previous := none } }

theorem execFwTrialFail_live {o : Op} {i : Image} {s : State} (hlive : liveOp s = some o) (hactivating : s.life.activating = some (i, 1)) :
    exec .fwTrialFail s = ok ((activationUndone (s.goTo (o.start + 5 * 10 ^ 11))).finish o stHwFault 0xFFD3 []) := by
  generalize hw : o.start + 5 * 10 ^ 11 = w
  have hlive' : liveOp (activationUndone (s.goTo w)) = some o := hlive
  have hstarted : trialFailed (s.goTo w) = (match liveOp (activationUndone (s.goTo w)) with
      | some o => (activationUndone (s.goTo w)).finish o stHwFault 0xFFD3 []
      | none => activationUndone (s.goTo w)) := by
    simp only [trialFailed, State.goTo_life, hactivating]
    rfl
  rw [hlive'] at hstarted
  rw [exec, execFwTrialFail, hlive, hactivating]
  subst hw
  exact congrArg ok hstarted

theorem finish_life (o : Op) (st det : Nat) (ws : List Word) (s : State) : (s.finish o st det ws).life = s.life :=
  frame_finish (l := [.proto, .rings, .out]) o st det ws (List.Subset.refl _) (frame_refl _ s) .life (by decide) (by decide)

/-- Settles O20: each clause is what one command or event of a firmware change does. -/
theorem firmwareChange : Obligations.FirmwareChange := by
  unfold Obligations.FirmwareChange
  refine ⟨⟨?write, ?verified, ?unverified, ?activate, ?confirm⟩, ?running, ?live⟩
  case write =>
    exact fun r s hr hrsvd hfits hlive htrial hstore hinside =>
      answers_of_ready rfl hr (doFwWrite_inside (s := taken r s) hrsvd hfits hlive htrial hstore hinside)
  case verified =>
    intro o off dat i s hop hkind hrunning
    refine ⟨_, execFwWriteComplete_verified hop hkind, ?_, ?_, finish_ops _ _ _ _ _,
      frame_finish _ _ _ _ (by decide) (frame_updSlot _ _ (by decide) (frame_refl _ s))⟩
    · rw [finish_life, slotWritten, otherSlot_of_A hrunning]
      exact updSlot_slots_ne (k := 1) (j := 0) (by decide) _ s
    · rw [finish_life, slotWritten, otherSlot_of_A hrunning]
      exact updSlot_slots_same 1 _ s
  case unverified =>
    intro o off dat s hop hkind
    obtain ⟨bad, hexec⟩ := execFwWriteComplete_unverified hop hkind
    refine ⟨_, hexec, raise_irqSum_same _ _, ?_, frame_raise _ (by decide) (by decide)
      (frame_finish _ _ _ _ (by decide) (frame_updSlot _ _ (by decide) (frame_withFree _ (by decide) (frame_refl _ s))))⟩
    rw [State.raise_proto, finish_ops]
    rfl
  case activate =>
    exact fun r i s hr hword htrain hcal hrunning => answers_of_ready rfl hr (doFwActivate_trial (s := taken r s) hword htrain hcal hrunning)
  case confirm =>
    exact fun r i s hr hrunning hst hfuse => answers_of_ready rfl hr (doFwConfirm_trial (s := taken r s) hrunning hst hfuse)
  case running =>
    intro i j s hlive hactivating hrunning hprevious
    refine ⟨_, execFwTrialFail_running hlive hactivating hrunning hprevious, ?_, ?_, rfl, rfl, rfl, ?_⟩
    · simp [restartCp, countL2, setSlot]
    · simp [restartCp, countL2, setSlot]
    · exact frame_restartCp (by decide) (frame_withLife _ (by decide) (frame_refl _ s))
  case live =>
    intro o i j s hlive hactivating hrunning
    refine ⟨_, execFwTrialFail_live hlive hactivating, ?_, ?_, ?_, ?_, finish_ops _ _ _ _ _,
      frame_finish _ _ _ _ (by decide) (frame_restartCp (by decide) (frame_withLife _ (by decide) (frame_goTo _ (by decide) (frame_refl _ s))))⟩
    · rw [finish_life]
      simp [activationUndone, restartCp, countL2, setSlot]
    · rw [finish_life]
      simp [activationUndone, restartCp, countL2, setSlot]
    · rw [finish_life]
      rfl
    · rw [finish_life]
      exact hrunning

end Sys2Proof.Machine
end

section
/-! A step runs the front of the queue; a function-level reset with PTM valid, and the statement about the endpoint's resets. -/

namespace Sys2Proof.Machine

/-- Settles O1. -/
theorem stepRunsFront : Obligations.StepRunsFront := fun _ _ _ => rfl

theorem execFunctionLevelReset_awake {s : State} (hup : s.pcie.up = true) (hentering : s.power.entering = none) (hawake : s.power.state.val ≤ 1) :
    exec .functionLevelReset s = ok (flr s) := by
  have hlow : ¬ 2 ≤ s.power.state.val := by omega
  simp [exec, execFunctionLevelReset, hup, hentering, hlow]

/-- The link is up and PTM gives the time. -/
def linkedWithPtm : State := { State.reset with
  pcie := { State.reset.pcie with up := true }
  time := { State.reset.time with ptmValid := true } }

/-- A function-level reset disables PTM, and PTM_VALID clears with it (R84). -/
theorem flr_clears_ptmValid : (flr linkedWithPtm).time.ptmValid = false := by decide +kernel

/-- Refutes O14: its clause about FUNCTION_LEVEL_RESET keeps the whole time base, and in `linkedWithPtm` the reset clears PTM_VALID. -/
theorem not_endpointResets : ¬ Obligations.EndpointResets := by
  unfold Obligations.EndpointResets
  rintro ⟨hreset, -⟩
  obtain ⟨t, ht, -, -, -, -, -, -, hframe⟩ := hreset linkedWithPtm rfl rfl (by decide) (by decide +kernel) rfl
  have hflr : ok (flr linkedWithPtm) = ok t := (execFunctionLevelReset_awake rfl rfl (by decide)).symm.trans ht
  have htime : t.time = (flr linkedWithPtm).time := by
    simpa using (congrArg (fun u : State => u.time) (Host.Outcome.next.inj hflr)).symm
  have hptm : linkedWithPtm.time.ptmValid = false := by
    rw [← show t.time = linkedWithPtm.time from hframe .time (by decide) (by decide), htime]
    exact flr_clears_ptmValid
  exact absurd hptm (by decide)

end Sys2Proof.Machine
end

section
/-! Register writes: whole words, words in part, poisoned TLPs, and the statement about them. -/

namespace Sys2Proof.Machine

theorem lo32_zeroExtend (w : Word) : lo32 (w.zeroExtend 64) = w := by
  ext i hi
  have hin : i < 64 := by omega
  simp [lo32, hin, BitVec.getLsbD_eq_getElem hi]

/-- A whole 32-bit word written at an aligned offset goes to the register there (R5). -/
theorem execRegisterWrite_word {off : BitVec 20} {w : Word} {met : WriteMet} {s : State} (hlive : hostLive s = true)
    (hreset : inWarmReset s = false) (hgood : met.badTlp = false) (haligned : off.toNat % 4 = 0) :
    exec (.registerWrite off 0x0F (w.zeroExtend 64) false met) s = ok (write32 off.toNat w met s) := by
  simp [exec, execRegisterWrite, hlive, hreset, hgood, haligned, beOf, bitsOf, lo32_zeroExtend]

theorem write32_scratch (w : Word) (met : WriteMet) (s : State) :
    write32 0x018 w met s = { s with pcie := { s.pcie with scratch := w } } := rfl

theorem write32_irqSum (w : Word) (met : WriteMet) (s : State) : write32 0x020 w met s = { s with pcie := { s.pcie with
    irqSum := (s.pcie.irqSum &&& ~~~(w.zeroExtend 64)) ||| ((met.sameSlot.extractLsb' 0 32).zeroExtend 64) } } := rfl

theorem write32_prod {off : Nat} {n : RingId} (hoff : off = 0x10000 + 64 * n.val) (w : Word) (met : WriteMet) (s : State) :
    write32 off w met s = offerProd n w s := by
  have hring : ringOf ((off - 0x10000) / 64) = n := Fin.ext (by simp [ringOf]; omega)
  have hword : (off - 0x10000) % 64 = 0 := by omega
  have hin : (decide (0x10000 ≤ off) && decide (off < 0x10800)) = true := by simp; omega
  rw [write32, if_neg (by omega), if_neg (by omega), if_neg (by omega), if_neg (by omega), if_neg (by omega), if_neg (by omega), if_pos hin]
  simp only [hring, hword]

/-- Settles O7: each clause is what one word, or what the endpoint makes of a TLP, does. -/
theorem registerWrites : Obligations.RegisterWrites := by
  unfold Obligations.RegisterWrites
  refine ⟨fun w met s hlive hreset hgood => ⟨⟨?scratch, ?irqSum, ?doorbell, ?heartbeat⟩, ?prod⟩, ?poisoned, ?part, ?down⟩
  case scratch => exact (execRegisterWrite_word hlive hreset hgood (by decide)).trans (congrArg ok (write32_scratch w met s))
  case irqSum => exact (execRegisterWrite_word hlive hreset hgood (by decide)).trans (congrArg ok (write32_irqSum w met s))
  case doorbell =>
    rw [execRegisterWrite_word hlive hreset hgood (by decide), exec, execDoorbell, hlive, hreset]
    rfl
  case heartbeat =>
    rw [execRegisterWrite_word hlive hreset hgood (by decide), exec, execHeartbeat, hlive, hreset]
    rfl
  case prod =>
    intro n off hoff hup
    rw [execRegisterWrite_word hlive hreset hgood (by omega), write32_prod hoff, exec, execProdWrite, if_pos hup]
  case poisoned =>
    intro off be d wide met s hlive hbad
    simp only [exec, execRegisterWrite, hlive, hbad, State.emit, Bool.not_true, Bool.false_eq_true, if_false, if_true]
  case part =>
    intro off d met s hlive hreset hgood
    simp [exec, execRegisterWrite, hlive, hreset, hgood, beOf, bitsOf, State.emit]
  case down =>
    intro off be d wide met s hdown
    simp only [exec, execRegisterWrite, hdown, Bool.not_false, if_true]

end Sys2Proof.Machine
end

section
/-! What every operation keeps: the queue of waiting commands, and the canonical form of every memory. -/

namespace Sys2Proof.Machine

/-! ## What is kept -/

/-- IM and DM of a core are in canonical form. -/
structure CoreOk (c : Core) : Prop where
  im : c.im.wf = true
  dm : c.dm.wf = true

/-- The flash slots hold canonical memories. -/
def SlotsOk (v : Vector FlashSlot 2) : Prop := ∀ k : Fin 2, v[k].data.wf = true

/-- Every memory is in canonical form. -/
structure MemsOk (s : State) : Prop where
  vat : s.vat.mem.wf = true
  cellar : s.cellar.mem.wf = true
  core : ∀ n : CoreId, CoreOk s.core[n]
  slots : SlotsOk s.life.slots

theorem SlotsOk.set {v : Vector FlashSlot 2} {x : FlashSlot} (h : SlotsOk v) (k : Fin 2) (hx : x.data.wf = true) : SlotsOk
    (v.set k x) := fun i => by
  have hi : (v.set k x)[i] = if k.val = i.val then x else v[i] := Vector.getElem_set ..
  rw [hi]
  split
  · exact hx
  · exact h i

theorem memsOk_iff (s : State) : memsWf s = true ↔ MemsOk s := by
  have hcore : s.core.toList.all (fun c => c.im.wf && c.dm.wf) = true ↔ ∀ n : CoreId, CoreOk s.core[n] := by
    rw [Vector.all_toList, Vector.all_eq_true]
    exact ⟨fun h n => ⟨(Bool.and_eq_true_iff.mp (h n n.isLt)).1, (Bool.and_eq_true_iff.mp (h n n.isLt)).2⟩,
      fun h i hi => Bool.and_eq_true_iff.mpr ⟨(h ⟨i, hi⟩).im, (h ⟨i, hi⟩).dm⟩⟩
  have hslots : s.life.slots.toList.all (fun x => x.data.wf) = true ↔ ∀ k : Fin 2, s.life.slots[k].data.wf = true := by
    rw [Vector.all_toList, Vector.all_eq_true]
    exact ⟨fun h k => h k k.isLt, fun h i hi => h ⟨i, hi⟩⟩
  rw [memsWf, Bool.and_eq_true, Bool.and_eq_true, Bool.and_eq_true, hcore, hslots]
  exact ⟨fun ⟨⟨⟨hv, hc⟩, hk⟩, hl⟩ => ⟨hv, hc, hk, hl⟩, fun h => ⟨⟨⟨h.vat, h.cellar⟩, h.core⟩, h.slots⟩⟩

/-- A state keeps another's queue, and its memories in canonical form. -/
structure Stays (s t : State) : Prop where
  pending : t.pending = s.pending
  mems : MemsOk s → MemsOk t

/-- Every next state of an outcome keeps the queue and the memories. -/
def Keeps (s : State) (o : Host.Outcome State Fault Refusal) : Prop := ∀ t, o = .next t → Stays s t

section
variable {s t u : State}

theorem Stays.refl (s : State) : Stays s s := ⟨rfl, id⟩

theorem Stays.trans (h : Stays s t) (h' : Stays t u) : Stays s u := ⟨h'.pending.trans h.pending, fun hs => h'.mems (h.mems hs)⟩

/-! ## Updates of the state -/

/-- An update that leaves the queue, the cores, the flash slots and what the Vats and the Cellar hold. -/
theorem Stays.of_eq (h : Stays s t) (hp : u.pending = t.pending := by rfl) (hv : u.vat.mem = t.vat.mem := by rfl)
    (hc : u.cellar.mem = t.cellar.mem := by rfl) (hk : u.core = t.core := by rfl) (hl : u.life.slots = t.life.slots := by rfl) : Stays s u where
  pending := hp.trans h.pending
  mems hs := by
    obtain ⟨vat, cellar, core, slots⟩ := h.mems hs
    exact ⟨hv ▸ vat, hc ▸ cellar, hk ▸ core, hl ▸ slots⟩

/-- The same for an update written out. -/
theorem Stays.put {time peer tiu pcie rings proto params commits vat cellar power life core fe stream zones therm harv aux vint taster free out}
    (h : Stays s t) (hv : vat.mem = t.vat.mem := by rfl) (hc : cellar.mem = t.cellar.mem := by rfl) (hk : core = t.core := by rfl)
    (hl : life.slots = t.life.slots := by rfl) :
    Stays s ⟨time, peer, tiu, pcie, rings, proto, params, commits, vat, cellar, power, life, core, fe, stream, zones, therm, harv, aux, vint,
        taster,
      free, out, t.pending⟩ :=
  h.of_eq rfl hv hc hk hl

theorem Stays.withVat {x : Vat} (h : Stays s t) (hx : t.vat.mem.wf = true → x.mem.wf = true) : Stays s { t with vat := x } where
  pending := h.pending
  mems hs := ⟨hx (h.mems hs).vat, (h.mems hs).cellar, (h.mems hs).core, (h.mems hs).slots⟩

theorem Stays.withCellar {x : Cellar} (h : Stays s t) (hx : t.cellar.mem.wf = true → x.mem.wf = true) : Stays s { t with cellar := x } where
  pending := h.pending
  mems hs := ⟨(h.mems hs).vat, hx (h.mems hs).cellar, (h.mems hs).core, (h.mems hs).slots⟩

theorem Stays.withLife {x : Life} (h : Stays s t)
    (hx : SlotsOk t.life.slots → SlotsOk x.slots) : Stays s { t with life := x } where
  pending := h.pending
  mems hs := ⟨(h.mems hs).vat, (h.mems hs).cellar, (h.mems hs).core, hx (h.mems hs).slots⟩

theorem Stays.updCore {n : CoreId} {g : Core → Core} (hg : ∀ {c : Core}, CoreOk c → CoreOk (g c)) (h : Stays s t) : Stays s (t.updCore n g) where
  pending := h.pending
  mems hs := by
    refine ⟨(h.mems hs).vat, (h.mems hs).cellar, fun m => ?_, (h.mems hs).slots⟩
    by_cases hm : m = n
    · subst hm
      rw [updCore_core_same]
      exact hg ((h.mems hs).core m)
    · rw [updCore_core_ne (Ne.symm hm)]
      exact (h.mems hs).core m

/-! ## Ways of control -/

theorem Stays.ite {c : Prop} [Decidable c] (ht : Stays s t) (hu : Stays s u) : Stays s (if c then t else u) := by
  split
  · exact ht
  · exact hu

theorem Stays.dite {c : Prop} [Decidable c] {f : c → State} {g : ¬c → State} (hf : ∀ hc, Stays s (f hc)) (hg : ∀ hc, Stays s (g hc)) :
    Stays s (if hc : c then f hc else g hc) := by
  split
  · exact hf _
  · exact hg _

theorem Stays.foldl {α : Type} {g : State → α → State} {l : List α} (hg : ∀ {v : State} {a : α}, Stays s v → Stays s (g v a)) (h : Stays s t) :
    Stays s (l.foldl g t) :=
  List.foldlRecOn l g h fun _ hv _ _ => hg hv

theorem Stays.iteRes {c : Prop} [Decidable c] {a b : Res} (ha : Stays s a.st) (hb : Stays s b.st) : Stays s (if c then a else b).st := by
  split
  · exact ha
  · exact hb

theorem Stays.diteRes {c : Prop} [Decidable c] {f : c → Res} {g : ¬c → Res} (hf : ∀ hc, Stays s (f hc).st) (hg : ∀ hc, Stays s (g hc).st) :
    Stays s (if hc : c then f hc else g hc).st := by
  split
  · exact hf _
  · exact hg _

theorem Stays.okRes {w : List (BitVec 32)} (h : Stays s t) : Stays s (Res.ok w t).st := h

theorem Stays.iteFst {α : Type} {c : Prop} [Decidable c] {a b : State × α} (ha : Stays s a.1) (hb : Stays s b.1) :
    Stays s (if c then a else b).1 := by
  split
  · exact ha
  · exact hb

theorem Stays.iteSnd {α : Type} {c : Prop} [Decidable c] {a b : α × State} (ha : Stays s a.2) (hb : Stays s b.2) :
    Stays s (if c then a else b).2 := by
  split
  · exact ha
  · exact hb

theorem Stays.ofFst {α : Type} {x : State × α} {a : α} (hx : x = (u, a)) (h : Stays s x.1) : Stays s u := by
  subst hx
  exact h

theorem Stays.ofSnd {α : Type} {x : α × State} {a : α} (hx : x = (a, u)) (h : Stays s x.2) : Stays s u := by
  subst hx
  exact h

theorem Keeps.ok (h : Stays s t) : Keeps s (ok t) := fun v hv => by
  obtain rfl := Host.Outcome.next.inj hv
  exact h.of_eq

theorem Keeps.ite {c : Prop} [Decidable c] {a b : Host.Outcome State Fault Refusal} (ha : Keeps s a) (hb : Keeps s b) :
    Keeps s (if c then a else b) := by
  split
  · exact ha
  · exact hb

theorem Keeps.dite {c : Prop} [Decidable c] {f : c → Host.Outcome State Fault Refusal} {g : ¬c → Host.Outcome State Fault Refusal}
    (hf : ∀ hc, Keeps s (f hc)) (hg : ∀ hc, Keeps s (g hc)) :
    Keeps s (if hc : c then f hc else g hc) := by
  split
  · exact hf _
  · exact hg _

end

/-! ## Cores -/

theorem CoreOk.of_eq {c d : Core} (h : CoreOk c) (hi : d.im = c.im := by rfl) (hd : d.dm = c.dm := by rfl) : CoreOk d := ⟨hi ▸ h.im, hd ▸ h.dm⟩

/-- The same for an update written out. -/
theorem CoreOk.put {c : Core}
    {st cause g gs a aOld as_ asOld p ps m pc ie inHandler av rsat ovfTrap msgValid ivec ien ipend iret lb lc loops tapst bundles latBundles
      latTime msgIn msgOut base flight jump rep asm stalls eccCorr imBad dmBad ext taps posts rseq posted timerAt stopReq pauseReq wasWaiting
      stoppedAt}
    (h : CoreOk c) :
    CoreOk ⟨st, cause, g, gs, a, aOld, as_, asOld, p, ps, m, pc, ie, inHandler, av, rsat, ovfTrap, msgValid, ivec, ien, ipend, iret, lb, lc, loops,
      tapst, bundles, latBundles, latTime, msgIn, msgOut, base, flight, jump, rep, asm, c.im, c.dm, stalls, eccCorr, imBad, dmBad, ext, taps,
      posts, rseq, posted, timerAt, stopReq, pauseReq, wasWaiting, stoppedAt⟩ :=
  ⟨h.im, h.dm⟩

theorem CoreOk.dite {p : Prop} [Decidable p] {f : p → Core} {g : ¬p → Core} (hf : ∀ hp, CoreOk (f hp)) (hg : ∀ hp, CoreOk (g hp)) :
    CoreOk (if hp : p then f hp else g hp) := by
  split
  · exact hf _
  · exact hg _

theorem CoreOk.ite {c d : Core} {p : Prop} [Decidable p] (hc : CoreOk c) (hd : CoreOk d) : CoreOk (if p then c else d) := by
  split
  · exact hc
  · exact hd

theorem CoreOk.iteFst {α : Type} {a b : Core × α} {p : Prop} [Decidable p] (ha : CoreOk a.1) (hb : CoreOk b.1) : CoreOk (if p then a else b).1 := by
  split
  · exact ha
  · exact hb

theorem CoreOk.iteSnd {α : Type} {a b : α × Core} {p : Prop} [Decidable p] (ha : CoreOk a.2) (hb : CoreOk b.2) : CoreOk (if p then a else b).2 := by
  split
  · exact ha
  · exact hb

theorem CoreOk.ofSnd {α : Type} {x : α × Core} {a : α} {c : Core} (hx : x = (a, c)) (h : CoreOk x.2) : CoreOk c := by
  subst hx
  exact h

theorem CoreOk.foldl {α : Type} {g : Core → α → Core} {l : List α} {c : Core} (hg : ∀ {d : Core} {a : α}, CoreOk d → CoreOk (g d a)) (h :
    CoreOk c) :
    CoreOk (l.foldl g c) :=
  List.foldlRecOn l g h fun _ hd _ _ => hg hd

end Sys2Proof.Machine
end

section
/-! That every operation of the model keeps the queue of waiting commands and the canonical form of every memory, in the order of the
model's files. -/

-- Several hundred short proofs elaborated side by side would each hold a thread and its stack.
set_option Elab.async false

namespace Sys2Proof.Machine

section
variable {s t : State}

/-! ## Shared operations -/

theorem Stays.goTo {clk : Nat} (h : Stays s t) : Stays s (State.goTo t clk) := h.put

theorem Stays.emit {o : Out} (h : Stays s t) : Stays s (State.emit t o) := h.put

theorem Stays.emits {l : List Out} (h : Stays s t) : Stays s (State.emits t l) := .foldl (fun hu => hu.emit) h

theorem Stays.setSum {v : Fin 64} (h : Stays s t) : Stays s (State.setSum t v) := h.put

theorem Stays.message {v : Fin 64} (h : Stays s t) : Stays s (State.message t v) := .ite (.ite h.put h.emit) h

theorem Stays.raise {v : Fin 64} (h : Stays s t) : Stays s (State.raise t v) := h.setSum.message

theorem Stays.timeEvent {bit : Nat} (h : Stays s t) : Stays s (State.timeEvent t bit) := h.put.raise

theorem Stays.pin {p : Pin} {level : Bool} (h : Stays s t) : Stays s (State.pin t p level) := h.emit

theorem Stays.seed (h : Stays s t) : Stays s (State.seed t).2 := h.put

theorem Stays.updRing {n : RingId} {f : Ring → Ring} (h : Stays s t) : Stays s (State.updRing t n f) := h.put

theorem Stays.updTiu {c : Fin 4} {f : TiuCh → TiuCh} (h : Stays s t) : Stays s (State.updTiu t c f) := h.put

theorem Stays.updLane {l : Fin 4} {f : Lane → Lane} (h : Stays s t) : Stays s (State.updLane t l f) := h.put

theorem Stays.updCel {c : Fin 4} {f : CelCh → CelCh} (h : Stays s t) : Stays s (State.updCel t c f) := h.put

theorem Stays.updFe {f : Fe} {g : FeSt → FeSt} (h : Stays s t) : Stays s (State.updFe t f g) := h.put

theorem Stays.updStream {n : StreamId} {g : StreamSt → StreamSt} (h : Stays s t) : Stays s (State.updStream t n g) := h.put

theorem Stays.updTherm {f : Fe} {g : ThermSt → ThermSt} (h : Stays s t) : Stays s (State.updTherm t f g) := h.put

theorem Stays.updHarv {u : Fin 4} {g : HarvSt → HarvSt} (h : Stays s t) : Stays s (State.updHarv t u g) := h.put

theorem Stays.updRail {r : Fin 4} {f : Rail → Rail} (h : Stays s t) : Stays s (State.updRail t r f) := h.put

theorem Stays.seqEvent {ev : SeqEvent} (h : Stays s t) : Stays s (State.seqEvent t ev) := h.put

theorem Stays.seqEventTo {u : Fin 4} {ev : SeqEvent} (h : Stays s t) : Stays s (State.seqEventTo t u ev) := h.updHarv

/-! ## Operands -/

theorem Stays.setShad {b : BlockId} {v : List Word} (h : Stays s t) : Stays s (State.setShad t b v) := h.put

theorem Stays.setAct {b : BlockId} {v : List Word} (h : Stays s t) : Stays s (State.setAct t b v) := h.put

theorem Stays.noteIdle (h : Stays s t) : Stays s (State.noteIdle t) := h.put

/-! ## The command protocol -/

theorem Stays.updSession {id : BitVec 8} {f : Session → Session} (h : Stays s t) : Stays s (State.updSession t id f) := h.put

theorem Stays.ringPush {n : RingId} {i : Item} (h : Stays s t) : Stays s (State.ringPush t n i) := h.updRing

theorem Stays.send {via : Transport} {sess : BitVec 8} {event : Bool} {bytes : List Byte} (h : Stays s t) :
    Stays s (State.send t via sess event bytes) := by
  unfold Machine.State.send
  extract_lets
  split
  · exact .ite h.ringPush h
  · exact .ite h.put.pin h.put

theorem Stays.releaseSmb (h : Stays s t) : Stays s (releaseSmb t) := .foldl (fun hu => .ite hu.put.pin hu.put) h.put

theorem Stays.replyUnder {hdr : BitVec 8} {ver : Nat × Nat} {via : Transport} {sess : BitVec 8} {opcode : BitVec 16} {seq : Word} {event : Bool}
    {payload : List Word} (h : Stays s t) : Stays s (State.replyUnder t hdr ver via sess opcode seq event payload) := h.send

theorem Stays.replyAs {ver : Nat × Nat} {via : Transport} {sess : BitVec 8} {opcode : BitVec 16} {seq : Word} {event : Bool} {payload : List Word}
    (h : Stays s t) : Stays s (State.replyAs t ver via sess opcode seq event payload) := h.replyUnder

theorem Stays.answer {via : Transport} {sess : BitVec 8} {opcode : BitVec 16} {seq : Word} {event : Bool} {payload : List Word} (h : Stays s t) :
    Stays s (State.answer t via sess opcode seq event payload) := by
  unfold Machine.State.answer
  split
  · exact h.replyAs
  · split
    · exact h.updSession.replyAs
    · exact h

theorem Stays.noteDone {sess : BitVec 8} {seq : Word} {opcode : BitVec 16} (h : Stays s t) : Stays s (State.noteDone t sess seq opcode) := h.put

theorem Stays.finish {o : Op} {st : Nat} {det : Nat} {ws : List Word} (h : Stays s t) : Stays s (State.finish t o st det ws) := by
  unfold Machine.State.finish
  extract_lets src s0 s1
  have hs1 : Stays s s1 := .ite h.put h.put.noteDone
  split
  · exact hs1
  · split
    · exact hs1.answer
    · exact hs1

theorem Stays.addOp {r : Req} {kind : OpKind} {event : Bool} (h : Stays s t) : Stays s (State.addOp t r kind event) := h.put

theorem Stays.refuse {r : Req} {st : Nat} {det : Nat} (h : Stays s t) : Stays s (State.refuse t r st det) := h.replyAs

theorem Stays.acceptSeq {r : Req} (h : Stays s t) : Stays s (acceptSeq r t) := by
  unfold Machine.acceptSeq
  extract_lets
  split
  · exact h.put
  · split
    · exact h.refuse
    · split
      · exact h.updSession.put
      · exact h.replyAs
      · exact h
      · exact h.refuse
      · exact h.refuse

theorem Stays.acceptReq {r : Req} (h : Stays s t) : Stays s (acceptReq r t) := .ite h.acceptSeq h.refuse

theorem Stays.judgePacket {via : Transport} {buf : List Byte} (h : Stays s t) : Stays s (judgePacket via buf t) := by
  unfold Machine.judgePacket
  split
  · split
    · exact h.refuse
    · split
      · exact h.refuse
      · split
        · exact h.refuse
        · split
          · exact h.refuse
          · split
            · exact h.refuse
            · split
              · exact .ite h.refuse h.acceptSeq
              · exact h.acceptSeq

theorem Stays.rep {st : Nat} {det : Nat} {ws : List Word} (h : Stays s t) : Stays s (Res.rep st det ws t).st := h

theorem Stays.ok {ws : List Word} (h : Stays s t) : Stays s (Res.ok ws t).st := h

theorem Stays.bad {det : Nat} (h : Stays s t) : Stays s (Res.bad det t).st := h

theorem Stays.later (h : Stays s t) : Stays s (Res.later t).st := h

theorem Stays.take {r : Req} (h : Stays s t) : Stays s (State.take t r) := h.put

theorem Stays.deliver {res : Res} {r : Req} {event : Bool} (h : Stays s res.st) : Stays s (res.deliver r event) := by
  unfold Res.deliver
  split
  · exact h.answer
  · exact h

theorem Stays.execReq {feats : List Nat} {lo hi : Nat} {h' : Req → State → Res} {r : Req}
    (hh' : ∀ {a0 : Req} {u : State}, Stays s u → Stays s (h' a0 u).st) (h : Stays s t) : Stays s (execReq feats lo hi h' r t) :=
  Stays.deliver (.iteRes h.take (.iteRes h.take (.iteRes h.take (hh' h.take))))

theorem Stays.runTurn {feats : List Nat} {lo : Nat} {hi : Nat} {h' : Req → State → Res} {r : Req}
    (hh' : ∀ {a0 : Req} {u : State}, Stays s u → Stays s (h' a0 u).st) (h : Stays s t) : Stays s (runTurn feats lo hi h' r t) := by
  unfold Machine.runTurn
  exact .ite (h.execReq (fun hu => hh' hu)) h.take.refuse

theorem Stays.answerUnknown {n : Nat} (h : Stays s t) : Stays s (answerUnknown n t) := by
  induction n generalizing t with
  | zero => exact h
  | succ n ih =>
    unfold Machine.answerUnknown
    split
    · exact ih (h.runTurn id)
    · exact h

theorem Stays.settleUnknown (h : Stays s t) : Stays s (settleUnknown t) := .ite h h.answerUnknown

theorem Stays.arrive {via : Transport} {buf : List Byte} (h : Stays s t) : Stays s (arrive via buf t) := h.judgePacket.settleUnknown

theorem Stays.runOp {code : Nat} {feats : List Nat} {lo : Nat} {hi : Nat} {ahead : Bool} {h' : Req → State → Res} {r0 : Req}
    (hh' : ∀ {a0 : Req} {u : State}, Stays s u → Stays s (h' a0 u).st) (h : Stays s t) : Stays s (runOp code feats lo hi ahead h' r0 t) := by
  unfold Machine.runOp
  exact .ite (.runTurn (fun hu => hh' hu) (.ite h.settleUnknown h.settleUnknown.acceptReq)) (.ite h.settleUnknown h.settleUnknown.acceptReq)

theorem Stays.closeSession {id : BitVec 8} (h : Stays s t) : Stays s (State.closeSession t id) := h.put

theorem Stays.closeVia {via : Transport} (h : Stays s t) : Stays s (State.closeVia t via) := .foldl (fun hu => hu.closeSession) h

theorem Stays.doHello {r : Req} (h : Stays s t) : Stays s (doHello r t) := by
  unfold Machine.doHello
  extract_lets
  split
  · exact h.refuse
  · split
    · exact h.answer
    · split
      · exact h.answer
      · split
        · exact h.answer
        · exact .ite h.answer h.closeVia.put.replyUnder

theorem Stays.doInfo {r : Req} (h : Stays s t) : Stays s (doInfo r t).st := h

theorem Stays.doEcho {r : Req} (h : Stays s t) : Stays s (doEcho r t).st := .iteRes h h

theorem Stays.doSetParam {r : Req} (h : Stays s t) : Stays s (doSetParam r t).st := by
  unfold Machine.doSetParam
  extract_lets
  split
  · exact h
  · split
    · exact h
    · split
      · exact h
      · split
        · exact h
        · split
          · exact h
          · exact .iteRes h h.setShad

theorem Stays.doGetParam {r : Req} (h : Stays s t) : Stays s (doGetParam r t).st := by
  unfold Machine.doGetParam
  extract_lets
  split
  · exact h
  · exact .iteRes h (.iteRes h (.iteRes h h))

theorem Stays.doDefaults {r : Req} (h : Stays s t) : Stays s (doDefaults r t).st :=
  .iteRes h (.iteRes h (.iteRes h (.foldl (fun hu => hu.setShad) h)))

/-! ## Interlocks -/

theorem Stays.refreshIntlk (h : Stays s t) : Stays s (refreshIntlk t) := .foldl (fun hu => .ite hu hu.put.pin) h

theorem Stays.auxEffect {i : Nat} {old : List Word} {new : List Word} (h : Stays s t) : Stays s (auxEffect i old new t) := .ite h h.put

theorem Stays.auxSeqEffect {old : List Word} {new : List Word} (h : Stays s t) : Stays s (auxSeqEffect old new t) := h.put

/-! ## Commits -/

theorem Stays.setGrant {g : Grant} {mw : Nat} (h : Stays s t) : Stays s (State.setGrant t g mw) := h.put

theorem Stays.release {g : Grant} (h : Stays s t) : Stays s (State.release t g) := h.setGrant

theorem Stays.stopTaster {p : TastRun → Bool} (h : Stays s t) : Stays s (stopTaster p t) := by
  unfold Machine.stopTaster
  extract_lets
  split
  · exact h
  · extract_lets s1
    have hs1 : Stays s s1 := by
      unfold s1
      refine .release ?_
      split
      · exact h.put
      · exact h.put
    split
    · split
      · exact hs1.finish
      · exact hs1
    · exact h

theorem Stays.trimPoint {ws : List Nat} (h : Stays s t) : Stays s (State.trimPoint t ws) := h.put

theorem Stays.endCommit {c : Commit} {st : Nat} {det : Nat} {ws : List Word} (h : Stays s t) : Stays s (State.endCommit t c st det ws) := by
  unfold Machine.State.endCommit
  extract_lets s1 s2 s3
  have hs3 : Stays s s3 := by
    unfold s3
    split
    · exact h.put.release.finish
    · exact h.put.release
  exact .ite hs3.put (.ite hs3.put hs3)

theorem Stays.dropPending {doms : BitVec 6} (h : Stays s t) : Stays s (State.dropPending t doms) := h.put

theorem Stays.settle {c : Commit} (h : Stays s t) : Stays s (State.settle t c) := .ite h.endCommit h

theorem Stays.withdraw {c : Commit} (h : Stays s t) : Stays s (State.withdraw t c) := h.dropPending.endCommit

theorem Stays.areaSwitch {k : AreaKind} {wanted : Bool} (h : Stays s t) : Stays s (areaSwitch k wanted t) := h.put

theorem Stays.sendFrame {lane : Fin 4} {type : Nat} {copies : Nat} {pl : List Word} (h : Stays s t) :
    Stays s (State.sendFrame t lane type copies pl) := h.updLane.emits

theorem Stays.sendCtl {type : Nat} {pl : List Word} {l : Fin 4} (h : Stays s t) : Stays s (sendCtl type pl l t) := h.sendFrame

theorem Stays.withdrawTo {tag : BitVec 16} {d : Fin 4} (h : Stays s t) : Stays s (withdrawTo tag t d) := by
  unfold Machine.withdrawTo
  split
  · exact h.sendCtl
  · exact h

theorem Stays.withdrawShared {peers : List (Fin 4)} {x : Shared} (h : Stays s t) : Stays s (withdrawShared peers x t) := by
  unfold Machine.withdrawShared
  extract_lets s1
  have hs1 : Stays s s1 := .foldl (fun hu => hu.withdrawTo) h
  split
  · exact hs1.withdraw
  · exact hs1

theorem Stays.withdrawArmed {a : Armed} (h : Stays s t) : Stays s (withdrawArmed a t) := by
  unfold Machine.withdrawArmed
  split
  · exact h.withdraw
  · exact h

theorem Stays.laneLost {dst : LaneState} {lane : Fin 4} (h : Stays s t) : Stays s (laneLost dst lane t) :=
  (Stays.foldl (fun hu => hu.withdrawShared) (.foldl (fun hu => hu.withdrawArmed) (.ite h.updLane.put.timeEvent h.updLane))).put

theorem Stays.laneTurns {dst : LaneState} {lane : Fin 4} (h : Stays s t) : Stays s (laneTurns dst lane t) := .ite h.laneLost.raise h.updLane

theorem Stays.lanesDown (h : Stays s t) : Stays s (lanesDown t) := .foldl (fun hu => hu.laneTurns) h

theorem Stays.blockEffect {b : BlockId} {old : List Word} {new : List Word} (h : Stays s t) : Stays s (blockEffect b old new t) := by
  unfold Machine.blockEffect
  extract_lets
  split
  · exact .ite h.put h
  · exact .ite h h.put
  · exact h.areaSwitch
  · exact h.updCore (fun hc => hc.put)
  · exact h.updCel
  · exact h.auxEffect.refreshIntlk
  · exact h.auxSeqEffect.refreshIntlk
  · exact .ite h h.laneTurns
  · exact h

theorem Stays.applyBlock {b : BlockId} (h : Stays s t) : Stays s (applyBlock b t) := h.setAct.blockEffect

theorem Stays.localPoint {ids : List BlockId} (h : Stays s t) : Stays s (State.localPoint t ids) := by
  unfold Machine.State.localPoint
  split
  · exact h
  · exact (Stays.foldl (fun hu => hu.applyBlock) h).put.settle

/-! ## Admission -/

theorem Stays.heavy {granted : Bool} {r : Req} {g : Grant} {mw : Nat} {onQueue : State → State} {go : State → Res}
    (honQueue : ∀ {u : State}, Stays s u → Stays s (onQueue u)) (hgo : ∀ {u : State}, Stays s u → Stays s (go u).st) (h : Stays s t) : Stays s
    (heavy granted r g mw onQueue go t).st := by
  unfold Machine.heavy
  extract_lets
  split
  · exact hgo h.setGrant
  · split
    · exact hgo h
    · split
      · exact hgo h.setGrant.raise
      · exact h.raise
      · exact honQueue h.put

theorem Stays.answerQ {q : QReq} {st : Nat} {det : Nat} (h : Stays s t) : Stays s (State.answerQ t q st det) := .ite h h.answer

theorem Stays.unqueue {q : QReq} (h : Stays s t) : Stays s (State.unqueue t q) := h.put

/-! ## Vats and Cellar -/

theorem Stays.vatUncorr {m : Master} {a : Nat} (h : Stays s t) : Stays s (vatUncorr m a t) := h.put.raise

theorem Stays.eccCorrected {cellar : Bool} {word : Nat} (h : Stays s t) : Stays s (eccCorrected cellar word t) := .ite h.put h.put.put

theorem Stays.vatEcc {m : Master} {a : Nat} {found : EccRead} (h : Stays s t) : Stays s (vatEcc m a found t) := by
  unfold Machine.vatEcc
  extract_lets
  split
  · exact h
  · exact h.eccCorrected
  · exact .vatUncorr (.ite h h.put)

theorem vatMix_wf (mode : WriteMode) {m : Mem} (a : Nat) (l : List (Option Byte)) (h : m.wf = true) : (vatMix mode m a l).wf = true := by
  induction l generalizing m a with
  | nil => exact h
  | cons b l ih =>
    cases b with
    | none => exact ih _ h
    | some b => exact ih _ (Mem.write_wf _ _ h)

theorem Stays.vatWordWrite {mode : WriteMode} {m : Master} {a : Nat} {data : List (Option Byte)} (h : Stays s t) :
    Stays s (vatWordWrite mode m a data t) := by
  refine .ite h (.ite h.put (.ite (.ite ?_ h.put) ?_))
  · exact h.withVat (vatMix_wf mode a data)
  · exact h.withVat (vatMix_wf mode a data)

theorem Stays.vatWrite {mode : WriteMode} {m : Master} {n a : Nat} {data : List (Option Byte)} (h : Stays s t) :
    Stays s (vatWrite mode m n a data t) := by
  induction n generalizing t a data with
  | zero => exact h
  | succ n ih => exact .ite h (ih h.vatWordWrite)

theorem Stays.vatStore {mode : WriteMode} {m : Master} {a : Nat} {data : List (Option Byte)} (h : Stays s t) :
    Stays s (State.vatStore t mode m a data) := h.vatWrite

theorem Stays.conflClear {mask : Word} {sameSlot : BitVec 17} (h : Stays s t) : Stays s (conflClear mask sameSlot t) := h.put

theorem Stays.execConflClear {mask : Word} {sameSlot : BitVec 17} (h : Stays s t) : Keeps s (execConflClear mask sameSlot t) := .ok h.conflClear

theorem Stays.execVatBitSetWrite {m : Master} {addr : BitVec 26} {data : List (Option Byte)} (h : Stays s t) :
    Keeps s (execVatBitSetWrite m addr data t) := .ok h.vatStore

theorem Stays.execVatBitClearWrite {m : Master} {addr : BitVec 26} {data : List (Option Byte)} (h : Stays s t) :
    Keeps s (execVatBitClearWrite m addr data t) := .ok h.vatStore

theorem Stays.celUncorr {v : Nat} (h : Stays s t) : Stays s (celUncorr v t) := h.updCel.raise

theorem Stays.celEcc {v : Nat} {found : EccRead} (h : Stays s t) : Stays s (celEcc v found t) := by
  unfold Machine.celEcc
  extract_lets
  split
  · exact h
  · exact h.updCel.eccCorrected
  · exact h.put.celUncorr

theorem Stays.wqPush {v : Nat} (h : Stays s t) : Stays s (wqPush v t) := h.updCel

theorem Stays.celMix {v : Nat} {l : List (Option Byte)} (h : Stays s t) : Stays s (celMix t v l) := by
  induction l generalizing t v with
  | nil => exact h
  | cons b l ih =>
    cases b with
    | none => exact ih h
    | some b => exact ih (h.withCellar fun hc => Mem.write_wf _ _ hc)

theorem Stays.celWordWrite {v : Nat} {data : List (Option Byte)} (h : Stays s t) : Stays s (celWordWrite v data t) :=
  .ite h (.ite (.ite h.put.celMix.wqPush h.updCel) h.celMix.wqPush)

theorem Stays.celWrite {n v : Nat} {data : List (Option Byte)} (h : Stays s t) : Stays s (celWrite n v data t) := by
  induction n generalizing t v data with
  | zero => exact h
  | succ n ih => exact .ite h (ih h.celWordWrite)

theorem Stays.celStore {v : Nat} {data : List (Option Byte)} (h : Stays s t) : Stays s (State.celStore t v data) := h.celWrite

theorem Stays.execVatScrub {cellar : Bool} {addr : Nat} {found : EccRead} (h : Stays s t) : Keeps s (execVatScrub cellar addr found t) :=
  .ite (.ite (.ok h.put) (.ok h.put.celEcc)) (.ok h.put.vatEcc)

theorem Stays.execEccWriteBack (h : Stays s t) : Keeps s (execEccWriteBack t) := .ok h.put

theorem Stays.execCellarRefresh {ch : Fin 4} (h : Stays s t) : Keeps s (execCellarRefresh ch t) := .ite (.ok h) (.ok h.goTo.updCel)

theorem Stays.execCellarTempRead {ch : Fin 4} {hot : Bool} (h : Stays s t) : Keeps s (execCellarTempRead ch hot t) := .ok h.updCel

theorem Stays.execWriteDrain {ch : Fin 4} (h : Stays s t) : Keeps s (execWriteDrain ch t) := by
  unfold Machine.execWriteDrain
  extract_lets
  split
  · exact .ok h
  · exact .ok (.updCel (.ite h h.goTo))

/-! ## Zones -/

theorem Stays.setZone {z : Nat} {v : ZoneSt} (h : Stays s t) : Stays s (State.setZone t z v) := h.put

theorem Stays.refreshPins (h : Stays s t) : Stays s (refreshPins t) := h.put.emits

theorem Stays.zoneEvent {z : Nat} {st : ZoneSt} {on : Bool} {settling : Bool} {cause : Nat} {ppn : BitVec 48} {group : Nat} {e : Nat} {clk : Nat}
    (h : Stays s t) : Stays s (zoneEvent t z st on settling cause ppn group e clk) :=
  .ite (Stays.foldl (fun hu => .ite hu.sendFrame hu) h.put.seqEvent).put (.foldl (fun hu => .ite hu.sendFrame hu) h.put.seqEvent)

theorem Stays.zoneReset {cause : Nat} {z : Nat} (h : Stays s t) : Stays s (zoneReset cause z t) := .ite h.setZone.zoneEvent h.setZone

theorem Stays.takeAcksOf {only : Op → Bool} {z : Nat} (h : Stays s t) : Stays s (takeAcksOf only z t) := by
  unfold Machine.takeAcksOf
  extract_lets
  split
  · refine .foldl (fun hu => ?_) h.setZone.put
    split
    · exact hu.finish
    · exact hu
  · exact h

theorem Stays.takeAcks {z : Nat} (h : Stays s t) : Stays s (takeAcks z t) := h.takeAcksOf

theorem Stays.zoneJudge {row : Row} {decided : Nat → Nat} {primed : Bool} {z : Nat} (h : Stays s t) : Stays s (zoneJudge row decided primed z t) :=
  .ite (.ite (.ite h.setZone.zoneEvent h.setZone) h.setZone) (.ite h.setZone (.ite (.ite h.setZone.zoneEvent h.setZone) h.setZone))

theorem Stays.zoneRow {row : Row} {decided : Nat → Nat} {nch : Nat} {z : Nat} (h : Stays s t) : Stays s (zoneRow row decided nch z t) :=
  .ite (.ite h.zoneReset h) (.ite h h.takeAcks.setZone.zoneJudge)

theorem Stays.zonesRow {row : Row} {decided : Nat → Nat} {nch : Nat} (h : Stays s t) : Stays s (zonesRow row decided nch t) :=
  .refreshPins (.foldl (fun hu => hu.zoneRow) h)

theorem Stays.zonesStop {f : Fe} (h : Stays s t) : Stays s (zonesStop f t) := .refreshPins (.foldl (fun hu => hu.zoneReset) h)

theorem Stays.zoneApply {z : Nat} {new : List Word} (h : Stays s t) : Stays s (zoneApply z new t) := .setZone (.ite h.zoneReset h)

theorem Stays.zoneLeave {z : Nat} (h : Stays s t) : Stays s (zoneLeave z t) := h.zoneReset.setZone

theorem Stays.zonePoint {f : Option Fe} {z : Nat} (h : Stays s t) : Stays s (zonePoint f z t) :=
  .ite h (.ite (.ite (.ite h.zoneLeave.zoneApply h.zoneLeave) h) (.ite h.zoneApply h))

theorem Stays.zoneCommitPoint {f : Option Fe} {launched : Option (BitVec 64 × Nat)} (h : Stays s t) : Stays s (zoneCommitPoint f launched t) := by
  unfold Machine.zoneCommitPoint
  split
  · exact h
  · extract_lets due tables s1 ctl doneB moved s2
    have hs1 : Stays s s1 := .foldl (fun hu => .foldl (fun hv => hv.zonePoint) hu) h
    have hs2 : Stays s s2 := .foldl (fun hu => hu.applyBlock) hs1
    exact .ite h (.ite hs1.put.refreshPins hs2.put.refreshPins.settle)

theorem Stays.execZoneEventRecord (h : Stays s t) : Keeps s (execZoneEventRecord t) := by
  unfold Machine.execZoneEventRecord
  extract_lets
  split
  · exact .ok h
  · exact .ite (.ok h.put.ringPush) (.ok h.put)

theorem Stays.doZoneAck {r : Req} (h : Stays s t) : Stays s (doZoneAck r t).st := .iteRes h (.refreshPins (.foldl (fun hu => hu.takeAcks) h.addOp))

theorem Stays.execZoneAck {r : Req} (h : Stays s t) : Keeps s (execZoneAck r t) := .ok (h.runOp (fun hu => hu.doZoneAck))

theorem Stays.execZoneAckTimeout (h : Stays s t) : Keeps s (execZoneAckTimeout t) := by
  unfold Machine.execZoneAckTimeout
  split
  · exact .ok h
  · extract_lets
    split
    · exact .ok (.refreshPins (.foldl (fun hu => hu.takeAcksOf) h.goTo))
    · exact .ok h.goTo

theorem Stays.doZoneStatus {r : Req} (h : Stays s t) : Stays s (doZoneStatus r t).st := .iteRes h (.ite h.setZone h)

theorem Stays.execZoneStatus {r : Req} (h : Stays s t) : Keeps s (execZoneStatus r t) := .ok (h.runOp (fun hu => hu.doZoneStatus))

theorem Stays.doZoneSummary {x : Req} (h : Stays s t) : Stays s (doZoneSummary x t).st := h.put

theorem Stays.execZoneSummary {r : Req} (h : Stays s t) : Keeps s (execZoneSummary r t) := .ok (h.runOp (fun hu => hu.doZoneSummary))

/-! ## Records -/

theorem Stays.dropRecs {n : StreamId} {owed : List Nat} {fate : Rec → Nat} (h : Stays s t) : Stays s (dropRecs n owed fate t) := h.updStream

theorem Stays.dropRec {n : StreamId} {tile : Nat} (h : Stays s t) : Stays s (dropRec n tile t) := h.dropRecs

theorem Stays.dropNew {n : StreamId} {tile : Nat} (h : Stays s t) : Stays s (dropNew n tile t) := h.updStream

theorem Stays.putRec {n : StreamId} {set : List Word} {press : List Word} {r : Rec} (h : Stays s t) : Stays s (putRec n set press r t) :=
  .ite h.updStream.updStream h.updStream.dropNew

/-! ## Press -/

theorem Stays.pressFlushed {n : StreamId} (h : Stays s t) : Stays s (pressFlushed n t) := by
  unfold Machine.pressFlushed
  extract_lets
  refine .foldl (fun hu => ?_) h.put
  split
  · exact hu.finish
  · exact hu

theorem Stays.flushEnds {n : StreamId} {cmd : Bool} (h : Stays s t) : Stays s (flushEnds n cmd t) := .ite h.updStream.pressFlushed h.updStream

theorem Stays.pressClosed {n : StreamId} (h : Stays s t) : Stays s (pressClosed n t) := h.put

theorem Stays.pressOne {n : StreamId} {i : PressIn} {eccOpen : List (Nat × EccRead)} (h : Stays s t) : Stays s (pressOne n i eccOpen t) := by
  unfold Machine.pressOne
  extract_lets x open_ seed here lostCh lost old all metas total t₀ tails rest s1 s2 ratio blocks out a flags hdr s4 s5 s3
  have hs2 : Stays s s2 := .foldl (fun hu => hu.celEcc) h.put.updStream
  have hs3 : Stays s s3 := .ite hs2 (.ite hs2.putRec.updStream.pressClosed hs2.putRec.updStream)
  exact .ite hs3.flushEnds hs3

theorem Stays.pressAll {n : StreamId} {k : Nat} (h : Stays s t) : Stays s (pressAll n k t) := by
  induction k generalizing t with
  | zero => exact h
  | succ k ih =>
    unfold Machine.pressAll
    split
    · exact h
    · exact ih h.pressOne

theorem Stays.execPressRecord {st : StreamId} {eccOpen : List (Nat × EccRead)} (h : Stays s t) : Keeps s (execPressRecord st eccOpen t) := by
  unfold Machine.execPressRecord
  split
  · exact .ok h
  · exact .ok h.pressOne

theorem Stays.doPressFlush {r : Req} (h : Stays s t) : Stays s (doPressFlush r t).st :=
  .iteRes h (.iteRes h (.addOp (.foldl (fun hu => .ite hu.updStream hu) h)))

theorem Stays.execPressFlush {r : Req} (h : Stays s t) : Keeps s (execPressFlush r t) := .ok (h.runOp (fun hu => hu.doPressFlush))

theorem Stays.doPressStatus {r : Req} (h : Stays s t) : Stays s (doPressStatus r t).st := .iteRes h (.okRes h.updStream)

theorem Stays.execPressStatus {r : Req} (h : Stays s t) : Keeps s (execPressStatus r t) := .ok (h.runOp (fun hu => hu.doPressStatus))

/-! ## Streams -/

theorem Stays.cornerWrite {b : Band} {row : Nat} {elems : List Elem} (h : Stays s t) : Stays s (cornerWrite b row elems t) :=
  .foldl (fun hu => hu.celStore) h

theorem Stays.pressClose {f : Fe} {o : StreamSet} {stop : Bool} (h : Stays s t) : Stays s (pressClose f o stop t) := by
  unfold Machine.pressClose
  refine .ite h ?_
  extract_lets x b whole cmd mark s1 left done y extra items all s2
  have hs1 : Stays s s1 := by
    change Stays s (match b with | some b => t.updFe f fun x =>
        { x with closed := x.closed.dropLast ++ [{ b with jobs := b.jobs.map mark }] } | none => t)
    cases b with
    | none => exact h
    | some b => exact h.updFe
  exact .ite hs1 (.ite (hs1.updStream.flushEnds) hs1.updStream)

theorem Stays.cutDirect {lo : Nat} {hi : Nat} (h : Stays s t) : Stays s (cutDirect lo hi t) := .foldl (fun hu => .ite hu.dropRecs hu) h

theorem Stays.jobBegin {b : Band} {j : Job} (h : Stays s t) : Stays s (jobBegin b j t) := by
  unfold Machine.jobBegin
  exact .updStream (.ite h.pressAll h)

theorem Stays.jobEnd {b : Band} {j : Job} (h : Stays s t) : Stays s (jobEnd b j t) := by
  unfold Machine.jobEnd
  exact h.updStream

theorem Stays.fineJob {f : Fe} {b : Band} {m : Nat} {eccElems : List (Nat × Nat)} {eccState : List Nat} {j : Job} (h : Stays s t) :
    Stays s (fineJob f b m eccElems eccState j t) :=
  .ite h (.ite (.ite h.updStream h) (.ite h.putRec (.ite h.put.updStream.updStream h.put.updStream.putRec)))

theorem Stays.bandBegin {f : Fe} {b : Band} {rest : List Band} (h : Stays s t) : Stays s (bandBegin f b rest t).2 :=
  .foldl (fun hu => hu.jobBegin) (.updFe (.foldl (fun hu => .ite hu.updStream hu) h))

theorem Stays.fineTile {f : Fe} {eccElems : List (Nat × Nat)} {eccState : List (StreamId × Nat)} (h : Stays s t) :
    Stays s (fineTile f eccElems eccState t) := by
  unfold Machine.fineTile
  split
  · exact h
  · next b0 rest hclosed =>
    extract_lets m
    have hb : Stays s (if m = 0 then Machine.bandBegin f b0 rest t else (b0, t)).2 := .iteSnd h.bandBegin h
    generalize (if m = 0 then Machine.bandBegin f b0 rest t else (b0, t)) = x at hb
    obtain ⟨b, s1⟩ := x
    change Stays s s1 at hb
    exact .ite (.updFe (.foldl (fun hu => hu.jobEnd) (.foldl (fun hu => hu.fineJob) hb))) (.updFe (.foldl (fun hu => hu.fineJob) hb))

theorem Stays.tileEcc {f : Fe} {eccElems : List (Nat × Nat × EccRead)} {eccState : List (StreamId × Nat × EccRead)} (h : Stays s t) :
    Stays s (tileEcc f eccElems eccState t) := by
  unfold Machine.tileEcc
  split
  · exact h
  · refine .foldl (fun hu => ?_) (.foldl (fun hu => hu.celEcc) h)
    split
    · exact hu.celEcc
    · exact hu

theorem Stays.execFiningTile {fe : Fe} {eccElems : List (Nat × Nat × EccRead)} {eccState : List (StreamId × Nat × EccRead)} (h : Stays s t) :
    Keeps s (execFiningTile fe eccElems eccState t) := .ok h.tileEcc.fineTile

theorem Stays.finishTiles {f : Fe} {n : Nat} (h : Stays s t) : Stays s (finishTiles f n t) := by
  induction n generalizing t with
  | zero => exact h
  | succ n ih => exact ih h.fineTile

theorem Stays.takeSlot {f : Fe} {b : Band} (h : Stays s t) : Stays s (takeSlot f b t) := by
  unfold Machine.takeSlot
  exact h.finishTiles.cutDirect

theorem Stays.closeBand {f : Fe} (h : Stays s t) : Stays s (closeBand f t) := by
  unfold Machine.closeBand
  split
  · exact h
  · exact h.updFe

theorem Stays.lastBand {f : Fe} (h : Stays s t) : Stays s (lastBand f t) := by
  unfold Machine.lastBand
  exact .updFe (.foldl (fun hu => hu.pressClose) h.closeBand)

theorem Stays.execBandClose {fe : Fe} (h : Stays s t) : Keeps s (execBandClose fe t) := .ite (.ok h.lastBand) (.ite (.ok h.closeBand) (.ok h))

theorem Stays.openBand {f : Fe} {sh : Shot} {reset : Bool} (h : Stays s t) : Stays s (openBand f sh reset t) := by
  unfold Machine.openBand
  exact .updFe (.foldl (fun hu => hu.pressClose) h)

theorem Stays.cornerRow {f : Fe} {sh : Shot} {row : Row} (h : Stays s t) : Stays s (cornerRow f sh row t) := by
  unfold Machine.cornerRow
  extract_lets reset full s1
  have hs1 : Stays s s1 := .ite h.closeBand.openBand h
  split
  · exact hs1
  · exact .ite (.cornerWrite (.updFe (.ite hs1.takeSlot hs1))) (.updFe (.ite hs1.takeSlot hs1))

theorem Stays.doStreamStatus {r : Req} (h : Stays s t) : Stays s (doStreamStatus r t).st := .iteRes h (.okRes h.updStream)

theorem Stays.execStreamStatus {r : Req} (h : Stays s t) : Keeps s (execStreamStatus r t) := .ok (h.runOp (fun hu => hu.doStreamStatus))

theorem Stays.doFiningRomGet {r : Req} (h : Stays s t) : Stays s (doFiningRomGet r t).st := .iteRes h h

theorem Stays.execFiningRomGet {r : Req} (h : Stays s t) : Keeps s (execFiningRomGet r t) := .ok (h.runOp (fun hu => hu.doFiningRomGet))

/-! ## Harvest -/

theorem Stays.endArm {u : Fin 4} {st : Nat} {det : Nat} {ws : List Word} (h : Stays s t) : Stays s (endArm u st det ws t) := by
  unfold Machine.endArm
  extract_lets s1
  have hs1 : Stays s s1 := by
    unfold s1
    split
    · exact h.finish
    · exact h
  exact hs1.updHarv.release.localPoint

theorem Stays.dropCapture {u : Fin 4} {st : Nat} {det : Nat} (h : Stays s t) : Stays s (dropCapture u st det t) := h.updHarv.raise.endArm

theorem Stays.completeCapture {u : Fin 4} {st : Nat} (h : Stays s t) : Stays s (completeCapture u st t) := h.updHarv.raise.endArm

theorem Stays.checkDone {u : Fin 4} (h : Stays s t) : Stays s (checkDone u t) := by
  unfold Machine.checkDone
  extract_lets
  split
  · exact .ite h.updHarv.completeCapture h
  · exact h

theorem Stays.findTrig {u : Fin 4} (h : Stays s t) : Stays s (findTrig u t) := h.updHarv

theorem Stays.triggerUnit {u : Fin 4} {t' : Trig} (h : Stays s t) : Stays s (triggerUnit u t' t) := h.updHarv.raise.findTrig.checkDone

theorem Stays.seqGoto {u : Fin 4} {n : Nat} {t' : Trig} {clk : Nat} (h : Stays s t) : Stays s (seqGoto u n t' clk t) :=
  .ite h.triggerUnit (.ite h.dropCapture h.updHarv)

theorem Stays.takeEvent {u : Fin 4} {ev : SeqEvent} (h : Stays s t) : Stays s (takeEvent u ev t) :=
  .ite h.updHarv.updHarv (.ite (.ite h.updHarv.seqGoto h.updHarv.updHarv) h.updHarv)

theorem Stays.takeTimer {u : Fin 4} {e : Nat} (h : Stays s t) : Stays s (takeTimer u e t) := h.goTo.seqGoto

theorem Stays.execHarvestSeqEvent {u : Fin 4} (h : Stays s t) : Keeps s (execHarvestSeqEvent u t) := by
  unfold Machine.execHarvestSeqEvent
  split
  · exact .ok h
  · exact .ok h.takeEvent
  · exact .ok (.ite h.takeTimer h.takeEvent)

theorem Stays.execHarvestSeqTimer {u : Fin 4} (h : Stays s t) : Keeps s (execHarvestSeqTimer u t) := by
  unfold Machine.execHarvestSeqTimer
  split
  · exact .ok h
  · exact .ok h.takeTimer
  · exact .ok (.ite h.takeEvent h.takeTimer)

theorem Stays.execHarvestArmTimeout {u : Fin 4} (h : Stays s t) : Keeps s (execHarvestArmTimeout u t) := .ite (.ok h) (.ok h.goTo.dropCapture)

theorem Stays.storeElem {u : Fin 4} {comps : List Int} {m : ElemMeta} (h : Stays s t) : Stays s (storeElem u comps m t) :=
  h.celStore.updHarv.findTrig.checkDone

theorem Stays.takeInput {u : Fin 4} {i : HarvestInput} (h : Stays s t) : Stays s (takeInput u i t) := by
  unfold Machine.takeInput
  extract_lets
  split
  · exact h.storeElem
  · split
    · exact .ite h.updHarv.storeElem h.updHarv

theorem Stays.rawBack {f : Fe} {src : Nat} (h : Stays s t) : Stays s (rawBack f src t) := h.put

theorem Stays.endsNow {u : Fin 4} (h : Stays s t) : Stays s (endsNow u t) := .ite h.updHarv.completeCapture h

theorem Stays.execHarvestElementWrite {u : Fin 4} {raw : RawSample} (h : Stays s t) : Keeps s (execHarvestElementWrite u raw t) := by
  unfold Machine.execHarvestElementWrite
  extract_lets
  split
  · exact .ok h
  · split
    · exact .ok h.goTo.updHarv.takeInput
    · split
      · exact .ok h
      · exact .ok h.updHarv.takeInput.endsNow

theorem Stays.harvestStop {f : Fe} (h : Stays s t) : Stays s (harvestStop f t) := .foldl (fun hu => .ite hu.updHarv.endsNow hu) h

theorem Stays.levelSample {u : Fin 4} {x : Int} {t' : Nat} {invalid : Bool} {clk : Nat} (h : Stays s t) :
    Stays s (levelSample u x t' invalid clk t) := by
  unfold Machine.levelSample
  refine .ite h (.ite h.updHarv ?_)
  split
  · exact h.updHarv
  · extract_lets th hy
    split
    next s1 up down hs1 => exact .updHarv (.ofFst hs1 (.iteFst h.seqEventTo (.iteFst h.seqEventTo h)))

theorem Stays.execRawStreamLevelCrossing {u : Fin 4} {x : Int} {t' : Nat} {invalid : Bool} (h : Stays s t) :
    Keeps s (execRawStreamLevelCrossing u x t' invalid t) :=
  .ite (.ok h.goTo.levelSample) (.ok h)

theorem Stays.trigInEvent {pin : Fin 4} {falling : Bool} (h : Stays s t) : Stays s (trigInEvent pin falling t) := h.seqEvent

theorem Stays.armUnit {u : Fin 4} {b : List Word} {rate : Nat} (h : Stays s t) : Stays s (armUnit u b rate t) := by
  unfold Machine.armUnit
  exact h.updHarv

theorem Stays.unqueueUnit {u : Fin 4} (h : Stays s t) : Stays s (unqueueUnit u t) := .ite h.updHarv.localPoint h

theorem Stays.doHarvestArm {granted : Bool} {r : Req} (h : Stays s t) : Stays s (doHarvestArm granted r t).st :=
  .iteRes h (.iteRes h (.iteRes h (.iteRes h (.iteRes h (.iteRes h
      (.iteRes (h.heavy (fun hu => hu.updHarv) (fun hu => hu.armUnit.addOp)) h.armUnit.addOp))))))

theorem Stays.execHarvestArm {r : Req} (h : Stays s t) : Keeps s (execHarvestArm r t) := .ok (h.runOp (fun hu => hu.doHarvestArm))

theorem Stays.disarm {u : Fin 4} (h : Stays s t) : Stays s (disarm u t) := by
  unfold Machine.disarm
  split
  · split
    · exact h.unqueue.answerQ.unqueueUnit
    · exact h.unqueueUnit
  · exact h.dropCapture
  · exact h.updHarv.completeCapture
  · exact h

theorem Stays.doHarvestDisarm {r : Req} (h : Stays s t) : Stays s (doHarvestDisarm r t).st := .iteRes h (.iteRes h (.foldl (fun hu => hu.disarm) h))

theorem Stays.execHarvestDisarm {r : Req} (h : Stays s t) : Keeps s (execHarvestDisarm r t) := .ok (h.runOp (fun hu => hu.doHarvestDisarm))

theorem Stays.force {imm : Bool} {u : Fin 4} (h : Stays s t) : Stays s (force imm u t) := .ite (.ite h.triggerUnit (.ite h.updHarv h)) h.seqEventTo

theorem Stays.doHarvestForce {r : Req} (h : Stays s t) : Stays s (doHarvestForce r t).st := .iteRes h (.foldl (fun hu => hu.force) h)

theorem Stays.execHarvestForce {r : Req} (h : Stays s t) : Keeps s (execHarvestForce r t) := .ok (h.runOp (fun hu => hu.doHarvestForce))

theorem Stays.doHarvestRead {r : Req} (h : Stays s t) : Stays s (doHarvestRead r t).st := by
  unfold Machine.doHarvestRead
  extract_lets
  split
  · exact h
  · split
    · exact h.updHarv.addOp
    · exact h
    · exact h

theorem Stays.execHarvestRead {r : Req} (h : Stays s t) : Keeps s (execHarvestRead r t) := .ok (h.runOp (fun hu => hu.doHarvestRead))

theorem Stays.doHarvestRelease {r : Req} (h : Stays s t) : Stays s (doHarvestRelease r t).st :=
  .iteRes h (.iteRes h (.foldl (fun hu => .ite hu.updHarv.localPoint hu) h))

theorem Stays.execHarvestRelease {r : Req} (h : Stays s t) : Keeps s (execHarvestRelease r t) := .ok (h.runOp (fun hu => hu.doHarvestRelease))

theorem Stays.doHarvestStatus {r : Req} (h : Stays s t) : Stays s (doHarvestStatus r t).st := .iteRes h (.okRes h.updHarv)

theorem Stays.execHarvestStatus {r : Req} (h : Stays s t) : Keeps s (execHarvestStatus r t) := .ok (h.runOp (fun hu => hu.doHarvestStatus))

/-! ## Areas of the Cellar -/

theorem Stays.sweepAreas (h : Stays s t) : Stays s (sweepAreas t) := h.put

theorem Stays.loseOverlap {k : AreaKind} (h : Stays s t) : Stays s (loseOverlap k t) := by
  unfold Machine.loseOverlap
  extract_lets new old
  cases new with
  | none => exact h
  | some n =>
    cases old with
    | none => exact h
    | some o =>
      refine .ite ?_ h
      cases k
      case ct f => exact .updFe (.foldl (fun hu => .foldl (fun hv => .foldl (fun hw => .ite hw.updStream.dropNew hw) hv) hu) h)
      case queue st => exact h.dropRecs
      all_goals exact h

theorem Stays.areasApply {f : Fe} (h : Stays s t) : Stays s (areasApply f t) :=
  .sweepAreas (.foldl (fun hu => hu.loseOverlap.areaSwitch) h.loseOverlap.areaSwitch.loseOverlap.areaSwitch)

/-! ## The aux front end -/

theorem Stays.formResult {c : AuxSlot} {sampled endAt : Nat} (h : Stays s t) : Stays s (formResult t c sampled endAt).2 := by
  unfold Machine.formResult
  exact h.seed

theorem Stays.updAux {f : AuxSt → AuxSt} (h : Stays s t) : Stays s (State.updAux t f) := h.put

theorem Stays.updInp {i : AuxId} {f : AuxIn → AuxIn} (h : Stays s t) : Stays s (State.updInp t i f) := h.updAux

theorem Stays.beginSlot {i : AuxId} {inserted : Bool} {at_ : Nat} (h : Stays s t) : Stays s (beginSlot i inserted at_ t) := by
  unfold Machine.beginSlot
  exact h.trimPoint.updAux

theorem Stays.nextSlot {at_ : Nat} (h : Stays s t) : Stays s (nextSlot at_ t) := by
  unfold Machine.nextSlot
  split
  · exact h.updAux.beginSlot
  · split
    · exact h.updAux.beginSlot
    · exact h.updAux.localPoint

theorem Stays.cycleStart {at_ : Nat} (h : Stays s t) : Stays s (cycleStart at_ t) := .ite h.updAux h.updAux.nextSlot

theorem Stays.execAuxCycleStart (h : Stays s t) : Keeps s (execAuxCycleStart t) := by
  unfold Machine.execAuxCycleStart
  extract_lets
  split
  · exact .ok h
  · split
    · exact .ite (.ok h) (.ok h.cycleStart)
    · exact .ok h.goTo.updAux.cycleStart
    · split
      · exact .ok h.goTo.updAux.cycleStart
      · exact .ok h
    · exact .ok h

theorem Stays.execAuxConvstEdge {falling : Bool} (h : Stays s t) : Keeps s (execAuxConvstEdge falling t) := .ite (.ok h.cycleStart) (.ok h)

theorem Stays.execAuxConversionEnd {volts : Int} (h : Stays s t) : Keeps s (execAuxConversionEnd volts t) := by
  unfold Machine.execAuxConversionEnd
  split
  · exact .ok h
  · refine .ite (.ok h) ?_
    extract_lets at0 u next o c1
    have hu : Stays s u := h.goTo
    refine .ite (.ok hu.updAux) (.ite (.ok hu.updAux) ?_)
    split
    next r s1 hr =>
      have hs1 : Stays s s1 := .ofSnd hr hu.formResult
      exact .ok hs1.updAux.localPoint.nextSlot

theorem Stays.interlock {i : AuxId} {r : AuxRes} {brk : Bool} (h : Stays s t) : Stays s (interlock i r brk t) :=
  .ite h (.ite (.refreshIntlk (.ite h.updInp (.ite h.updInp.raise h.updInp))) (.ite (.refreshIntlk (.ite h.updInp.raise h.updInp)) h))

theorem Stays.auxReadDone {i : AuxId} (h : Stays s t) : Stays s (auxReadDone i t) := by
  unfold Machine.auxReadDone
  refine .foldl (fun hu => ?_) h
  extract_lets
  split
  · exact .ite (.ite hu.finish hu.put) hu
  · exact hu

theorem Stays.auxToTherm {x : AuxSample} (h : Stays s t) : Stays s (auxToTherm x t) := .foldl (fun hu => .ite hu.updTherm hu) h

theorem Stays.execAuxResultRelease {i : AuxId} (h : Stays s t) : Keeps s (execAuxResultRelease i t) := by
  unfold Machine.execAuxResultRelease
  split
  · exact .ok h
  · extract_lets s₀ brk x s1 s2 s3 s4
    have hs2 : Stays s s2 := .ite h.goTo.updAux.raise h.goTo.updAux
    have hs4 : Stays s s4 := hs2.auxToTherm.interlock
    exact .ok (.ite hs4.auxReadDone hs4)

theorem Stays.execExcitationBreak {j : Fin 4} (h : Stays s t) : Keeps s (execExcitationBreak j t) :=
  .ite (.ok h) (.ok (.ite h.updAux.raise h.updAux))

theorem Stays.execExcitationBreakClear {j : Fin 4} (h : Stays s t) : Keeps s (execExcitationBreakClear j t) := by
  unfold Machine.execExcitationBreakClear
  split
  · exact .ok h.updAux
  · exact .ok h

theorem Stays.startAuxCal {r : Req} {kind : OpKind} (h : Stays s t) : Stays s (startAuxCal r kind t).st :=
  .refreshIntlk (.ite h.addOp.updAux h.addOp)

theorem Stays.doAuxSelfcal {r : Req} (h : Stays s t) : Stays s (doAuxSelfcal r t).st := .iteRes h h.startAuxCal

theorem Stays.execAuxSelfcal {r : Req} (h : Stays s t) : Keeps s (execAuxSelfcal r t) := .ok (h.runOp (fun hu => hu.doAuxSelfcal))

theorem Stays.doAuxSyscal {r : Req} (h : Stays s t) : Stays s (doAuxSyscal r t).st := by
  unfold Machine.doAuxSyscal
  split
  · exact h
  · exact .iteRes h h.startAuxCal

theorem Stays.execAuxSyscal {r : Req} (h : Stays s t) : Keeps s (execAuxSyscal r t) := .ok (h.runOp (fun hu => hu.doAuxSyscal))

theorem Stays.doAuxTest {r : Req} (h : Stays s t) : Stays s (doAuxTest r t).st := .iteRes h (.iteRes h h.startAuxCal)

theorem Stays.execAuxTest {r : Req} (h : Stays s t) : Keeps s (execAuxTest r t) := .ok (h.runOp (fun hu => hu.doAuxTest))

theorem Stays.writeSyscal {m : AuxMeasure} {w0 : Word} (h : Stays s t) : Stays s (writeSyscal m w0 t) := by
  unfold Machine.writeSyscal
  extract_lets
  split
  · exact h.updAux
  · exact h.updAux
  · exact h.updAux

theorem Stays.execAuxCalComplete {m : AuxMeasure} (h : Stays s t) : Keeps s (execAuxCalComplete m t) := by
  unfold Machine.execAuxCalComplete
  extract_lets
  split
  · exact .ok h
  · split
    · exact .ite (.ok h.updAux.finish.raise.refreshIntlk) (.ite (.ok (.refreshIntlk (.raise (.finish (.ite h.writeSyscal h)))))
          (.ok h.finish.raise))
    · exact .ok h

theorem Stays.doAuxRead {r : Req} (h : Stays s t) : Stays s (doAuxRead r t).st :=
  .iteRes h (.iteRes h (.iteRes h (.iteRes h (.iteRes h (.ite h.addOp.updAux h.addOp.updAux.nextSlot)))))

theorem Stays.execAuxRead {r : Req} (h : Stays s t) : Keeps s (execAuxRead r t) := .ok (h.runOp (fun hu => hu.doAuxRead))

theorem Stays.doAuxIntlkReset {r : Req} (h : Stays s t) : Stays s (doAuxIntlkReset r t).st := .iteRes h (.foldl (fun hu => .ite hu.updInp hu) h)

theorem Stays.execAuxIntlkReset {r : Req} (h : Stays s t) : Keeps s (execAuxIntlkReset r t) := .ok (h.runOp (fun hu => hu.doAuxIntlkReset))

theorem Stays.doAuxStatus {x : Req} (h : Stays s t) : Stays s (doAuxStatus x t).st := .okRes h.updAux

theorem Stays.execAuxStatus {r : Req} (h : Stays s t) : Keeps s (execAuxStatus r t) := .ok (h.runOp (fun hu => hu.doAuxStatus))

theorem Stays.abortOp {codes : List (BitVec 16)} {mine : OpKind → Bool} {undo : Op → State → State} {r : Req}
    (hundo : ∀ {a0 : Op} {u : State}, Stays s u → Stays s (undo a0 u)) (h : Stays s t) : Stays s (abortOp codes mine undo r t).st := by
  unfold Machine.abortOp
  extract_lets
  split
  · exact .iteRes (hundo h.finish) h
  · exact .iteRes h h

theorem Stays.execAuxCalAbort {r : Req} (h : Stays s t) : Keeps s (execAuxCalAbort r t) :=
  .ok (h.runOp (fun hu => hu.abortOp (fun hv => hv.refreshIntlk)))

/-! ## Cellar operations -/

theorem Stays.gather {b : Bool} (h : Stays s t) : Stays s (State.gather t b) := h.put

theorem Stays.doCellarTrain {granted : Bool} {r : Req} (h : Stays s t) : Stays s (doCellarTrain granted r t).st := by
  unfold Machine.doCellarTrain
  extract_lets
  split
  · exact h
  · split
    · exact h
    · exact h.heavy (fun hu => hu) (fun hu => hu.addOp.gather)

theorem Stays.execCellarTrain {r : Req} (h : Stays s t) : Keeps s (execCellarTrain r t) := .ok (h.runOp (fun hu => hu.doCellarTrain))

theorem Stays.trainPoint {ch : Fin 4} {fsp : Fin 3} (h : Stays s t) : Stays s (trainPoint ch fsp t) := h.updCel.put

theorem Stays.execCellarTrainComplete {results : List TrainResult} (h : Stays s t) : Keeps s (execCellarTrainComplete results t) := by
  unfold Machine.execCellarTrainComplete
  split
  · exact .ok h
  · split
    · extract_lets found n s1 s2
      have hs2 : Stays s s2 := .foldl (fun hu => hu.trainPoint) h.goTo
      exact .ite (.ok h) (.ite (.ok hs2.gather.release.finish) (.ok hs2.gather.release.finish.raise))
    · exact .ok h

theorem Stays.trainAborted {o : Op} (h : Stays s t) : Stays s (trainAborted o t) := by
  unfold Machine.trainAborted
  extract_lets
  split
  · exact .release (.gather (.foldl (fun hu => .ite hu.trainPoint hu.put) h))
  · exact h

theorem Stays.doCellarTrainAbort {r : Req} (h : Stays s t) : Stays s (doCellarTrainAbort r t).st := by
  unfold Machine.doCellarTrainAbort
  split
  · exact .iteRes h.unqueue.answerQ h
  · exact h.abortOp (fun hu => hu.trainAborted)

theorem Stays.execCellarTrainAbort {r : Req} (h : Stays s t) : Keeps s (execCellarTrainAbort r t) := .ok (h.runOp (fun hu => hu.doCellarTrainAbort))

theorem Stays.doCellarTrainStep {granted : Bool} {r : Req} (h : Stays s t) : Stays s (doCellarTrainStep granted r t).st := by
  unfold Machine.doCellarTrainStep
  extract_lets
  split
  · exact h
  · split
    · exact h
    · exact h.heavy (fun hu => hu) (fun hu => hu.addOp.gather)

theorem Stays.execCellarTrainStep {r : Req} (h : Stays s t) : Keeps s (execCellarTrainStep r t) := .ok (h.runOp (fun hu => hu.doCellarTrainStep))

theorem Stays.execCellarTrainStepComplete {res : StepResult} (h : Stays s t) : Keeps s (execCellarTrainStepComplete res t) := by
  unfold Machine.execCellarTrainStepComplete
  extract_lets
  split
  · exact .ok h
  · split
    · exact .ok (.finish (.release (.gather (.ite h.goTo.updCel h.goTo))))
    · exact .ok h

theorem Stays.doCellarPattern {r : Req} (h : Stays s t) : Stays s (doCellarPattern r t).st := .iteRes h (.iteRes h (.okRes h.updCel))

theorem Stays.execCellarPattern {r : Req} (h : Stays s t) : Keeps s (execCellarPattern r t) := .ok (h.runOp (fun hu => hu.doCellarPattern))

theorem Stays.doCellarCompare {errs : Vector Nat 36} {r : Req} (h : Stays s t) : Stays s (doCellarCompare errs r t).st :=
  .iteRes h (.iteRes h (.iteRes h h))

theorem Stays.execCellarCompare {r : Req} {errs : Vector Nat 36} (h : Stays s t) : Keeps s (execCellarCompare r errs t) :=
  .ok (h.runOp (fun hu => hu.doCellarCompare))

theorem Stays.switchTo {f : Fin 3} {refreshEnd : Nat} {ps : Nat} (h : Stays s t) : Stays s (switchTo f refreshEnd ps t) := h.put.goTo

theorem Stays.doFreqSet {refreshEnd : Nat} {ps : Nat} {r : Req} (h : Stays s t) : Stays s (doFreqSet refreshEnd ps r t).st :=
  .iteRes h (.diteRes (fun _ => .iteRes h (.iteRes h (.iteRes h h.switchTo))) (fun _ => h))

theorem Stays.execFreqSet {r : Req} {refreshEnd : Nat} {switchPs : Nat} (h : Stays s t) : Keeps s (execFreqSet r refreshEnd switchPs t) :=
  .ok (h.runOp (fun hu => hu.doFreqSet))

theorem Stays.doCellarStatus {r : Req} (h : Stays s t) : Stays s (doCellarStatus r t).st := .iteRes h (.okRes h.updCel)

theorem Stays.execCellarStatus {r : Req} (h : Stays s t) : Keeps s (execCellarStatus r t) := .ok (h.runOp (fun hu => hu.doCellarStatus))

/-! ## A Cooper core -/

theorem CoreOk.writePhys {c : Core} {shadow : Bool} {r : Fin 32} {v : Word} (h : CoreOk c) : CoreOk (writePhys c shadow r v) :=
  .dite (fun _ => h.put) (fun _ => h.put)

theorem CoreOk.land1 {c : Core} {f : Flight} (h : CoreOk c) : CoreOk (land1 c f) := by
  unfold Machine.land1
  split
  · exact h.writePhys
  · exact .ite h.put h.put
  · exact h.put

theorem CoreOk.landNext {c : Core} (h : CoreOk c) : CoreOk (landNext c) := .foldl (fun hc => hc.land1) h.put

theorem CoreOk.landAll {c : Core} (h : CoreOk c) : CoreOk (landAll c) := h.landNext.landNext.landNext

theorem CoreOk.creadReg {c : Core} {now : BitVec 64} {k : Nat} (h : CoreOk c) : CoreOk (creadReg c now k).2 := by
  unfold Machine.creadReg
  split
  · exact h
  · exact h
  · exact h
  · exact h
  · exact h
  · exact h
  · exact h
  · exact h
  · exact h
  · exact h
  · exact h.put
  · exact h
  · exact h.put
  · exact h
  · exact h.put
  · split
    · exact h
    · exact h

theorem CoreOk.writeLc {c : Core} {l : Fin 2} {v : Word} (h : CoreOk c) : CoreOk (writeLc c l v) := h.put

theorem CoreOk.cwriteReg {c : Core} {k : Nat} {v : Word} (h : CoreOk c) : CoreOk (cwriteReg c k v) := by
  unfold Machine.cwriteReg
  split
  · exact h.put
  · exact h.put
  · exact h.put
  · exact h.put
  · exact h.put
  · exact h.put
  · exact h.writeLc
  · exact h.writeLc
  · exact h.put
  · exact .dite (fun _ => h.put) (fun _ => h)

theorem CoreOk.doPost {c : Core} {addr : Word} (h : CoreOk c) : CoreOk (doPost c addr).2 := .iteSnd h (.iteSnd h.put h)

theorem CoreOk.claim {c : Core} {cls : Nat} {off : Nat} {n : Nat} (h : CoreOk c) : CoreOk (Core.claim c cls off n) := .ite h.put h

theorem CoreOk.putDm {c : Core} {cls off : Nat} {data : List (Option Byte)} (h : CoreOk c) : CoreOk (c.putDm cls off data) :=
  ⟨h.claim.im, Mem.writeOpt_wf _ _ h.dm⟩

theorem CoreOk.putIm {c : Core} {off : Nat} {data : List (Option Byte)} (h : CoreOk c) : CoreOk (c.putIm off data) :=
  ⟨Mem.writeOpt_wf _ _ h.im, h.dm⟩

theorem CoreOk.stallOut {c : Core} {k : Nat} (h : CoreOk c) : CoreOk (stallOut k c) := by
  induction k generalizing c with
  | zero => exact h
  | succ k ih => exact .ite (ih h.put) h

theorem CoreOk.endLoop {c : Core} {l : Fin 2} (h : CoreOk c) : CoreOk (endLoop l c).2 :=
  .iteSnd (.iteSnd (CoreOk.ite h.put h).put (.writeLc (.ite h.put h))) h

theorem CoreOk.advance {c : Core} (h : CoreOk c) : CoreOk (advance c) := by
  unfold Machine.advance
  split
  next back1 c1 h1 =>
    have hc1 : CoreOk c1 := .ofSnd h1 h.endLoop
    refine .ite hc1 ?_
    split
    next back0 c0 h0 =>
      have hc0 : CoreOk c0 := .ofSnd h0 hc1.endLoop
      exact .ite hc0 hc0.put

theorem CoreOk.flow {c : Core} (h : CoreOk c) : CoreOk (flow c) := by
  unfold Machine.flow
  extract_lets
  split
  · exact .ite h.put h.put.advance
  · split
    · exact h.advance
    · split
      · exact h.advance.put
      · split
        · exact h.advance.put
        · exact h.advance.put

theorem CoreOk.coreFault {c : Core} {cause : BitVec 3} (h : CoreOk c) : CoreOk (coreFault c cause).1 := h.landAll.put

theorem CoreOk.ctlEffect {c : Core} {now : BitVec 64} {op : Nat} {o : BitVec 35} (h : CoreOk c) : CoreOk (ctlEffect c now op o).2 := by
  unfold Machine.ctlEffect
  extract_lets
  split
  · exact .ite h.put h
  · exact h.put
  · exact h.put
  · exact h.put
  · exact .iteSnd h.creadReg h.cwriteReg
  · exact h
  · exact h
  · exact h.doPost
  · exact h.put
  · exact h

theorem CoreOk.accStep {c : Core} {c0 : Core} {b : Bundle} (h : CoreOk c) : CoreOk (accStep c0 b c) := (CoreOk.ite h.put h.put).put

theorem CoreOk.loopSetup {c : Core} {c0 : Core} {op : Nat} {o : BitVec 35} (h : CoreOk c) : CoreOk (loopSetup c0 op o c) :=
  .ite (.ite h.put h.put) (.ite (.ite h.put h.put) h)

theorem CoreOk.stopPoint {c : Core} {clk : Nat} (h : CoreOk c) : CoreOk (stopPoint clk c) := .ite h.landAll.put (.ite h.landAll.put h)

theorem lsStore_wf {c : Core} (l : BitVec 20) (h : c.dm.wf = true) : (lsStore c l).wf = true := by
  unfold lsStore
  split
  · exact Mem.writeN_wf _ _ h
  · exact Mem.writeN_wf _ _ h
  · exact Mem.writeN_wf _ _ h
  · exact h

theorem CoreOk.issue {c : Core} {b : Bundle} {load fetch : EccRead} {now : BitVec 64} {clk seed : Nat} (h : CoreOk c) :
    CoreOk (issue b load fetch now clk seed c).1 := by
  unfold Machine.issue
  split
  · exact h.coreFault
  · split
    next op o hop =>
      split
      next fc c1 hc =>
        have hc1 : CoreOk c1 := .ofSnd hc h.ctlEffect
        extract_lets fl c2 c3 outs
        have hc2 : CoreOk c2 := by
          refine .accStep ⟨hc1.im, ?_⟩
          change Mem.wf (if b.ctl.isSome then c1.dm else lsStore c b.ls) = true
          split
          · exact hc1.dm
          · exact lsStore_wf _ h.dm
        have hc3 : CoreOk c3 := hc2.flow.loopSetup.landNext
        exact .iteFst hc3.landAll.put (.iteFst hc3.put.stopPoint hc3.stopPoint)

theorem CoreOk.eccNotes {c : Core} {b : Bundle} {load : EccRead} {fetch : EccRead} {c0 : Core} (h : CoreOk c) :
    CoreOk (eccNotes b load fetch c0 c) := h.put

theorem CoreOk.bundleTime {c : Core} {b : Bundle} {load : EccRead} {fetch : EccRead} {now : BitVec 64} {clk : Nat} {seed : Nat} (h : CoreOk c) :
    CoreOk (bundleTime b load fetch now clk seed c).1 := h.stallOut.issue.put.eccNotes

theorem CoreOk.setIpend {c : Core} {bit : Nat} (h : CoreOk c) : CoreOk (setIpend bit c) := .ite h.put.put h.put

theorem CoreOk.takeInterrupt {c : Core} (h : CoreOk c) : CoreOk (takeInterrupt c) := h.put.landNext

theorem CoreOk.startCore {c : Core} {entry : BitVec 13} {clk : Nat} (h : CoreOk c) : CoreOk (startCore entry clk c) := h.put

/-! ## Cooper operations -/

theorem Stays.stopReport (h : Stays s t) : Stays s (stopReport t) := by
  unfold Machine.stopReport
  split
  · exact h.finish
  · exact h

theorem CoreOk.pauseTaps {c : Core} {was : CoreSt} (h : CoreOk c) : CoreOk (pauseTaps was c) := .ite h.put h

theorem CoreOk.runCore {c : Core} {blk : List Word} {clk : Nat} (h : CoreOk c) : CoreOk (runCore blk clk c) := h.startCore.put

theorem Stays.reinitDone {func : Nat} {inst : Nat} (h : Stays s t) : Stays s (reinitDone func inst t) := .foldl (fun hu => hu.finish) h

theorem Stays.coreEnded {n : CoreId} (h : Stays s t) : Stays s (coreEnded n t) := by
  unfold Machine.coreEnded
  extract_lets back s1
  have hs1 : Stays s s1 := h.updCore (fun hc => .ite hc.runCore hc.startCore.put)
  exact .ite h (.ite h.release.stopReport (.ite hs1.reinitDone hs1.reinitDone.release.stopReport))

theorem Stays.issueOn {n : CoreId} {b : Bundle} {load fetch : EccRead} (h : Stays s t) : Stays s (issueOn n b load fetch t) := by
  refine .coreEnded (.foldl (fun hu => hu.raise) (Stays.put
    (t := t.updCore n fun c => Machine.pauseTaps c.st (Machine.bundleTime b load fetch t.now t.time.clk t.free c).1) ?_))
  exact h.updCore fun hc => hc.bundleTime.pauseTaps

theorem Stays.slotCmd {n : CoreId} {f : AsmSlots → AsmSlots} {after : SlotEnd} (h : Stays s t) : Stays s (slotCmd n f after t) := by
  unfold Machine.slotCmd
  extract_lets
  split
  · split
    · exact h.updCore (fun hc => hc.put)
    · exact h.issueOn
  · exact h

theorem Stays.arCmd {op : BitVec 6} {a : ArArgs} (h : Stays s t) : Keeps s (arCmd op a t) := .ok h.slotCmd

theorem Stays.lsCmd {op : BitVec 4} {a : LsArgs} {ecc : EccRead} (h : Stays s t) : Keeps s (lsCmd op a ecc t) := .ok h.slotCmd

theorem Stays.ctlCmd {op : BitVec 6} {a : CtlArgs} (h : Stays s t) : Keeps s (ctlCmd op a t) := .ok h.slotCmd

theorem Stays.execNop {n : CoreId} {slot : Slot} {after : SlotEnd} (h : Stays s t) : Keeps s (execNop n slot after t) := .ok h.slotCmd

theorem Stays.execAdd {a : ArArgs} (h : Stays s t) : Keeps s (execAdd a t) := h.arCmd

theorem Stays.execSub {a : ArArgs} (h : Stays s t) : Keeps s (execSub a t) := h.arCmd

theorem Stays.execAdds {a : ArArgs} (h : Stays s t) : Keeps s (execAdds a t) := h.arCmd

theorem Stays.execSubs {a : ArArgs} (h : Stays s t) : Keeps s (execSubs a t) := h.arCmd

theorem Stays.execAnd {a : ArArgs} (h : Stays s t) : Keeps s (execAnd a t) := h.arCmd

theorem Stays.execOr {a : ArArgs} (h : Stays s t) : Keeps s (execOr a t) := h.arCmd

theorem Stays.execXor {a : ArArgs} (h : Stays s t) : Keeps s (execXor a t) := h.arCmd

theorem Stays.execShl {a : ArArgs} (h : Stays s t) : Keeps s (execShl a t) := h.arCmd

theorem Stays.execShli {a : ArArgs} (h : Stays s t) : Keeps s (execShli a t) := h.arCmd

theorem Stays.execSra {a : ArArgs} (h : Stays s t) : Keeps s (execSra a t) := h.arCmd

theorem Stays.execSrai {a : ArArgs} (h : Stays s t) : Keeps s (execSrai a t) := h.arCmd

theorem Stays.execSrl {a : ArArgs} (h : Stays s t) : Keeps s (execSrl a t) := h.arCmd

theorem Stays.execSrli {a : ArArgs} (h : Stays s t) : Keeps s (execSrli a t) := h.arCmd

theorem Stays.execMov {a : ArArgs} (h : Stays s t) : Keeps s (execMov a t) := h.arCmd

theorem Stays.execAddi {a : ArArgs} (h : Stays s t) : Keeps s (execAddi a t) := h.arCmd

theorem Stays.execMin {a : ArArgs} (h : Stays s t) : Keeps s (execMin a t) := h.arCmd

theorem Stays.execMax {a : ArArgs} (h : Stays s t) : Keeps s (execMax a t) := h.arCmd

theorem Stays.execAbs {a : ArArgs} (h : Stays s t) : Keeps s (execAbs a t) := h.arCmd

theorem Stays.execCmpeq {a : ArArgs} (h : Stays s t) : Keeps s (execCmpeq a t) := h.arCmd

theorem Stays.execCmplt {a : ArArgs} (h : Stays s t) : Keeps s (execCmplt a t) := h.arCmd

theorem Stays.execAdd2 {a : ArArgs} (h : Stays s t) : Keeps s (execAdd2 a t) := h.arCmd

theorem Stays.execSub2 {a : ArArgs} (h : Stays s t) : Keeps s (execSub2 a t) := h.arCmd

theorem Stays.execPack {a : ArArgs} (h : Stays s t) : Keeps s (execPack a t) := h.arCmd

theorem Stays.execMul {a : ArArgs} (h : Stays s t) : Keeps s (execMul a t) := h.arCmd

theorem Stays.execNorm {a : ArArgs} (h : Stays s t) : Keeps s (execNorm a t) := h.arCmd

theorem Stays.execExp {a : ArArgs} (h : Stays s t) : Keeps s (execExp a t) := h.arCmd

theorem Stays.execMac {a : ArArgs} (h : Stays s t) : Keeps s (execMac a t) := h.arCmd

theorem Stays.execMsu {a : ArArgs} (h : Stays s t) : Keeps s (execMsu a t) := h.arCmd

theorem Stays.execMpy {a : ArArgs} (h : Stays s t) : Keeps s (execMpy a t) := h.arCmd

theorem Stays.execMac2 {a : ArArgs} (h : Stays s t) : Keeps s (execMac2 a t) := h.arCmd

theorem Stays.execMsu2 {a : ArArgs} (h : Stays s t) : Keeps s (execMsu2 a t) := h.arCmd

theorem Stays.execMpy2 {a : ArArgs} (h : Stays s t) : Keeps s (execMpy2 a t) := h.arCmd

theorem Stays.execRnd {a : ArArgs} (h : Stays s t) : Keeps s (execRnd a t) := h.arCmd

theorem Stays.execRndh {a : ArArgs} (h : Stays s t) : Keeps s (execRndh a t) := h.arCmd

theorem Stays.execExpa {a : ArArgs} (h : Stays s t) : Keeps s (execExpa a t) := h.arCmd

theorem Stays.execAsh {a : ArArgs} (h : Stays s t) : Keeps s (execAsh a t) := h.arCmd

theorem Stays.execClra {a : ArArgs} (h : Stays s t) : Keeps s (execClra a t) := h.arCmd

theorem Stays.execMoval {a : ArArgs} (h : Stays s t) : Keeps s (execMoval a t) := h.arCmd

theorem Stays.execMovah {a : ArArgs} (h : Stays s t) : Keeps s (execMovah a t) := h.arCmd

theorem Stays.execMovag {a : ArArgs} (h : Stays s t) : Keeps s (execMovag a t) := h.arCmd

theorem Stays.execLdw {a : LsArgs} {ecc : EccRead} (h : Stays s t) : Keeps s (execLdw a ecc t) := h.lsCmd

theorem Stays.execLdh {a : LsArgs} {ecc : EccRead} (h : Stays s t) : Keeps s (execLdh a ecc t) := h.lsCmd

theorem Stays.execLdhu {a : LsArgs} {ecc : EccRead} (h : Stays s t) : Keeps s (execLdhu a ecc t) := h.lsCmd

theorem Stays.execLdd {a : LsArgs} {ecc : EccRead} (h : Stays s t) : Keeps s (execLdd a ecc t) := h.lsCmd

theorem Stays.execStw {a : LsArgs} (h : Stays s t) : Keeps s (execStw a t) := h.lsCmd

theorem Stays.execSth {a : LsArgs} (h : Stays s t) : Keeps s (execSth a t) := h.lsCmd

theorem Stays.execStd {a : LsArgs} (h : Stays s t) : Keeps s (execStd a t) := h.lsCmd

theorem Stays.execMovp {a : LsArgs} (h : Stays s t) : Keeps s (execMovp a t) := h.lsCmd

theorem Stays.execMovg {a : LsArgs} (h : Stays s t) : Keeps s (execMovg a t) := h.lsCmd

theorem Stays.execMovm {a : LsArgs} (h : Stays s t) : Keeps s (execMovm a t) := h.lsCmd

theorem Stays.execModp {a : LsArgs} (h : Stays s t) : Keeps s (execModp a t) := h.lsCmd

theorem Stays.execBr {a : CtlArgs} (h : Stays s t) : Keeps s (execBr a t) := h.ctlCmd

theorem Stays.execBrl {a : CtlArgs} (h : Stays s t) : Keeps s (execBrl a t) := h.ctlCmd

theorem Stays.execJr {a : CtlArgs} (h : Stays s t) : Keeps s (execJr a t) := h.ctlCmd

theorem Stays.execReti {a : CtlArgs} (h : Stays s t) : Keeps s (execReti a t) := h.ctlCmd

theorem Stays.execLoop {a : CtlArgs} (h : Stays s t) : Keeps s (execLoop a t) := h.ctlCmd

theorem Stays.execRepeat {a : CtlArgs} (h : Stays s t) : Keeps s (execRepeat a t) := h.ctlCmd

theorem Stays.execMvc {a : CtlArgs} (h : Stays s t) : Keeps s (execMvc a t) := h.ctlCmd

theorem Stays.execMovi {a : CtlArgs} (h : Stays s t) : Keeps s (execMovi a t) := h.ctlCmd

theorem Stays.execMovhi {a : CtlArgs} (h : Stays s t) : Keeps s (execMovhi a t) := h.ctlCmd

theorem Stays.execHalt {a : CtlArgs} (h : Stays s t) : Keeps s (execHalt a t) := h.ctlCmd

theorem Stays.execWait {a : CtlArgs} (h : Stays s t) : Keeps s (execWait a t) := h.ctlCmd

theorem Stays.execPost {a : CtlArgs} (h : Stays s t) : Keeps s (execPost a t) := h.ctlCmd

theorem Stays.execTaprel {a : CtlArgs} (h : Stays s t) : Keeps s (execTaprel a t) := h.ctlCmd

theorem Stays.endCoreTest {n : Nat} (h : Stays s t) : Stays s (endCoreTest n t) := h.stopTaster

theorem Stays.doCooperLoad {r : Req} (h : Stays s t) : Stays s (doCooperLoad r t).st :=
  .iteRes h (.iteRes h (.iteRes h (.iteRes h (.iteRes h (.okRes (h.endCoreTest.updCore (fun hc => .ite hc.putDm hc.putIm)))))))

theorem Stays.execCooperLoad {r : Req} (h : Stays s t) : Keeps s (execCooperLoad r t) := .ok (h.runOp (fun hu => hu.doCooperLoad))

theorem Stays.doCooperStart {granted : Bool} {r : Req} (h : Stays s t) : Stays s (doCooperStart granted r t).st := by
  unfold Machine.doCooperStart
  extract_lets
  exact .iteRes h (.iteRes h (.iteRes h (.iteRes h (h.endCoreTest.heavy (fun hu => hu.updCore (fun hv => hv.put))
      (fun hu => .okRes (hu.updCore (fun hv => hv.runCore)))))))

theorem Stays.execCooperStart {r : Req} (h : Stays s t) : Keeps s (execCooperStart r t) := .ok (h.runOp (fun hu => hu.doCooperStart))

theorem Stays.stopCore {n : CoreId} (h : Stays s t) : Stays s (stopCore n t) := by
  unfold Machine.stopCore
  extract_lets s1
  have hs1 : Stays s s1 := h.updCore (fun hc => hc.put)
  split
  · exact h
  · split
    · exact hs1.unqueue.answerQ
    · exact hs1
  · exact (h.updCore (fun hc => hc.put.stopPoint)).coreEnded
  · exact (h.updCore (fun hc => hc.landAll.put)).coreEnded

theorem Stays.doCooperStop {r : Req} (h : Stays s t) : Stays s (doCooperStop r t).st :=
  .iteRes h (.iteRes (.foldl (fun hu => .ite hu.stopCore hu) h) (.addOp (.foldl (fun hu => .ite hu.stopCore hu) h)))

theorem Stays.execCooperStop {r : Req} (h : Stays s t) : Keeps s (execCooperStop r t) := .ok (h.runOp (fun hu => hu.doCooperStop))

theorem Stays.doCooperSignal {r : Req} (h : Stays s t) : Stays s (doCooperSignal r t).st :=
  .iteRes h (.okRes (h.updCore (fun hc => hc.put.setIpend)))

theorem Stays.execCooperSignal {r : Req} (h : Stays s t) : Keeps s (execCooperSignal r t) := .ok (h.runOp (fun hu => hu.doCooperSignal))

theorem Stays.doCooperStatus {r : Req} (h : Stays s t) : Stays s (doCooperStatus r t).st := .iteRes h (.okRes (h.updCore (fun hc => hc.put)))

theorem Stays.execCooperStatus {r : Req} (h : Stays s t) : Keeps s (execCooperStatus r t) := .ok (h.runOp (fun hu => hu.doCooperStatus))

theorem Stays.execCooperTimer {n : CoreId} (h : Stays s t) : Keeps s (execCooperTimer n t) :=
  .ite (.ok (h.goTo.updCore (fun hc => hc.put.setIpend))) (.ok h)

theorem Stays.execInterruptTake {n : CoreId} (h : Stays s t) : Keeps s (execInterruptTake n t) :=
  .ite (.ok (h.updCore (fun hc => hc.takeInterrupt))) (.ok h)

theorem Stays.coreTick {n : CoreId} (h : Stays s t) : Stays s (coreTick n t) := .ite (.ite (h.updCore (fun hc => hc.takeInterrupt)) h.issueOn) h

/-! ## Taps -/

theorem Stays.closeTap {n : CoreId} {k : Fin 2} (h : Stays s t) : Stays s (closeTap n k t) := by
  unfold Machine.closeTap
  refine .ite h ?_
  extract_lets room data trunc bytes
  refine h.updCore fun {c} hc => ?_
  exact CoreOk.setIpend (bit := 1 + k.val) (CoreOk.put (c := c.putDm _ _ _) hc.putDm)

theorem Stays.execTapWindowFill {n : CoreId} {k : Fin 2} (h : Stays s t) : Keeps s (execTapWindowFill n k t) := .ite (.ok h.closeTap) (.ok h)

theorem Stays.openTap {n : CoreId} {k : Fin 2} (h : Stays s t) : Stays s (openTap n k t) := h.updCore (fun hc => hc.put)

theorem Stays.tapFields {n : CoreId} {k : Fin 2} (h : Stays s t) : Stays s (tapFields n k t) := h.updCore (fun hc => .ite hc hc.put)

theorem Stays.tapTake {n : CoreId} {k : Fin 2} {item : List Word → TapRow} (h : Stays s t) : Stays s (tapTake n k item t) :=
  .updCore (fun hc => hc.put) (.ite (.openTap (.ite h.closeTap h)) (.ite h.closeTap h))

theorem Stays.eachTap {f : CoreId → Fin 2 → State → State} (hf : ∀ {a0 : CoreId} {a1 : Fin 2} {u : State}, Stays s u → Stays s (f a0 a1 u)) (h :
    Stays s t) : Stays s (eachTap f t) :=
  .foldl (fun hu => .ite (.foldl (fun hv => hf hv) hu) hu) h

theorem Stays.tapRefresh {n : CoreId} {k : Fin 2} (h : Stays s t) : Stays s (tapRefresh n k t) := .ite h.closeTap.tapFields h

theorem Stays.tapsRow {r : Row} (h : Stays s t) : Stays s (tapsRow r t) := h.eachTap (fun hu => .ite hu.tapRefresh.tapTake hu.tapRefresh)

theorem Stays.tapsRecord {f : Fe} {kind : Nat} {bytes : List Byte} {flags : BitVec 16} {ppn : BitVec 48} {time : BitVec 64} (h : Stays s t) :
    Stays s (tapsRecord f kind bytes flags ppn time t) :=
  h.eachTap (fun hu => .ite hu.tapRefresh.tapTake hu.tapRefresh)

theorem Stays.tapsStop {f : Fe} (h : Stays s t) : Stays s (tapsStop f t) := h.eachTap (fun hu => .ite (hu.updCore (fun hv => hv.put)) hu)

/-! ## Thermal profiling -/

theorem Stays.foldSub {fe : Fe} {found : EccRead} (h : Stays s t) : Stays s (foldSub fe found t) := by
  unfold Machine.foldSub
  extract_lets
  split
  · exact h
  · exact .ite h.updTherm h.updTherm.put.vatEcc

theorem Stays.execSubintervalFold {fe : Fe} {ecc : EccRead} (h : Stays s t) : Keeps s (execSubintervalFold fe ecc t) := .ok h.foldSub

theorem Stays.execRamanShotAccumulate {fe : Fe} {x : RamanShot} (h : Stays s t) : Keeps s (execRamanShotAccumulate fe x t) := by
  unfold Machine.execRamanShotAccumulate
  split
  · exact .ok h
  · extract_lets p0 n done s0 q sub th rate swap pick y lo hi lost missing full clipped clips next s1 s2 acc
    have hs1 : Stays s s1 := h.goTo.updTherm.updFe
    have hs2 : Stays s s2 := .ite hs1.raise hs1
    cases acc with
    | none => exact .ok hs2
    | some m => exact .ok (.updTherm (.ite hs2.foldSub hs2))

theorem Stays.ramanRestart {fe : Fe} {ppn : BitVec 48} {b : Nat} (h : Stays s t) : Stays s (ramanRestart fe ppn b t) := h.updTherm

theorem Stays.writeCal {fe : Fe} {w1 : Word} {g : Int} {c : Int} {d : Int} (h : Stays s t) : Stays s (writeCal fe w1 g c d t) := h.setShad

theorem Stays.decideCal {fe : Fe} {m : RamanSum} {aux : List AuxSample} (h : Stays s t) : Stays s (decideCal fe m aux t) := by
  unfold Machine.decideCal
  split
  · exact h
  · split
    · split
      · exact h
      · split
        · exact h.finish
        · exact .ite h.finish (.ite h.finish h.writeCal.finish)
    · exact h

theorem Stays.fuseInterval {fe : Fe} {m : RamanSum} {temps : List (Option Int)} (h : Stays s t) :
    Stays s (fuseInterval fe m temps t) := .ite h h.updTherm

theorem Stays.markEpochEnd {fe : Fe} {ppn : BitVec 48} {old : State} (h : Stays s t) : Stays s (markEpochEnd fe ppn old t) := h.updTherm

theorem Stays.execFusionEpoch {fe : Fe} (h : Stays s t) : Keeps s (execFusionEpoch fe t) := by
  unfold Machine.execFusionEpoch
  extract_lets
  split
  · exact .ok h
  · exact .ite (.ok h.updTherm) (.ok h.updTherm.updTherm)

theorem Stays.execIntervalComplete {fe : Fe} (h : Stays s t) : Keeps s (execIntervalComplete fe t) := by
  unfold Machine.execIntervalComplete
  split
  · exact .ok h
  · exact .ok h.seed.updTherm.decideCal.fuseInterval

theorem Stays.harvestRecord {fe : Fe} {kind : Nat} {bytes : List Byte} {flags : BitVec 16} {ppn : BitVec 48} {time : BitVec 64} (h : Stays s t) :
    Stays s (harvestRecord fe kind bytes flags ppn time t) :=
  .foldl (fun hu => .ite hu.updHarv hu) h

theorem Stays.writeThermal {fe : Fe} {kind : Nat} {hdr : List Word} {payload : List Byte} {flags : BitVec 16} {ppn : BitVec 48} {time : BitVec 64}
    (h : Stays s t) : Stays s (writeThermal fe kind hdr payload flags ppn time t) :=
  .tapsRecord (.harvestRecord (.ite h.updTherm.ringPush.updTherm h.updTherm.updTherm))

theorem Stays.execRamanRecord {fe : Fe} (h : Stays s t) : Keeps s (execRamanRecord fe t) := by
  unfold Machine.execRamanRecord
  split
  · exact .ok h
  · exact .ok h.updTherm.writeThermal

theorem Stays.execFusedRecord {fe : Fe} (h : Stays s t) : Keeps s (execFusedRecord fe t) := .ite (.ok h) (.ok h.goTo.updTherm.writeThermal)

theorem Stays.doThermStatus {r : Req} (h : Stays s t) : Stays s (doThermStatus r t).st := .iteRes h (.okRes h.updTherm)

theorem Stays.execThermStatus {r : Req} (h : Stays s t) : Keeps s (execThermStatus r t) := .ok (h.runOp (fun hu => hu.doThermStatus))

theorem Stays.doThermCalibrate {r : Req} (h : Stays s t) : Stays s (doThermCalibrate r t).st := .iteRes h (.iteRes h (.iteRes h h.addOp))

theorem Stays.execThermCalibrate {r : Req} (h : Stays s t) : Keeps s (execThermCalibrate r t) := .ok (h.runOp (fun hu => hu.doThermCalibrate))

theorem Stays.execThermCalTimeout {fe : Fe} (h : Stays s t) : Keeps s (execThermCalTimeout fe t) := by
  unfold Machine.execThermCalTimeout
  split
  · exact .ok h
  · exact .ok h.goTo.finish

theorem Stays.execThermAbort {r : Req} (h : Stays s t) : Keeps s (execThermAbort r t) := .ok (h.runOp (fun hu => hu.abortOp (fun hv => hv)))

theorem Stays.reseed {fe : Fe} {cals : List (List Word)} {p : Nat → Bool} (h : Stays s t) : Stays s (reseed fe cals p t) := by
  unfold Machine.reseed
  exact h.updTherm

theorem Stays.doThermReseed {r : Req} (h : Stays s t) : Stays s (doThermReseed r t).st := .iteRes h h.reseed

theorem Stays.execThermReseed {r : Req} (h : Stays s t) : Keeps s (execThermReseed r t) := .ok (h.runOp (fun hu => hu.doThermReseed))

theorem Stays.thermCommit {fe : Fe} {ppn : BitVec 48} {b : Nat} {op : List Word} {or_ : List Word} {ot : List Word} {oc : List Word} (h :
    Stays s t) : Stays s (thermCommit fe ppn b op or_ ot oc t) := by
  unfold Machine.thermCommit
  extract_lets p r t₀ c s1 fuseKey s2
  have hs1 : Stays s s1 := .ite h.ramanRestart h
  have hs2 : Stays s s2 := .ite hs1.updTherm (.ite hs1.updTherm hs1)
  exact .ite hs2.reseed hs2

/-! ## Time -/

theorem Stays.tiuRefFault (h : Stays s t) : Stays s (tiuRefFault t) := h.put

theorem Stays.enterHoldover (h : Stays s t) : Stays s (enterHoldover t) := h.put.tiuRefFault

theorem Stays.execRefLost {t' : Nat} (h : Stays s t) : Keeps s (execRefLost t' t) := .ite (.ok h.goTo) (.ok h.goTo.put.enterHoldover.timeEvent)

theorem Stays.execRefInEdgeReturn {t' : Nat} (h : Stays s t) : Keeps s (execRefInEdgeReturn t' t) := .ite (.ok h.goTo.put) (.ok h.goTo)

theorem Stays.execRefGateEnd {t' : Nat} {edges : Nat} (h : Stays s t) : Keeps s (execRefGateEnd t' edges t) :=
  .ite (.ok h.goTo.put) (.ite (.ite (.ok h.goTo) (.ok h.goTo.put.enterHoldover.timeEvent)) (.ok h.goTo.put))

theorem Stays.execRelocked {t' : Nat} (h : Stays s t) : Keeps s (execRelocked t' t) := .ite (.ok h.goTo.put.timeEvent) (.ok h.goTo)

theorem Stays.adoptTime (h : Stays s t) : Stays s (adoptTime t) := h.put

theorem Stays.slew {adj : Int} (h : Stays s t) : Stays s (slew t adj) := h.put

theorem Stays.stepTime {v : BitVec 96} (h : Stays s t) : Stays s (stepTime t v) := h.put.timeEvent

theorem Stays.ppsAccepted {stamp : BitVec 96} {err : Int} {stepped : Bool} (h : Stays s t) : Stays s (ppsAccepted t stamp err stepped) := h.put

theorem Stays.ppsEdge (h : Stays s t) : Stays s (ppsEdge t) := by
  unfold Machine.ppsEdge
  extract_lets blk delay stamp target err src s1 shift toStep
  have htoStep : Stays s toStep := h.put.stepTime.ppsAccepted
  exact .ite htoStep (.ite h.put.slew.ppsAccepted
      (.ite (.ite h.put.timeEvent.stepTime.ppsAccepted h.put.timeEvent.slew.ppsAccepted) h.put.timeEvent.put))

theorem Stays.ppsSet {p : PendSet} (h : Stays s t) : Stays s (ppsSet t p) := by
  unfold Machine.ppsSet
  extract_lets delay stamp shift err src s1 s2
  have hs2 : Stays s s2 := h.put.stepTime.ppsAccepted
  split
  · exact hs2.finish
  · exact hs2

theorem Stays.tiuReport (h : Stays s t) : Stays s (tiuReport t) := by
  unfold Machine.tiuReport
  extract_lets
  split
  · exact h
  · split
    · exact .finish (.foldl (fun hu => hu.updTiu) h)
    · exact h

theorem Stays.tiuEnd {c : Fin 4} {st : Nat} {rcd : List Word} (h : Stays s t) : Stays s (tiuEnd c st rcd t) :=
  h.updTiu.trimPoint.raise.localPoint.tiuReport

theorem Stays.tiuStart {c : Fin 4} {sub : Byte} (h : Stays s t) : Stays s (tiuStart c sub t) := .ite h.updTiu (.ite h.updTiu h)

theorem Stays.tiuSource {src : Nat} (h : Stays s t) : Stays s (tiuSource src t) := .foldl (fun hu => .ite hu.tiuStart hu) h

theorem Stays.tiuPps {falling : Bool} (h : Stays s t) : Stays s (tiuPps falling t) := .foldl (fun hu => .ite hu.tiuStart hu) h

theorem Stays.execPpsInEdge {t' : Nat} {falling : Bool} (h : Stays s t) : Keeps s (execPpsInEdge t' falling t) := by
  unfold Machine.execPpsInEdge
  extract_lets s1 s₀
  have hs₀ : Stays s s₀ := h.goTo.tiuPps.adoptTime
  split
  · exact .ok h.goTo.tiuPps
  · split
    · exact .ok hs₀
    · split
      · exact .ok hs₀.ppsSet
      · exact .ite (.ok hs₀.ppsEdge) (.ok hs₀)

theorem Stays.execPpsLost (h : Stays s t) : Keeps s (execPpsLost t) := .ite (.ok h.goTo.put.timeEvent) (.ok h)

theorem Stays.execPtmDialogue {tSent : Nat} {tRecv : Nat} {t2 : BitVec 64} {t32 : Nat} {success : Bool} (h : Stays s t) :
    Keeps s (execPtmDialogue tSent tRecv t2 t32 success t) :=
  .ite (.ok h.goTo.put) (.ite (.ok h.goTo.put) (.ok h.goTo.put))

theorem Stays.doTimeSet {r : Req} (h : Stays s t) : Stays s (doTimeSet r t).st := by
  unfold Machine.doTimeSet
  extract_lets v w2 src s1
  have hs1 : Stays s s1 := by
    unfold s1
    split
    · split
      · exact h.put.finish
      · exact h.put
    · exact h
  exact .iteRes h (.iteRes h (.iteRes h (.iteRes hs1.addOp.put hs1.stepTime.noteDone)))

theorem Stays.execTimeSet {r : Req} (h : Stays s t) : Keeps s (execTimeSet r t) := .ok (h.runOp (fun hu => hu.doTimeSet))

theorem Stays.execTimeSetTimeout (h : Stays s t) : Keeps s (execTimeSetTimeout t) := by
  unfold Machine.execTimeSetTimeout
  split
  · exact .ok h
  · extract_lets
    split
    · exact .ok h.goTo.put.finish
    · exact .ok h.goTo.put

theorem Stays.execTimeGet {r : Req} (h : Stays s t) : Keeps s (execTimeGet r t) := .ok (h.runOp (fun hu => hu))

theorem Stays.endTiuCheck {m : Nat} (h : Stays s t) : Stays s (endTiuCheck t m) := h.stopTaster

theorem Stays.doTiuArm {r : Req} (h : Stays s t) : Stays s (doTiuArm r t).st := by
  unfold Machine.doTiuArm
  extract_lets m chans modes s0 s1
  have hs1 : Stays s s1 := .foldl (fun hu => hu.updTiu) h.endTiuCheck
  exact .iteRes h (.iteRes h (.iteRes h (.iteRes hs1 hs1.addOp)))

theorem Stays.execTiuArm {r : Req} (h : Stays s t) : Keeps s (execTiuArm r t) := .ok (h.runOp (fun hu => hu.doTiuArm))

theorem Stays.doTiuStop {r : Req} (h : Stays s t) : Stays s (doTiuStop r t).st :=
  .iteRes h (.iteRes h (.foldl (fun hu => .ite hu (.ite hu.updTiu.trimPoint.localPoint hu.tiuEnd)) h))

theorem Stays.execTiuStop {r : Req} (h : Stays s t) : Keeps s (execTiuStop r t) := .ok (h.runOp (fun hu => hu.doTiuStop))

theorem Stays.execTiuStartEdge {c : Fin 4} {e : PinEdge} {sub : Byte} (h : Stays s t) : Keeps s (execTiuStartEdge c e sub t) :=
  .ok (.ite h.goTo.tiuStart h.goTo)

theorem Stays.tiuEvent {c : Fin 4} (h : Stays s t) : Stays s (tiuEvent c t) := by
  unfold Machine.tiuEvent
  split
  · exact h
  · exact h.seqEvent

theorem Stays.tiuCloseCh {c : Fin 4} (h : Stays s t) : Stays s (tiuCloseCh c t) :=
  .ite (.ite h.goTo.tiuEvent.updTiu.trimPoint.ringPush.raise h.goTo.tiuEvent.tiuEnd) h

theorem Stays.execTiuStopEdge {c : Fin 4} {e : PinEdge} (h : Stays s t) : Keeps s (execTiuStopEdge c e t) := by
  unfold Machine.execTiuStopEdge
  extract_lets
  exact .ite (.ok h) (.ite (.ok h.updTiu) (.ite (.ok h.updTiu)
      (.ite (.ok h.tiuCloseCh) (.ite (.ok h.updTiu) (.ite (.ok h.updTiu) (.ok h.updTiu))))))

theorem Stays.execTiuClose {c : Fin 4} (h : Stays s t) : Keeps s (execTiuClose c t) := .ok h.tiuCloseCh

theorem Stays.execTiuRearm {c : Fin 4} (h : Stays s t) : Keeps s (execTiuRearm c t) := .ite (.ok h.goTo.localPoint.updTiu) (.ok h)

theorem Stays.execTiuArmTimeout {c : Fin 4} (h : Stays s t) : Keeps s (execTiuArmTimeout c t) := .ite (.ok h.goTo.tiuEnd) (.ok h)

theorem Stays.gateEdges {c : Fin 4} {times : List Nat} (h : Stays s t) : Stays s (gateEdges c times t) := .foldl (fun hu => hu.updTiu) h

theorem Stays.execTiuGateEnd {c : Fin 4} {single : List Nat} {period : Nat} {count : Nat} (h : Stays s t) :
    Keeps s (execTiuGateEnd c single period count t) :=
  .ite (.ok h.gateEdges.goTo.put.tiuEnd) (.ok h)

/-! ## The engines -/

theorem Stays.rephase {f : Fe} (h : Stays s t) : Stays s (rephase f t) := .ite h.updFe h

theorem Stays.strobe {p : List Word} {fn : Nat} {rise : Nat} {fall : Nat} (h : Stays s t) : Stays s (strobe p fn rise fall t) :=
  .ite h (.foldl (fun hu => .ite hu.emit.emit hu) h)

theorem Stays.restPins {old : List Word} {new : List Word} {b : Nat} {ppn : BitVec 48} (h : Stays s t) : Stays s (restPins old new b ppn t) :=
  .ite h (.foldl (fun hu => .ite hu hu.emit) h)

theorem Stays.launchNext {f : Fe} (h : Stays s t) : Stays s (launchNext f t) := .ite h.goTo.emit.strobe.strobe.updFe h

theorem Stays.execGroupLaunch {fe : Fe} (h : Stays s t) : Keeps s (execGroupLaunch fe t) := .ok h.launchNext

theorem Stays.launchRest {f : Fe} {n : Nat} (h : Stays s t) : Stays s (launchRest f n t) := by
  induction n generalizing t with
  | zero => exact h
  | succ n ih => exact ih h.launchNext

theorem Stays.holdBudgets {f : Fe} {origin : Bool} (h : Stays s t) : Stays s (holdBudgets f origin t) :=
  .foldl (fun hu => .ite hu.setGrant hu) h.setGrant

theorem Stays.copyShadow {f : Fe} {c : Commit} (h : Stays s t) : Stays s (copyShadow f c t) := by
  unfold Machine.copyShadow
  refine .foldl (fun hu => ?_) h
  extract_lets
  split
  · exact .ite (.ite (.ite hu.applyBlock.applyBlock.updStream hu) hu.updStream) hu.applyBlock
  · exact hu.applyBlock

theorem Stays.keepIsolated {f : Fe} (h : Stays s t) : Stays s (keepIsolated f t) := .ite h.setShad.setAct h

theorem Stays.engineEnded {f : Fe} (h : Stays s t) : Stays s (engineEnded f t) := .ite h.harvestStop.zonesStop.tapsStop.zoneCommitPoint h

theorem Stays.applyFe {f : Fe} {b : Nat} {ppn : BitVec 48} {c : Commit} (h : Stays s t) : Stays s (applyFe f b ppn c t) := by
  unfold Machine.applyFe
  extract_lets op or_ oh ot oc oref rise was s1 np nr nh plan pOld evs s2 s3 s4 g s5
  have hs1 : Stays s s1 := h.copyShadow.keepIsolated.areasApply
  have hs3 : Stays s s3 := hs1.updFe.thermCommit.restPins
  have hs5 : Stays s s5 := hs3.holdBudgets.setGrant
  exact .ite hs5.put.settle.engineEnded hs5.put.settle

theorem Stays.reinitLinks {f : Fe} {at_ : Nat} (h : Stays s t) : Stays s (reinitLinks f at_ t) := by
  unfold Machine.reinitLinks
  exact h.updFe

theorem Stays.reinitFe {f : Fe} {b : Nat} {pOld : Nat} (h : Stays s t) : Stays s (reinitFe f b pOld t) := by
  unfold Machine.reinitFe
  exact h.reinitLinks.updFe

theorem Stays.fireRaman {f : Fe} {b : Nat} {ppn : BitVec 48} (h : Stays s t) : Stays s (fireRaman f b ppn t) :=
  .ite (.ite h.strobe.updTherm h.strobe) h

theorem Stays.probeAux {f : Fe} {b : Nat} {ppn : BitVec 48} (h : Stays s t) : Stays s (probeAux f b ppn t) := .ite h.put h

theorem Stays.execBoundary {fe : Fe} (h : Stays s t) : Keeps s (execBoundary fe t) := by
  unfold Machine.execBoundary
  extract_lets s1 b s2 ppn s3 s3' shed live s4 epoch s4' s5 e s6 s7
  have hs3 : Stays s s3 := by
    unfold s3
    split
    · exact h.launchRest.goTo.applyFe
    · exact h.launchRest.goTo
  have hs3' : Stays s s3' := .ite hs3.reinitFe hs3
  have hs4 : Stays s s4 := .ite hs3'.raise hs3'
  have hs4' : Stays s s4' := .ite hs4.markEpochEnd hs4
  have hs7 : Stays s s7 := hs4'.updFe.updFe.trimPoint.strobe
  exact .ite (.ok h) (.ok hs7.fireRaman.probeAux.tiuSource)

theorem Stays.endEpoch {f : Fe} {sh : Shot} {upto : Nat} {whole : Bool} (h : Stays s t) : Stays s (endEpoch f sh upto whole t) :=
  .ite h (.ite h.updFe (.ite h.updFe h.updFe.updTherm))

theorem Stays.harvestRow {row : Row} {vs : List (Nat × List (Int × Int))} {probe : List Word} (h : Stays s t) :
    Stays s (harvestRow row vs probe t) := h.put

theorem Stays.levelRow {row : Row} {decided : Nat → Nat} (h : Stays s t) : Stays s (levelRow row decided t) := by
  unfold Machine.levelRow
  refine .foldl (fun hu => ?_) h
  extract_lets
  split
  · split
    · exact hu.levelSample
    · exact hu
  · exact hu

theorem Stays.consumeRow {f : Fe} {sh : Shot} {row : Row} {vs : List (Nat × List (Int × Int))} (h : Stays s t) :
    Stays s (consumeRow f sh row vs t) :=
  .tapsRow (.levelRow (.harvestRow (.ite h.put.zoneCommitPoint.zonesRow.cornerRow.holdBudgets h.put.zoneCommitPoint.zonesRow.cornerRow)))

theorem Stays.chanEcc {f : Fe} {probe : List Word} {l : List (Nat × EccRead)} (h : Stays s t) :
    Stays s (chanEcc f probe l t) := .foldl (fun hu => hu.vatEcc) h

theorem Stays.processRow {f : Fe} {sh : Shot} {smp : PairSamples} {eccCh : List (Nat × EccRead)} {loses : Bool} {keep : Nat} (h : Stays s t) :
    Stays s (processRow f sh smp eccCh loses keep t) := by
  unfold Machine.processRow
  extract_lets n w x0 lost known golayGap zeros invalid upto due reset seed s1 shift s2 s3 br found ecc cs cs' out elems settle disc flags row ends
      clips next s4 s5 s6 s6'
  have hs3 : Stays s s3 := .ite h.put.updFe h.put.updFe.endEpoch
  have hs6 : Stays s s6 := .ite hs3.updFe.chanEcc.raise hs3.updFe.chanEcc
  have hs6' : Stays s s6' := .ite hs6.reinitDone hs6
  exact hs6'.consumeRow.engineEnded

theorem Stays.execShotRowProcess {fe : Fe} {x : PairSamples} {eccCh : List (Nat × EccRead)} {lost : Bool} {keep : Nat} (h : Stays s t) :
    Keeps s (execShotRowProcess fe x eccCh lost keep t) := by
  unfold Machine.execShotRowProcess
  split
  · exact .ok h
  · exact .ok h.goTo.processRow

theorem Stays.linkUp {f : Fe} {l : Fin 3} {latest : Nat} (h : Stays s t) : Stays s (linkUp f l latest t) := by
  unfold Machine.linkUp
  exact .updFe (.ite (.ite h.updFe h) (.rawBack (.ite h.updFe h)))

theorem Stays.linkUpEvent {f : Fe} {l : Fin 3} (h : Stays s t) : Stays s (linkUpEvent f l t) := .ite h.updFe.raise h

theorem Stays.linksReinit {f : Fe} (h : Stays s t) : Stays s (linksReinit f t) := .ite h.reinitDone h

theorem Stays.execSysrefEdge {fe : Fe} {offset : Int} (h : Stays s t) : Keeps s (execSysrefEdge fe offset t) := .ok (.ite h.updFe.raise h.updFe)

theorem Stays.execLinkInitComplete {fe : Fe} {link : Fin 3} {latestArrival : Nat} (h : Stays s t) :
    Keeps s (execLinkInitComplete fe link latestArrival t) :=
  .ite (.ok h) (.ite (.ok h.linkUp.linksReinit.linkUpEvent) (.ok h))

theorem Stays.execCrc12Failure {fe : Fe} {lane : Fin 6} {fromT : Nat} {toT : Nat} (h : Stays s t) :
    Keeps s (execCrc12Failure fe lane fromT toT t) := .ok h.goTo.updFe

theorem Stays.execLinkDown {fe : Fe} {link : Fin 3} {t' : Nat} (h : Stays s t) : Keeps s (execLinkDown fe link t' t) :=
  .ite (.ok (.ite h.goTo.updFe.raise h.goTo.updFe)) (.ok h)

theorem Stays.execLinkRetry {fe : Fe} {link : Fin 3} {success : Bool} {latestArrival : Nat} (h : Stays s t) :
    Keeps s (execLinkRetry fe link success latestArrival t) := by
  unfold Machine.execLinkRetry
  split
  · exact .ok h
  · exact .ite (.ok h.goTo.linkUp.linksReinit.linkUpEvent) (.ok h.goTo)

theorem Stays.execRateMismatch {fe : Fe} {_link : Fin 3} (h : Stays s t) : Keeps s (execRateMismatch fe _link t) := .ok h.updFe.raise

theorem Stays.doFeStatus {r : Req} (h : Stays s t) : Stays s (doFeStatus r t).st := .iteRes h h

theorem Stays.execFeStatus {r : Req} (h : Stays s t) : Keeps s (execFeStatus r t) := .ok (h.runOp (fun hu => hu.doFeStatus))

theorem Stays.doRecvRefSet {r : Req} (h : Stays s t) : Stays s (doRecvRefSet r t).st :=
  .iteRes h (.iteRes h (.iteRes h (.iteRes h (.okRes h.updFe))))

theorem Stays.execRecvRefSet {r : Req} (h : Stays s t) : Keeps s (execRecvRefSet r t) := .ok (h.runOp (fun hu => hu.doRecvRefSet))

theorem Stays.doRecvRefGet {r : Req} (h : Stays s t) : Stays s (doRecvRefGet r t).st := .iteRes h (.iteRes h (.iteRes h h))

theorem Stays.execRecvRefGet {r : Req} (h : Stays s t) : Keeps s (execRecvRefGet r t) := .ok (h.runOp (fun hu => hu.doRecvRefGet))

theorem Stays.doRecvStatus {r : Req} (h : Stays s t) : Stays s (doRecvStatus r t).st := .iteRes h (.okRes h.updFe)

theorem Stays.execRecvStatus {r : Req} (h : Stays s t) : Keeps s (execRecvStatus r t) := .ok (h.runOp (fun hu => hu.doRecvStatus))

theorem Stays.doPhaseStatus {r : Req} (h : Stays s t) : Stays s (doPhaseStatus r t).st := .iteRes h (.okRes h.updFe)

theorem Stays.execPhaseStatus {r : Req} (h : Stays s t) : Keeps s (execPhaseStatus r t) := .ok (h.runOp (fun hu => hu.doPhaseStatus))

/-! ## Rings -/

theorem Stays.ringMessage {n : RingId} (h : Stays s t) : Stays s (ringMessage n t) := by
  unfold Machine.ringMessage
  exact h.message.updRing

theorem Stays.ringEvent {n : RingId} (h : Stays s t) : Stays s (ringEvent n t) := by
  unfold Machine.ringEvent
  extract_lets
  split
  · exact .ite h.setSum.updRing h.setSum.ringMessage
  · exact h.setSum.ringMessage

theorem Stays.haltRing {n : RingId} {err : Nat} (h : Stays s t) : Stays s (haltRing n err t) := h.updRing.setSum.ringMessage.raise

theorem Stays.execHoldoffExpiry {ring : RingId} (h : Stays s t) : Keeps s (execHoldoffExpiry ring t) := by
  unfold Machine.execHoldoffExpiry
  split
  · exact .ok h
  · exact .ite (.ok h.goTo.ringMessage) (.ok h.goTo.updRing)

theorem Stays.devWrite {x : Nat} {data : List (Option Byte)} {m : Master} (h : Stays s t) : Stays s (devWrite x data m t) := by
  unfold Machine.devWrite
  split
  · exact h.vatStore
  · exact h.updCore (fun hc => hc.putIm)
  · exact h.updCore (fun hc => hc.putDm)
  · exact h.celStore
  · exact h

theorem Stays.devEcc {x : Nat} {n : Nat} {found : EccRead} (h : Stays s t) : Stays s (devEcc x n found t) := by
  unfold Machine.devEcc
  extract_lets
  split
  · exact h
  · split
    · exact h.put.vatEcc
    · exact h.put.celEcc
    · exact .ite h.put.raise h.put

theorem Stays.itemEcc {cel : Bool} {found : EccRead} (h : Stays s t) : Stays s (itemEcc cel found t) := by
  unfold Machine.itemEcc
  extract_lets
  split
  · exact h
  · exact .ite h.put.celEcc h.put.vatEcc
  · exact .ite h.put.celUncorr h.put.vatUncorr

theorem Stays.execDescriptorFetch {ring : RingId} {descs : List (Vector Word 8)} (h : Stays s t) : Keeps s (execDescriptorFetch ring descs t) :=
  .ite (.ok h) (.ok h.emits.updRing)

theorem Stays.beginItem {n : RingId} {i : Item} (h : Stays s t) : Stays s (beginItem n i t) := h.updRing

theorem Stays.readoutDone {u : Fin 4} (h : Stays s t) : Stays s (readoutDone u t) := by
  unfold Machine.readoutDone
  extract_lets
  split
  · exact h.updHarv.finish
  · exact h.updHarv

theorem Stays.itemEnded {i : Item} (h : Stays s t) : Stays s (itemEnded i t) :=
  .dite (fun _ => h.updStream) (fun _ => .dite (fun _ => .ite h.updHarv.readoutDone h.updHarv) (fun _ => h))

theorem Stays.abandon {i : Item} (h : Stays s t) : Stays s (abandon i t) :=
  .dite (fun _ => .ite h.itemEnded h.itemEnded.dropRec) (fun _ => .ite h.updTherm h.itemEnded)

theorem Stays.hostWords {addr : BitVec 64} {ws : List Word} (h : Stays s t) : Stays s (hostWords addr ws t) := h.emit

theorem Stays.completeDesc {n : RingId} {len : Nat} {eop : Bool} {item : Bool} {err : Nat} (h : Stays s t) :
    Stays s (completeDesc n len eop item err t) :=
  .ite (.ringEvent (.updRing (.ite h.hostWords h.hostWords.hostWords))) (.updRing (.ite h.hostWords h.hostWords.hostWords))

theorem Stays.halfPoint {n : RingId} {whole : Bool} (h : Stays s t) : Stays s (halfPoint n whole t) := by
  unfold Machine.halfPoint
  extract_lets
  split
  · exact h
  · exact .ite (.ite h.updRing h.updRing.updRing.hostWords.ringEvent) h

theorem Stays.payloadWrite {n : RingId} {addr : BitVec 64} {bytes : List Byte} {poison : Bool} (h : Stays s t) :
    Stays s (payloadWrite n addr bytes poison t) := .ite h.emit.emit h.emit

theorem Stays.issueRead {n : RingId} {d : Vector Word 8} {upTo : Nat} (h : Stays s t) : Stays s (issueRead n d upTo t) := .ite h h.emit.updRing

theorem Stays.moved {n : RingId} {k : Nat} {whole : Bool} (h : Stays s t) : Stays s (moved n k whole t) := h.updRing.halfPoint

theorem Stays.itemBurst {n : RingId} {ecc : EccRead} {d : Vector Word 8} (h : Stays s t) : Stays s (itemBurst n ecc d t) := by
  unfold Machine.itemBurst
  extract_lets
  split
  · exact h
  · exact .ite h h.payloadWrite.itemEcc.updRing.moved

theorem Stays.beginQueued {n : RingId} (h : Stays s t) : Stays s (beginQueued n t) := by
  unfold Machine.beginQueued
  split
  · exact h
  · exact .ite h.updRing.beginItem h

theorem Stays.dataStep {n : RingId} {ecc : EccRead} (h : Stays s t) : Stays s (dataStep n ecc t) := by
  unfold Machine.dataStep
  extract_lets
  split
  · exact h
  · split
    · exact h
    · extract_lets
      exact .ite h.haltRing (.ite (.ite h.issueRead h) (.ite
          (.ite (.ite h (.ite h.haltRing h.payloadWrite.devEcc.moved)) (.ite h (.ite h.haltRing h.issueRead))) h.beginQueued.itemBurst))

theorem Stays.execDataBurst {ring : RingId} {ecc : EccRead} (h : Stays s t) : Keeps s (execDataBurst ring ecc t) := .ok h.dataStep

theorem Stays.completionStep {n : RingId} (h : Stays s t) : Stays s (completionStep n t) := by
  unfold Machine.completionStep
  extract_lets
  split
  · exact h
  · split
    · exact h
    · extract_lets
      split
      · exact .ite h (.ite h.updRing.completeDesc h)
      · split
        · exact .ite h.completeDesc h
        · split
          · exact h
          · exact .ite (.ite h.updRing.completeDesc.itemEnded.raise h.updRing.completeDesc.itemEnded) (.ite h.completeDesc h)

theorem Stays.execDescriptorCompletion {ring : RingId} (h : Stays s t) : Keeps s (execDescriptorCompletion ring t) := .ok h.completionStep

theorem Stays.takeReads {n : RingId} {k : Nat} (h : Stays s t) : Stays s (takeReads n k t) := by
  induction k generalizing t with
  | zero => exact h
  | succ k ih =>
    unfold Machine.takeReads
    extract_lets r
    split
    · extract_lets s1
      have hs1 : Stays s s1 := h.updRing
      exact .ite h (.ite (ih hs1.updRing) (ih hs1.devWrite.moved))
    · exact h

theorem Stays.execReadCompletion {ring : RingId} {burst : Nat} {data : List Byte} (h : Stays s t) :
    Keeps s (execReadCompletion ring burst data t) :=
  .ite (.ok h) (.ok h.updRing.takeReads)

theorem Stays.reissue {n : RingId} (h : Stays s t) : Stays s (reissue n t) := by
  unfold Machine.reissue
  split
  · exact h.emit
  · exact h

theorem Stays.execBurstFailure {ring : RingId} {err : Fin 4} (h : Stays s t) : Keeps s (execBurstFailure ring err t) :=
  .ite (.ok h) (.ite (.ok h.updRing.reissue) (.ok h.haltRing))

theorem Stays.resumeRing {n : RingId} (h : Stays s t) : Stays s (resumeRing n t) := .ite h.updRing.reissue h

theorem Stays.execResume {ring : RingId} (h : Stays s t) : Keeps s (execResume ring t) := .ok h.resumeRing

theorem Stays.skipRing {n : RingId} (h : Stays s t) : Stays s (skipRing n t) := by
  unfold Machine.skipRing
  extract_lets r s1
  have hs1 : Stays s s1 := by
    unfold s1
    split
    · exact h.abandon
    · exact h
  exact .ite h hs1.updRing.completeDesc

theorem Stays.execSkip {ring : RingId} (h : Stays s t) : Keeps s (execSkip ring t) := .ok h.skipRing

theorem Stays.offerProd {n : RingId} {v : Word} (h : Stays s t) : Stays s (offerProd n v t) := h.updRing

theorem Stays.execProdWrite {ring : RingId} {value : Word} (h : Stays s t) : Keeps s (execProdWrite ring value t) := .ite (.ok h.offerProd) (.ok h)

theorem Stays.ringBell {n : RingId} {index : Word} (h : Stays s t) : Stays s (ringBell n index t) := .ite h.emit.offerProd h

theorem Stays.beginRecord {n : RingId} {tag : Nat} {src : Nat} {bytes : List Byte} {go : State → State}
    (hgo : ∀ {u : State}, Stays s u → Stays s (go u)) (h : Stays s t) : Stays s (beginRecord n tag src bytes go t) :=
  .ite (hgo h.beginItem.updRing) h

theorem Stays.execStreamRecordDelivery {st : StreamId} (h : Stays s t) : Keeps s (execStreamRecordDelivery st t) := by
  unfold Machine.execStreamRecordDelivery
  refine .ite (.ok h) ?_
  cases t.stream[st].queue with
  | nil => exact .ok h
  | cons r rest => exact .ok (h.beginRecord fun hu => hu.updStream)

theorem Stays.execCaptureRecordDelivery {u : Fin 4} {ecc : List (Nat × EccRead)} (h : Stays s t) : Keeps s (execCaptureRecordDelivery u ecc t) :=
  .ite (.ok h) (.ok (h.beginRecord (fun hu => .foldl (fun hv => hv.celEcc) hu)))

theorem Stays.drainItem {n : RingId} {k : Nat} (h : Stays s t) : Stays s (drainItem n k t) := by
  induction k generalizing t with
  | zero => exact h
  | succ k ih => exact .ite h (ih h.dataStep.completionStep)

theorem Stays.execReplyDelivery {ring : RingId} (h : Stays s t) : Keeps s (execReplyDelivery ring t) := .ok h.beginQueued.drainItem

theorem Stays.execPostDataRead {core : CoreId} {ecc : EccRead} (h : Stays s t) : Keeps s (execPostDataRead core ecc t) := by
  unfold Machine.execPostDataRead
  extract_lets
  split
  · exact .ok h
  · exact .ok (h.beginRecord (fun hu => .ite (hu.updCore (fun hv => hv.claim.put.setIpend)).raise (hu.updCore (fun hv => hv.claim.put.setIpend))))

theorem Stays.dropWaiting {n : RingId} (h : Stays s t) : Stays s (dropWaiting n t) := h.put

theorem Stays.stopRing {n : RingId} (h : Stays s t) : Stays s (stopRing n t) := by
  unfold Machine.stopRing
  extract_lets r begun s1 s2
  have hs1 : Stays s s1 := by
    unfold s1
    split
    · exact h.abandon
    · exact h
  have hs2 : Stays s s2 := .ite hs1.completeDesc hs1
  exact hs2.updRing.closeVia.dropWaiting

theorem Stays.startRing {n : RingId} (h : Stays s t) : Stays s (startRing n t) := h.updRing

theorem Stays.noteLtr {old : Nat} (h : Stays s t) : Stays s (noteLtr old t) := .ite h.emit h

theorem Stays.execRingCommitApply {ring : RingId} (h : Stays s t) : Keeps s (execRingCommitApply ring t) :=
  .ite (.ok (.noteLtr (.localPoint (.ite (.startRing (.ite h.stopRing h)) (.ite h.stopRing h))))) (.ok h)

theorem Stays.dropRing {n : RingId} (h : Stays s t) : Stays s (dropRing n t) := by
  unfold Machine.dropRing
  extract_lets r s1
  have hs1 : Stays s s1 := by
    unfold s1
    split
    · exact .ite h h.abandon
    · exact h
  exact hs1.updRing

/-! ## Commit operations -/

theorem Stays.undoQueued {q : QReq} (h : Stays s t) : Stays s (undoQueued q t) := by
  unfold Machine.undoQueued
  extract_lets
  split
  · exact h.put
  · exact h.put
  · exact h.put
  · exact h.updCore (fun hc => .ite hc.put hc)
  · exact h.unqueueUnit
  · exact h

theorem Stays.denyQueued {q : QReq} (h : Stays s t) : Stays s (denyQueued q t) := h.unqueue.undoQueued.answerQ.raise

theorem Stays.denyOverdue (h : Stays s t) : Stays s (denyOverdue t) := .foldl (fun hu => hu.denyQueued) h

theorem Stays.localNow (h : Stays s t) : Stays s (localNow t) := .refreshIntlk (.ite h.localPoint.denyOverdue h.localPoint)

theorem Stays.applyDue (h : Stays s t) : Stays s (applyDue t) := h.localNow.zoneCommitPoint

theorem Stays.setRail {k : Fin 4} {mv : Nat} (h : Stays s t) : Stays s (setRail k mv t) := .ite h h.updRail.emit

theorem Stays.raiseRail {n : Nat} {k : Fin 4} {want : Nat} (h : Stays s t) : Stays s (raiseRail n k want t) := by
  induction n generalizing t k want with
  | zero => exact h
  | succ n ih =>
    unfold Machine.raiseRail
    extract_lets v s1
    have hs1 : Stays s s1 := .ite h (.foldl (fun hu => .ite (ih hu) hu) h)
    exact .ite hs1 hs1.setRail

theorem Stays.raiseForStart (h : Stays s t) : Stays s (raiseForStart t) := h.put.raiseRail

theorem Stays.schedule {c : Commit} (h : Stays s t) : Stays s (schedule c t) := by
  unfold Machine.schedule
  extract_lets s0 src s1 c' s2 s3
  have hs1 : Stays s s1 := by
    unfold s1
    split
    · exact h.sweepAreas.put
    · exact h.sweepAreas
  have hs3 : Stays s s3 := .ite hs1.put.raiseForStart hs1.put
  exact .foldl (fun hu => hu.rephase) hs3.applyDue

theorem Stays.doCommit {granted : Bool} {r : Req} (h : Stays s t) : Stays s (doCommit granted r t).st := by
  unfold Machine.doCommit
  extract_lets s₀
  have hs₀ : Stays s s₀ := .ite h.put h
  split
  · exact hs₀
  · split
    · exact hs₀
    · split
      · exact hs₀
      · exact hs₀.heavy (fun hu => hu.put) (fun hu => hu.addOp.schedule)

theorem Stays.execCommit {r : Req} (h : Stays s t) : Keeps s (execCommit r t) := .ok (h.runOp (fun hu => hu.doCommit))

theorem Stays.execCommitTimeTargetReached (h : Stays s t) : Keeps s (execCommitTimeTargetReached t) := by
  unfold Machine.execCommitTimeTargetReached
  extract_lets waits
  cases waits with
  | nil => exact .ok h.applyDue
  | cons c l => exact .ok h.goTo.applyDue

/-! ## The host interface -/

theorem vatRegRead_mem (during : Nat) (u : State) (off : Nat) : (vatRegRead during u off).2.mem = u.vat.mem := by
  unfold vatRegRead
  split
  · rfl
  · split <;> rfl

theorem Stays.read32 {wide : Bool} {during off : Nat} (h : Stays s t) : Stays s (read32 wide during t off).2 := by
  unfold Machine.read32
  split
  · exact h
  split
  · exact h
  split
  · exact h.put
  split
  · exact h
  split
  · extract_lets n x
    exact Stays.updRing (n := n) (f := fun _ => x.2) h
  split
  · exact h
  split
  · exact h
  split
  · exact h
  split
  · exact h.withVat fun hv => (congrArg Mem.wf (vatRegRead_mem ..)).trans hv
  · exact h

theorem Stays.barRead {off : Nat} {wide : Bool} {during : Nat} (h : Stays s t) : Stays s (barRead off wide during t) :=
  .ite h (.ite h.emit (.ite h.read32.read32.emit h.read32.emit))

theorem Stays.bar2Read {a : Nat} {len : Nat} {found : EccRead} (h : Stays s t) : Stays s (bar2Read a len found t) := by
  unfold Machine.bar2Read
  extract_lets
  split
  · exact h
  · split
    · exact h.emit
    · exact .ite h.vatEcc.emit.emit h.vatEcc.emit

theorem Stays.execRcRegisterRead {addr : BarAddr} {wide : Bool} {during : Nat} (h : Stays s t) :
    Keeps s (execRcRegisterRead addr wide during t) := by
  unfold Machine.execRcRegisterRead
  split
  · exact .ok h.barRead
  · exact .ok h.bar2Read

theorem Stays.execTimeLatchRead {off : BitVec 12} {wide : Bool} (h : Stays s t) : Keeps s (execTimeLatchRead off wide t) := .ok h.barRead

theorem Stays.updMsix {v : Fin 64} {f : Msix → Msix} (h : Stays s t) : Stays s (updMsix v f t) := h.put

theorem Stays.unmask {v : Fin 64} (h : Stays s t) : Stays s (unmask v t) := .ite h.updMsix.put.emit h.updMsix

theorem Stays.execMsixUnmask {vec : Fin 64} (h : Stays s t) : Keeps s (execMsixUnmask vec t) := .ite (.ok h.unmask) (.ok h)

theorem Stays.heartbeatWrite (h : Stays s t) : Stays s (heartbeatWrite t) := .ite h.put h

theorem Stays.execHeartbeat (h : Stays s t) : Keeps s (execHeartbeat t) := .ite (.ok h.heartbeatWrite) (.ok h)

theorem Stays.msixWrite {o : Nat} {w : Word} (h : Stays s t) : Stays s (msixWrite o w t) := by
  unfold Machine.msixWrite
  extract_lets
  split
  · exact h.updMsix
  · exact h.updMsix
  · exact h.updMsix
  · exact .ite h.updMsix h.unmask

theorem Stays.ringCmd {n : RingId} {w : Word} (h : Stays s t) : Stays s (ringCmd n w t) := .ite h.skipRing (.ite h.resumeRing h)

theorem Stays.hostVerify (h : Stays s t) : Stays s (hostVerify t) := by
  unfold Machine.hostVerify
  extract_lets
  split
  · exact h.put
  · exact h.put

theorem Stays.bellWrite {bits : Word} {indices : Vector Word 32} (h : Stays s t) : Stays s (bellWrite bits indices t) :=
  .ite (.ite h.hostVerify h) (.foldl (fun hu => .ite hu.ringBell hu) h)

theorem Stays.execDoorbell {bits : Word} {indices : Vector Word 32} (h : Stays s t) :
    Keeps s (execDoorbell bits indices t) := .ite (.ok h.bellWrite) (.ok h)

theorem Stays.execHostImageVerify (h : Stays s t) : Keeps s (execHostImageVerify t) := .ite (.ok h.hostVerify) (.ok h)

theorem Stays.write32 {off : Nat} {w : Word} {met : WriteMet} (h : Stays s t) : Stays s (write32 off w met t) := by
  unfold Machine.write32
  extract_lets
  split
  · exact h.bellWrite
  · split
    · exact h.heartbeatWrite
    · split
      · exact h.put
      · split
        · exact h.put
        · split
          · exact h.put
          · split
            · exact h.put
            · split
              · split
                · exact h.offerProd
                · exact h.ringCmd
                · exact h
              · exact .ite h.msixWrite (.ite h.conflClear h)

theorem Stays.execRegisterWrite {off : BitVec 20} {be : BitVec 8} {data : BitVec 64} {wide : Bool} {met : WriteMet} (h : Stays s t) :
    Keeps s (execRegisterWrite off be data wide met t) :=
  .ite (.ok h) (.ite (.ok h.emit) (.ite (.ok h) (.ite (.ok h.emit) (.ok (.ite (.write32 (.ite h.write32 h)) (.ite h.write32 h))))))

theorem Stays.bar2Store {a : Nat} {data : List (Option Byte)} (h : Stays s t) : Stays s (bar2Store a data t) :=
  .ite h.vatStore (.ite h (.ite h.vatStore (.ite h.vatStore (.ite
      (.ite (.ite (h.endCoreTest.updCore (fun hc => hc.putIm)) h.endCoreTest)
      (.ite (h.endCoreTest.updCore (fun hc => hc.putDm)) h.endCoreTest)) h))))

theorem Stays.execBar2Write {addr : BitVec 28} {data : List (Option Byte)} {badTlp : Bool} (h : Stays s t) :
    Keeps s (execBar2Write addr data badTlp t) :=
  .ite (.ok h) (.ite (.ok h.emit) (.ite (.ok h) (.ok h.bar2Store)))

theorem Stays.flr (h : Stays s t) : Stays s (flr t) := (Stays.foldl (fun hu => hu.dropRing.closeVia.dropWaiting) h.put).put.localNow.noteLtr

theorem Stays.execD3hotEntry (h : Stays s t) : Keeps s (execD3hotEntry t) := .ite (.ok h.put) (.ok h)

theorem Stays.execD0Resume (h : Stays s t) : Keeps s (execD0Resume t) := .ok h.put

theorem Stays.execAspmL1Request (h : Stays s t) : Keeps s (execAspmL1Request t) := .ite (.ok h.emit) (.ok h)

theorem Stays.pcieUp (h : Stays s t) : Stays s (pcieUp t) := .ite h.put.pin h.put

theorem Stays.execPerstNAssert (h : Stays s t) : Keeps s (execPerstNAssert t) := .ok (Stays.ite h.flr h).put

theorem Stays.execPerstNRelease (h : Stays s t) : Keeps s (execPerstNRelease t) := .ite (.ok h.put.pcieUp) (.ok h.put)

theorem Stays.execPacketIn {bytes : List Byte} {pecOk : Bool} (h : Stays s t) : Keeps s (execPacketIn bytes pecOk t) :=
  .ite (.ok h.emit) (.ite (.ok h.put.emit) (.ite (.ok h.emit) (.ite (.ok h.arrive) (.ok h.put))))

theorem Stays.readPacket {via : Transport} {buf : List Byte} (h : Stays s t) : Stays s (readPacket via buf t) := by
  unfold Machine.readPacket
  split
  · exact .ite h.arrive h
  · exact h.arrive

theorem Stays.drainHeld (h : Stays s t) : Stays s (drainHeld t) := .foldl (fun hu => hu.readPacket) h.put.releaseSmb

theorem Stays.execPacketOut (h : Stays s t) : Keeps s (execPacketOut t) := by
  unfold Machine.execPacketOut
  extract_lets
  split
  · exact .ok h.emit
  · split
    · exact .ok h.emit
    · exact .ok (.ite h.put.emit.pin h.put.emit)

theorem Stays.execLinkStatus (h : Stays s t) : Keeps s (execLinkStatus t) := .ite (.ok h.emit) (.ok h.put.emit)

theorem Stays.execSmbusAlertResponse (h : Stays s t) : Keeps s (execSmbusAlertResponse t) := .ite (.ok h.emit) (.ok h.emit)

theorem Stays.execCommandPacketArrival {via : Transport} {buf : List Byte} (h : Stays s t) : Keeps s (execCommandPacketArrival via buf t) := by
  unfold Machine.execCommandPacketArrival
  extract_lets
  split
  · split
    · exact .ok h.readPacket
    · exact .ok h.put.readPacket
  · split
    · exact .ite (.ok h.put) (.ok h)
    · exact .ok h

theorem Stays.execHello {r0 : Req} (h : Stays s t) : Keeps s (execHello r0 t) :=
  .ite (.ok (.doHello (.take (.ite h.settleUnknown h.settleUnknown.acceptReq)))) (.ok (.ite h.settleUnknown h.settleUnknown.acceptReq))

theorem Stays.execInfo {r : Req} (h : Stays s t) : Keeps s (execInfo r t) := .ok (h.runOp (fun hu => hu.doInfo))

theorem Stays.execEcho {r : Req} (h : Stays s t) : Keeps s (execEcho r t) := .ok (h.runOp (fun hu => hu.doEcho))

theorem Stays.execBye {r : Req} (h : Stays s t) : Keeps s (execBye r t) := .ok (.ite (h.runOp (fun hu => hu)).closeSession (h.runOp (fun hu => hu)))

theorem Stays.execSetParam {r : Req} (h : Stays s t) : Keeps s (execSetParam r t) := .ok (h.runOp (fun hu => hu.doSetParam))

theorem Stays.execGetParam {r : Req} (h : Stays s t) : Keeps s (execGetParam r t) := .ok (h.runOp (fun hu => hu.doGetParam))

theorem Stays.execDefaults {r : Req} (h : Stays s t) : Keeps s (execDefaults r t) := .ok (h.runOp (fun hu => hu.doDefaults))

/-! ## Peer lanes -/

theorem Stays.disarmCommit {a : Armed} (h : Stays s t) : Stays s (disarmCommit a t) := by
  unfold Machine.disarmCommit
  extract_lets
  split
  · exact h.put.release.finish
  · exact h.put.release

theorem Stays.scheduleShared {x : Shared} (h : Stays s t) : Stays s (scheduleShared x t) := by
  unfold Machine.scheduleShared
  extract_lets
  split
  · exact h
  · exact h.put.schedule

theorem Stays.negotiate {l : Fin 4} {major : Byte} {minor : Byte} {num : Fin 4} {up : Bool} (h : Stays s t) :
    Stays s (negotiate l major minor num up t) := by
  unfold Machine.negotiate
  exact h.updLane

theorem Stays.execPeerLaneUp {lane : Fin 4} {farMajor : Byte} {farMinor : Byte} {farNum : Fin 4} (h : Stays s t) :
    Keeps s (execPeerLaneUp lane farMajor farMinor farNum t) :=
  .ite (.ok (.raise (.negotiate (.ite h h.sendFrame)))) (.ok h)

theorem Stays.laneDown {lane : Fin 4} (h : Stays s t) : Stays s (laneDown lane t) := by
  unfold Machine.laneDown
  split
  · exact h
  · exact h
  · exact h.laneTurns

theorem Stays.execPeerLaneSilence {lane : Fin 4} (h : Stays s t) : Keeps s (execPeerLaneSilence lane t) := .ok h.laneDown

theorem Stays.execPeerLaneLockLoss {lane : Fin 4} (h : Stays s t) : Keeps s (execPeerLaneLockLoss lane t) := .ok h.laneDown

theorem Stays.execPeerFrameCrcError {lane : Fin 4} (h : Stays s t) : Keeps s (execPeerFrameCrcError lane t) := .ok (.ite h h.updLane)

theorem Stays.rxFrame {f : Sys2Proof.Frame} {carries : LaneState → Bool} {act : State → State} (hact : ∀ {u : State}, Stays s u → Stays s (act u))
    (h : Stays s t) : Stays s (rxFrame f carries act t) :=
  .ite h.goTo (hact h.goTo.updLane)

theorem Stays.execIdle {f : Sys2Proof.Frame} (h : Stays s t) : Keeps s (execIdle f t) := .ok (h.rxFrame (fun hu => hu))

theorem Stays.execLinkHello {f : Sys2Proof.Frame} (h : Stays s t) : Keeps s (execLinkHello f t) :=
  .ok (h.rxFrame (fun hu => .negotiate (.ite hu.updLane.sendFrame hu)))

theorem Stays.execSyncReq {f : Sys2Proof.Frame} (h : Stays s t) : Keeps s (execSyncReq f t) := .ok (h.rxFrame (fun hu => .ite hu hu.sendFrame))

theorem Stays.peerSync {off : BitVec 96} (h : Stays s t) : Stays s (peerSync off t) := .ite h.put.stepTime.put h.put.slew.put

theorem Stays.execSyncResp {f : Sys2Proof.Frame} (h : Stays s t) : Keeps s (execSyncResp f t) :=
  .ok (h.rxFrame (fun hu => .ite (.ite hu.adoptTime hu.adoptTime.peerSync) hu))

theorem Stays.execSyncReqTimer (h : Stays s t) : Keeps s (execSyncReqTimer t) := .ite (.ok (.foldl (fun hu => .ite hu.sendFrame hu) h)) (.ok h)

theorem Stays.execZoneEvent {f : Sys2Proof.Frame} (h : Stays s t) : Keeps s (execZoneEvent f t) :=
  .ok (h.rxFrame (fun hu => .ite (.ite (Stays.ite hu.seqEvent hu).put (.ite hu.seqEvent hu)) hu))

theorem Stays.execPrepare {f : Sys2Proof.Frame} (h : Stays s t) : Keeps s (execPrepare f t) := by
  unfold Machine.execPrepare
  extract_lets
  refine .ok ?_
  extract_lets
  refine .rxFrame (fun hu => ?_) h
  extract_lets
  split
  · exact hu.sendCtl
  · exact hu.put.schedule.sendCtl

theorem Stays.peerAnswer {f : Sys2Proof.Frame} {st : Byte} (h : Stays s t) : Stays s (peerAnswer f st t) := by
  unfold Machine.peerAnswer
  extract_lets
  split
  · exact h
  · exact .ite h.put.scheduleShared h.put

theorem Stays.execAccept {f : Sys2Proof.Frame} (h : Stays s t) : Keeps s (execAccept f t) := .ok (h.rxFrame (fun hu => hu.peerAnswer))

theorem Stays.execRefuse {f : Sys2Proof.Frame} (h : Stays s t) : Keeps s (execRefuse f t) := .ok (h.rxFrame (fun hu => hu.peerAnswer))

theorem Stays.execWithdraw {f : Sys2Proof.Frame} (h : Stays s t) : Keeps s (execWithdraw f t) :=
  .ok (h.rxFrame (fun hu => .foldl (fun hv => hv.withdrawArmed) hu))

theorem Stays.execSharedAcceptTimeout (h : Stays s t) : Keeps s (execSharedAcceptTimeout t) := by
  unfold Machine.execSharedAcceptTimeout
  split
  · exact .ok h
  · exact .ok h.goTo.withdrawShared

theorem Stays.execSharedCompletionPoint (h : Stays s t) : Keeps s (execSharedCompletionPoint t) := by
  unfold Machine.execSharedCompletionPoint
  extract_lets ts
  cases ts with
  | nil => exact .ok h
  | cons x l => exact .ok h.goTo.put

theorem Stays.doPeerStatus {x : Req} (h : Stays s t) : Stays s (doPeerStatus x t).st := h

theorem Stays.execPeerStatus {r : Req} (h : Stays s t) : Keeps s (execPeerStatus r t) := .ok (h.runOp (fun hu => hu.doPeerStatus))

theorem Stays.doCommitArm {granted : Bool} {r : Req} (h : Stays s t) : Stays s (doCommitArm granted r t).st := by
  unfold Machine.doCommitArm
  extract_lets w0 doms old drop mw
  have hdrop {u : State} (hu : Stays s u) : Stays s (drop u) := by
    change Stays s (match old with | some a => Machine.disarmCommit a u | none => u)
    cases old with
    | none => exact hu
    | some a => exact hu.disarmCommit
  refine .iteRes h (.iteRes (hdrop h) ?_)
  split
  · exact h
  · exact h.heavy (fun hu => hu) fun hu => (hdrop hu).addOp.put

theorem Stays.execCommitArm {r : Req} (h : Stays s t) : Keeps s (execCommitArm r t) := .ok (h.runOp (fun hu => hu.doCommitArm))

theorem Stays.doCommitShared {granted : Bool} {r : Req} (h : Stays s t) : Stays s (doCommitShared granted r t).st := by
  unfold Machine.doCommitShared
  extract_lets s₀ w0 doms lead mw tag
  have hs₀ : Stays s s₀ := .ite h.put h
  refine .iteRes hs₀ (.iteRes hs₀ (.iteRes hs₀ ?_))
  split
  · exact hs₀
  · refine hs₀.heavy (fun hu => hu.put) fun hu => ?_
    extract_lets at' c₀ c x s1 p s2 s3
    have hs2 : Stays s s2 := Stays.put (t := s1) hu.addOp
    have hs3 : Stays s s3 := .foldl (fun hv => by split; exacts [hv.sendCtl, hv]) hs2
    exact .ite hs3.scheduleShared hs3

theorem Stays.execCommitShared {r : Req} (h : Stays s t) : Keeps s (execCommitShared r t) := .ok (h.runOp (fun hu => hu.doCommitShared))

theorem Stays.doCommitAbort {r : Req} (h : Stays s t) : Stays s (doCommitAbort r t).st := by
  unfold Machine.doCommitAbort
  extract_lets q src done
  have hdone : Stays s done.st := .iteRes h h
  split
  · exact h.put.answer
  · split
    · exact .iteRes h.unqueue.answerQ.undoQueued hdone
    · split
      · exact .iteRes h h.withdrawShared
      · split
        · split
          · exact h.disarmCommit
          · exact .iteRes h h.withdrawArmed
        · split
          · exact .iteRes h h.withdraw
          · split
            · exact h.put.finish
            · exact hdone

theorem Stays.execCommitAbort {r : Req} (h : Stays s t) : Keeps s (execCommitAbort r t) := .ok (h.runOp (fun hu => hu.doCommitAbort))

/-! ## Reinitialisation -/

theorem Stays.countL2 (h : Stays s t) : Stays s (countL2 t) := h.put

theorem Stays.reinitEngine {f : Fe} (h : Stays s t) : Stays s (reinitEngine f t) := h.updFe.countL2

theorem Stays.reinitCore {n : CoreId} (h : Stays s t) : Stays s (reinitCore n t) := by
  unfold Machine.reinitCore
  extract_lets
  split
  · exact (h.updCore (fun hc => hc.put.stopPoint)).coreEnded
  · exact (h.updCore (fun hc => hc.put.stopPoint)).coreEnded
  · exact (h.stopCore.updCore (fun hc => hc.startCore.put)).reinitDone

theorem Stays.reinitRing {n : RingId} (h : Stays s t) : Stays s (reinitRing n t) := .ite h.stopRing.startRing h

theorem Stays.doFuncReinit {r : Req} (h : Stays s t) : Stays s (doFuncReinit r t).st := by
  unfold Machine.doFuncReinit
  extract_lets
  exact .iteRes h (.iteRes h (.iteRes h.addOp.reinitEngine (.iteRes h.addOp.countL2.reinitCore
      (.iteRes h.countL2.reinitRing h.addOp.countL2.reinitLinks.linksReinit))))

theorem Stays.execFuncReinit {r : Req} (h : Stays s t) : Keeps s (execFuncReinit r t) := .ok (h.runOp (fun hu => hu.doFuncReinit))

theorem Stays.forceCore {n : CoreId} (h : Stays s t) : Stays s (forceCore n t) := (h.updCore (fun hc => hc.landAll.put)).coreEnded

/-! ## Taster -/

theorem Stays.startTaster {t' : Fin 6} {inst : Nat} {cmd : Option (BitVec 8 × Word)} (h : Stays s t) : Stays s (startTaster t' inst cmd t) := by
  unfold Machine.startTaster
  extract_lets
  split
  · exact h.put
  · exact h.put

theorem Stays.execTasterScheduledRun {test : Fin 6} {inst : Nat} (h : Stays s t) : Keeps s (execTasterScheduledRun test inst t) :=
  .ite (.ok h) (.ite (.ok h.goTo.put) (.ite (.ok h.goTo.put.put) (.ok h.goTo.put.setGrant.startTaster.raise)))

theorem Stays.spareVat {inst : Nat} (h : Stays s t) : Stays s (spareVat inst t) := by
  unfold Machine.spareVat
  extract_lets gone
  have hgone {u : State} (hu : Stays s u) : Stays s (gone u) := .ite hu.raise hu
  refine .ite (hgone h.put) ?_
  split
  · exact h
  · exact hgone h.put

theorem Stays.execTasterRunEnd {pass : Bool} {measure : BitVec 16} (h : Stays s t) : Keeps s (execTasterRunEnd pass measure t) := by
  unfold Machine.execTasterRunEnd
  extract_lets
  split
  · exact .ok h
  · extract_lets t₀ s1 src s3 s2
    have hs1 : Stays s s1 := by
      unfold s1
      refine .release ?_
      split
      · exact h.put
      · exact h.put
    have hs2 : Stays s s2 := .ite hs1 (.ite hs1.put.raise.spareVat (.ite hs1.put.raise.reinitEngine hs1.put.raise))
    split
    · exact .ite (.ok hs2.finish) (.ok hs2)
    · exact .ok hs2

theorem Stays.doTasterRun {granted : Bool} {r : Req} (h : Stays s t) : Stays s (doTasterRun granted r t).st :=
  .iteRes h (.diteRes (fun _ => .iteRes h (.iteRes h (h.heavy (fun hu => hu) (fun hu => hu.addOp.startTaster)))) (fun _ => h))

theorem Stays.execTasterRun {r : Req} (h : Stays s t) : Keeps s (execTasterRun r t) := .ok (h.runOp (fun hu => hu.doTasterRun))

theorem Stays.doTasterStatus {x : Req} (h : Stays s t) : Stays s (doTasterStatus x t).st := h.put

theorem Stays.execTasterStatus {r : Req} (h : Stays s t) : Keeps s (execTasterStatus r t) := .ok (h.runOp (fun hu => hu.doTasterStatus))

theorem Stays.doTasterAbort {r : Req} (h : Stays s t) : Stays s (doTasterAbort r t).st := by
  unfold Machine.doTasterAbort
  extract_lets q unknown
  have hunknown : Stays s unknown.st := .iteRes h h
  split
  · exact .iteRes h.unqueue.answerQ h
  · split
    · split
      · exact h.stopTaster
      · exact h
    · exact hunknown

theorem Stays.execTasterAbort {r : Req} (h : Stays s t) : Keeps s (execTasterAbort r t) := .ok (h.runOp (fun hu => hu.doTasterAbort))

/-! ## Vintage -/

theorem Stays.execVintageRecompute {raw : Vector Int 16} (h : Stays s t) : Keeps s (execVintageRecompute raw t) := by
  unfold Machine.execVintageRecompute
  extract_lets
  split
  · exact .ok (.ite h.goTo.localPoint.put.trimPoint.raise h.goTo.localPoint.put.trimPoint)

theorem Stays.doCalTiu {r : Req} (h : Stays s t) : Stays s (doCalTiu r t).st := .iteRes h (.iteRes h (.iteRes h (.iteRes h h.endTiuCheck.addOp)))

theorem Stays.execCalTiu {r : Req} (h : Stays s t) : Keeps s (execCalTiu r t) := .ok (h.runOp (fun hu => hu.doCalTiu))

theorem Stays.doCalAux {r : Req} (h : Stays s t) : Stays s (doCalAux r t).st := by
  unfold Machine.doCalAux
  extract_lets
  split
  · exact h
  · exact .iteRes h (.iteRes h h.startAuxCal)

theorem Stays.execCalAux {r : Req} (h : Stays s t) : Keeps s (execCalAux r t) := .ok (h.runOp (fun hu => hu.doCalAux))

theorem Stays.doCalDie {r : Req} (h : Stays s t) : Stays s (doCalDie r t).st := .iteRes h (.iteRes h (.iteRes h (.iteRes h h.addOp)))

theorem Stays.execCalDie {r : Req} (h : Stays s t) : Keeps s (execCalDie r t) := .ok (h.runOp (fun hu => hu.doCalDie))

theorem Stays.writeTrims {mode : Bool} {l : List (Trim × Int × Int)} {u : State} (h : Stays s t) (hu : writeTrims mode t l = some u) :
    Stays s u := by
  unfold Machine.writeTrims at hu
  split at hu
  · obtain rfl := Option.some.inj hu
    exact h.put
  · exact absurd hu nofun

theorem Stays.execCalComplete {m : CalMeasure} (h : Stays s t) : Keeps s (execCalComplete m t) := by
  unfold Machine.execCalComplete
  split
  · exact .ok h
  · split
    · extract_lets mode l
      split
      · exact .ok h.finish.raise.refreshIntlk
      · next s1 hs1 =>
        have h1 : Stays s s1 := Stays.writeTrims (t := { t with free := t.free + 1 }) h.put hs1
        exact .ok (Stays.finish (.ite h1.updAux h1)).refreshIntlk
    · exact .ok h

theorem Stays.execCalDieTimeout (h : Stays s t) : Keeps s (execCalDieTimeout t) := by
  unfold Machine.execCalDieTimeout
  split
  · exact .ok h
  · exact .ok h.goTo.finish

theorem Stays.doVintageStore {r : Req} (h : Stays s t) : Stays s (doVintageStore r t).st := .iteRes h (.iteRes h h.addOp)

theorem Stays.execVintageStore {r : Req} (h : Stays s t) : Keeps s (execVintageStore r t) := .ok (h.runOp (fun hu => hu.doVintageStore))

theorem Stays.execVintageStoreComplete {verified : Bool} (h : Stays s t) : Keeps s (execVintageStoreComplete verified t) := by
  unfold Machine.execVintageStoreComplete
  extract_lets
  split
  · exact .ok h
  · split
    · exact .ite (.ok h.put.finish) (.ok h.finish.raise)
    · exact .ok h

theorem Stays.doVintageStatus {x : Req} (h : Stays s t) : Stays s (doVintageStatus x t).st := h

theorem Stays.execVintageStatus {r : Req} (h : Stays s t) : Keeps s (execVintageStatus r t) := .ok (h.runOp (fun hu => hu.doVintageStatus))

theorem Stays.doVintageRead {r : Req} (h : Stays s t) : Stays s (doVintageRead r t).st := .iteRes h (.iteRes h (.iteRes h h))

theorem Stays.execVintageRead {r : Req} (h : Stays s t) : Keeps s (execVintageRead r t) := .ok (h.runOp (fun hu => hu.doVintageRead))

theorem Stays.execCalAbort {r : Req} (h : Stays s t) : Keeps s (execCalAbort r t) :=
  .ok (h.runOp (fun hu => hu.abortOp (fun hv => hv.refreshIntlk)))

/-! ## Life cycle -/

theorem Stays.pinsLow (h : Stays s t) : Stays s (pinsLow t) :=
  .ite (.pin (.ite h.emits.emits.emits h.emits.emits.emits.pin)) (.ite h.emits.emits.emits h.emits.emits.emits.pin)

theorem triedFails_data (x : FlashSlot) : (triedFails x).data = x.data := by
  unfold triedFails
  split <;> rfl

/-- What `tryBoot` goes on with once it has looked for an image in a slot. -/
def afterTry (mfg first : Bool) (l : Life) (k : Fin 2) (r : List (Fin 2)) : Option Image → Life
  | some i =>
    { l with
      slots := l.slots.set k (if l.slots[k].st = .trial then { l.slots[k] with st := .trialTried } else l.slots[k])
      running := some (i, ⟨k.val, by omega⟩), fallback := !first }
  | none => Machine.tryBoot mfg r false { l with slots := l.slots.set k { l.slots[k] with st := .failed } }

theorem tryBoot_cons (mfg first : Bool) (l : Life) (k : Fin 2) (r : List (Fin 2)) :
    tryBoot mfg (k :: r) first l = afterTry mfg first l k r (validImage l mfg l.slots[k].data slotBytes) := (rfl)

theorem SlotsOk.tryBoot {mfg : Bool} {ks : List (Fin 2)} {first : Bool} {l : Life} (h : SlotsOk l.slots) :
    SlotsOk (tryBoot mfg ks first l).slots := by
  induction ks generalizing first l with
  | nil => exact h
  | cons k r ih =>
    rw [tryBoot_cons]
    cases validImage l mfg l.slots[k].data slotBytes with
    | none => exact ih (h.set k (h k))
    | some i =>
      refine SlotsOk.set (v := l.slots) h k ?_
      split
      · exact h k
      · exact h k

theorem SlotsOk.flashBoot {mfg : Bool} {l : Life} (h : SlotsOk l.slots) : SlotsOk (flashBoot mfg l).slots :=
  .tryBoot fun k => by
    have hk : (l.slots.map triedFails)[k].data = l.slots[k].data :=
      (congrArg FlashSlot.data (Vector.getElem_map ..)).trans (triedFails_data _)
    exact (congrArg Mem.wf hk).trans (h k)

theorem SlotsOk.setSlot {src : Fin 3} {st : SlotState} {l : Life} (h : SlotsOk l.slots) : SlotsOk (setSlot src st l).slots := by
  unfold Machine.setSlot
  split
  · next hs => exact h.set ⟨src.val, hs⟩ (h ⟨src.val, hs⟩)
  · exact h

/-- A state made afresh, with the flash slots and the Cellar of another. -/
theorem Stays.ofReset {u : State} (h : Stays s t) (hp : u.pending = t.pending) (hv : u.vat.mem = [])
    (hc : t.cellar.mem.wf = true → u.cellar.mem.wf = true) (hk : u.core = ({} : State).core) (hl : u.life.slots = t.life.slots) : Stays s u where
  pending := hp.trans h.pending
  mems hs := by
    refine ⟨hv ▸ rfl, hc (h.mems hs).cellar, fun n => ?_, hl ▸ (h.mems hs).slots⟩
    have hn : ({} : State).core[n] = {} := Vector.getElem_replicate n.isLt
    rw [hk, hn]
    exact ⟨rfl, rfl⟩

theorem Stays.coldState (h : Stays s t) : Stays s (coldState t) := h.ofReset rfl rfl (fun _ => rfl) rfl rfl

theorem SlotsOk.ite {c : Prop} [Decidable c] {l l' : Life} (h : SlotsOk l.slots) (h' : SlotsOk l'.slots) : SlotsOk (if c then l else l').slots := by
  split
  · exact h
  · exact h'

theorem Stays.bootRom (h : Stays s t) : Stays s (bootRom t) :=
  .ite h (.ite h.put ⟨h.pending, fun hs =>
    ⟨(h.mems hs).vat, (h.mems hs).cellar, (h.mems hs).core, SlotsOk.ite (h.mems hs).slots (SlotsOk.flashBoot (h.mems hs).slots)⟩⟩)

theorem Stays.linkAfterReset (h : Stays s t) : Stays s (linkAfterReset t) := .ite h h.pcieUp

theorem Stays.execPowerOn {st : Straps} (h : Stays s t) : Keeps s (execPowerOn st t) := .ite (.ok h) (.ok h.put.coldState.put)

theorem Stays.execResetNAssert (h : Stays s t) : Keeps s (execResetNAssert t) := .ite (.ok h.pinsLow.coldState.put) (.ok h)

theorem Stays.execResetNRelease {st : Straps} (h : Stays s t) : Keeps s (execResetNRelease st t) :=
  .ite (.ok h.coldState.put.bootRom.linkAfterReset) (.ok h)

theorem Stays.execFirmwareStart {e : StartEnv} (h : Stays s t) : Keeps s (execFirmwareStart e t) := .ite (.ok h.setShad.setAct.put) (.ok h)

theorem Stays.trainStart (h : Stays s t) : Stays s (trainStart t) :=
  .foldl (fun hu => .ite (.ite hu hu.trainPoint) (.foldl (fun hv => hv.trainPoint) hu)) h.put

theorem Stays.execReadyReached {selfcalFailed : Bool} (h : Stays s t) : Keeps s (execReadyReached selfcalFailed t) :=
  .ite (.ok (.ite h.trainStart.put.raise h.trainStart.put)) (.ok h)

theorem Stays.doLcStatus {x : Req} (h : Stays s t) : Stays s (doLcStatus x t).st := by
  unfold Machine.doLcStatus
  extract_lets
  split
  · exact h

theorem Stays.execLcStatus {r : Req} (h : Stays s t) : Keeps s (execLcStatus r t) := .ok (h.runOp (fun hu => hu.doLcStatus))

theorem Stays.requestL3 {cause : Nat} {keep : Bool} (h : Stays s t) : Stays s (requestL3 cause keep t) := .ite h h.put

theorem Stays.requestL4 (h : Stays s t) : Stays s (requestL4 t) := .ite h.put h.put.pin

theorem Stays.escalate {auto : Bool} (h : Stays s t) : Stays s (escalate auto t) := .ite h.requestL4 h.put

theorem Stays.warmState {keep : Bool} (h : Stays s t) : Stays s (warmState keep t) := by
  unfold Machine.warmState
  cases keep with
  | false => exact h.ofReset rfl rfl (fun _ => rfl) rfl rfl
  | true => exact h.ofReset rfl rfl id rfl rfl

theorem Stays.execWarmReset (h : Stays s t) : Keeps s (execWarmReset t) := by
  unfold Machine.execWarmReset
  split
  · exact .ok h
  · exact .ite (.ok h.goTo.put.escalate) (.ok h.goTo.put.pinsLow.warmState.put.bootRom)

theorem Stays.execL3NotReady (h : Stays s t) : Keeps s (execL3NotReady t) := by
  unfold Machine.execL3NotReady
  split
  · exact .ite (.ok h.goTo.escalate) (.ok h)
  · exact .ok h

theorem Stays.doDevReset {r : Req} (h : Stays s t) : Stays s (doDevReset r t).st := .iteRes h h.requestL3

theorem Stays.execDevReset {r : Req} (h : Stays s t) : Keeps s (execDevReset r t) := .ok (h.runOp (fun hu => hu.doDevReset))

theorem Stays.doPowerCycleReq {x : Req} (h : Stays s t) : Stays s (doPowerCycleReq x t).st := h.put

theorem Stays.execPowerCycleReq {r : Req} (h : Stays s t) : Keeps s (execPowerCycleReq r t) := .ok (h.runOp (fun hu => hu.doPowerCycleReq))

theorem Stays.cycleDue (h : Stays s t) : Stays s (cycleDue t) := by
  unfold Machine.cycleDue
  split
  · exact .ite h.requestL4 h
  · exact h

theorem Stays.execHeartbeatTimeout (h : Stays s t) : Keeps s (execHeartbeatTimeout t) := by
  unfold Machine.execHeartbeatTimeout
  extract_lets
  split
  · exact .ok h
  · exact .ite (.ok h) (.ok (.ite h.goTo.put.requestL3 (.ite h.goTo.put.requestL4 h.goTo.put.raise)))

theorem Stays.restartCp (h : Stays s t) : Stays s (restartCp t) := h.put.countL2

theorem Stays.trialFailed (h : Stays s t) : Stays s (trialFailed t) := by
  have hset {src : Fin 3} : SlotsOk t.life.slots → SlotsOk (setSlot src .failed t.life).slots := fun hl => SlotsOk.setSlot hl
  unfold Machine.trialFailed
  split
  · extract_lets l s1
    have hs1 : Stays s s1 := .restartCp (h.withLife hset)
    split
    · exact hs1.finish
    · exact hs1
  · exact .restartCp (h.withLife hset)
  · exact h

theorem Stays.execFwTrialFail (h : Stays s t) : Keeps s (execFwTrialFail t) := by
  unfold Machine.execFwTrialFail
  split
  · exact .ite (.ok h.goTo.trialFailed) (.ok h)
  · exact .ite (.ok h.trialFailed) (.ok h)

theorem Stays.execWatchdogBite {t' : Nat} (h : Stays s t) : Keeps s (execWatchdogBite t' t) :=
  .ite (.ok h) (.ite (.ok h.goTo.raise.put.trialFailed) (.ite (.ok h.goTo.raise.put.requestL3.put) (.ok h.goTo.raise.put.restartCp)))

theorem Stays.execCpRestartComplete (h : Stays s t) : Keeps s (execCpRestartComplete t) := by
  unfold Machine.execCpRestartComplete
  extract_lets l live s1 s2
  have hs2 : Stays s s2 := by
    unfold s2
    split
    · exact h.put.finish
    · exact h.put
  exact .ite (.ok hs2.drainHeld) (.ok h)

theorem Stays.execCpRestartTimeout (h : Stays s t) : Keeps s (execCpRestartTimeout t) := by
  unfold Machine.execCpRestartTimeout
  split
  · exact .ite (.ok h.goTo.requestL3.put) (.ok h)
  · exact .ok h

theorem Stays.updSlot {k : Fin 2} {f : FlashSlot → FlashSlot} (h : Stays s t)
    (hf : ∀ x, x.data.wf = true → (f x).data.wf = true := by exact fun _ h => h) :
    Stays s (Machine.updSlot k f t) := by
  refine h.withLife fun hl => ?_
  exact hl.set k (hf _ (hl k))

theorem Stays.doFwWrite {r : Req} (h : Stays s t) : Stays s (doFwWrite r t).st := .iteRes h (.iteRes h (.addOp (.ite h.updSlot h)))

theorem Stays.execFwWrite {r : Req} (h : Stays s t) : Keeps s (execFwWrite r t) := .ok (h.runOp (fun hu => hu.doFwWrite))

theorem Stays.execFwWriteComplete {verified : Bool} (h : Stays s t) : Keeps s (execFwWriteComplete verified t) := by
  unfold Machine.execFwWriteComplete
  split
  · exact .ok h
  · split
    · refine .ite (.ok ?_) (.ok ?_)
      · exact (h.updSlot fun _ hx => Mem.writeN_wf _ _ hx).finish
      · exact (Stays.updSlot h.put fun _ hx => Mem.writeN_wf _ _ hx).finish.raise
    · exact .ok h

theorem Stays.doFwActivate {r : Req} (h : Stays s t) : Stays s (doFwActivate r t).st := by
  unfold Machine.doFwActivate
  extract_lets k src m s1 mfg
  have hs1 : Stays s s1 := h.updSlot
  refine .iteRes h (.iteRes h (.iteRes hs1 ?_))
  cases imageAt t.life mfg m slotBytes with
  | none => exact h
  | some i => exact .iteRes h (.iteRes h (Stays.put h.updSlot).addOp.restartCp)

theorem Stays.execFwActivate {r : Req} (h : Stays s t) : Keeps s (execFwActivate r t) := .ok (h.runOp (fun hu => hu.doFwActivate))

theorem Stays.doFwConfirm {r : Req} (h : Stays s t) : Stays s (doFwConfirm r t).st := by
  unfold Machine.doFwConfirm
  split
  · exact h
  · next i src hrun =>
    refine h.withLife fun hl => ?_
    by_cases hsrc : src.val < 2
    · simp only [hsrc, dif_pos]
      exact hl.set ⟨src.val, hsrc⟩ (hl ⟨src.val, hsrc⟩)
    · simp only [hsrc, dif_neg, not_false_eq_true]
      exact hl

theorem Stays.execFwConfirm {r : Req} (h : Stays s t) : Keeps s (execFwConfirm r t) := .ok (h.runOp (fun hu => hu.doFwConfirm))

theorem Stays.execThermtrip (h : Stays s t) : Keeps s (execThermtrip t) := by
  unfold Machine.execThermtrip
  refine .ite (.ok h) ?_
  extract_lets high u p l s1
  have hu : Stays s u := h.lanesDown
  clear_value u
  have hs1 : Stays s s1 := hu.put
  exact .ok (Stays.refreshIntlk (.refreshPins (.emits (.pin hs1))))

theorem Stays.execPowerDown (h : Stays s t) : Keeps s (execPowerDown t) := by
  unfold Machine.execPowerDown
  refine .ok ?_
  exact h.ofReset (Stays.refl t).pinsLow.pending rfl (fun _ => rfl) rfl rfl

/-! ## Power -/

theorem Stays.lowerRail {k : Fin 4} (h : Stays s t) : Stays s (lowerRail k t) := .ite h.setRail h

theorem Stays.sampleRail {k : Fin 4} (h : Stays s t) : Stays s (sampleRail k t) :=
  .ite h.updRail (.ite h.updRail.raiseRail (.ite h.updRail.lowerRail (.ite h.updRail.raiseRail (.ite h.updRail.lowerRail h.updRail))))

theorem Stays.execMarginSample {m : MarginSample} (h : Stays s t) : Keeps s (execMarginSample m t) :=
  .ite (.ok h) (.ok (.foldl (fun hu => hu.sampleRail) (.ite h.goTo.put h.goTo.put.stopTaster)))

theorem Stays.pauseCore {n : CoreId} (h : Stays s t) : Stays s (pauseCore n t) := h.updCore (fun hc => .ite hc.put.stopPoint.pauseTaps hc)

theorem Stays.resumeCore {n : CoreId} (h : Stays s t) : Stays s (resumeCore n t) := h.updCore (fun hc => .ite hc.put.put hc.put)

theorem Stays.shedMark {step : Bool} (h : Stays s t) : Stays s (shedMark step t) := h.put.raise

theorem Stays.execSheddingStep (h : Stays s t) : Keeps s (execSheddingStep t) := by
  unfold Machine.execSheddingStep
  extract_lets s₀
  have hs₀ : Stays s s₀ := by
    unfold s₀
    split
    · exact h.goTo
    · exact h
  exact .ite (.ok h) (.ite (.ok hs₀.put.shedMark) (.ite (.ok (.shedMark (.foldl (fun hu => hu.pauseCore) hs₀.put)))
      (.ite (.ok hs₀.put.shedMark) (.ok h))))

theorem Stays.execSheddingRestore (h : Stays s t) : Keeps s (execSheddingRestore t) := by
  unfold Machine.execSheddingRestore
  split
  · exact .ok h
  · exact .ite (.ok h) (.ok (.shedMark (.ite h.goTo.put (.ite (.foldl (fun hu => hu.resumeCore) h.goTo.put) h.goTo.put))))

theorem Stays.execGuardedModeChange {crossing : Fin 11} {enter : Bool} (h : Stays s t) :
    Keeps s (execGuardedModeChange crossing enter t) := .ite (.ok h) (.ok h.put.raise)

theorem Stays.isolateFe {f : Fe} (h : Stays s t) : Stays s (isolateFe f t) := by
  unfold Machine.isolateFe
  extract_lets op or_ ot oc lost ran s1 overrun s2 s3 s4 s5
  have hs3 : Stays s s3 := h.keepIsolated.updFe.thermCommit.restPins
  have hs5 : Stays s s5 := .ite hs3.holdBudgets.engineEnded hs3.holdBudgets
  exact .ite hs5.raise.raise hs5.raise

theorem Stays.isolateCore {n : CoreId} (h : Stays s t) : Stays s (isolateCore n t) := by
  unfold Machine.isolateCore
  refine .coreEnded (.raise (.updCore (fun _ => ⟨rfl, rfl⟩) ?_))
  exact h.endCoreTest.stopCore.updCore fun hc => .ite hc hc.landAll.put

theorem Stays.execRegionIsolation {region : Fin 7} (h : Stays s t) : Keeps s (execRegionIsolation region t) := by
  unfold Machine.execRegionIsolation
  extract_lets
  exact .ite (.ok h) (.dite (fun _ => .ok h.put.isolateFe.raise)
      (fun _ => .ite (.ok (.raise (.foldl (fun hu => hu.isolateCore) h.put))) (.ok h.put.requestL3)))

theorem Stays.doRegionRestore {r : Req} (h : Stays s t) : Stays s (doRegionRestore r t).st := .iteRes h (.iteRes h h.put)

theorem Stays.execRegionRestore {r : Req} (h : Stays s t) : Keeps s (execRegionRestore r t) := .ok (h.runOp (fun hu => hu.doRegionRestore))

theorem Stays.execRegulatorPoll {rail : Fin 4} {p : RegPoll} (h : Stays s t) : Keeps s (execRegulatorPoll rail p t) :=
  .ite (.ok h) (.ite (.ok h.updRail.put.raise) (.ok h.updRail))

theorem Stays.grantRes {r : Req} (h : Stays s t) : Stays s (grantRes r t).st := by
  unfold Machine.grantRes
  split
  · exact h.doCommit
  · exact h.doCommitArm
  · exact h.doCommitShared
  · exact h.doCooperStart
  · exact h.doHarvestArm
  · exact h.doCellarTrain
  · exact h.doCellarTrainStep
  · exact h.doTasterRun
  · exact h

theorem Stays.grantReq {q : QReq} (h : Stays s t) : Stays s (grantReq q t) := by
  unfold Machine.grantReq
  extract_lets res
  have hres : Stays s res.st := h.unqueue.raise.grantRes
  split
  · exact hres
  · exact .ite hres (.ite (.ite hres.noteDone hres.undoQueued) (.answer (.ite hres.noteDone hres.undoQueued)))

theorem Stays.execAdmissionGrant (h : Stays s t) : Keeps s (execAdmissionGrant t) := by
  unfold Machine.execAdmissionGrant
  split
  · exact .ite (.ok h.grantReq) (.ok h)
  · exact .ok h

theorem Stays.execAdmissionTimeout (h : Stays s t) : Keeps s (execAdmissionTimeout t) := by
  unfold Machine.execAdmissionTimeout
  split
  · exact .ite (.ok (.ite h.goTo.grantReq h.goTo.denyQueued)) (.ok h)
  · exact .ok h

theorem Stays.execAutoIdle (h : Stays s t) : Keeps s (execAutoIdle t) := by
  unfold Machine.execAutoIdle
  split
  · exact .ite (.ok h.goTo.put) (.ok h)
  · exact .ok h

theorem Stays.doPowerStateSet {r : Req} (h : Stays s t) : Stays s (doPowerStateSet r t).st :=
  .diteRes (fun _ => .iteRes h (.iteRes h (.iteRes h h.put))) (fun _ => h)

theorem Stays.execPowerStateSet {r : Req} (h : Stays s t) : Keeps s (execPowerStateSet r t) := .ok (h.runOp (fun hu => hu.doPowerStateSet))

theorem Stays.enterLow {st : Fin 6} (h : Stays s t) : Stays s (enterLow st t) := by
  unfold Machine.enterLow
  extract_lets deep u p v c w s1 s2
  have hu : Stays s u := h.lanesDown
  clear_value u
  have hs1 : Stays s s1 := by
    refine Stays.put (t := { u with vat := if deep then { u.vat with mem := u.vat.mem.clear 0 0x2800000 } else u.vat }) (hu.withVat fun hv => ?_)
    split
    · exact Mem.clear_wf _ _ hv
    · exact hv
  exact .refreshIntlk (.refreshPins (.ite hs1.enterHoldover.emits (.foldl (fun hv => .ite hv hv.emit) hs1)))

theorem Stays.leaveLow {sources : BitVec 6} {measured : Nat} (h : Stays s t) : Stays s (leaveLow sources measured t) := by
  unfold Machine.leaveLow
  extract_lets low deep s₀ src s1 src' src'' src''' src'''' s2 s3 s4 src''''' s5
  have hs1 : Stays s s1 := .ite h h.goTo.put
  have hs3 : Stays s s3 := .ite hs1.put.emits (.foldl (fun hu => .ite hu hu.emit) hs1.put)
  have hs4 : Stays s s4 := hs3.refreshPins.refreshIntlk.raise
  have hs5 : Stays s s5 := .ite hs4.put.pin hs4
  exact .drainHeld (.ite hs5.pcieUp hs5)

theorem Stays.wakeBy {src : Fin 6} {measured : Nat} (h : Stays s t) : Stays s (wakeBy src measured t) := by
  unfold Machine.wakeBy
  extract_lets
  split
  · exact .ite h.put h
  · exact .ite h.leaveLow h

theorem Stays.wakeAtReached {measured : Nat} (h : Stays s t) : Stays s (wakeAtReached measured t) := by
  unfold Machine.wakeAtReached
  split
  · exact h
  · exact .ite (.wakeBy (.ite h.goTo h)) h

theorem Stays.execWakeAt {measured : Nat} (h : Stays s t) : Keeps s (execWakeAt measured t) := .ok h.wakeAtReached

theorem Stays.execWakeEvent {source : Fin 6} {measured : Nat} (h : Stays s t) : Keeps s (execWakeEvent source measured t) :=
  .ite (.ok h.wakeAtReached) (.ok (.ite h.wakeBy.flr h.wakeBy))

theorem Stays.execFunctionLevelReset (h : Stays s t) : Keeps s (execFunctionLevelReset t) :=
  .ite (.ok h) (.ite (.ok h.wakeBy) (.ite (.ok h.put.wakeBy.flr) (.ok h.flr)))

theorem Stays.execPowerStateEntryComplete (h : Stays s t) : Keeps s (execPowerStateEntryComplete t) := by
  unfold Machine.execPowerStateEntryComplete
  extract_lets
  split
  · exact .ok h
  · exact .ite (.ok h.enterLow) (.ok (.ite h.enterLow.leaveLow.flr h.enterLow.leaveLow))

theorem Stays.execTrigInEdge {pin : Fin 4} {falling : Bool} {t' : Nat} (h : Stays s t) : Keeps s (execTrigInEdge pin falling t' t) :=
  .ite (.ok h) (.ok (.ite h.goTo.trigInEvent.wakeBy h.goTo.trigInEvent))

theorem Stays.execGpioEdge {pin : Fin 16} (h : Stays s t) : Keeps s (execGpioEdge pin t) := .ok (.ite h.put.wakeBy h)

theorem Stays.doPowerStatus {x : Req} (h : Stays s t) : Stays s (doPowerStatus x t).st := h.put

theorem Stays.execPowerStatus {r : Req} (h : Stays s t) : Keeps s (execPowerStatus r t) := .ok (h.runOp (fun hu => hu.doPowerStatus))

theorem Stays.doPowerQueueGet {r : Req} (h : Stays s t) : Stays s (doPowerQueueGet r t).st := .iteRes h h

theorem Stays.execPowerQueueGet {r : Req} (h : Stays s t) : Keeps s (execPowerQueueGet r t) := .ok (h.runOp (fun hu => hu.doPowerQueueGet))

theorem Stays.undoTimed {o : Op} (h : Stays s t) : Stays s (undoTimed o t) := by
  unfold Machine.undoTimed
  split
  · exact .foldl (fun hu => .ite hu.updStream hu) h
  · exact .foldl (fun hu => .ite (hu.updCore (fun hv => hv.put)) hu) h
  · exact h.trainAborted
  · exact h.gather.release
  · exact h.updAux
  · exact h.refreshIntlk
  · exact h.refreshIntlk
  · exact .ite h.updFe h
  · exact h

theorem Stays.execOperationTimeLimit {sess : BitVec 8} {seq : Word} (h : Stays s t) : Keeps s (execOperationTimeLimit sess seq t) := by
  unfold Machine.execOperationTimeLimit
  split
  · exact .ok h
  · split
    · exact .ok h
    · split
      · exact .ok h.goTo.finish.undoTimed
      · exact .ok h.goTo.forceCore
      · exact .ok h.goTo.finish.undoTimed

/-! ## The tick -/

theorem Stays.contend (h : Stays s t) : Stays s (contend t) := .ite h h.put

theorem Stays.sendIdles (h : Stays s t) : Stays s (sendIdles t) := .foldl (fun hu => .ite hu.sendFrame hu) h

theorem Stays.rotate (h : Stays s t) : Stays s (rotate t) := by
  unfold Machine.rotate
  extract_lets
  split
  · exact h
  · exact .ite h.put.put h.put

theorem Stays.idleTick (h : Stays s t) : Stays s (idleTick t) :=
  .settleUnknown (.cycleDue (.sendIdles (.rotate (.contend (.foldl (fun hu => hu.coreTick) h.goTo)))))

end

end Sys2Proof.Machine
end

section
/-! The two invariants over every command and every step. -/

namespace Sys2Proof.Machine

/-- Every command keeps the queue and the memories: its operation does. -/
theorem Stays.exec {s t : State} (h : Stays s t) : (c : Instr) → Keeps s (exec c t)
  | .powerOn _ => h.execPowerOn
  | .resetNAssert => h.execResetNAssert
  | .resetNRelease _ => h.execResetNRelease
  | .hostImageVerify => h.execHostImageVerify
  | .firmwareStart _ => h.execFirmwareStart
  | .readyReached _ => h.execReadyReached
  | .perstNAssert => h.execPerstNAssert
  | .functionLevelReset => h.execFunctionLevelReset
  | .d3hotEntry => h.execD3hotEntry
  | .d0Resume => h.execD0Resume
  | .aspmL1Request => h.execAspmL1Request
  | .registerWrite _ _ _ _ _ => h.execRegisterWrite
  | .rcRegisterRead _ _ _ => h.execRcRegisterRead
  | .timeLatchRead _ _ => h.execTimeLatchRead
  | .conflClear _ _ => h.execConflClear
  | .doorbell _ _ => h.execDoorbell
  | .prodWrite _ _ => h.execProdWrite
  | .heartbeat => h.execHeartbeat
  | .resume _ => h.execResume
  | .skip _ => h.execSkip
  | .msixUnmask _ => h.execMsixUnmask
  | .bar2Write _ _ _ => h.execBar2Write
  | .vatBitSetWrite _ _ _ => h.execVatBitSetWrite
  | .vatBitClearWrite _ _ _ => h.execVatBitClearWrite
  | .packetIn _ _ => h.execPacketIn
  | .packetOut => h.execPacketOut
  | .linkStatus => h.execLinkStatus
  | .smbusAlertResponse => h.execSmbusAlertResponse
  | .commandPacketArrival _ _ => h.execCommandPacketArrival
  | .replyDelivery _ => h.execReplyDelivery
  | .hello _ => h.execHello
  | .info _ => h.execInfo
  | .echo _ => h.execEcho
  | .bye _ => h.execBye
  | .setParam _ => h.execSetParam
  | .getParam _ => h.execGetParam
  | .commit _ => h.execCommit
  | .commitAbort _ => h.execCommitAbort
  | .defaults _ => h.execDefaults
  | .feStatus _ => h.execFeStatus
  | .recvRefSet _ => h.execRecvRefSet
  | .recvRefGet _ => h.execRecvRefGet
  | .recvStatus _ => h.execRecvStatus
  | .phaseStatus _ => h.execPhaseStatus
  | .streamStatus _ => h.execStreamStatus
  | .finingRomGet _ => h.execFiningRomGet
  | .pressFlush _ => h.execPressFlush
  | .pressStatus _ => h.execPressStatus
  | .zoneAck _ => h.execZoneAck
  | .zoneStatus _ => h.execZoneStatus
  | .zoneSummary _ => h.execZoneSummary
  | .zoneAckTimeout => h.execZoneAckTimeout
  | .thermStatus _ => h.execThermStatus
  | .thermCalibrate _ => h.execThermCalibrate
  | .thermCalTimeout _ => h.execThermCalTimeout
  | .thermAbort _ => h.execThermAbort
  | .thermReseed _ => h.execThermReseed
  | .harvestArm _ => h.execHarvestArm
  | .harvestDisarm _ => h.execHarvestDisarm
  | .harvestForce _ => h.execHarvestForce
  | .harvestRead _ => h.execHarvestRead
  | .harvestRelease _ => h.execHarvestRelease
  | .harvestStatus _ => h.execHarvestStatus
  | .cooperLoad _ => h.execCooperLoad
  | .cooperStart _ => h.execCooperStart
  | .cooperStop _ => h.execCooperStop
  | .cooperSignal _ => h.execCooperSignal
  | .cooperStatus _ => h.execCooperStatus
  | .cellarTrain _ => h.execCellarTrain
  | .cellarTrainComplete _ => h.execCellarTrainComplete
  | .cellarTrainStep _ => h.execCellarTrainStep
  | .cellarPattern _ => h.execCellarPattern
  | .cellarCompare _ _ => h.execCellarCompare
  | .freqSet _ _ _ => h.execFreqSet
  | .cellarStatus _ => h.execCellarStatus
  | .cellarTrainAbort _ => h.execCellarTrainAbort
  | .timeSet _ => h.execTimeSet
  | .timeSetTimeout => h.execTimeSetTimeout
  | .timeGet _ => h.execTimeGet
  | .tiuArm _ => h.execTiuArm
  | .tiuStop _ => h.execTiuStop
  | .peerStatus _ => h.execPeerStatus
  | .commitArm _ => h.execCommitArm
  | .commitShared _ => h.execCommitShared
  | .sharedAcceptTimeout => h.execSharedAcceptTimeout
  | .sharedCompletionPoint => h.execSharedCompletionPoint
  | .auxRead _ => h.execAuxRead
  | .auxSelfcal _ => h.execAuxSelfcal
  | .auxSyscal _ => h.execAuxSyscal
  | .auxTest _ => h.execAuxTest
  | .auxCalComplete _ => h.execAuxCalComplete
  | .auxIntlkReset _ => h.execAuxIntlkReset
  | .auxStatus _ => h.execAuxStatus
  | .auxCalAbort _ => h.execAuxCalAbort
  | .calTiu _ => h.execCalTiu
  | .calAux _ => h.execCalAux
  | .calDie _ => h.execCalDie
  | .calComplete _ => h.execCalComplete
  | .calDieTimeout => h.execCalDieTimeout
  | .vintageStore _ => h.execVintageStore
  | .vintageStoreComplete _ => h.execVintageStoreComplete
  | .vintageStatus _ => h.execVintageStatus
  | .vintageRead _ => h.execVintageRead
  | .calAbort _ => h.execCalAbort
  | .powerStatus _ => h.execPowerStatus
  | .powerStateSet _ => h.execPowerStateSet
  | .powerQueueGet _ => h.execPowerQueueGet
  | .regionRestore _ => h.execRegionRestore
  | .lcStatus _ => h.execLcStatus
  | .funcReinit _ => h.execFuncReinit
  | .devReset _ => h.execDevReset
  | .warmReset => h.execWarmReset
  | .powerCycleReq _ => h.execPowerCycleReq
  | .fwWrite _ => h.execFwWrite
  | .fwWriteComplete _ => h.execFwWriteComplete
  | .fwActivate _ => h.execFwActivate
  | .fwTrialFail => h.execFwTrialFail
  | .fwConfirm _ => h.execFwConfirm
  | .tasterRun _ => h.execTasterRun
  | .tasterStatus _ => h.execTasterStatus
  | .tasterAbort _ => h.execTasterAbort
  | .tasterScheduledRun _ _ => h.execTasterScheduledRun
  | .tasterRunEnd _ _ => h.execTasterRunEnd
  | .vatScrub _ _ _ => h.execVatScrub
  | .eccWriteBack => h.execEccWriteBack
  | .boundary _ => h.execBoundary
  | .groupLaunch _ => h.execGroupLaunch
  | .shotRowProcess _ _ _ _ _ => h.execShotRowProcess
  | .zoneEventRecord => h.execZoneEventRecord
  | .bandClose _ => h.execBandClose
  | .finingTile _ _ _ => h.execFiningTile
  | .pressRecord _ _ => h.execPressRecord
  | .streamRecordDelivery _ => h.execStreamRecordDelivery
  | .ramanShotAccumulate _ _ => h.execRamanShotAccumulate
  | .subintervalFold _ _ => h.execSubintervalFold
  | .intervalComplete _ => h.execIntervalComplete
  | .ramanRecord _ => h.execRamanRecord
  | .fusionEpoch _ => h.execFusionEpoch
  | .fusedRecord _ => h.execFusedRecord
  | .harvestElementWrite _ _ => h.execHarvestElementWrite
  | .harvestSeqEvent _ => h.execHarvestSeqEvent
  | .harvestSeqTimer _ => h.execHarvestSeqTimer
  | .harvestArmTimeout _ => h.execHarvestArmTimeout
  | .captureRecordDelivery _ _ => h.execCaptureRecordDelivery
  | .tapWindowFill _ _ => h.execTapWindowFill
  | .postDataRead _ _ => h.execPostDataRead
  | .cooperTimer _ => h.execCooperTimer
  | .interruptTake _ => h.execInterruptTake
  | .nop _ _ _ => h.execNop
  | .add _ => h.execAdd
  | .sub _ => h.execSub
  | .adds _ => h.execAdds
  | .subs _ => h.execSubs
  | .and _ => h.execAnd
  | .or _ => h.execOr
  | .xor _ => h.execXor
  | .shl _ => h.execShl
  | .shli _ => h.execShli
  | .sra _ => h.execSra
  | .srai _ => h.execSrai
  | .srl _ => h.execSrl
  | .srli _ => h.execSrli
  | .mov _ => h.execMov
  | .addi _ => h.execAddi
  | .min _ => h.execMin
  | .max _ => h.execMax
  | .abs _ => h.execAbs
  | .cmpeq _ => h.execCmpeq
  | .cmplt _ => h.execCmplt
  | .add2 _ => h.execAdd2
  | .sub2 _ => h.execSub2
  | .pack _ => h.execPack
  | .mul _ => h.execMul
  | .norm _ => h.execNorm
  | .exp _ => h.execExp
  | .mac _ => h.execMac
  | .msu _ => h.execMsu
  | .mpy _ => h.execMpy
  | .mac2 _ => h.execMac2
  | .msu2 _ => h.execMsu2
  | .mpy2 _ => h.execMpy2
  | .rnd _ => h.execRnd
  | .rndh _ => h.execRndh
  | .expa _ => h.execExpa
  | .ash _ => h.execAsh
  | .clra _ => h.execClra
  | .moval _ => h.execMoval
  | .movah _ => h.execMovah
  | .movag _ => h.execMovag
  | .ldw _ _ => h.execLdw
  | .ldh _ _ => h.execLdh
  | .ldhu _ _ => h.execLdhu
  | .ldd _ _ => h.execLdd
  | .stw _ => h.execStw
  | .sth _ => h.execSth
  | .std _ => h.execStd
  | .movp _ => h.execMovp
  | .movg _ => h.execMovg
  | .movm _ => h.execMovm
  | .modp _ => h.execModp
  | .br _ => h.execBr
  | .brl _ => h.execBrl
  | .jr _ => h.execJr
  | .reti _ => h.execReti
  | .loop _ => h.execLoop
  | .repeat_ _ => h.execRepeat
  | .mvc _ => h.execMvc
  | .movi _ => h.execMovi
  | .movhi _ => h.execMovhi
  | .halt _ => h.execHalt
  | .wait _ => h.execWait
  | .post _ => h.execPost
  | .taprel _ => h.execTaprel
  | .descriptorFetch _ _ => h.execDescriptorFetch
  | .dataBurst _ _ => h.execDataBurst
  | .descriptorCompletion _ => h.execDescriptorCompletion
  | .readCompletion _ _ _ => h.execReadCompletion
  | .burstFailure _ _ => h.execBurstFailure
  | .holdoffExpiry _ => h.execHoldoffExpiry
  | .ringCommitApply _ => h.execRingCommitApply
  | .refLost _ => h.execRefLost
  | .refInEdgeReturn _ => h.execRefInEdgeReturn
  | .refGateEnd _ _ => h.execRefGateEnd
  | .relocked _ => h.execRelocked
  | .ppsInEdge _ _ => h.execPpsInEdge
  | .ppsLost => h.execPpsLost
  | .ptmDialogue _ _ _ _ _ => h.execPtmDialogue
  | .tiuStartEdge _ _ _ => h.execTiuStartEdge
  | .tiuStopEdge _ _ => h.execTiuStopEdge
  | .tiuClose _ => h.execTiuClose
  | .tiuRearm _ => h.execTiuRearm
  | .tiuArmTimeout _ => h.execTiuArmTimeout
  | .tiuGateEnd _ _ _ _ => h.execTiuGateEnd
  | .trigInEdge _ _ _ => h.execTrigInEdge
  | .gpioEdge _ => h.execGpioEdge
  | .sysrefEdge _ _ => h.execSysrefEdge
  | .linkInitComplete _ _ _ => h.execLinkInitComplete
  | .crc12Failure _ _ _ _ => h.execCrc12Failure
  | .linkDown _ _ _ => h.execLinkDown
  | .linkRetry _ _ _ _ => h.execLinkRetry
  | .rateMismatch _ link => h.execRateMismatch (_link := link)
  | .peerLaneUp _ _ _ _ => h.execPeerLaneUp
  | .peerLaneSilence _ => h.execPeerLaneSilence
  | .idle _ => h.execIdle
  | .linkHello _ => h.execLinkHello
  | .syncReq _ => h.execSyncReq
  | .syncResp _ => h.execSyncResp
  | .syncReqTimer => h.execSyncReqTimer
  | .zoneEvent _ => h.execZoneEvent
  | .prepare _ => h.execPrepare
  | .accept _ => h.execAccept
  | .refuse _ => h.execRefuse
  | .withdraw _ => h.execWithdraw
  | .marginSample _ => h.execMarginSample
  | .sheddingStep => h.execSheddingStep
  | .sheddingRestore => h.execSheddingRestore
  | .guardedModeChange _ _ => h.execGuardedModeChange
  | .regionIsolation _ => h.execRegionIsolation
  | .regulatorPoll _ _ => h.execRegulatorPoll
  | .admissionGrant => h.execAdmissionGrant
  | .admissionTimeout => h.execAdmissionTimeout
  | .autoIdle => h.execAutoIdle
  | .wakeEvent _ _ => h.execWakeEvent
  | .wakeAt _ => h.execWakeAt
  | .watchdogBite _ => h.execWatchdogBite
  | .cpRestartComplete => h.execCpRestartComplete
  | .cpRestartTimeout => h.execCpRestartTimeout
  | .l3NotReady => h.execL3NotReady
  | .heartbeatTimeout => h.execHeartbeatTimeout
  | .thermtrip => h.execThermtrip
  | .vintageRecompute _ => h.execVintageRecompute
  | .cellarRefresh _ => h.execCellarRefresh
  | .cellarTempRead _ _ => h.execCellarTempRead
  | .writeDrain _ => h.execWriteDrain
  | .auxCycleStart => h.execAuxCycleStart
  | .auxConvstEdge _ => h.execAuxConvstEdge
  | .auxConversionEnd _ => h.execAuxConversionEnd
  | .auxResultRelease _ => h.execAuxResultRelease
  | .excitationBreak _ => h.execExcitationBreak
  | .excitationBreakClear _ => h.execExcitationBreakClear
  | .powerDown => h.execPowerDown
  | .perstNRelease => h.execPerstNRelease
  | .commitTimeTargetReached => h.execCommitTimeTargetReached
  | .operationTimeLimit _ _ => h.execOperationTimeLimit
  | .cellarTrainStepComplete _ => h.execCellarTrainStepComplete
  | .powerStateEntryComplete => h.execPowerStateEntryComplete
  | .peerLaneLockLoss _ => h.execPeerLaneLockLoss
  | .peerFrameCrcError _ => h.execPeerFrameCrcError
  | .rawStreamLevelCrossing _ _ _ _ => h.execRawStreamLevelCrossing

theorem exec_keeps (c : Instr) (s : State) : Keeps s (exec c s) := (Stays.refl s).exec c

/-- Settles O2: what every operation keeps holds of each command. -/
theorem queueUntouched : Obligations.QueueUntouched := fun c s t h => (exec_keeps c s t h).pending

theorem MemsOk.step {s t : State} (hs : MemsOk s) (h : step s = .next t) : MemsOk t := by
  unfold Machine.step at h
  split at h
  · exact (exec_keeps _ _ t h).mems ⟨hs.vat, hs.cellar, hs.core, hs.slots⟩
  · exact (Keeps.ok (Stays.refl s).idleTick t h).mems hs

/-- Settles O4: a step runs one command or the tick, and both keep every memory in canonical form. -/
theorem memsStay : Obligations.MemsStay := by
  unfold Obligations.MemsStay
  intro s t hs h
  exact (memsOk_iff t).mpr (((memsOk_iff s).mp hs).step h)

end Sys2Proof.Machine
end
